-- ==== Sys2Proof/Word.lean ====
section
/-! DEFINITION. The word types of the Kalmir instruction set: bytes, 32-bit words, 64-bit
doublewords (R5, R19), and the shape of a sparse table (a list of key and value pairs). -/

namespace Sys2Proof

/-- An 8-bit byte. -/
abbrev Byte := BitVec 8
/-- A 32-bit word: a register, an instruction word, a memory word (R5). -/
abbrev Word := BitVec 32
/-- A 64-bit doubleword: a register pair (R19), a system register (R386). -/
abbrev DWord := BitVec 64

/-- A sparse table: keys strictly rising, an absent key stands for the table's default. -/
abbrev Table (β : Type) := List (Nat × β)

end Sys2Proof
end

