-- ==== Sys2Proof/Fields.lean ====
section
/-! DEFINITION. The fields of the instruction forms of the Kalmir machine (R41, R42, R53, R54). -/

namespace Sys2Proof

/-- The form an instruction's words have (R41). A short instruction and the half of a pair are
written as the long-form instruction their table entry names (R53, R54). -/
inductive Form where
  /-- two words -/
  | long
  /-- three words, the third the literal -/
  | literal (w : Word)
  /-- one word -/
  | short
  /-- one half of a two-word pair -/
  | half
  deriving DecidableEq, Repr, Inhabited

/-- The fields of a long-form or literal-form instruction (R42) apart from the major and the minor
bits that select the operation; `mods` holds the minor's modifier bits in their places. -/
structure Long where
  form  : Form
  ty    : BitVec 3
  et    : BitVec 3
  c     : BitVec 10
  b     : BitVec 10
  a     : BitVec 10
  dst   : BitVec 10
  safe  : Bool
  neg   : Bool
  guard : BitVec 3
  mods  : BitVec 4
  deriving DecidableEq, Repr, Inhabited

/-- The fields of a short-form instruction (R53) apart from its operation number. -/
structure Short where
  b     : BitVec 7
  a     : BitVec 7
  dst   : BitVec 7
  safe  : Bool
  guard : BitVec 2
  deriving DecidableEq, Repr, Inhabited

/-- One half of a pair-form instruction (R54). -/
structure Half where
  guard : BitVec 2
  op    : BitVec 6
  d     : BitVec 8
  b     : BitVec 9
  deriving DecidableEq, Repr, Inhabited

/-- A pair-form instruction (R54). -/
structure Pair where
  safe : Bool
  h0   : Half
  h1   : Half
  deriving DecidableEq, Repr, Inhabited

end Sys2Proof
end

