-- ==== Sys2Proof/Syntax.lean ====
section
/-! DEFINITION. The instructions and events of the Kalmir machine: one constructor per row of the
opcode table. An encoded instruction carries the fields of its form (R42, R53, R54). An event of the
machine (a message at a home, an engine's step, a host request) is named here by its row; what
identifies the single occurrence (the word, the agent, the value) is the machine's `now`, an `Event` of
Machine/Event.lean. The operations 1 to 4 of RSND and GRPCTL, which a register may name only when the
instruction runs (R335, R378), find their fields in the machine's `cur`. -/

namespace Sys2Proof

/-- One constructor per row of the opcode table. -/
inductive Instr where
  /-- R54. A pair-form instruction issues two short operations as one, each computing d := d op b on disjoint banks. -/
  | pair (x : Pair)
  /-- R86. Integer add, wrapped or saturated. -/
  | iadd (x : Long)
  /-- R86. Integer subtract, wrapped or saturated. -/
  | isub (x : Long)
  /-- R86. Integer multiply, wrapped or saturated. -/
  | imul (x : Long)
  /-- R86. High half of an integer product. -/
  | imulh (x : Long)
  /-- R86. Integer multiply-add, wrapped or saturated. -/
  | imad (x : Long)
  /-- R86. 32-bit multiply with 64-bit add into a pair. -/
  | imadw (x : Long)
  /-- R86. Absolute difference plus addend. -/
  | isad (x : Long)
  /-- R86. Integer absolute value. -/
  | iabs (x : Long)
  /-- R86. Integer negate. -/
  | ineg (x : Long)
  /-- R86. Integer minimum. -/
  | imin (x : Long)
  /-- R86. Integer maximum. -/
  | imax (x : Long)
  /-- R86. Integer clamp between two bounds. -/
  | iclamp (x : Long)
  /-- R87. Add with carry-in and carry-out predicates. -/
  | iaddc (x : Long)
  /-- R87. Subtract with borrow-in and borrow-out predicates. -/
  | isubb (x : Long)
  /-- R88. Bitwise and. -/
  | and (x : Long)
  /-- R88. Bitwise or. -/
  | or (x : Long)
  /-- R88. Bitwise exclusive or. -/
  | xor (x : Long)
  /-- R88. Bitwise inversion. -/
  | not (x : Long)
  /-- R88. Shift left. -/
  | shl (x : Long)
  /-- R88. Logical shift right. -/
  | shrl (x : Long)
  /-- R88. Arithmetic shift right. -/
  | shra (x : Long)
  /-- R88. Rotate left by the count mod width. -/
  | rotl (x : Long)
  /-- R91. Three-input bitwise function by an 8-bit truth table. -/
  | lop (hi : Bool) (x : Long)
  /-- R88. Funnel shift of a double-width value left or right. -/
  | funnel (x : Long)
  /-- R88. Population count. -/
  | popc (x : Long)
  /-- R88. Count leading zeros. -/
  | clz (x : Long)
  /-- R88. Count trailing zeros. -/
  | ctz (x : Long)
  /-- R88. Bit reverse. -/
  | brev (x : Long)
  /-- R89. Bit-field extract, sign- or zero-extended. -/
  | bfx (x : Long)
  /-- R89. Bit-field insert. -/
  | bfi (x : Long)
  /-- R88. Bit-field mask of ones. -/
  | bfm (x : Long)
  /-- R90. Byte permute of an 8-byte source. -/
  | prmb (x : Long)
  /-- R92. Integer compare into a predicate ANDed with a second predicate. -/
  | icmp (x : Long)
  /-- R92. Float compare into a predicate ANDed with a second predicate. -/
  | fcmp (x : Long)
  /-- R93. Select between two values by a predicate. -/
  | sel (x : Long)
  /-- R93. Value or zero by a predicate. -/
  | cset (x : Long)
  /-- R93. Predicate from a truth table over two predicates. -/
  | pset (x : Long)
  /-- R94. 32-bit shifted add for addresses. -/
  | lea (x : Long)
  /-- R94. 64-bit add of a shifted sign-extended index. -/
  | leaw (x : Long)
  /-- R95. Copy a source. -/
  | mov (x : Long)
  /-- R95. Form a 64-bit pair from a low source and a literal high word. -/
  | movl (x : Long)
  /-- R96. Read a special register. -/
  | movs (x : Long)
  /-- R97. Write PART, FLAGS, RNGS or a format register with checks. -/
  | sets (x : Long)
  /-- R95. Write the predicates into a register's low bits. -/
  | pmovToRegister (x : Long)
  /-- R95. Set masked predicates from a register's bits. -/
  | pmovToPredicates (x : Long)
  /-- R108. Read FLAGS after pending SFU results land. -/
  | flgrd (x : Long)
  /-- R108. Clear FLAGS bits by mask after pending SFU results land. -/
  | flgclr (x : Long)
  /-- R109. Step each lane's RNGS and return random bits. -/
  | rng (x : Long)
  /-- R109. Seed each lane's RNGS from a seed xor its start value. -/
  | rngseed (x : Long)
  /-- R98. Float add with one rounding. -/
  | fadd (x : Long)
  /-- R98. Float subtract with one rounding. -/
  | fsub (x : Long)
  /-- R98. Float multiply with one rounding. -/
  | fmul (x : Long)
  /-- R98. Fused multiply-add with one rounding. -/
  | ffma (x : Long)
  /-- R99. Float minimum with -0 below +0 and NaN-avoiding rule. -/
  | fmin (x : Long)
  /-- R99. Float maximum with -0 below +0 and NaN-avoiding rule. -/
  | fmax (x : Long)
  /-- R99. Float clamp between two bounds. -/
  | fclamp (x : Long)
  /-- R98. Round to an integral value under the mode. -/
  | frnd (x : Long)
  /-- R98. Fractional part a - floor(a), rounded. -/
  | ffrac (x : Long)
  /-- R98. Multiply by a power of two. -/
  | fscale (x : Long)
  /-- R100. Write the binary exponent as an integer. -/
  | fexpo (x : Long)
  /-- R100. Set a predicate when the value's class is in a mask. -/
  | fclass (x : Long)
  /-- R98. Invert the sign bit. -/
  | fneg (x : Long)
  /-- R101. Convert one value between types. -/
  | cvt (x : Long)
  /-- R103. Scaled narrowing by an e5m3 scale. -/
  | cvts (x : Long)
  /-- R103. Narrow each lane's value by its scale and pack the warp's elements into a stream. -/
  | pack (x : Long)
  /-- R103. Unpack a stream element to each lane and widen it with its scale. -/
  | unpk (x : Long)
  /-- R104. Form an e5m3 block scale from a maximum and a format limit. -/
  | scenc (x : Long)
  /-- R104. Multiply a value by an e5m3 scale into f32. -/
  | scdec (x : Long)
  /-- R105. Reciprocal through the SFU. -/
  | rcp (x : Long)
  /-- R105. Reciprocal square root through the SFU. -/
  | rsq (x : Long)
  /-- R105. Square root through the SFU. -/
  | sqrt (x : Long)
  /-- R105. Power of two through the SFU. -/
  | exp2 (x : Long)
  /-- R105. Base-two logarithm through the SFU. -/
  | log2 (x : Long)
  /-- R105. Sine through the SFU. -/
  | sin (x : Long)
  /-- R105. Cosine through the SFU. -/
  | cos (x : Long)
  /-- R105. Hyperbolic tangent through the SFU. -/
  | tanh (x : Long)
  /-- R106. Integer quotient through the SFU. -/
  | idiv (x : Long)
  /-- R106. Integer remainder through the SFU. -/
  | irem (x : Long)
  /-- R120. Relative branch of the active lanes. -/
  | bra (x : Long)
  /-- R120. Indirect branch to a 64-bit target. -/
  | brx (x : Long)
  /-- R120. Relative call writing the return address. -/
  | call (x : Long)
  /-- R120. Indirect call writing the return address. -/
  | callx (x : Long)
  /-- R120. Return to a 64-bit target, as BRX. -/
  | ret (x : Long)
  /-- R121. Mark the active lanes exited; the warp and block end when all have. -/
  | exit (x : Long)
  /-- R122. No effect. -/
  | nop (x : Long)
  /-- R111. Prefer lanes above this PC at the warp's next issue. -/
  | yield (x : Long)
  /-- R118. A declared safe point with no other effect. -/
  | safe (x : Long)
  /-- R377. Raise the TRAP cause with a code. -/
  | trap (x : Long)
  /-- R377. Raise the breakpoint cause with QUAL 0xFF. -/
  | bkpt (x : Long)
  /-- R123. Put the warp to sleep with an optional tick limit unless its wake latch is set. -/
  | sleep (x : Long)
  /-- R124. Wake, or set the latch of, the block's warps in a mask. -/
  | wake (x : Long)
  /-- R125. Hold each lane until TICK reaches its value. -/
  | tkwait (x : Long)
  /-- R128. Combine a predicate over the tile: all, any, eq or ballot. -/
  | vote (x : Long)
  /-- R129. Fetch a value from another lane of the tile, or the fill. -/
  | shfl (x : Long)
  /-- R130. Reduce a value over the tile's members. -/
  | redux (x : Long)
  /-- R130. Inclusive or exclusive prefix combination over the tile. -/
  | scan (x : Long)
  /-- R131. Mask of tile members with equal values. -/
  | matchLanes (x : Long)
  /-- R132. Set the tile size code in PART. -/
  | partset (x : Long)
  /-- R132. Set a predicate in the lowest member of each tile. -/
  | elect (x : Long)
  /-- R132. Write a tile-relative lane mask. -/
  | lmask (x : Long)
  /-- R187. Load per lane into the destination, landing together. -/
  | ld (x : Long)
  /-- R187. Load once per issue group into a uniform destination. -/
  | ldu (x : Long)
  /-- R192. Load a consistent versioned-tile image with a success predicate. -/
  | ldt (x : Long)
  /-- R187. Store per lane. -/
  | st (x : Long)
  /-- R191. Store a versioned tile, atomically with .aon. -/
  | stt (x : Long)
  /-- R189. Indexed load landing lane by lane. -/
  | gath (x : Long)
  /-- R189. Indexed store. -/
  | scat (x : Long)
  /-- R195. Atomic read-modify-write returning the old value. -/
  | atom (x : Long)
  /-- R195. Atomic read-modify-write returning nothing, or fixer entry in ordered mode. -/
  | red (x : Long)
  /-- R196. Compare-and-swap returning the old value. -/
  | cas (x : Long)
  /-- R201. Release, acquire or both at a scope. -/
  | fence (x : Long)
  /-- R201. Self-invalidate Valid words in up to 8 regions. -/
  | invr (x : Long)
  /-- R201. Self-invalidate every Valid word in the scope's near caches. -/
  | inva (x : Long)
  /-- R201. Write back Registered words in regions. -/
  | wbr (x : Long)
  /-- R201. Register a global range to the core. -/
  | regr (x : Long)
  /-- R201. Prefetch lines into the near or die cache. -/
  | pref (x : Long)
  /-- R203. Bump-allocate per lane from the block's arena with a header. -/
  | dalloc (x : Long)
  /-- R204. Free an allocation and move the bump pointer down. -/
  | dfree (x : Long)
  /-- R273. Queue a block copy on the tender. -/
  | copy (x : Long)
  /-- R274. Queue a tensor tile copy on the tender. -/
  | copyt (x : Long)
  /-- R275. Queue a list of copies on the tender. -/
  | copyl (x : Long)
  /-- R287. Start an all-reduce collective. -/
  | collAllReduce (x : Long)
  /-- R287. Start a reduce-scatter collective. -/
  | collReduceScatter (x : Long)
  /-- R287. Start an all-gather collective. -/
  | collAllGather (x : Long)
  /-- R287. Start an all-to-all collective. -/
  | collAllToAll (x : Long)
  /-- R280. Copy from the package to a remote fabric range. -/
  | fput (x : Long)
  /-- R280. Copy from a remote fabric range to the package. -/
  | fget (x : Long)
  /-- R283. Remote atomic per lane through a fabric window. -/
  | fatom (x : Long)
  /-- R133. Start a dense matrix operation from a parameter block. -/
  | mma (x : Long)
  /-- R150. Start a bitmap-sparse matrix operation. -/
  | mmaBmp (x : Long)
  /-- R152. Start a four-of-eight sparse matrix operation. -/
  | mmas (x : Long)
  /-- R160. Compress eight elements to the four largest with indices. -/
  | mcmp (x : Long)
  /-- R160. Bitmap of the nonzero elements among eight. -/
  | mbmp (x : Long)
  /-- R161. Read accumulator elements after earlier operations on the tile. -/
  | macc (x : Long)
  /-- R162. Clear a tile, abandoning a suspended operation on it. -/
  | mclr (x : Long)
  /-- R163. Read MSTAT once the warp is idle. -/
  | mstep (x : Long)
  /-- R164. Set a suspended operation's step and optionally restart it. -/
  | mstepSet (x : Long)
  /-- R163. Read token hold, count and wait clocks. -/
  | mtok (x : Long)
  /-- R257. Land element insertions in the landing queue. -/
  | mins (x : Long)
  /-- R257. Land element removals in the landing queue. -/
  | mrem (x : Long)
  /-- R258. Queue a develop of the binding, optionally unbinding after it. -/
  | mdev (x : Long)
  /-- R259. Read element, plate, develop and queue counts. -/
  | mcnt (x : Long)
  /-- R260. Open a cursor on the current version at a key range. -/
  | mopen (x : Long)
  /-- R261. Deliver the next elements of a cursor, one per lane. -/
  | mnext (x : Long)
  /-- R262. Close a cursor and free its table entry. -/
  | mclose (x : Long)
  /-- R265. Push 32 rows through a keep mask into a survivor-queue channel. -/
  | sqpush (x : Long)
  /-- R266. Pop the oldest completed tile's token map. -/
  | sqpop (x : Long)
  /-- R267. Complete the partial tile with zero rows. -/
  | sqflush (x : Long)
  /-- R332. Start a ray per active lane in a slot. -/
  | rtrc (x : Long)
  /-- R333. Read a slot's candidate or final result. -/
  | rres (x : Long)
  /-- R334. Commit or dismiss a candidate. -/
  | rahc (x : Long)
  /-- R335. Invalidate the issuing context's sounding ways. -/
  | rsndInvalidateContext (x : Long)
  /-- R336. Release and atomically increment a hierarchy's VERSION. -/
  | rbver (x : Long)
  /-- R344. Arrive at a warp, core or cluster barrier. -/
  | bar (x : Long)
  /-- R340. Release and increment a dependence counter. -/
  | dcinc (x : Long)
  /-- R340. Release and decrement a dependence counter. -/
  | dcdec (x : Long)
  /-- R340. Wait for a counter to read or pass through zero, then acquire. -/
  | dcwait (x : Long)
  /-- R343. Initialise a barrier object. -/
  | boinit (x : Long)
  /-- R343. Arrive on a barrier object with a byte count. -/
  | boarrv (x : Long)
  /-- R343. Wait until the barrier object's phase moves on, then acquire. -/
  | bowait (x : Long)
  /-- R343. Test whether the phase has moved on. -/
  | botest (x : Long)
  /-- R348. Gather the block at a fix barrier with release and acquire. -/
  | fix (x : Long)
  /-- R351. Read TICK or the 1588 time in ns. -/
  | tickrd (x : Long)
  /-- R356. Read a line's logical clock and word code at the home. -/
  | lclk (x : Long)
  /-- R353. Select a performance counter event package-wide at a future tick. -/
  | pcsel (x : Long)
  /-- R354. Read a counter's contact sheet at a future tick. -/
  | pcrd (x : Long)
  /-- R368. End the handler and resume the served warp at its PCs. -/
  | tretRetry (x : Long)
  /-- R368. End the handler and move the faulting lanes past the instruction. -/
  | tretSkip (x : Long)
  /-- R368. End the handler and leave the served warp stopped. -/
  | tretHold (x : Long)
  /-- R368. End the handler and discard the served block. -/
  | tretDiscard (x : Long)
  /-- R378. Return a warp's state word. -/
  | grpctlQuery (x : Long)
  /-- R379. Read a register, predicate, special register, PC or lane state of a warp. -/
  | grprd (x : Long)
  /-- R379. Write a register, predicate, special register, PC or lane state of a warp. -/
  | grpwr (x : Long)
  /-- R381. Stop the served block at safe points and write its context image. -/
  | ctxsv (x : Long)
  /-- R382. Replace the served block's state from a context image. -/
  | ctxld (x : Long)
  /-- R386. Read a system register. -/
  | sysrd (x : Long)
  /-- R386. Write a system register. -/
  | syswr (x : Long)
  /-- R307. Release and append a launch record to a device queue. -/
  | launch (x : Long)
  /-- R56. Short-form IADD.i32. -/
  | iaddShort (x : Short)
  /-- R56. Short-form ISUB.i32. -/
  | isubShort (x : Short)
  /-- R56. Short-form IMUL.i32. -/
  | imulShort (x : Short)
  /-- R56. Short-form IMULH.i32. -/
  | imulhI32Short (x : Short)
  /-- R56. Short-form IMULH.n32. -/
  | imulhN32Short (x : Short)
  /-- R56. Short-form IMIN.i32. -/
  | iminI32Short (x : Short)
  /-- R56. Short-form IMAX.i32. -/
  | imaxI32Short (x : Short)
  /-- R56. Short-form IMIN.n32. -/
  | iminN32Short (x : Short)
  /-- R56. Short-form IMAX.n32. -/
  | imaxN32Short (x : Short)
  /-- R56. Short-form IADD.sat.i32. -/
  | iaddSatI32Short (x : Short)
  /-- R56. Short-form ISUB.sat.i32. -/
  | isubSatI32Short (x : Short)
  /-- R56. Short-form IABS.i32. -/
  | iabsShort (x : Short)
  /-- R56. Short-form INEG.i32. -/
  | inegShort (x : Short)
  /-- R56. Short-form IADD.sat.n32. -/
  | iaddSatN32Short (x : Short)
  /-- R56. Short-form ISUB.sat.n32. -/
  | isubSatN32Short (x : Short)
  /-- R56. Short-form MOV.b32. -/
  | movShort (x : Short)
  /-- R56. Short-form AND.b32. -/
  | andShort (x : Short)
  /-- R56. Short-form OR.b32. -/
  | orShort (x : Short)
  /-- R56. Short-form XOR.b32. -/
  | xorShort (x : Short)
  /-- R56. Short-form NOT.b32. -/
  | notShort (x : Short)
  /-- R56. Short-form SHL.b32. -/
  | shlShort (x : Short)
  /-- R56. Short-form SHRL.b32. -/
  | shrlShort (x : Short)
  /-- R56. Short-form SHRA.b32. -/
  | shraShort (x : Short)
  /-- R56. Short-form ROTL.b32. -/
  | rotlShort (x : Short)
  /-- R56. Short-form POPC.b32. -/
  | popcShort (x : Short)
  /-- R56. Short-form CLZ.b32. -/
  | clzShort (x : Short)
  /-- R56. Short-form CTZ.b32. -/
  | ctzShort (x : Short)
  /-- R56. Short-form BREV.b32. -/
  | brevShort (x : Short)
  /-- R56. Short-form FRND.rn.f32. -/
  | frndShort (x : Short)
  /-- R56. Short-form FFRAC.f32. -/
  | ffracShort (x : Short)
  /-- R56. Short-form FEXPO.f32. -/
  | fexpoShort (x : Short)
  /-- R56. Short-form FSCALE.f32. -/
  | fscaleShort (x : Short)
  /-- R56. Short-form FADD.f32. -/
  | faddShort (x : Short)
  /-- R56. Short-form FSUB.f32. -/
  | fsubShort (x : Short)
  /-- R56. Short-form FMUL.f32. -/
  | fmulShort (x : Short)
  /-- R56. Short-form FMIN.f32. -/
  | fminShort (x : Short)
  /-- R56. Short-form FMAX.f32. -/
  | fmaxShort (x : Short)
  /-- R56. Short-form FNEG.f32. -/
  | fnegShort (x : Short)
  /-- R56. Short-form FADD.rz.f32. -/
  | faddRzShort (x : Short)
  /-- R56. Short-form FMUL.rz.f32. -/
  | fmulRzShort (x : Short)
  /-- R56. Short-form FADD.h2. -/
  | faddH2Short (x : Short)
  /-- R56. Short-form FSUB.h2. -/
  | fsubH2Short (x : Short)
  /-- R56. Short-form FMUL.h2. -/
  | fmulH2Short (x : Short)
  /-- R56. Short-form FMIN.h2. -/
  | fminH2Short (x : Short)
  /-- R56. Short-form FMAX.h2. -/
  | fmaxH2Short (x : Short)
  /-- R56. Short-form FADD.g2. -/
  | faddG2Short (x : Short)
  /-- R56. Short-form FMUL.g2. -/
  | fmulG2Short (x : Short)
  /-- R56. Short-form FNEG.h2. -/
  | fnegH2Short (x : Short)
  /-- R56. Short-form CVT.f32.i32. -/
  | cvtF32I32Short (x : Short)
  /-- R56. Short-form CVT.i32.f32. -/
  | cvtI32F32Short (x : Short)
  /-- R56. Short-form CVT.f32.n32. -/
  | cvtF32N32Short (x : Short)
  /-- R56. Short-form CVT.n32.f32. -/
  | cvtN32F32Short (x : Short)
  /-- R56. Short-form CVT.f32.f16. -/
  | cvtF32F16Short (x : Short)
  /-- R56. Short-form CVT.f16.f32. -/
  | cvtF16F32Short (x : Short)
  /-- R56. Short-form CVT.f32.bf16. -/
  | cvtF32Bf16Short (x : Short)
  /-- R56. Short-form CVT.bf16.f32. -/
  | cvtBf16F32Short (x : Short)
  /-- R56. Short-form LEA with shift 1. -/
  | leaS1Short (x : Short)
  /-- R56. Short-form LEA with shift 2. -/
  | leaS2Short (x : Short)
  /-- R56. Short-form LEA with shift 3. -/
  | leaS3Short (x : Short)
  /-- R56. Short-form LEA with shift 4. -/
  | leaS4Short (x : Short)
  /-- R56. Short-form NOP with all fields zero. -/
  | nopShort
  /-- R335. Invalidate every sounding entry. -/
  | rsndInvalidateAll
  /-- R335. Give ways to a context and invalidate them. -/
  | rsndGiveWays
  /-- R335. Apply a sounding-table way preset. -/
  | rsndPreset
  /-- R335. Enable or disable prediction for the issuing context. -/
  | rsndEnable
  /-- R378. Stop a warp of the served block. -/
  | grpctlStop
  /-- R378. Resume a stopped or sleeping warp. -/
  | grpctlResume
  /-- R378. Let a warp issue one group and stop. -/
  | grpctlStep
  /-- R378. Make masked lanes of a warp exit. -/
  | grpctlExit
  /-- R400. Reset runs power-good, firmware verification, fuse load, memory and link training, hash computation and opens the management window, in order. -/
  | reset
  /-- R15. A unit that fails in operation is fenced off, CAPSUM.FENCED is set, and words registered to it are lost. -/
  | unitFence
  /-- R30. The store scrubber reads every word once per 2^30 ticks, corrects or poisons it and logs errors. -/
  | scrub
  /-- R292. The dispatcher takes a ready record at a queue head, copies its 128 bytes, advances HEAD and checks it. -/
  | takeRecord
  /-- R300. The dispatcher places a block on a present core where its allocation fits and starts all its warps in one cycle. -/
  | blockPlacement
  /-- R301. After a gang has waited 200 µs the dispatcher reserves the cluster with the fewest resident warps. -/
  | gangReservation
  /-- R301. After a further 200 µs the dispatcher ends the reservation if a NOPRE block is resident, or else pre-empts lower-priority blocks. -/
  | gangReservationPreempt
  /-- R303. At the later of the decision tick and readiness, the dispatcher starts the primary or a fallback variant and may set MISS. -/
  | deadlineDecision
  /-- R383. A block whose running clocks reach QUANT x 1,024 is pre-empted if a waiting launch of equal or higher priority needs its core, or its count restarts. -/
  | quantumEnd
  /-- R383. At each warp's next safe point the block's context image is written to the core's save area. -/
  | preemptionSave
  /-- R301. A pre-empted block is restored on the same core at the same bases once the core can take it again. -/
  | blockResume
  /-- R304. Once all blocks have retired and their Regs and Wbs are acknowledged, the completion record is written and SIGDC is decremented. -/
  | launchCompletion
  /-- R412. A debugger request through the management controller pre-empts a block as a quantum end does, optionally holding its image. -/
  | preemptRequest
  /-- R412. A debugger request lets the dispatcher place a held pre-empted block again. -/
  | resumeRequest
  /-- R367. A fault stops the warp, waits for the handler window, and writes TRAPC/TRAPA/TRAPP and starts the handler, or discards the block. -/
  | trapEntry
  /-- R374. A warp that has issued nothing for WDOG x 1,024 clocks takes the watchdog fault. -/
  | watchdog
  /-- R372. A routed breakpoint, watchpoint or trap entry stops the package, sends the safelight hold and records DBGSTAT, DBGPC and DBGTK. -/
  | debugHalt
  /-- R388. In the first cycle TICK reaches SHUTTK with ARM set, every clock domain is gated and STOPPED is set. -/
  | shutterStop
  /-- R388. Setting SHUTCTL.ARM sends the safelight hold to the members of every open collective. -/
  | shutterArm
  /-- R389. A write of SHUTCTL.RESUME ungates every domain, clears ARM and STOPPED and sends the collective release. -/
  | shutterResume
  /-- R123. A sleeping warp wakes when TICK reaches its nonzero tick limit. -/
  | sleepLimitExpiry
  /-- R123. A core whose resident warps are all asleep may be power-gated after its sleep bit is broadcast to the homes. -/
  | corePowerGate
  /-- R215. A gated core wakes within 2.0 µs of a wake event or a message to it, and its sleep bit is cleared. -/
  | coreWake
  /-- R115. When every live lane of a warp is held at a .join, the lanes at the lowest such PC are released. -/
  | joinRelease
  /-- R183. Returned data lands in the destination words of a load or returning atomic, setting them full. -/
  | loadDataArrival
  /-- R107. An SFU result lands in its warp's register, raises its flags and frees its queue entry after its last lane. -/
  | sfuResultLanding
  /-- R127. A shuffle result lands in its destination no sooner than 4 cycles after issue. -/
  | shflResultLanding
  /-- R344. When every participant has arrived and any fix point has finished, the barrier performs its acquire and releases its lanes. -/
  | barrierRelease
  /-- R346. At an ordered-mode fix point the fixer batch waits for lower blocks, is applied in sorted order and acknowledged. -/
  | fixPointApply
  /-- R211. A Read at the home returns the home's copy or sends Fwd to the owner, or reports owner-lost for a Lost word. -/
  | read
  /-- R211. A Reg at the home acknowledges the requester, transfers ownership with Xfer and advances the line clock. -/
  | reg
  /-- R211. A Wb at the home writes the value and unowns the word, or is discarded when another agent now owns it. -/
  | wb
  /-- R211. An atomic at the home takes the word back with Xfer if owned and performs the operation on the home's copy. -/
  | homeAtomic
  /-- R211. A Drop from a discarded context makes the home mark the word Lost and log it. -/
  | drop
  /-- R210. An Ack at the owner's near cache clears the request-pending flag. -/
  | ack
  /-- R210. Fill data from the home or previous owner fills the unwritten bytes or installs a copy unless a newer fill is present. -/
  | fillData
  /-- R210. A Fwd to the owner sends the word's value to the reader after any pending fill. -/
  | fwd
  /-- R210. An Xfer to the owner sends the value to the new owner and drops the word. -/
  | xfer
  /-- R210. A Recall makes the owner write the word back and leave it Invalid, write-back pending. -/
  | recall
  /-- R210. A Wb acknowledgement releases the kept copy. -/
  | wbAck
  /-- R210. An evicted Valid word is dropped and an evicted Registered word is written back. -/
  | eviction
  /-- R216. A Fwd, Xfer or Recall unanswered within 4 µs (40 µs for a sleeping owner) marks the word Lost, except a no-data Xfer. -/
  | forwardTimerExpiry
  /-- R215. A die power controller sets or clears an agent's sleep bit at every home by broadcast. -/
  | sleepBitBroadcast
  /-- R214. An engine writes each registered destination word to the home as a Wb once its data exist. -/
  | engineWriteback
  /-- R310. A translation-cache miss starts a four-level walk that yields a leaf or a translation fault. -/
  | translationWalk
  /-- R148. The matrix unit applies one k-group to every element of the tile and advances MSTAT.STEP. -/
  | matrixStep
  /-- R135. After the last accumulator write, MSTAT.BUSY clears and the barrier object and dependence counter are signalled. -/
  | matrixCompletion
  /-- R158. A restored context whose MSTAT.CODE is 4 restarts its operation from its restart record. -/
  | matrixAutoRestart
  /-- R154. A requesting cluster takes a passing released pilot token and its matrix units start steps. -/
  | pilotTokenCapture
  /-- R154. The token is released when the 4,096-clock limit would be passed or no unit has a step ready. -/
  | pilotTokenRelease
  /-- R146. A multicast member that has waited 4,096 clocks for the others is served alone. -/
  | multicastTimeout
  /-- R249. The manifest unit takes a develop's landed entries and writes the new version's plates and directory, or ends with a status. -/
  | develop
  /-- R251. After the last Wb is acknowledged the develop records status and absent count and signals its completion. -/
  | developCompletion
  /-- R279. A held .at copy is released when TICK reaches its release tick and starts ahead of unstarted entries. -/
  | copyAtRelease
  /-- R271. An accepted copy starts once every Reg and Wb its core has sent is acknowledged. -/
  | copyStart
  /-- R276. A copy counts its bytes on the barrier object, decrements the counter and retires, releasing its entries. -/
  | copyCompletion
  /-- R281. A Quayline port grants a channel one burst of up to 4 KiB in round-robin order, channel 15 first after the round. -/
  | portGrant
  /-- R284. The atomic assist performs a non-native remote atomic under a line lock, resending the lock request every 1 µs. -/
  | assistAtomic
  /-- R284. A line-lock request not granted within 1 µs is resent. -/
  | lockResend
  /-- R288. A collective engine moves one chunk of 2^CHUNK bytes between members. -/
  | collChunk
  /-- R288. A member whose peer does not answer a chunk within 50 ms ends with STATUS 2 and sends an abort. -/
  | collPeerTimeout
  /-- R288. A member that receives an abort ends its collective with STATUS 2. -/
  | collAbort
  /-- R288. The engine writes STATUS and then signals completion, counting destination bytes. -/
  | collCompletion
  /-- R289. A hold from a stopped package stops the collective at its next chunk boundary with timers frozen. -/
  | safelightHold
  /-- R289. A release from the resumed package continues the held collective from its chunk. -/
  | safelightRelease
  /-- R289. A hold that passes COLLCFG.HOLD ends the member's collective with STATUS 1 and sends an abort. -/
  | holdLimitExpiry
  /-- R330. A ray starts once its core's Regs and Wbs are acknowledged, reads VERSION and looks up the sounding table. -/
  | rayStart
  /-- R324. The traversal unit tests boxes and primitives and hands candidates or the final status to the slot. -/
  | rayTraversal
  /-- R339. The scheduler performs one change to a counter and sends any transition to zero to its waiters. -/
  | dependenceCounterChange
  /-- R342. The store performs one atomic update of a barrier object and completes the phase when PENDING and BYTES are zero. -/
  | barrierObjectUpdate
  /-- R353. At tick Te every selected counter is zeroed and starts counting its event. -/
  | perfCounterSelectEffect
  /-- R354. At tick Tr every present unfenced core latches the counter and the reduction tree forms the contact sheet. -/
  | perfCounterLatch
  /-- R360. A tracer request writes a sample record with per-hop times when it completes. -/
  | tracerSample
  /-- R357. A logged dependence writes a replay record, or is dropped when the die queue is full. -/
  | replayRecord
  /-- R393. A PTP event message is timestamped in hardware at the PCS boundary. -/
  | ptpEventMessage
  /-- R393. A PTP general message is handled by firmware, and Signaling and Management are discarded. -/
  | ptpGeneralMessage
  /-- R350. At each 1588 measurement the servo sets OFS and adds or withholds counts, steps on request, and updates LOCK. -/
  | ptpMeasurement
  /-- R350. A write of TKCTL.STEP requests a forward step, applied at the next measurement if OFS < 0. -/
  | tkctlStep
  /-- R402. Power, junction or inlet conditions raise the throttle step and change tokens or the arithmetic clock. -/
  | throttleStepUp
  /-- R402. The step falls by one after its cause has been absent for 100 ms. -/
  | throttleStepDown
  /-- R402. A junction at 115 °C or above halts the device and power is removed. -/
  | thermalTrip
  /-- R398. A tamper sensor alarm logs, halts or erases the key store according to RESPONSE. -/
  | tamperAlarm
  /-- R399. A lane that fails in operation makes its port retrain to the next lower width, or go down below 2 lanes. -/
  | laneRetrain
  /-- R392. The atomic assist performs an admitted inbound read at the home, forwarded to the owner. -/
  | inboundRead
  /-- R392. The assist registers, writes and writes back an admitted inbound store as a tenure of its own. -/
  | inboundWrite
  /-- R392. The assist performs an admitted inbound atomic at the home. -/
  | inboundAtomic
  /-- R392. A management window access to a system register acts as a privileged SYSRD or SYSWR. -/
  | mgmtRegisterAccess
  /-- R392. A management window write sets a dependence counter's value and counts as a change. -/
  | mgmtCounterWrite
  /-- R373. While stopped, the host reads the selected item with its poison, or is refused. -/
  | dacdataRead
  /-- R373. While stopped, the host writes the selected item under GRPWR rules, or is refused. -/
  | dacdataWrite
  /-- R373. A DACCTL write of operation 0 only queries the selected warp. -/
  | dacctlQuery
  /-- R373. A DACCTL write of operation 1 stops the selected warp. -/
  | dacctlStop
  /-- R373. A DACCTL write of operation 2 ends the selected warp's hold or sleep. -/
  | dacctlResume
  /-- R373. A DACCTL write of operation 3 lets the selected warp issue one group and stop. -/
  | dacctlStep
  /-- R373. A DACCTL write of operation 4 makes the masked lanes of the selected warp exit. -/
  | dacctlExit
  /-- R407. The link debug port holds every message from an origin die on one die-to-die link direction. -/
  | linkHold
  /-- R407. The link debug port sends the held messages in the order they were held. -/
  | linkRelease
  /-- R407. The link debug port reports each hold and the messages held at it. -/
  | linkStatus
  /-- R177. A BIASCMD write with DIR 1 refuses and recalls registrations, writes back dirty lines and records host bias. -/
  | biasFlipToHost
  /-- R177. A BIASCMD write with DIR 0 asks the host to drop its copies and records device bias on acknowledgement. -/
  | biasFlipToDevice
  /-- R177. Without a host acknowledgement within 100 µs, STATUS becomes 1 and the page stays in host bias. -/
  | biasAckTimeout
  /-- R156. A write of MTKCFG sets the die's pilot-token count, injecting or retiring tokens. -/
  | mtkcfgWrite
  /-- R308. A write of XLROOTn sets the context root and invalidates every cached translation of the context. -/
  | xlrootWrite
  /-- R316. An XLINV of KIND 0 removes every cached translation covering one page and waits for its users. -/
  | xlinvPage
  /-- R316. An XLINV of KIND 1 removes every cached translation of one context and waits for its users. -/
  | xlinvContext
  /-- R316. An XLINV of KIND 2 removes every cached translation of all contexts and waits for its users. -/
  | xlinvAll
  /-- R361. A write of RPCTL sets the replay log and restarts HEAD when BASE or LOG2SIZE changes. -/
  | rpctlWrite
  /-- R359. A write of TRCTL sets the sample buffer and rate, zeroes every core's request count and may restart HEAD. -/
  | trctlWrite
  /-- R386. A write of ELCTL sets the error log and restarts HEAD when BASE or LOG2SIZE changes. -/
  | elctlWrite
  /-- R396. A CMD of 1 reads the nonce and writes a report signed by both identity keys. -/
  | mailboxAttest
  /-- R397. A CMD of 2 verifies a debug unlock token and unlocks the scan readout until reset. -/
  | mailboxUnlock
  /-- R386. A write to a system register with no behaviour of its own sets its RW fields and ignores RO fields. -/
  | systemRegisterWrite
  /-- R26. The late result of MNEXT, LCLK, MACC or GRPRD arrives and fills its destination words. -/
  | producerResultArrival
  /-- R265. The survivor queue finishes copying a push's kept rows into their ring slots and frees its scoreboard range. -/
  | sqpushRowsWritten
  /-- R177. The host's acknowledgement of a flip to device bias arrives and the home records device bias. -/
  | biasHostAcknowledge
  /-- R284. An inbound line-lock request from a remote assist is queued in arrival order and granted on a line of this device's memory. -/
  | lineLockRequest
  /-- R284. An inbound unlock releases a locked line and lets waiting native atomics and queued lock requests proceed. -/
  | lineUnlock
  /-- R393. When 8 PTP measurements are missed in a row, LOCK clears and the tick runs on at the Quayline reference rate. -/
  | measurementsMissed
  /-- R395. The host writes a RECOVERY firmware image through the security mailbox and the security processor checks and accepts it. -/
  | recoveryImageLoad
  /-- R402. A coolant inlet below 15 °C is logged and causes no throttling. -/
  | lowInletTemperature
  deriving DecidableEq, Repr, Inhabited

end Sys2Proof
end

