-- ==== Sys2Proof/WellFormed.lean ====
section
/-! DEFINITION. Which field values an instruction's encoding admits: the rows 2 to 4 of R59 (assigned
operations, reserved bits, operand codes, uniform rules, register alignment, pair banks), written as
one table of shapes and one check. A failed check names its reason. -/

namespace Sys2Proof

/-- Why a pattern of bits is no instruction (R58, R59 rows 2 to 4); every one of them raises the
illegal-instruction fault. -/
inductive Reject where
  /-- fewer bytes than the form's length (R41) -/
  | truncated
  /-- major, minor or short operation number not assigned (R57, R58) -/
  | unassigned
  /-- a reserved bit or field is not zero (R50) -/
  | reservedBits
  /-- a modifier code is not assigned (R50, R57) -/
  | modifier
  /-- the type code is outside the entry's list (R49) -/
  | typeCode
  /-- an operand code is not allowed in its field (R43, R47) -/
  | operandCode
  /-- a register number breaks its alignment (R19, R49) -/
  | alignment
  /-- a uniform instruction breaks R48 -/
  | uniformRule
  /-- an empty-trap bit stands on a field that is no register (R51) -/
  | emptyTrap
  /-- code 0x17F outside the literal form, or a literal form that reads no literal (R45) -/
  | literalUse
  /-- the halves of a pair share a bank (R55) -/
  | pairBanks
  /-- the term is an event of the machine and has no encoding -/
  | notEncoded
  deriving DecidableEq, Repr, Inhabited

/-- What an operand code names (R43). -/
inductive Code where
  | v (n : Nat)
  | const
  | lit
  | special (n : Nat)
  | reserved
  | s (n : Nat)
  deriving DecidableEq, Repr, Inhabited

/-- R43's table. -/
def codeOf (c : Nat) : Code :=
  if c < 0x140 then .v c
  else if c < 0x17F then .const
  else if c = 0x17F then .lit
  else if c < 0x1C0 then .special (c - 0x180)
  else if c < 0x200 then .reserved
  else .s (c - 0x200)

/-- The type set a major reads its type field in (R49). `dir` is the copy direction of R272, `any` a
type field that an entry gives a layout of its own (R91, R272). -/
inductive TypeSet where
  | integer | bit | float | memory | none | dir | any
  deriving DecidableEq, Repr, Inhabited

/-- How many type codes a set has (R49). -/
def TypeSet.size : TypeSet → Nat
  | .integer => 8
  | .bit => 2
  | .float => 6
  | .memory => 7
  | .none => 1
  | .dir => 3
  | .any => 8

/-- Width in registers of one operand of a type code (R49). -/
def TypeSet.regs : TypeSet → Nat → Nat
  | .integer, t => if t = 2 ∨ t = 3 then 2 else 1
  | .bit, t => if t = 1 then 2 else 1
  | .float, t => if t = 1 then 2 else 1
  | .memory, t => if t = 1 then 2 else if t = 2 then 4 else 1
  | _, _ => 1

/-- The width of an operand: 32 bits, 64 bits, by the type field, or by a conversion layout; `cnt` is a count, a
position or a mask of the instruction's width that is read as a number, `f32` an f32, `stream` the words of a stream
that a lane's element occupies (R103).
Reading: log entry 22, DEDUCED. -/
inductive Wd where
  | w32 | w64 | ty | cnt | f32 | stream | cvtDst | cvtSrc | mcDst | mcSrc
  deriving DecidableEq, Repr, Inhabited

/-- The type numbers a conversion layout may hold (R101, R103, R160). -/
inductive CSet where
  | cvt | narrow | mc
  deriving DecidableEq, Repr, Inhabited

/-- What the minor's modifier bits may hold (R50, R57). -/
inductive ModKind where
  /-- none -/
  | none
  /-- saturate, minor bit 12 -/
  | sat
  /-- rounding and saturate -/
  | rnd
  /-- rounding only -/
  | rndOnly
  /-- a code below n in the low bits -/
  | below (n : Nat)
  /-- an operation below 6 in bits 11..9, exclusive in bit 12 (R130) -/
  | scan
  /-- all four bits -/
  | free
  /-- space in bits 10..9 and order in bits 12..11, from the entry's lists (R186) -/
  | mem (spaces orders : List Nat)
  /-- order in bits 12..11, not relaxed (R186) -/
  | fence
  /-- scale byte-select in bits 12..11 (R159) -/
  | kb
  /-- `.at`, minor bit 12 (R272) -/
  | at
  deriving DecidableEq, Repr, Inhabited

/-- What one of the fields dst, A, B and C holds. -/
inductive Fld where
  /-- zero -/
  | zero
  /-- a part of the branch layout (R119) -/
  | branch
  /-- a destination register of a width; a uniform code makes the instruction uniform (R48) -/
  | dst (w : Wd)
  /-- a predicate destination (R47) -/
  | pdst
  /-- the destination of VOTE: a predicate, or a register under `.bal` (R127) -/
  | vote
  /-- a uniform destination of n registers, a multiple of n (R163, R255, R337) -/
  | sdst (n : Nat)
  /-- a vector destination of n consecutive registers -/
  | vdst (n : Nat)
  /-- the special register SETS writes (R97) -/
  | specDst
  /-- 0x000 or 0x200: vector or uniform (R95, R186) -/
  | kindSel
  /-- a source operand of a width (R43) -/
  | src (w : Wd)
  /-- the data of a store in the dst field (R186) -/
  | data (w : Wd)
  /-- the key of MINS and MREM: vector register, constant or literal (R255) -/
  | key
  /-- a 64-bit register pair, constant or literal (R119) -/
  | g64
  /-- an even vector or uniform pair (R337, LCLK) -/
  | pair
  /-- the base of a memory operand by its space (R179) -/
  | base
  /-- the operand group of CAS (R196) -/
  | casGroup
  /-- the operand of FATOM: a group when the operation is 12 (R283) -/
  | fatomB
  /-- a uniform register, a constant or the literal -/
  | u
  /-- as `u`, with no empty-trap bit (R306) -/
  | uNoEt
  /-- a vector or uniform register, a constant or the literal (R331, R376) -/
  | vu
  /-- an even uniform pair, a constant or the literal (R376) -/
  | val64
  /-- an even uniform pair -/
  | spair
  /-- a uniform register that is a multiple of n, the first of n -/
  | sreg (n : Nat)
  /-- n consecutive vector registers, read (R331) -/
  | vsrc (n : Nat)
  /-- a vector register that the matrix unit reads at issue (R147) -/
  | vscale
  /-- the first metadata register of MMAS (R152) -/
  | vmeta
  /-- the destination address of a copy: a pair when it is global (R272) -/
  | gaddrD
  /-- the source address of a copy -/
  | gaddrS
  /-- the destination and the source record of COPYT: the global end an even uniform register, the
  local end the first of three (R274) -/
  | recD
  | recS
  /-- a predicate source (R47) -/
  | pred
  /-- the inline constants lo..hi -/
  | imm (lo hi : Nat)
  /-- a special register that MOVS reads (R96) -/
  | spec
  /-- a layout with the given bits (R50) -/
  | lay (mask : Nat)
  /-- the scope layout with further bits (R50, R186) -/
  | scope (mask : Nat)
  /-- the scope layout with the scopes lo..hi (R337) -/
  | scopeIn (lo hi : Nat)
  /-- the scope layout and an operation number up to max (R194) -/
  | atomC (max : Nat)
  /-- order, operation number and scope (R272) -/
  | fatomC
  /-- the SFU rounding layout (R50) -/
  | sfuRnd
  /-- the conversion layout (R50) -/
  | ctype (s : CSet)
  /-- the carry layout (R50, R87) -/
  | carry
  /-- the memory-offset layout (R50) -/
  | offs
  /-- the completion operand of a copy: a group of four under `.at` (R272) -/
  | atC
  /-- the completion operand of a fabric transfer (R272) -/
  | fabC
  deriving DecidableEq, Repr, Inhabited

/-- Whether an instruction is a vector or a uniform one (R48). -/
inductive Kind where
  /-- a vector instruction with a `p` guard -/
  | vec
  /-- a uniform instruction with a `q` guard -/
  | uni
  /-- uniform when its destination is (R48) -/
  | either
  /-- the dst field selects the kind: 0x000 vector, 0x200 uniform (R95, R186) -/
  | byDst
  /-- SETS: a vector instruction for RNGS, uniform for every other register (R97) -/
  | setsKind
  deriving DecidableEq, Repr, Inhabited

/-- The encoding of one operation: its kind, its type set and the codes of the set that its entry
accepts (the empty list: every one), its modifier bits and its four fields. -/
structure Shape where
  kind  : Kind
  tset  : TypeSet
  types : List Nat
  mods  : ModKind
  dst   : Fld
  a     : Fld
  b     : Fld
  c     : Fld
  deriving DecidableEq, Repr, Inhabited

/-- A long-form operation: its major, the minor bits that select it, the mask of those bits, its
shape and its fields. -/
structure Info where
  major  : Nat
  minor  : Nat
  opmask : Nat
  shape  : Shape
  x      : Long
  deriving DecidableEq, Repr, Inhabited

/-- The opcode map of R57 with the field tables of the class chapters (R86 to R109, R119, R127,
R159 to R164, R186, R255, R272, R306, R331, R337, R376), one row per long-form operation; none for
the short and pair forms and for events. PARTSET's source may be the literal.
Reading: log entry 22, DEDUCED, log entry 77, DEDUCED. -/
def Instr.info : Instr → Option Info
  | .iadd x => some ⟨0x00, 0, 7,
      ⟨.either, .integer, [], .sat, .dst .ty, .src .ty, .src .ty, .zero⟩, x⟩
  | .isub x => some ⟨0x01, 0, 7,
      ⟨.either, .integer, [], .sat, .dst .ty, .src .ty, .src .ty, .zero⟩, x⟩
  | .imul x => some ⟨0x02, 0, 7,
      ⟨.either, .integer, [], .sat, .dst .ty, .src .ty, .src .ty, .zero⟩, x⟩
  | .imulh x => some ⟨0x03, 0, 15,
      ⟨.either, .integer, [], .none, .dst .ty, .src .ty, .src .ty, .zero⟩, x⟩
  | .imad x => some ⟨0x04, 0, 7,
      ⟨.either, .integer, [], .sat, .dst .ty, .src .ty, .src .ty, .src .ty⟩, x⟩
  | .imadw x => some ⟨0x05, 0, 15,
      ⟨.either, .integer, [0, 1], .none, .dst .w64, .src .w32, .src .w32, .src .w64⟩, x⟩
  | .isad x => some ⟨0x08, 0, 15,
      ⟨.either, .integer, [], .none, .dst .ty, .src .ty, .src .ty, .src .ty⟩, x⟩
  | .iabs x => some ⟨0x06, 0, 7,
      ⟨.either, .integer, [0, 2, 4, 6], .sat, .dst .ty, .src .ty, .zero, .zero⟩, x⟩
  | .ineg x => some ⟨0x06, 1, 7,
      ⟨.either, .integer, [], .sat, .dst .ty, .src .ty, .zero, .zero⟩, x⟩
  | .imin x => some ⟨0x07, 0, 15,
      ⟨.either, .integer, [], .none, .dst .ty, .src .ty, .src .ty, .zero⟩, x⟩
  | .imax x => some ⟨0x07, 1, 15,
      ⟨.either, .integer, [], .none, .dst .ty, .src .ty, .src .ty, .zero⟩, x⟩
  | .iclamp x => some ⟨0x07, 2, 15,
      ⟨.either, .integer, [], .none, .dst .ty, .src .ty, .src .ty, .src .ty⟩, x⟩
  | .iaddc x => some ⟨0x09, 0, 15,
      ⟨.either, .integer, [0, 1, 2, 3], .none, .dst .ty, .src .ty, .src .ty, .carry⟩, x⟩
  | .isubb x => some ⟨0x09, 1, 15,
      ⟨.either, .integer, [0, 1, 2, 3], .none, .dst .ty, .src .ty, .src .ty, .carry⟩, x⟩
  | .and x => some ⟨0x0A, 0, 15,
      ⟨.either, .bit, [], .none, .dst .ty, .src .ty, .src .ty, .zero⟩, x⟩
  | .or x => some ⟨0x0A, 1, 15,
      ⟨.either, .bit, [], .none, .dst .ty, .src .ty, .src .ty, .zero⟩, x⟩
  | .xor x => some ⟨0x0A, 2, 15,
      ⟨.either, .bit, [], .none, .dst .ty, .src .ty, .src .ty, .zero⟩, x⟩
  | .not x => some ⟨0x0A, 3, 15,
      ⟨.either, .bit, [], .none, .dst .ty, .src .ty, .zero, .zero⟩, x⟩
  | .shl x => some ⟨0x0B, 0, 15,
      ⟨.either, .bit, [], .none, .dst .ty, .src .ty, .src .cnt, .zero⟩, x⟩
  | .shrl x => some ⟨0x0B, 1, 15,
      ⟨.either, .bit, [], .none, .dst .ty, .src .ty, .src .cnt, .zero⟩, x⟩
  | .shra x => some ⟨0x0B, 2, 15,
      ⟨.either, .bit, [], .none, .dst .ty, .src .ty, .src .cnt, .zero⟩, x⟩
  | .rotl x => some ⟨0x0B, 3, 15,
      ⟨.either, .bit, [], .none, .dst .ty, .src .ty, .src .cnt, .zero⟩, x⟩
  | .lop hi x => some ⟨if hi then 0x0D else 0x0C, 0, 0,
      ⟨.either, .any, [], .free, .dst .w32, .src .w32, .src .w32, .src .w32⟩, x⟩
  | .funnel x => some ⟨0x0E, 0, 14,
      ⟨.either, .bit, [], .below 2, .dst .ty, .src .ty, .src .ty, .src .cnt⟩, x⟩
  | .popc x => some ⟨0x0F, 0, 15,
      ⟨.either, .bit, [], .none, .dst .ty, .src .ty, .zero, .zero⟩, x⟩
  | .clz x => some ⟨0x0F, 1, 15,
      ⟨.either, .bit, [], .none, .dst .ty, .src .ty, .zero, .zero⟩, x⟩
  | .ctz x => some ⟨0x0F, 2, 15,
      ⟨.either, .bit, [], .none, .dst .ty, .src .ty, .zero, .zero⟩, x⟩
  | .brev x => some ⟨0x0F, 3, 15,
      ⟨.either, .bit, [], .none, .dst .ty, .src .ty, .zero, .zero⟩, x⟩
  | .bfx x => some ⟨0x10, 0, 15,
      ⟨.either, .integer, [0, 1, 2, 3], .none, .dst .ty, .src .ty, .src .cnt, .src .cnt⟩, x⟩
  | .bfi x => some ⟨0x11, 0, 15,
      ⟨.either, .bit, [], .none, .dst .ty, .src .ty, .src .ty, .src .cnt⟩, x⟩
  | .bfm x => some ⟨0x12, 0, 15,
      ⟨.either, .bit, [], .none, .dst .ty, .src .cnt, .src .cnt, .zero⟩, x⟩
  | .prmb x => some ⟨0x13, 0, 15,
      ⟨.either, .bit, [0], .none, .dst .ty, .src .ty, .src .ty, .src .ty⟩, x⟩
  | .icmp x => some ⟨0x14, 0, 8,
      ⟨.either, .integer, [], .below 6, .pdst, .src .ty, .src .ty, .pred⟩, x⟩
  | .fcmp x => some ⟨0x15, 0, 8,
      ⟨.either, .float, [0, 1, 2, 3], .below 8, .pdst, .src .ty, .src .ty, .pred⟩, x⟩
  | .sel x => some ⟨0x16, 0, 14,
      ⟨.either, .bit, [], .below 2, .dst .ty, .src .ty, .src .ty, .pred⟩, x⟩
  | .cset x => some ⟨0x17, 0, 14,
      ⟨.either, .bit, [], .below 2, .dst .ty, .pred, .src .ty, .zero⟩, x⟩
  | .pset x => some ⟨0x18, 0, 0,
      ⟨.either, .none, [], .free, .pdst, .pred, .pred, .zero⟩, x⟩
  | .lea x => some ⟨0x19, 0, 0,
      ⟨.either, .none, [], .free, .dst .w32, .src .w32, .src .w32, .zero⟩, x⟩
  | .leaw x => some ⟨0x1A, 0, 0,
      ⟨.either, .none, [], .free, .dst .w64, .src .w64, .src .w32, .zero⟩, x⟩
  | .mov x => some ⟨0x1B, 0, 15,
      ⟨.either, .bit, [], .none, .dst .ty, .src .ty, .zero, .zero⟩, x⟩
  | .movl x => some ⟨0x1B, 1, 15,
      ⟨.either, .bit, [1], .none, .dst .ty, .src .w32, .src .w32, .zero⟩, x⟩
  | .movs x => some ⟨0x1C, 0, 15,
      ⟨.either, .bit, [], .none, .dst .ty, .spec, .zero, .zero⟩, x⟩
  | .sets x => some ⟨0x1C, 1, 15,
      ⟨.setsKind, .bit, [], .none, .specDst, .src .ty, .zero, .zero⟩, x⟩
  | .pmovToRegister x => some ⟨0x1D, 0, 15,
      ⟨.either, .none, [], .none, .dst .w32, .zero, .zero, .zero⟩, x⟩
  | .pmovToPredicates x => some ⟨0x1D, 1, 15,
      ⟨.byDst, .none, [], .none, .kindSel, .src .w32, .src .w32, .zero⟩, x⟩
  | .flgrd x => some ⟨0x1E, 0, 15,
      ⟨.either, .none, [], .none, .dst .w32, .zero, .zero, .zero⟩, x⟩
  | .flgclr x => some ⟨0x1E, 1, 15,
      ⟨.uni, .none, [], .none, .zero, .u, .zero, .zero⟩, x⟩
  | .rng x => some ⟨0x1F, 0, 15,
      ⟨.vec, .bit, [], .none, .dst .ty, .zero, .zero, .zero⟩, x⟩
  | .rngseed x => some ⟨0x1F, 1, 15,
      ⟨.vec, .bit, [], .none, .zero, .src .ty, .zero, .zero⟩, x⟩
  | .fadd x => some ⟨0x20, 0, 0,
      ⟨.either, .float, [], .rnd, .dst .ty, .src .ty, .src .ty, .zero⟩, x⟩
  | .fsub x => some ⟨0x21, 0, 0,
      ⟨.either, .float, [], .rnd, .dst .ty, .src .ty, .src .ty, .zero⟩, x⟩
  | .fmul x => some ⟨0x22, 0, 0,
      ⟨.either, .float, [], .rnd, .dst .ty, .src .ty, .src .ty, .zero⟩, x⟩
  | .ffma x => some ⟨0x23, 0, 0,
      ⟨.either, .float, [], .rnd, .dst .ty, .src .ty, .src .ty, .src .ty⟩, x⟩
  | .fmin x => some ⟨0x24, 0, 15,
      ⟨.either, .float, [], .none, .dst .ty, .src .ty, .src .ty, .zero⟩, x⟩
  | .fmax x => some ⟨0x25, 0, 15,
      ⟨.either, .float, [], .none, .dst .ty, .src .ty, .src .ty, .zero⟩, x⟩
  | .fclamp x => some ⟨0x26, 0, 15,
      ⟨.either, .float, [], .none, .dst .ty, .src .ty, .src .ty, .src .ty⟩, x⟩
  | .frnd x => some ⟨0x27, 0, 0,
      ⟨.either, .float, [], .rndOnly, .dst .ty, .src .ty, .zero, .zero⟩, x⟩
  | .ffrac x => some ⟨0x28, 0, 0,
      ⟨.either, .float, [], .rnd, .dst .ty, .src .ty, .zero, .zero⟩, x⟩
  | .fscale x => some ⟨0x29, 0, 0,
      ⟨.either, .float, [], .rnd, .dst .ty, .src .ty, .src .w32, .zero⟩, x⟩
  | .fexpo x => some ⟨0x2A, 0, 15,
      ⟨.either, .float, [], .none, .dst .w32, .src .ty, .zero, .zero⟩, x⟩
  | .fclass x => some ⟨0x2B, 0, 15,
      ⟨.either, .float, [0, 1, 2, 3], .none, .pdst, .src .ty, .src .cnt, .zero⟩, x⟩
  | .fneg x => some ⟨0x2C, 0, 15,
      ⟨.either, .float, [], .none, .dst .ty, .src .ty, .zero, .zero⟩, x⟩
  | .cvt x => some ⟨0x30, 0, 0,
      ⟨.either, .none, [], .rnd, .dst .cvtDst, .src .cvtSrc, .ctype .cvt, .ctype .cvt⟩, x⟩
  | .cvts x => some ⟨0x31, 0, 0,
      ⟨.either, .none, [], .rnd, .dst .w32, .src .f32, .src .w32, .ctype .narrow⟩, x⟩
  | .pack x => some ⟨0x32, 0, 0,
      ⟨.vec, .none, [], .rnd, .dst .w32, .src .f32, .src .w32, .ctype .narrow⟩, x⟩
  | .unpk x => some ⟨0x33, 0, 0,
      ⟨.vec, .none, [], .rnd, .dst .w32, .src .stream, .src .w32, .ctype .narrow⟩, x⟩
  | .scenc x => some ⟨0x34, 0, 0,
      ⟨.either, .none, [], .rndOnly, .dst .w32, .src .f32, .src .f32, .zero⟩, x⟩
  | .scdec x => some ⟨0x35, 0, 0,
      ⟨.either, .none, [], .rndOnly, .dst .w32, .src .w32, .src .f32, .zero⟩, x⟩
  | .rcp x => some ⟨0x38, 0, 15,
      ⟨.either, .float, [0, 1, 2], .none, .dst .ty, .src .ty, .zero, .sfuRnd⟩, x⟩
  | .rsq x => some ⟨0x38, 1, 15,
      ⟨.either, .float, [0, 1, 2], .none, .dst .ty, .src .ty, .zero, .sfuRnd⟩, x⟩
  | .sqrt x => some ⟨0x38, 2, 15,
      ⟨.either, .float, [0, 1, 2], .none, .dst .ty, .src .ty, .zero, .sfuRnd⟩, x⟩
  | .exp2 x => some ⟨0x39, 0, 15,
      ⟨.either, .float, [0, 2], .none, .dst .ty, .src .ty, .zero, .sfuRnd⟩, x⟩
  | .log2 x => some ⟨0x39, 1, 15,
      ⟨.either, .float, [0, 2], .none, .dst .ty, .src .ty, .zero, .sfuRnd⟩, x⟩
  | .sin x => some ⟨0x3A, 0, 15,
      ⟨.either, .float, [0, 2], .none, .dst .ty, .src .ty, .zero, .sfuRnd⟩, x⟩
  | .cos x => some ⟨0x3A, 1, 15,
      ⟨.either, .float, [0, 2], .none, .dst .ty, .src .ty, .zero, .sfuRnd⟩, x⟩
  | .tanh x => some ⟨0x3A, 2, 15,
      ⟨.either, .float, [0, 2], .none, .dst .ty, .src .ty, .zero, .sfuRnd⟩, x⟩
  | .idiv x => some ⟨0x3B, 0, 15,
      ⟨.either, .integer, [0, 1, 2, 3], .none, .dst .ty, .src .ty, .src .ty, .zero⟩, x⟩
  | .irem x => some ⟨0x3B, 1, 15,
      ⟨.either, .integer, [0, 1, 2, 3], .none, .dst .ty, .src .ty, .src .ty, .zero⟩, x⟩
  | .bra x => some ⟨0x40, 0, 15,
      ⟨.vec, .none, [], .none, .zero, .branch, .branch, .branch⟩, x⟩
  | .brx x => some ⟨0x41, 0, 15,
      ⟨.vec, .none, [], .none, .zero, .g64, .zero, .zero⟩, x⟩
  | .call x => some ⟨0x42, 0, 15,
      ⟨.either, .none, [], .none, .dst .w64, .branch, .branch, .branch⟩, x⟩
  | .callx x => some ⟨0x43, 0, 15,
      ⟨.either, .none, [], .none, .dst .w64, .g64, .zero, .zero⟩, x⟩
  | .ret x => some ⟨0x44, 0, 15,
      ⟨.vec, .none, [], .none, .zero, .g64, .zero, .zero⟩, x⟩
  | .exit x => some ⟨0x45, 0, 15,
      ⟨.vec, .none, [], .none, .zero, .zero, .zero, .zero⟩, x⟩
  | .nop x => some ⟨0x46, 0, 15,
      ⟨.vec, .none, [], .none, .zero, .zero, .zero, .zero⟩, x⟩
  | .yield x => some ⟨0x47, 0, 15,
      ⟨.vec, .none, [], .none, .zero, .zero, .zero, .zero⟩, x⟩
  | .safe x => some ⟨0x48, 0, 15,
      ⟨.vec, .none, [], .none, .zero, .zero, .zero, .zero⟩, x⟩
  | .trap x => some ⟨0x49, 0, 15,
      ⟨.vec, .none, [], .none, .zero, .u, .zero, .zero⟩, x⟩
  | .bkpt x => some ⟨0x4A, 0, 15,
      ⟨.vec, .none, [], .none, .zero, .zero, .zero, .zero⟩, x⟩
  | .sleep x => some ⟨0x4B, 0, 15,
      ⟨.vec, .none, [], .none, .zero, .g64, .zero, .zero⟩, x⟩
  | .wake x => some ⟨0x4B, 1, 15,
      ⟨.vec, .none, [], .none, .zero, .g64, .zero, .zero⟩, x⟩
  | .tkwait x => some ⟨0x4C, 0, 15,
      ⟨.vec, .none, [], .none, .zero, .g64, .zero, .zero⟩, x⟩
  | .vote x => some ⟨0x50, 0, 12,
      ⟨.vec, .none, [], .below 4, .vote, .pred, .zero, .zero⟩, x⟩
  | .shfl x => some ⟨0x51, 0, 12,
      ⟨.vec, .bit, [], .below 4, .dst .ty, .src .ty, .src .cnt, .src .ty⟩, x⟩
  | .redux x => some ⟨0x52, 0, 8,
      ⟨.vec, .integer, [], .below 6, .dst .ty, .src .ty, .zero, .zero⟩, x⟩
  | .scan x => some ⟨0x53, 0, 0,
      ⟨.vec, .integer, [], .scan, .dst .ty, .src .ty, .zero, .zero⟩, x⟩
  | .matchLanes x => some ⟨0x54, 0, 14,
      ⟨.vec, .bit, [], .below 2, .dst .w32, .src .ty, .zero, .zero⟩, x⟩
  | .partset x => some ⟨0x55, 0, 15,
      ⟨.uni, .none, [], .none, .zero, .u, .zero, .zero⟩, x⟩
  | .elect x => some ⟨0x56, 0, 15,
      ⟨.vec, .none, [], .none, .pdst, .zero, .zero, .zero⟩, x⟩
  | .lmask x => some ⟨0x57, 0, 15,
      ⟨.vec, .none, [], .none, .dst .w32, .imm 0 5, .zero, .zero⟩, x⟩
  | .ld x => some ⟨0x58, 0, 0,
      ⟨.vec, .memory, [], .mem [0, 1, 2, 3] [0, 1], .dst .ty, .base, .offs, .scope 7⟩, x⟩
  | .ldu x => some ⟨0x59, 0, 0,
      ⟨.uni, .memory, [], .mem [0, 1, 2, 3] [0, 1], .dst .ty, .base, .offs, .scope 7⟩, x⟩
  | .ldt x => some ⟨0x5A, 0, 0,
      ⟨.vec, .memory, [0, 1, 2, 3], .mem [0, 1, 2] [0, 1], .dst .ty, .base, .offs, .scope 63⟩, x⟩
  | .st x => some ⟨0x5B, 0, 0,
      ⟨.vec, .memory, [], .mem [0, 1, 2] [0, 2], .data .ty, .base, .offs, .scope 7⟩, x⟩
  | .stt x => some ⟨0x5C, 0, 0,
      ⟨.vec, .memory, [0, 1, 2, 3], .mem [0, 1, 2] [0, 2], .data .ty, .base, .offs, .scope 15⟩, x⟩
  | .gath x => some ⟨0x5D, 0, 0,
      ⟨.vec, .memory, [], .mem [0, 1, 2] [0, 1], .dst .ty, .base, .src .w32, .scope 63⟩, x⟩
  | .scat x => some ⟨0x5E, 0, 0,
      ⟨.vec, .memory, [], .mem [0, 1, 2] [0, 2], .data .ty, .base, .src .w32, .scope 63⟩, x⟩
  | .atom x => some ⟨0x5F, 0, 0,
      ⟨.vec, .memory, [0, 1, 3, 4, 5, 6], .mem [0, 1, 2] [0, 1, 2, 3], .dst .ty, .base, .src .ty, .atomC 11⟩, x⟩
  | .red x => some ⟨0x60, 0, 0,
      ⟨.vec, .memory, [0, 1, 3, 4, 5, 6], .mem [0, 1, 2] [0, 2], .zero, .base, .src .ty, .atomC 11⟩, x⟩
  | .cas x => some ⟨0x61, 0, 0,
      ⟨.vec, .memory, [0, 1, 2], .mem [0, 1, 2] [0, 1, 2, 3], .dst .ty, .base, .casGroup, .scope 7⟩, x⟩
  | .fence x => some ⟨0x62, 0, 3,
      ⟨.byDst, .none, [], .fence, .kindSel, .zero, .zero, .scope 7⟩, x⟩
  | .invr x => some ⟨0x63, 0, 15,
      ⟨.byDst, .none, [], .none, .kindSel, .sreg 4, .imm 1 8, .scope 7⟩, x⟩
  | .inva x => some ⟨0x63, 1, 15,
      ⟨.byDst, .none, [], .none, .kindSel, .zero, .zero, .scope 7⟩, x⟩
  | .wbr x => some ⟨0x64, 0, 15,
      ⟨.byDst, .none, [], .none, .kindSel, .sreg 4, .imm 1 8, .zero⟩, x⟩
  | .regr x => some ⟨0x65, 0, 15,
      ⟨.byDst, .none, [], .none, .kindSel, .g64, .src .w32, .zero⟩, x⟩
  | .pref x => some ⟨0x66, 0, 15,
      ⟨.byDst, .none, [], .none, .kindSel, .g64, .src .w32, .lay 1⟩, x⟩
  | .dalloc x => some ⟨0x67, 0, 15,
      ⟨.vec, .none, [], .none, .dst .w64, .src .w32, .zero, .zero⟩, x⟩
  | .dfree x => some ⟨0x67, 1, 15,
      ⟨.vec, .none, [], .none, .zero, .g64, .zero, .zero⟩, x⟩
  | .copy x => some ⟨0x68, 0, 7,
      ⟨.uni, .dir, [0, 1, 2], .at, .gaddrD, .gaddrS, .u, .atC⟩, x⟩
  | .copyt x => some ⟨0x68, 1, 7,
      ⟨.uni, .dir, [0, 1], .at, .recD, .recS, .spair, .atC⟩, x⟩
  | .copyl x => some ⟨0x68, 2, 7,
      ⟨.uni, .dir, [0, 1, 2], .at, .sreg 1, .u, .zero, .atC⟩, x⟩
  | .collAllReduce x => some ⟨0x69, 0, 15,
      ⟨.uni, .none, [], .none, .sreg 1, .zero, .zero, .u⟩, x⟩
  | .collReduceScatter x => some ⟨0x69, 1, 15,
      ⟨.uni, .none, [], .none, .sreg 1, .zero, .zero, .u⟩, x⟩
  | .collAllGather x => some ⟨0x69, 2, 15,
      ⟨.uni, .none, [], .none, .sreg 1, .zero, .zero, .u⟩, x⟩
  | .collAllToAll x => some ⟨0x69, 3, 15,
      ⟨.uni, .none, [], .none, .sreg 1, .zero, .zero, .u⟩, x⟩
  | .fput x => some ⟨0x6A, 0, 15,
      ⟨.uni, .any, [], .none, .gaddrD, .gaddrS, .u, .fabC⟩, x⟩
  | .fget x => some ⟨0x6A, 1, 15,
      ⟨.uni, .any, [], .none, .gaddrD, .gaddrS, .u, .fabC⟩, x⟩
  | .fatom x => some ⟨0x6B, 0, 15,
      ⟨.vec, .memory, [0, 1, 2], .none, .dst .ty, .g64, .fatomB, .fatomC⟩, x⟩
  | .mma x => some ⟨0x6C, 0, 3,
      ⟨.vec, .none, [], .kb, .zero, .vu, .vscale, .vscale⟩, x⟩
  | .mmaBmp x => some ⟨0x6C, 1, 3,
      ⟨.vec, .none, [], .kb, .zero, .vu, .vscale, .vscale⟩, x⟩
  | .mmas x => some ⟨0x6C, 2, 3,
      ⟨.vec, .none, [], .kb, .vmeta, .vu, .vscale, .vscale⟩, x⟩
  | .mcmp x => some ⟨0x6D, 0, 15,
      ⟨.vec, .none, [], .none, .dst .mcDst, .src .mcSrc, .ctype .mc, .zero⟩, x⟩
  | .mbmp x => some ⟨0x6D, 1, 15,
      ⟨.vec, .none, [], .none, .dst .w32, .src .mcSrc, .ctype .mc, .zero⟩, x⟩
  | .macc x => some ⟨0x6E, 0, 15,
      ⟨.vec, .float, [0, 2, 3], .none, .dst .w32, .imm 0 7, .src .w32, .src .w32⟩, x⟩
  | .mclr x => some ⟨0x6E, 1, 15,
      ⟨.vec, .none, [], .none, .zero, .imm 0 7, .zero, .zero⟩, x⟩
  | .mstep x => some ⟨0x6F, 0, 15,
      ⟨.uni, .none, [], .none, .sdst 2, .zero, .zero, .zero⟩, x⟩
  | .mstepSet x => some ⟨0x6F, 1, 15,
      ⟨.uni, .none, [], .none, .zero, .u, .u, .zero⟩, x⟩
  | .mtok x => some ⟨0x6F, 2, 15,
      ⟨.uni, .none, [], .none, .sdst 2, .zero, .zero, .zero⟩, x⟩
  | .mins x => some ⟨0x70, 0, 15,
      ⟨.vec, .none, [], .none, .key, .spair, .src .w32, .src .w32⟩, x⟩
  | .mrem x => some ⟨0x70, 1, 15,
      ⟨.vec, .none, [], .none, .key, .spair, .src .w32, .src .w32⟩, x⟩
  | .mdev x => some ⟨0x71, 0, 15,
      ⟨.uni, .none, [], .none, .zero, .spair, .u, .lay 1⟩, x⟩
  | .mcnt x => some ⟨0x71, 1, 15,
      ⟨.uni, .none, [], .none, .sdst 4, .spair, .zero, .zero⟩, x⟩
  | .mopen x => some ⟨0x72, 0, 15,
      ⟨.uni, .none, [], .none, .sdst 4, .spair, .u, .u⟩, x⟩
  | .mnext x => some ⟨0x72, 1, 15,
      ⟨.vec, .none, [], .none, .vdst 3, .sreg 4, .zero, .zero⟩, x⟩
  | .mclose x => some ⟨0x72, 2, 15,
      ⟨.uni, .none, [], .none, .zero, .sreg 4, .zero, .zero⟩, x⟩
  | .sqpush x => some ⟨0x73, 0, 15,
      ⟨.uni, .none, [], .none, .zero, .u, .u, .u⟩, x⟩
  | .sqpop x => some ⟨0x73, 1, 15,
      ⟨.vec, .none, [], .none, .vdst 1, .u, .zero, .zero⟩, x⟩
  | .sqflush x => some ⟨0x73, 2, 15,
      ⟨.uni, .none, [], .none, .sdst 1, .u, .zero, .zero⟩, x⟩
  | .rtrc x => some ⟨0x74, 0, 15,
      ⟨.vec, .none, [], .none, .imm 0 3, .vsrc 8, .spair, .u⟩, x⟩
  | .rres x => some ⟨0x74, 1, 15,
      ⟨.vec, .none, [], .none, .vdst 5, .imm 0 3, .zero, .zero⟩, x⟩
  | .rahc x => some ⟨0x75, 0, 15,
      ⟨.vec, .none, [], .none, .zero, .imm 0 3, .vu, .zero⟩, x⟩
  | .rsndInvalidateContext x => some ⟨0x75, 1, 15,
      ⟨.uni, .none, [], .none, .sdst 1, .u, .zero, .zero⟩, x⟩
  | .rbver x => some ⟨0x75, 2, 15,
      ⟨.uni, .none, [], .none, .sdst 1, .spair, .zero, .zero⟩, x⟩
  | .bar x => some ⟨0x76, 0, 15,
      ⟨.vec, .none, [], .none, .zero, .zero, .zero, .scopeIn 1 3⟩, x⟩
  | .dcinc x => some ⟨0x77, 0, 15,
      ⟨.uni, .none, [], .none, .zero, .u, .u, .scope 7⟩, x⟩
  | .dcdec x => some ⟨0x77, 1, 15,
      ⟨.uni, .none, [], .none, .zero, .u, .u, .scope 7⟩, x⟩
  | .dcwait x => some ⟨0x77, 2, 15,
      ⟨.uni, .none, [], .none, .zero, .u, .zero, .scope 7⟩, x⟩
  | .boinit x => some ⟨0x78, 0, 15,
      ⟨.uni, .none, [], .none, .zero, .u, .u, .scope 7⟩, x⟩
  | .boarrv x => some ⟨0x78, 1, 15,
      ⟨.uni, .none, [], .none, .sdst 1, .u, .u, .scope 7⟩, x⟩
  | .bowait x => some ⟨0x78, 2, 15,
      ⟨.uni, .none, [], .none, .zero, .u, .u, .scope 7⟩, x⟩
  | .botest x => some ⟨0x78, 3, 15,
      ⟨.either, .none, [], .none, .pdst, .u, .u, .scope 7⟩, x⟩
  | .fix x => some ⟨0x79, 0, 15,
      ⟨.vec, .none, [], .none, .zero, .zero, .zero, .scopeIn 2 6⟩, x⟩
  | .tickrd x => some ⟨0x7A, 0, 15,
      ⟨.either, .none, [], .none, .dst .w64, .imm 0 1, .zero, .zero⟩, x⟩
  | .lclk x => some ⟨0x7A, 1, 15,
      ⟨.vec, .none, [], .none, .dst .w32, .pair, .offs, .zero⟩, x⟩
  | .pcsel x => some ⟨0x7B, 0, 15,
      ⟨.uni, .none, [], .none, .sdst 2, .u, .u, .zero⟩, x⟩
  | .pcrd x => some ⟨0x7B, 1, 15,
      ⟨.uni, .none, [], .none, .sdst 8, .u, .zero, .zero⟩, x⟩
  | .tretRetry x => some ⟨0x7C, 0, 15,
      ⟨.uni, .none, [], .none, .zero, .imm 0 0, .zero, .zero⟩, x⟩
  | .tretSkip x => some ⟨0x7C, 0, 15,
      ⟨.uni, .none, [], .none, .zero, .imm 1 1, .zero, .zero⟩, x⟩
  | .tretHold x => some ⟨0x7C, 0, 15,
      ⟨.uni, .none, [], .none, .zero, .imm 2 2, .zero, .zero⟩, x⟩
  | .tretDiscard x => some ⟨0x7C, 0, 15,
      ⟨.uni, .none, [], .none, .zero, .imm 3 3, .zero, .zero⟩, x⟩
  | .grpctlQuery x => some ⟨0x7D, 0, 15,
      ⟨.uni, .none, [], .none, .sdst 1, .u, .u, .zero⟩, x⟩
  | .grprd x => some ⟨0x7D, 1, 15,
      ⟨.either, .none, [], .none, .dst .w32, .u, .zero, .zero⟩, x⟩
  | .grpwr x => some ⟨0x7D, 2, 15,
      ⟨.vec, .none, [], .none, .zero, .u, .vu, .zero⟩, x⟩
  | .ctxsv x => some ⟨0x7E, 0, 15,
      ⟨.uni, .none, [], .none, .zero, .spair, .zero, .zero⟩, x⟩
  | .ctxld x => some ⟨0x7E, 1, 15,
      ⟨.uni, .none, [], .none, .zero, .spair, .zero, .zero⟩, x⟩
  | .sysrd x => some ⟨0x7F, 0, 15,
      ⟨.uni, .none, [], .none, .sdst 2, .u, .zero, .zero⟩, x⟩
  | .syswr x => some ⟨0x7F, 1, 15,
      ⟨.uni, .none, [], .none, .zero, .u, .val64, .zero⟩, x⟩
  | .launch x => some ⟨0x7F, 2, 15,
      ⟨.uni, .none, [], .none, .sdst 1, .spair, .uNoEt, .zero⟩, x⟩
  | _ => none

/-- The literal word of a literal-form instruction (R45). -/
def Long.lit? (x : Long) : Option Word :=
  match x.form with
  | .literal w => some w
  | _ => none

/-- Field C, B, A and dst as numbers. -/
def Long.cN (x : Long) : Nat := x.c.toNat
def Long.bN (x : Long) : Nat := x.b.toNat
def Long.aN (x : Long) : Nat := x.a.toNat
def Long.dN (x : Long) : Nat := x.dst.toNat
def Long.tN (x : Long) : Nat := x.ty.toNat
def Long.mN (x : Long) : Nat := x.mods.toNat

/-- Type number of the destination (field B) and of the source (field C) of a conversion (R50). -/
def Long.dstType (x : Long) : Nat := x.bN % 32
def Long.srcType (x : Long) : Nat := x.cN % 32

/-- Registers a type number takes (R49): two for the 64-bit types. -/
def regsOfTypeNumber (t : Nat) : Nat := if t = 3 ∨ t = 7 ∨ t = 9 ∨ t = 13 then 2 else 1

/-- Registers an operand takes. For MCMP and MBMP the type fixes the group (R160). -/
def Wd.regs (w : Wd) (ts : TypeSet) (x : Long) : Nat :=
  match w with
  | .w32 => 1
  | .w64 => 2
  | .ty => ts.regs x.tN
  | .cnt => ts.regs x.tN
  | .f32 => 1
  | .stream => 1
  | .cvtDst => regsOfTypeNumber x.dstType
  | .cvtSrc => regsOfTypeNumber x.srcType
  | .mcSrc => if x.dstType = 20 then 1 else if x.dstType = 10 ∨ x.dstType = 11 then 4 else 2
  | .mcDst => if x.dstType = 10 ∨ x.dstType = 11 then 4 else 2

/-- Special registers held per lane (R32, R48). -/
def laneSpecial (n : Nat) : Bool :=
  n = 0 || n = 2 || n = 3 || n = 4 || (8 ≤ n && n ≤ 0x10)

/-- Special register numbers that R32 marks reserved. -/
def reservedSpecial (n : Nat) : Bool := n = 0x17 || 0x23 ≤ n

/-- Special registers that SETS may write (R32, R97). -/
def settableSpecial (n : Nat) : Bool :=
  n = 5 || n = 6 || n = 0x10 || (0x18 ≤ n && n ≤ 0x1F)

/-- A predicate code (R47). -/
def isPredCode (c : Nat) : Bool := c < 8 || (0x200 ≤ c && c ≤ 0x203)

/-- Whether an instruction of this shape is uniform (R48). -/
def Shape.uniform (sh : Shape) (x : Long) : Bool :=
  match sh.kind with
  | .vec => false
  | .uni => true
  | .either => 0x200 ≤ x.dN
  | .byDst => x.dN = 0x200
  | .setsKind => x.dN ≠ 0x190

/-- The space code of a memory instruction (R50). -/
def Long.space (x : Long) : Nat := x.mN % 4
/-- The order code of a memory instruction (R50). -/
def Long.order (x : Long) : Nat := x.mN / 4

/-- A failing condition gives its reason. -/
def need (ok : Bool) (r : Reject) : Option Reject := if ok then none else some r

/-- First failure of a list of checks. -/
def firstReject : List (Option Reject) → Option Reject
  | [] => none
  | some r :: _ => some r
  | none :: rest => firstReject rest

/-- Which classes of code a register-reading field takes: vector, constant, literal, special,
uniform. -/
structure Takes where
  v : Bool
  k : Bool
  l : Bool
  p : Bool
  s : Bool

/-- One operand field: its class is allowed, a uniform instruction reads only uniform sources (R48),
a literal stands only in the literal form (R45), the empty-trap bit stands on a register (R51), and a
register number is a multiple of `al` and leaves room for the operand (R19, R49). -/
def operandCheck (t : Takes) (uni : Bool) (x : Long) (al regs : Nat) (code : Nat) (et : Bool) :
    Option Reject :=
  match codeOf code with
  | .v n => firstReject [need t.v .operandCode, need (!uni) .uniformRule,
      need (n % al = 0) .alignment, need (n + regs ≤ 320) .operandCode]
  | .s n => firstReject [need t.s .operandCode, need (n % al = 0) .alignment,
      need (n + regs ≤ 512) .operandCode]
  | .const => firstReject [need t.k .operandCode, need (!et) .emptyTrap]
  | .lit => firstReject [need t.l .operandCode, need (!et) .emptyTrap,
      need x.lit?.isSome .literalUse]
  | .special n => firstReject [need t.p .operandCode, need (!et) .emptyTrap,
      need (!reservedSpecial n) .operandCode, need (!(uni && laneSpecial n)) .uniformRule]
  | .reserved => some .operandCode

/-- The CAS group of R196: twice the width of the type, aligned to its own size. -/
def casRegs (ts : TypeSet) (x : Long) : Nat := 2 * ts.regs x.tN

/-- Whether the global end of a copy stands in its dst or its A field (R272). -/
def copyGlobalDst (ts : TypeSet) (x : Long) (isFabricGet : Bool) : Bool :=
  match ts with
  | .dir => x.tN ≠ 0
  | _ => if isFabricGet then x.tN % 2 = 1 else true

def copyGlobalSrc (ts : TypeSet) (x : Long) (isFabricGet : Bool) : Bool :=
  match ts with
  | .dir => x.tN ≠ 1
  | _ => if isFabricGet then true else x.tN % 2 = 1

/-- A field that holds a layout or nothing carries no empty-trap bit (R51). -/
def plain (et ok : Bool) (r : Reject) : Option Reject :=
  firstReject [need (!et) .emptyTrap, need ok r]

/-- The check of one field (R43 to R51 and the entry's own list). `fget` marks FGET, whose ends are
exchanged (R280). -/
def Fld.check (f : Fld) (sh : Shape) (x : Long) (fget : Bool) (code : Nat) (et : Bool) :
    Option Reject :=
  let uni := sh.uniform x
  match f with
  | .zero => plain et (code = 0) .reservedBits
  | .branch => plain et true .reservedBits
  | .dst w =>
    let n := w.regs sh.tset x
    match codeOf code with
    | .v r => firstReject [need (sh.kind ≠ .uni) .uniformRule, need (r % n = 0) .alignment]
    | .s r => firstReject [need (sh.kind ≠ .vec) .uniformRule, need (r % n = 0) .alignment]
    | _ => some .operandCode
  | .pdst => firstReject [need (isPredCode code) .operandCode,
      need (sh.kind ≠ .vec || code < 8) .uniformRule]
  | .vote =>
    if x.mN = 2 then need (code < 0x140) .operandCode else need (code < 8) .operandCode
  | .sdst n =>
    match codeOf code with
    | .s r => firstReject [need (r % n = 0) .alignment, need (r + n ≤ 512) .operandCode]
    | _ => some .operandCode
  | .vdst n => need (code + n ≤ 320) .operandCode
  | .specDst =>
    match codeOf code with
    | .special n => need (settableSpecial n) .operandCode
    | _ => some .operandCode
  | .kindSel => need (code = 0 || code = 0x200) .operandCode
  | .src w => operandCheck ⟨true, true, true, true, true⟩ uni x (w.regs sh.tset x)
      (w.regs sh.tset x) code et
  | .data w => operandCheck ⟨true, true, true, true, true⟩ uni x (w.regs sh.tset x)
      (w.regs sh.tset x) code false
  | .key => operandCheck ⟨true, true, true, false, false⟩ uni x 1 1 code false
  | .g64 => operandCheck ⟨true, true, true, false, true⟩ uni x 2 2 code et
  | .pair => operandCheck ⟨true, false, false, false, true⟩ uni x 2 2 code et
  | .base =>
    if x.space = 0 then operandCheck ⟨true, true, true, false, true⟩ uni x 2 2 code et
    else operandCheck ⟨true, true, true, true, true⟩ uni x 1 1 code et
  | .casGroup =>
    operandCheck ⟨true, false, false, false, true⟩ uni x (casRegs sh.tset x) (casRegs sh.tset x) code et
  | .fatomB =>
    if x.cN / 8 % 32 = 12 then
      operandCheck ⟨true, false, false, false, true⟩ uni x (casRegs sh.tset x) (casRegs sh.tset x)
        code et
    else operandCheck ⟨true, true, true, true, true⟩ uni x (sh.tset.regs x.tN) (sh.tset.regs x.tN)
        code et
  | .u => operandCheck ⟨false, true, true, false, true⟩ false x 1 1 code et
  | .uNoEt => firstReject [need (!et) .emptyTrap,
      operandCheck ⟨false, true, true, false, true⟩ false x 1 1 code et]
  | .vu => operandCheck ⟨true, true, true, false, true⟩ uni x 1 1 code et
  | .val64 => operandCheck ⟨false, true, true, false, true⟩ uni x 2 2 code et
  | .spair => operandCheck ⟨false, false, false, false, true⟩ uni x 2 2 code et
  | .sreg n => operandCheck ⟨false, false, false, false, true⟩ uni x n n code et
  | .vsrc n => operandCheck ⟨true, false, false, false, false⟩ uni x 1 n code et
  | .vscale => operandCheck ⟨true, false, false, false, false⟩ uni x 1 1 code et
  | .vmeta => operandCheck ⟨true, false, false, false, false⟩ uni x 1 1 code false
  | .gaddrD =>
    if copyGlobalDst sh.tset x fget then
      operandCheck ⟨false, false, false, false, true⟩ false x 2 2 code false
    else operandCheck ⟨false, false, false, false, true⟩ false x 1 1 code false
  | .gaddrS =>
    if copyGlobalSrc sh.tset x fget then
      operandCheck ⟨false, false, false, false, true⟩ false x 2 2 code et
    else operandCheck ⟨false, true, true, false, true⟩ false x 1 1 code et
  | .recD =>
    if copyGlobalDst sh.tset x false then
      operandCheck ⟨false, false, false, false, true⟩ false x 2 4 code false
    else operandCheck ⟨false, false, false, false, true⟩ false x 1 3 code false
  | .recS =>
    if copyGlobalSrc sh.tset x false then
      operandCheck ⟨false, false, false, false, true⟩ false x 2 4 code et
    else operandCheck ⟨false, false, false, false, true⟩ false x 1 3 code et
  | .pred => plain et (isPredCode code && !(uni && code < 8)) .operandCode
  | .imm lo hi => plain et (0x140 + lo ≤ code && code ≤ 0x140 + hi) .operandCode
  | .spec =>
    match codeOf code with
    | .special n => firstReject [need (!et) .emptyTrap, need (!reservedSpecial n) .operandCode,
        need (!(uni && laneSpecial n)) .uniformRule]
    | _ => some .operandCode
  | .lay mask => plain et (code &&& (1023 - mask) = 0) .reservedBits
  | .scope mask => firstReject [plain et (code &&& (1023 - mask) = 0) .reservedBits,
      need (code % 8 ≠ 7) .modifier]
  | .scopeIn lo hi => firstReject [plain et (code < 8) .reservedBits,
      need (lo ≤ code && code ≤ hi) .modifier]
  | .atomC max =>
    let op := code / 8 % 32
    firstReject [plain et (code < 256) .reservedBits, need (code % 8 ≠ 7) .modifier,
      need (op ≤ max && (op < 9 || x.tN < 2)) .modifier]
  | .fatomC =>
    let op := code / 8 % 32
    firstReject [need (!et) .emptyTrap, need (code % 8 ≠ 7) .modifier, need (op ≤ 12) .modifier,
      need (x.tN ≠ 2 || op = 12) .typeCode]
  | .sfuRnd => firstReject [plain et (code < 8) .reservedBits, need (code ≤ 4) .modifier]
  | .ctype s =>
    let t := code % 32
    let mini := t = 16 || t = 17 || t = 18
    let listed := match s with
      | .cvt => t ≤ 19 && t ≠ 8 && t ≠ 9 && t ≠ 14 && t ≠ 15 || t = 20
      | .narrow => t = 0 || t = 1 || t = 4 || t = 5 || t = 10 || t = 11 || t = 20 || mini
      | .mc => t = 0 || t = 20 || t = 10 || t = 11 || mini
    firstReject [plain et (code < 256) .reservedBits, need listed .typeCode,
      need (mini || code / 32 = 0) .reservedBits]
  | .carry =>
    let ok := fun (p : Nat) => !uni || p < 4 || p = 7
    firstReject [plain et (code < 64) .reservedBits, need (ok (code % 8) && ok (code / 8)) .operandCode]
  | .offs => firstReject [need (!et) .emptyTrap, need (code ≠ 0x17F || x.lit?.isSome) .literalUse]
  | .atC =>
    if x.mN / 8 = 1 then operandCheck ⟨false, false, false, false, true⟩ false x 4 4 code et
    else operandCheck ⟨false, true, true, false, true⟩ false x 1 1 code et
  | .fabC =>
    if x.tN / 2 % 2 = 1 then operandCheck ⟨false, false, false, false, true⟩ false x 4 4 code et
    else operandCheck ⟨false, true, true, false, true⟩ false x 1 1 code et

/-- Whether a field reads the literal when it holds 0x17F (R45). -/
def Fld.readsLiteral (f : Fld) (code : Nat) : Bool :=
  code = 0x17F && match f with
    | .src _ | .data _ | .key | .g64 | .base | .fatomB | .u | .uNoEt | .vu | .val64 | .gaddrS
    | .offs | .atC | .fabC => true
    | _ => false

/-- The modifier bits (R50, R57). -/
def ModKind.check (k : ModKind) (m : Nat) : Option Reject :=
  match k with
  | .none => need (m = 0) .modifier
  | .sat => need (m % 8 = 0) .modifier
  | .rnd => need (m % 8 ≤ 4) .modifier
  | .rndOnly => need (m ≤ 4) .modifier
  | .below n => need (m < n) .modifier
  | .scan => need (m % 8 ≤ 5) .modifier
  | .free => Option.none
  | .mem sp od => need (sp.contains (m % 4) && od.contains (m / 4)) .modifier
  | .fence => need (m % 4 = 0 && m ≠ 0) .modifier
  | .kb => need (m % 4 = 0) .modifier
  | .at => need (m % 8 = 0) .modifier

/-- A guard code: a uniform instruction leaves bit 15 zero (R48), which also rules `.join` out
(R116). -/
def guardCheck (uni : Bool) (x : Long) : Option Reject :=
  need (!uni || x.guard.toNat < 4) .uniformRule

/-- The checks an entry adds to its row: MOVL (R95), SAFE (R118), LAUNCH (R306). -/
def entryCheck (i : Instr) : Option Reject :=
  match i with
  | .movl x => firstReject [need x.lit?.isSome .literalUse, need (x.bN = 0x17F) .operandCode]
  | .safe x => need x.safe .reservedBits
  | .launch x => need (x.et = 0) .emptyTrap
  | _ => none

/-- Whether the instruction is FGET, whose local end is its destination (R280). -/
def Instr.isFget : Instr → Bool
  | .fget _ => true
  | _ => false

/-- The checks of a long-form or literal-form instruction. -/
def Info.check (f : Info) (fget : Bool) : Option Reject :=
  let x := f.x
  let sh := f.shape
  firstReject [
    need (x.form ≠ .short && x.form ≠ .half) .notEncoded,
    need (x.mN &&& f.opmask = 0) .modifier,
    sh.mods.check x.mN,
    need (x.tN < sh.tset.size && (sh.types.isEmpty || sh.types.contains x.tN)) .typeCode,
    guardCheck (sh.uniform x) x,
    sh.dst.check sh x fget x.dN false,
    sh.a.check sh x fget x.aN (x.et.getLsbD 0),
    sh.b.check sh x fget x.bN (x.et.getLsbD 1),
    sh.c.check sh x fget x.cN (x.et.getLsbD 2),
    need (x.lit?.isNone || sh.dst.readsLiteral x.dN || sh.a.readsLiteral x.aN
      || sh.b.readsLiteral x.bN || sh.c.readsLiteral x.cN) .literalUse]

/-- The short operation number of a short-form instruction (R56). -/
def Instr.sop : Instr → Option (Nat × Short)
  | .iaddShort x => some (0x00, x)
  | .isubShort x => some (0x01, x)
  | .imulShort x => some (0x02, x)
  | .imulhI32Short x => some (0x03, x)
  | .imulhN32Short x => some (0x04, x)
  | .iminI32Short x => some (0x05, x)
  | .imaxI32Short x => some (0x06, x)
  | .iminN32Short x => some (0x07, x)
  | .imaxN32Short x => some (0x08, x)
  | .iaddSatI32Short x => some (0x09, x)
  | .isubSatI32Short x => some (0x0A, x)
  | .iabsShort x => some (0x0B, x)
  | .inegShort x => some (0x0C, x)
  | .iaddSatN32Short x => some (0x0D, x)
  | .isubSatN32Short x => some (0x0E, x)
  | .movShort x => some (0x0F, x)
  | .andShort x => some (0x10, x)
  | .orShort x => some (0x11, x)
  | .xorShort x => some (0x12, x)
  | .notShort x => some (0x13, x)
  | .shlShort x => some (0x14, x)
  | .shrlShort x => some (0x15, x)
  | .shraShort x => some (0x16, x)
  | .rotlShort x => some (0x17, x)
  | .popcShort x => some (0x18, x)
  | .clzShort x => some (0x19, x)
  | .ctzShort x => some (0x1A, x)
  | .brevShort x => some (0x1B, x)
  | .frndShort x => some (0x1C, x)
  | .ffracShort x => some (0x1D, x)
  | .fexpoShort x => some (0x1E, x)
  | .fscaleShort x => some (0x1F, x)
  | .faddShort x => some (0x20, x)
  | .fsubShort x => some (0x21, x)
  | .fmulShort x => some (0x22, x)
  | .fminShort x => some (0x23, x)
  | .fmaxShort x => some (0x24, x)
  | .fnegShort x => some (0x25, x)
  | .faddRzShort x => some (0x26, x)
  | .fmulRzShort x => some (0x27, x)
  | .faddH2Short x => some (0x28, x)
  | .fsubH2Short x => some (0x29, x)
  | .fmulH2Short x => some (0x2A, x)
  | .fminH2Short x => some (0x2B, x)
  | .fmaxH2Short x => some (0x2C, x)
  | .faddG2Short x => some (0x2D, x)
  | .fmulG2Short x => some (0x2E, x)
  | .fnegH2Short x => some (0x2F, x)
  | .cvtF32I32Short x => some (0x30, x)
  | .cvtI32F32Short x => some (0x31, x)
  | .cvtF32N32Short x => some (0x32, x)
  | .cvtN32F32Short x => some (0x33, x)
  | .cvtF32F16Short x => some (0x34, x)
  | .cvtF16F32Short x => some (0x35, x)
  | .cvtF32Bf16Short x => some (0x36, x)
  | .cvtBf16F32Short x => some (0x37, x)
  | .leaS1Short x => some (0x38, x)
  | .leaS2Short x => some (0x39, x)
  | .leaS3Short x => some (0x3A, x)
  | .leaS4Short x => some (0x3B, x)
  | .nopShort => some (0x3F, ⟨0, 0, 0, false, 0⟩)
  | _ => none

/-- Short operations that take one source, the entries marked (1) in R56. -/
def oneSource (sop : Nat) : Bool :=
  sop = 0x0B || sop = 0x0C || sop = 0x0F || sop = 0x13 || (0x18 ≤ sop && sop ≤ 0x1E) ||
  sop = 0x25 || sop = 0x2F || (0x30 ≤ sop && sop ≤ 0x37)

/-- An assigned short operation number (R56). -/
def sopAssigned (sop : Nat) : Bool := sop < 0x3C || sop = 0x3F

/-- A short-form instruction (R53): a one-source operation leaves A zero, a uniform destination
takes uniform sources, NOP leaves every field zero (R56). -/
def shortCheck (sop : Nat) (x : Short) : Option Reject :=
  if sop = 0x3F then
    need (x.b = 0 && x.a = 0 && x.dst = 0 && !x.safe && x.guard = 0) .reservedBits
  else
    let one := oneSource sop
    firstReject [need (!one || x.a = 0) .reservedBits,
      need (x.dst.toNat < 64 || (64 ≤ x.b.toNat && (one || 64 ≤ x.a.toNat))) .uniformRule]

/-- The banks a half touches (R55); NOP touches no register. -/
def Half.banks (h : Half) : List Nat :=
  if h.op = 0x3F then []
  else if h.b.toNat < 0x100 then [h.d.toNat % 4, h.b.toNat % 4] else [h.d.toNat % 4]

/-- One half of a pair (R54). -/
def Half.check (h : Half) : Option Reject :=
  firstReject [need (sopAssigned h.op.toNat) .unassigned,
    if h.op = 0x3F then need (h.d = 0 && h.b = 0) .reservedBits
    else need (h.b.toNat < 0x13F) .operandCode]

/-- A pair: both halves, and disjoint banks (R55). -/
def Pair.check (p : Pair) : Option Reject :=
  firstReject [p.h0.check, p.h1.check,
    need (p.h0.banks.all (fun n => !p.h1.banks.contains n)) .pairBanks]

/-- The first failing check of an instruction (R59 rows 2 to 4), none for an instruction that the
encoding admits. -/
def Instr.check (i : Instr) : Option Reject :=
  match i with
  | .pair p => p.check
  | _ =>
    match i.info with
    | some f => firstReject [f.check i.isFget, entryCheck i]
    | none =>
      match i.sop with
      | some (sop, x) => shortCheck sop x
      | none => some .notEncoded

/-- An instruction whose every field the encoding admits. -/
abbrev WellFormed (i : Instr) : Prop := i.check = none

end Sys2Proof
end

