-- ==== Sys2Proof/Decode.lean ====
section
/-! DEFINITION. From bits to instructions and back (R41, R42, R53, R54, R57). Decoding is total: every
pattern of bits is an instruction or is rejected by name (R58). The encoder after it is written from the
same fields. A word is read as a number; its fields are quotients and remainders. -/

namespace Sys2Proof

/-- Bits `lo + n - 1 .. lo` of a number. -/
def field (w lo n : Nat) : Nat := w / 2 ^ lo % 2 ^ n

/-- Length in bytes of the instruction whose first word is `w` (R41). -/
def lengthOf (w : Word) : Nat :=
  match w.toNat % 4 with
  | 0 => 4
  | 3 => 12
  | _ => 8

/-- The minor bits that select the operation of a major (R57); the others are modifier bits. -/
def opMask (major : Nat) : Nat :=
  match major with
  | 0x0C | 0x0D | 0x18 | 0x19 | 0x1A | 0x20 | 0x21 | 0x22 | 0x23 | 0x27 | 0x28 | 0x29 | 0x30
      | 0x31 | 0x32 | 0x33 | 0x34 | 0x35 | 0x53 | 0x58 | 0x59 | 0x5A | 0x5B | 0x5C | 0x5D
      | 0x5E | 0x5F | 0x60 | 0x61 => 0
  | 0x62 | 0x6C => 3
  | 0x00 | 0x01 | 0x02 | 0x04 | 0x06 | 0x68 => 7
  | 0x14 | 0x15 | 0x52 => 8
  | 0x50 | 0x51 => 12
  | 0x0E | 0x16 | 0x17 | 0x54 => 14
  | _ => 15

/-- The fields of a long form word (R42); `mask` marks the minor bits that select the operation. -/
def Long.ofBits (form : Form) (mask w : Nat) : Long where
  form := form
  ty := BitVec.ofNat 3 (w / 2 ^ 61)
  et := BitVec.ofNat 3 (w / 2 ^ 58)
  c := BitVec.ofNat 10 (w / 2 ^ 48)
  b := BitVec.ofNat 10 (w / 2 ^ 38)
  a := BitVec.ofNat 10 (w / 2 ^ 28)
  dst := BitVec.ofNat 10 (w / 2 ^ 18)
  safe := field w 17 1 = 1
  neg := field w 16 1 = 1
  guard := BitVec.ofNat 3 (w / 2 ^ 13)
  mods := BitVec.ofNat 4 (field w 9 4 - (field w 9 4 &&& mask))

/-- The TRET mode is an inline constant (R376). -/
def tretOf (x : Long) : Instr :=
  match x.aN with
  | 0x141 => .tretSkip x
  | 0x142 => .tretHold x
  | 0x143 => .tretDiscard x
  | _ => .tretRetry x

/-- R57: the operation that a major and the selecting bits of the minor name. -/
def selectLong (major sub : Nat) (x : Long) : Option Instr :=
  match major with
  | 0x00 => if sub = 0 then some (.iadd x) else none
  | 0x01 => if sub = 0 then some (.isub x) else none
  | 0x02 => if sub = 0 then some (.imul x) else none
  | 0x03 => if sub = 0 then some (.imulh x) else none
  | 0x04 => if sub = 0 then some (.imad x) else none
  | 0x05 => if sub = 0 then some (.imadw x) else none
  | 0x06 => match sub with
    | 0 => some (.iabs x)
    | 1 => some (.ineg x)
    | _ => none
  | 0x07 => match sub with
    | 0 => some (.imin x)
    | 1 => some (.imax x)
    | 2 => some (.iclamp x)
    | _ => none
  | 0x08 => if sub = 0 then some (.isad x) else none
  | 0x09 => match sub with
    | 0 => some (.iaddc x)
    | 1 => some (.isubb x)
    | _ => none
  | 0x0A => match sub with
    | 0 => some (.and x)
    | 1 => some (.or x)
    | 2 => some (.xor x)
    | 3 => some (.not x)
    | _ => none
  | 0x0B => match sub with
    | 0 => some (.shl x)
    | 1 => some (.shrl x)
    | 2 => some (.shra x)
    | 3 => some (.rotl x)
    | _ => none
  | 0x0C => if sub = 0 then some (.lop false x) else none
  | 0x0D => if sub = 0 then some (.lop true x) else none
  | 0x0E => if sub = 0 then some (.funnel x) else none
  | 0x0F => match sub with
    | 0 => some (.popc x)
    | 1 => some (.clz x)
    | 2 => some (.ctz x)
    | 3 => some (.brev x)
    | _ => none
  | 0x10 => if sub = 0 then some (.bfx x) else none
  | 0x11 => if sub = 0 then some (.bfi x) else none
  | 0x12 => if sub = 0 then some (.bfm x) else none
  | 0x13 => if sub = 0 then some (.prmb x) else none
  | 0x14 => if sub = 0 then some (.icmp x) else none
  | 0x15 => if sub = 0 then some (.fcmp x) else none
  | 0x16 => if sub = 0 then some (.sel x) else none
  | 0x17 => if sub = 0 then some (.cset x) else none
  | 0x18 => if sub = 0 then some (.pset x) else none
  | 0x19 => if sub = 0 then some (.lea x) else none
  | 0x1A => if sub = 0 then some (.leaw x) else none
  | 0x1B => match sub with
    | 0 => some (.mov x)
    | 1 => some (.movl x)
    | _ => none
  | 0x1C => match sub with
    | 0 => some (.movs x)
    | 1 => some (.sets x)
    | _ => none
  | 0x1D => match sub with
    | 0 => some (.pmovToRegister x)
    | 1 => some (.pmovToPredicates x)
    | _ => none
  | 0x1E => match sub with
    | 0 => some (.flgrd x)
    | 1 => some (.flgclr x)
    | _ => none
  | 0x1F => match sub with
    | 0 => some (.rng x)
    | 1 => some (.rngseed x)
    | _ => none
  | 0x20 => if sub = 0 then some (.fadd x) else none
  | 0x21 => if sub = 0 then some (.fsub x) else none
  | 0x22 => if sub = 0 then some (.fmul x) else none
  | 0x23 => if sub = 0 then some (.ffma x) else none
  | 0x24 => if sub = 0 then some (.fmin x) else none
  | 0x25 => if sub = 0 then some (.fmax x) else none
  | 0x26 => if sub = 0 then some (.fclamp x) else none
  | 0x27 => if sub = 0 then some (.frnd x) else none
  | 0x28 => if sub = 0 then some (.ffrac x) else none
  | 0x29 => if sub = 0 then some (.fscale x) else none
  | 0x2A => if sub = 0 then some (.fexpo x) else none
  | 0x2B => if sub = 0 then some (.fclass x) else none
  | 0x2C => if sub = 0 then some (.fneg x) else none
  | 0x30 => if sub = 0 then some (.cvt x) else none
  | 0x31 => if sub = 0 then some (.cvts x) else none
  | 0x32 => if sub = 0 then some (.pack x) else none
  | 0x33 => if sub = 0 then some (.unpk x) else none
  | 0x34 => if sub = 0 then some (.scenc x) else none
  | 0x35 => if sub = 0 then some (.scdec x) else none
  | 0x38 => match sub with
    | 0 => some (.rcp x)
    | 1 => some (.rsq x)
    | 2 => some (.sqrt x)
    | _ => none
  | 0x39 => match sub with
    | 0 => some (.exp2 x)
    | 1 => some (.log2 x)
    | _ => none
  | 0x3A => match sub with
    | 0 => some (.sin x)
    | 1 => some (.cos x)
    | 2 => some (.tanh x)
    | _ => none
  | 0x3B => match sub with
    | 0 => some (.idiv x)
    | 1 => some (.irem x)
    | _ => none
  | 0x40 => if sub = 0 then some (.bra x) else none
  | 0x41 => if sub = 0 then some (.brx x) else none
  | 0x42 => if sub = 0 then some (.call x) else none
  | 0x43 => if sub = 0 then some (.callx x) else none
  | 0x44 => if sub = 0 then some (.ret x) else none
  | 0x45 => if sub = 0 then some (.exit x) else none
  | 0x46 => if sub = 0 then some (.nop x) else none
  | 0x47 => if sub = 0 then some (.yield x) else none
  | 0x48 => if sub = 0 then some (.safe x) else none
  | 0x49 => if sub = 0 then some (.trap x) else none
  | 0x4A => if sub = 0 then some (.bkpt x) else none
  | 0x4B => match sub with
    | 0 => some (.sleep x)
    | 1 => some (.wake x)
    | _ => none
  | 0x4C => if sub = 0 then some (.tkwait x) else none
  | 0x50 => if sub = 0 then some (.vote x) else none
  | 0x51 => if sub = 0 then some (.shfl x) else none
  | 0x52 => if sub = 0 then some (.redux x) else none
  | 0x53 => if sub = 0 then some (.scan x) else none
  | 0x54 => if sub = 0 then some (.matchLanes x) else none
  | 0x55 => if sub = 0 then some (.partset x) else none
  | 0x56 => if sub = 0 then some (.elect x) else none
  | 0x57 => if sub = 0 then some (.lmask x) else none
  | 0x58 => if sub = 0 then some (.ld x) else none
  | 0x59 => if sub = 0 then some (.ldu x) else none
  | 0x5A => if sub = 0 then some (.ldt x) else none
  | 0x5B => if sub = 0 then some (.st x) else none
  | 0x5C => if sub = 0 then some (.stt x) else none
  | 0x5D => if sub = 0 then some (.gath x) else none
  | 0x5E => if sub = 0 then some (.scat x) else none
  | 0x5F => if sub = 0 then some (.atom x) else none
  | 0x60 => if sub = 0 then some (.red x) else none
  | 0x61 => if sub = 0 then some (.cas x) else none
  | 0x62 => if sub = 0 then some (.fence x) else none
  | 0x63 => match sub with
    | 0 => some (.invr x)
    | 1 => some (.inva x)
    | _ => none
  | 0x64 => if sub = 0 then some (.wbr x) else none
  | 0x65 => if sub = 0 then some (.regr x) else none
  | 0x66 => if sub = 0 then some (.pref x) else none
  | 0x67 => match sub with
    | 0 => some (.dalloc x)
    | 1 => some (.dfree x)
    | _ => none
  | 0x68 => match sub with
    | 0 => some (.copy x)
    | 1 => some (.copyt x)
    | 2 => some (.copyl x)
    | _ => none
  | 0x69 => match sub with
    | 0 => some (.collAllReduce x)
    | 1 => some (.collReduceScatter x)
    | 2 => some (.collAllGather x)
    | 3 => some (.collAllToAll x)
    | _ => none
  | 0x6A => match sub with
    | 0 => some (.fput x)
    | 1 => some (.fget x)
    | _ => none
  | 0x6B => if sub = 0 then some (.fatom x) else none
  | 0x6C => match sub with
    | 0 => some (.mma x)
    | 1 => some (.mmaBmp x)
    | 2 => some (.mmas x)
    | _ => none
  | 0x6D => match sub with
    | 0 => some (.mcmp x)
    | 1 => some (.mbmp x)
    | _ => none
  | 0x6E => match sub with
    | 0 => some (.macc x)
    | 1 => some (.mclr x)
    | _ => none
  | 0x6F => match sub with
    | 0 => some (.mstep x)
    | 1 => some (.mstepSet x)
    | 2 => some (.mtok x)
    | _ => none
  | 0x70 => match sub with
    | 0 => some (.mins x)
    | 1 => some (.mrem x)
    | _ => none
  | 0x71 => match sub with
    | 0 => some (.mdev x)
    | 1 => some (.mcnt x)
    | _ => none
  | 0x72 => match sub with
    | 0 => some (.mopen x)
    | 1 => some (.mnext x)
    | 2 => some (.mclose x)
    | _ => none
  | 0x73 => match sub with
    | 0 => some (.sqpush x)
    | 1 => some (.sqpop x)
    | 2 => some (.sqflush x)
    | _ => none
  | 0x74 => match sub with
    | 0 => some (.rtrc x)
    | 1 => some (.rres x)
    | _ => none
  | 0x75 => match sub with
    | 0 => some (.rahc x)
    | 1 => some (.rsndInvalidateContext x)
    | 2 => some (.rbver x)
    | _ => none
  | 0x76 => if sub = 0 then some (.bar x) else none
  | 0x77 => match sub with
    | 0 => some (.dcinc x)
    | 1 => some (.dcdec x)
    | 2 => some (.dcwait x)
    | _ => none
  | 0x78 => match sub with
    | 0 => some (.boinit x)
    | 1 => some (.boarrv x)
    | 2 => some (.bowait x)
    | 3 => some (.botest x)
    | _ => none
  | 0x79 => if sub = 0 then some (.fix x) else none
  | 0x7A => match sub with
    | 0 => some (.tickrd x)
    | 1 => some (.lclk x)
    | _ => none
  | 0x7B => match sub with
    | 0 => some (.pcsel x)
    | 1 => some (.pcrd x)
    | _ => none
  | 0x7C => if sub = 0 then some (tretOf x) else none
  | 0x7D => match sub with
    | 0 => some (.grpctlQuery x)
    | 1 => some (.grprd x)
    | 2 => some (.grpwr x)
    | _ => none
  | 0x7E => match sub with
    | 0 => some (.ctxsv x)
    | 1 => some (.ctxld x)
    | _ => none
  | 0x7F => match sub with
    | 0 => some (.sysrd x)
    | 1 => some (.syswr x)
    | 2 => some (.launch x)
    | _ => none
  | _ => none

/-- The long-form and literal-form words (R42, R57, R59). -/
def decodeLong (form : Form) (w : Nat) : Except Reject Instr :=
  let major := field w 2 7
  let mask := opMask major
  let x := Long.ofBits form mask w
  match selectLong major (field w 9 4 &&& mask) x with
  | none => .error .unassigned
  | some i =>
    match i.check with
    | some r => .error r
    | none => .ok i

/-- R56: the operation of a short operation number. -/
def selectShort (sop : Nat) (x : Short) : Option Instr :=
  match sop with
  | 0x00 => some (.iaddShort x)
  | 0x01 => some (.isubShort x)
  | 0x02 => some (.imulShort x)
  | 0x03 => some (.imulhI32Short x)
  | 0x04 => some (.imulhN32Short x)
  | 0x05 => some (.iminI32Short x)
  | 0x06 => some (.imaxI32Short x)
  | 0x07 => some (.iminN32Short x)
  | 0x08 => some (.imaxN32Short x)
  | 0x09 => some (.iaddSatI32Short x)
  | 0x0A => some (.isubSatI32Short x)
  | 0x0B => some (.iabsShort x)
  | 0x0C => some (.inegShort x)
  | 0x0D => some (.iaddSatN32Short x)
  | 0x0E => some (.isubSatN32Short x)
  | 0x0F => some (.movShort x)
  | 0x10 => some (.andShort x)
  | 0x11 => some (.orShort x)
  | 0x12 => some (.xorShort x)
  | 0x13 => some (.notShort x)
  | 0x14 => some (.shlShort x)
  | 0x15 => some (.shrlShort x)
  | 0x16 => some (.shraShort x)
  | 0x17 => some (.rotlShort x)
  | 0x18 => some (.popcShort x)
  | 0x19 => some (.clzShort x)
  | 0x1A => some (.ctzShort x)
  | 0x1B => some (.brevShort x)
  | 0x1C => some (.frndShort x)
  | 0x1D => some (.ffracShort x)
  | 0x1E => some (.fexpoShort x)
  | 0x1F => some (.fscaleShort x)
  | 0x20 => some (.faddShort x)
  | 0x21 => some (.fsubShort x)
  | 0x22 => some (.fmulShort x)
  | 0x23 => some (.fminShort x)
  | 0x24 => some (.fmaxShort x)
  | 0x25 => some (.fnegShort x)
  | 0x26 => some (.faddRzShort x)
  | 0x27 => some (.fmulRzShort x)
  | 0x28 => some (.faddH2Short x)
  | 0x29 => some (.fsubH2Short x)
  | 0x2A => some (.fmulH2Short x)
  | 0x2B => some (.fminH2Short x)
  | 0x2C => some (.fmaxH2Short x)
  | 0x2D => some (.faddG2Short x)
  | 0x2E => some (.fmulG2Short x)
  | 0x2F => some (.fnegH2Short x)
  | 0x30 => some (.cvtF32I32Short x)
  | 0x31 => some (.cvtI32F32Short x)
  | 0x32 => some (.cvtF32N32Short x)
  | 0x33 => some (.cvtN32F32Short x)
  | 0x34 => some (.cvtF32F16Short x)
  | 0x35 => some (.cvtF16F32Short x)
  | 0x36 => some (.cvtF32Bf16Short x)
  | 0x37 => some (.cvtBf16F32Short x)
  | 0x38 => some (.leaS1Short x)
  | 0x39 => some (.leaS2Short x)
  | 0x3A => some (.leaS3Short x)
  | 0x3B => some (.leaS4Short x)
  | 0x3F => some .nopShort
  | _ => none

/-- The fields of a short form word (R53). -/
def Short.ofBits (w : Nat) : Short where
  b := BitVec.ofNat 7 (w / 2 ^ 25)
  a := BitVec.ofNat 7 (w / 2 ^ 18)
  dst := BitVec.ofNat 7 (w / 2 ^ 11)
  safe := field w 10 1 = 1
  guard := BitVec.ofNat 2 (w / 2 ^ 8)

/-- A short form word (R53, R56). -/
def decodeShort (w : Nat) : Except Reject Instr :=
  match selectShort (field w 2 6) (Short.ofBits w) with
  | none => .error .unassigned
  | some i =>
    match i.check, (decide (i = .nopShort) && decide (w / 2 ^ 8 ≠ 0)) with
    | some r, _ => .error r
    | none, true => .error .reservedBits
    | none, false => .ok i

/-- The fields of a pair form word (R54). -/
def Pair.ofBits (w : Nat) : Pair where
  safe := field w 2 1 = 1
  h0 := { guard := BitVec.ofNat 2 (w / 2 ^ 3), op := BitVec.ofNat 6 (w / 2 ^ 5),
          d := BitVec.ofNat 8 (w / 2 ^ 11), b := BitVec.ofNat 9 (w / 2 ^ 19) }
  h1 := { guard := BitVec.ofNat 2 (w / 2 ^ 51), op := BitVec.ofNat 6 (w / 2 ^ 28),
          d := BitVec.ofNat 8 (w / 2 ^ 34), b := BitVec.ofNat 9 (w / 2 ^ 42) }

/-- A pair form word (R54, R55). -/
def decodePair (w : Nat) : Except Reject Instr :=
  if field w 53 11 ≠ 0 then .error .reservedBits
  else
    match (Pair.ofBits w).check with
    | some r => .error r
    | none => .ok (.pair (Pair.ofBits w))

/-- Two words as one number, the first at the lower address (R41). -/
def joinWords (w0 w1 : Word) : Nat := w0.toNat + 2 ^ 32 * w1.toNat

/-- The instruction at the head of a list of words, and the words after it (R41). -/
def decodeWords : List Word → Except Reject (Instr × List Word)
  | [] => .error .truncated
  | w0 :: rest =>
    match lengthOf w0 with
    | 4 => (decodeShort w0.toNat).map (·, rest)
    | 12 =>
      match rest with
      | w1 :: w2 :: rest => (decodeLong (.literal w2) (joinWords w0 w1)).map (·, rest)
      | _ => .error .truncated
    | _ =>
      match rest with
      | w1 :: rest =>
        if w0.toNat % 4 = 1 then (decodeLong .long (joinWords w0 w1)).map (·, rest)
        else (decodePair (joinWords w0 w1)).map (·, rest)
      | _ => .error .truncated

/-- Four bytes as a word, the first the least significant (R2). -/
def wordOfBytes (b0 b1 b2 b3 : Byte) : Word :=
  BitVec.ofNat 32 (b0.toNat + 2 ^ 8 * b1.toNat + 2 ^ 16 * b2.toNat + 2 ^ 24 * b3.toNat)

/-- A list of bytes as words (R2). -/
def wordsOfBytes : List Byte → List Word
  | b0 :: b1 :: b2 :: b3 :: rest => wordOfBytes b0 b1 b2 b3 :: wordsOfBytes rest
  | _ => []

/-- The instruction at the head of a list of bytes. -/
def decodeBytes (bs : List Byte) : Except Reject Instr := (decodeWords (wordsOfBytes bs)).map Prod.fst

/-- The n low bytes of a number, the least significant first (R2). -/
def bytesOfNat : Nat → Nat → List Byte
  | 0, _ => []
  | n + 1, w => BitVec.ofNat 8 w :: bytesOfNat n (w / 256)

/-- The instruction that the decoder reads from a word of the opcode table: the words in memory order,
every bit above `nbits` zero. -/
def decodeTableWord (nbits w : Nat) : Option Instr :=
  match decodeBytes (bytesOfNat 12 (w % 2 ^ nbits)) with
  | .ok i => some i
  | .error _ => none

/-! ## The encoder -/

/-- One bit as a number. -/
def bit (b : Bool) : Nat := if b then 1 else 0

/-- The two low words of a long or literal form (R42). -/
def Info.bits (f : Info) : Nat :=
  let x := f.x
  (if x.lit?.isSome then 3 else 1) + 2 ^ 2 * f.major + 2 ^ 9 * (f.minor + x.mN) +
  2 ^ 13 * x.guard.toNat + 2 ^ 16 * bit x.neg + 2 ^ 17 * bit x.safe + 2 ^ 18 * x.dN +
  2 ^ 28 * x.aN + 2 ^ 38 * x.bN + 2 ^ 48 * x.cN + 2 ^ 58 * x.et.toNat + 2 ^ 61 * x.tN

/-- A short form word (R53). -/
def Short.bits (sop : Nat) (x : Short) : Nat :=
  2 ^ 2 * sop + 2 ^ 8 * x.guard.toNat + 2 ^ 10 * bit x.safe + 2 ^ 11 * x.dst.toNat +
  2 ^ 18 * x.a.toNat + 2 ^ 25 * x.b.toNat

/-- A pair form word (R54). -/
def Pair.bits (p : Pair) : Nat :=
  2 + 2 ^ 2 * bit p.safe + 2 ^ 3 * p.h0.guard.toNat + 2 ^ 5 * p.h0.op.toNat +
  2 ^ 11 * p.h0.d.toNat + 2 ^ 19 * p.h0.b.toNat + 2 ^ 28 * p.h1.op.toNat +
  2 ^ 34 * p.h1.d.toNat + 2 ^ 42 * p.h1.b.toNat + 2 ^ 51 * p.h1.guard.toNat

/-- A 64-bit number as its two words. -/
def splitWords (w : Nat) : List Word := [BitVec.ofNat 32 w, BitVec.ofNat 32 (w / 2 ^ 32)]

/-- The words of an instruction; none for an event. -/
def encode (i : Instr) : List Word :=
  match i with
  | .pair p => splitWords p.bits
  | _ =>
    match i.info with
    | some f => splitWords f.bits ++ (match f.x.form with | .literal w => [w] | _ => [])
    | none =>
      match i.sop with
      | some (sop, x) => [BitVec.ofNat 32 (Short.bits sop x)]
      | none => []

end Sys2Proof
end

