-- ==== Sys2Proof/Machine/Event.lean ====
section
/-! DEFINITION. The events of the machine with what identifies each occurrence, the row of the opcode
table each one is, and what a step of the machine may be. -/

namespace Sys2Proof

/-- The source of a fill that the word's home sends; a fill that an owner sends names its agent. -/
def homeSource : Nat := 2 ^ 16

/-- One occurrence of an event. A word of memory is named by its physical byte address divided by 4,
a line by that address divided by 128, an agent by its identifier (R206), a core by its id (R354), a
warp by core id x 128 + berth (berth 64 is the handler window). -/
inductive Event where
  /-- R400 -/
  | reset
  /-- R15 -/
  | unitFence (unit : Nat)
  /-- R30 -/
  | scrub (core : Nat) (word : Nat) (bad : Bool)
  /-- R375: an uncorrectable error of a memory or die-cache word -/
  | memoryError (word : Nat)
  /-- R30, R216: an uncorrectable error of a word of a near cache -/
  | nearError (core : Nat) (word : Nat)
  /-- R292 -/
  | takeRecord (q : Nat)
  /-- R300 -/
  | blockPlacement (launch : Nat)
  /-- R301 -/
  | gangReservation (launch : Nat)
  /-- R301 -/
  | gangReservationPreempt (launch : Nat)
  /-- R303 -/
  | deadlineDecision (launch : Nat)
  /-- R383 -/
  | quantumEnd (block : Nat)
  /-- R383 -/
  | preemptionSave (block : Nat)
  /-- R301 -/
  | blockResume (block : Nat)
  /-- R304 -/
  | launchCompletion (launch : Nat)
  /-- R412 -/
  | preemptRequest (block : Nat) (hold : Bool)
  /-- R412 -/
  | resumeRequest (block : Nat)
  /-- R367 -/
  | trapEntry (core : Nat)
  /-- R374 -/
  | watchdog (warp : Nat)
  /-- R372 -/
  | debugHalt (warp : Nat)
  /-- R388 -/
  | shutterStop
  /-- R388 -/
  | shutterArm (value : DWord)
  /-- R389 -/
  | shutterResume (value : DWord)
  /-- R123 -/
  | sleepLimitExpiry (warp : Nat)
  /-- R123 -/
  | corePowerGate (core : Nat)
  /-- R215 -/
  | coreWake (core : Nat)
  /-- R115 -/
  | joinRelease (warp : Nat)
  /-- R183 -/
  | loadDataArrival (txn : Nat)
  /-- R107 -/
  | sfuResultLanding (core : Nat) (warp : Nat)
  /-- R127 -/
  | shflResultLanding (prod : Nat)
  /-- R344 -/
  | barrierRelease (warp : Nat)
  /-- R346 -/
  | fixPointApply (block : Nat)
  /-- R211 -/
  | read (word : Nat) (reader : Nat)
  /-- R211 -/
  | reg (word : Nat) (agent : Nat) (want : Bool) (order : Nat)
  /-- R211 -/
  | wb (word : Nat) (agent : Nat) (value : Word) (poisoned : Bool)
  /-- R211 -/
  | homeAtomic (txn : Nat) (lane : Nat)
  /-- R211 -/
  | drop (word : Nat) (agent : Nat) (reason : Nat)
  /-- R210 -/
  | ack (word : Nat) (agent : Nat) (clock : Nat)
  /-- R210 -/
  | fillData (word : Nat) (agent : Nat) (value : Word) (poisoned : Bool) (clock : Nat) (lost : Bool) (src : Nat)
  /-- R210 -/
  | fwd (word : Nat) (owner : Nat) (reader : Nat)
  /-- R210 -/
  | xfer (word : Nat) (owner : Nat) (taker : Nat) (want : Bool) (clock : Nat)
  /-- R210 -/
  | recall (line : Nat) (owner : Nat)
  /-- R210 -/
  | wbAck (word : Nat) (agent : Nat)
  /-- R210 -/
  | eviction (agent : Nat) (word : Nat)
  /-- R216 -/
  | forwardTimerExpiry (timer : Nat)
  /-- R215 -/
  | sleepBitBroadcast (core : Nat) (asleep : Bool)
  /-- R214 -/
  | engineWriteback (copy : Nat)
  /-- R310 -/
  | translationWalk (core : Nat) (ctx : Nat) (va : Nat)
  /-- R148 -/
  | matrixStep (core : Nat)
  /-- R135 -/
  | matrixCompletion (core : Nat)
  /-- R158 -/
  | matrixAutoRestart (warp : Nat)
  /-- R154 -/
  | pilotTokenCapture (cluster : Nat)
  /-- R154 -/
  | pilotTokenRelease (cluster : Nat)
  /-- R146 -/
  | multicastTimeout (core : Nat)
  /-- R249 -/
  | develop (cluster : Nat)
  /-- R251 -/
  | developCompletion (cluster : Nat)
  /-- R279 -/
  | copyAtRelease (copy : Nat)
  /-- R271 -/
  | copyStart (copy : Nat)
  /-- R276 -/
  | copyCompletion (copy : Nat)
  /-- R281 -/
  | portGrant (port : Nat)
  /-- R284 -/
  | assistAtomic (txn : Nat) (lane : Nat)
  /-- R284 -/
  | lockResend (txn : Nat) (lane : Nat)
  /-- R288 -/
  | collChunk (coll : Nat)
  /-- R288 -/
  | collPeerTimeout (coll : Nat)
  /-- R288 -/
  | collAbort (coll : Nat)
  /-- R288 -/
  | collCompletion (coll : Nat)
  /-- R289 -/
  | safelightHold (coll : Nat)
  /-- R289 -/
  | safelightRelease (coll : Nat)
  /-- R289 -/
  | holdLimitExpiry (coll : Nat)
  /-- R330 -/
  | rayStart (ray : Nat)
  /-- R324 -/
  | rayTraversal (ray : Nat)
  /-- R339 -/
  | dependenceCounterChange (ctr : Nat) (amount : Word) (sender : Nat)
  /-- R342 -/
  | barrierObjectUpdate (core : Nat) (addr : Nat) (arrive : Bool) (bytes : Word)
  /-- R353 -/
  | perfCounterSelectEffect (sel : Nat)
  /-- R354 -/
  | perfCounterLatch (prod : Nat)
  /-- R360 -/
  | tracerSample (sample : Nat)
  /-- R357 -/
  | replayRecord (core : Nat) (line : Nat) (writer : Nat) (clock : Nat) (rclk : Nat) (block : Nat) (ctxWarp : Nat) (tick : DWord)
  /-- R393 -/
  | ptpEventMessage (port : Nat) (kind : Nat)
  /-- R393 -/
  | ptpGeneralMessage (port : Nat) (kind : Nat)
  /-- R350 -/
  | ptpMeasurement (time : Nat)
  /-- R350 -/
  | tkctlStep (value : DWord)
  /-- R402 -/
  | throttleStepUp (junction : Nat) (inlet : Nat) (power : Nat)
  /-- R402 -/
  | throttleStepDown (junction : Nat) (inlet : Nat) (power : Nat)
  /-- R402 -/
  | thermalTrip (junction : Nat)
  /-- R398 -/
  | tamperAlarm (cause : Nat)
  /-- R399 -/
  | laneRetrain (port : Nat)
  /-- R392: `port` is the Quayline port that the request comes in by (R8) -/
  | inboundRead (node : Nat) (port : Nat) (addr : Nat) (tag : Nat)
  /-- R392 -/
  | inboundWrite (node : Nat) (port : Nat) (addr : Nat) (size : Nat) (value : DWord)
  /-- R392 -/
  | inboundAtomic (node : Nat) (port : Nat) (addr : Nat) (size : Nat) (op : Nat) (value : DWord) (cmp : DWord) (tag : Nat)
  /-- R392 -/
  | mgmtRegisterAccess (node : Nat) (number : Nat) (write : Bool) (value : DWord) (tag : Nat)
  /-- R392 -/
  | mgmtCounterWrite (node : Nat) (ctr : Nat) (value : Word)
  /-- R373 -/
  | dacdataRead (node : Nat) (tag : Nat)
  /-- R373 -/
  | dacdataWrite (node : Nat) (value : Word)
  /-- R373 -/
  | dacctlQuery (node : Nat) (value : DWord)
  /-- R373 -/
  | dacctlStop (node : Nat) (value : DWord)
  /-- R373 -/
  | dacctlResume (node : Nat) (value : DWord)
  /-- R373 -/
  | dacctlStep (node : Nat) (value : DWord)
  /-- R373 -/
  | dacctlExit (node : Nat) (value : DWord)
  /-- R407 -/
  | linkHold (src : Nat) (dst : Nat) (origin : Nat)
  /-- R407 -/
  | linkRelease (src : Nat) (dst : Nat) (origin : Nat)
  /-- R407 -/
  | linkStatus (src : Nat) (dst : Nat) (tag : Nat)
  /-- R177 -/
  | biasFlipToHost (value : DWord)
  /-- R177 -/
  | biasFlipToDevice (value : DWord)
  /-- R177 -/
  | biasAckTimeout
  /-- R156 -/
  | mtkcfgWrite (die : Nat) (value : DWord)
  /-- R308 -/
  | xlrootWrite (ctx : Nat) (value : DWord)
  /-- R316 -/
  | xlinvPage (value : DWord)
  /-- R316 -/
  | xlinvContext (value : DWord)
  /-- R316 -/
  | xlinvAll (value : DWord)
  /-- R361 -/
  | rpctlWrite (value : DWord)
  /-- R359 -/
  | trctlWrite (value : DWord)
  /-- R386 -/
  | elctlWrite (value : DWord)
  /-- R396 -/
  | mailboxAttest (node : Nat)
  /-- R397 -/
  | mailboxUnlock (node : Nat)
  /-- R386 -/
  | systemRegisterWrite (number : Nat) (value : DWord)
  /-- R26 -/
  | producerResultArrival (prod : Nat)
  /-- R265 -/
  | sqpushRowsWritten (cluster : Nat)
  /-- R177 -/
  | biasHostAcknowledge
  /-- R284 -/
  | lineLockRequest (node : Nat) (line : Nat)
  /-- R284 -/
  | lineUnlock (node : Nat) (line : Nat)
  /-- R393 -/
  | measurementsMissed
  /-- R395 -/
  | recoveryImageLoad (node : Nat) (accepted : Bool) (svn : Nat) (digest : Nat)
  /-- R402 -/
  | lowInletTemperature (inlet : Nat)
  deriving DecidableEq, Repr, Inhabited

/-- The row of the opcode table that an event is. -/
def Event.row : Event → Instr
  | .reset => .reset
  | .unitFence _ => .unitFence
  | .scrub _ _ _ => .scrub
  | .memoryError _ => .scrub
  | .nearError _ _ => .scrub
  | .takeRecord _ => .takeRecord
  | .blockPlacement _ => .blockPlacement
  | .gangReservation _ => .gangReservation
  | .gangReservationPreempt _ => .gangReservationPreempt
  | .deadlineDecision _ => .deadlineDecision
  | .quantumEnd _ => .quantumEnd
  | .preemptionSave _ => .preemptionSave
  | .blockResume _ => .blockResume
  | .launchCompletion _ => .launchCompletion
  | .preemptRequest _ _ => .preemptRequest
  | .resumeRequest _ => .resumeRequest
  | .trapEntry _ => .trapEntry
  | .watchdog _ => .watchdog
  | .debugHalt _ => .debugHalt
  | .shutterStop => .shutterStop
  | .shutterArm _ => .shutterArm
  | .shutterResume _ => .shutterResume
  | .sleepLimitExpiry _ => .sleepLimitExpiry
  | .corePowerGate _ => .corePowerGate
  | .coreWake _ => .coreWake
  | .joinRelease _ => .joinRelease
  | .loadDataArrival _ => .loadDataArrival
  | .sfuResultLanding _ _ => .sfuResultLanding
  | .shflResultLanding _ => .shflResultLanding
  | .barrierRelease _ => .barrierRelease
  | .fixPointApply _ => .fixPointApply
  | .read _ _ => .read
  | .reg _ _ _ _ => .reg
  | .wb _ _ _ _ => .wb
  | .homeAtomic _ _ => .homeAtomic
  | .drop _ _ _ => .drop
  | .ack _ _ _ => .ack
  | .fillData _ _ _ _ _ _ _ => .fillData
  | .fwd _ _ _ => .fwd
  | .xfer _ _ _ _ _ => .xfer
  | .recall _ _ => .recall
  | .wbAck _ _ => .wbAck
  | .eviction _ _ => .eviction
  | .forwardTimerExpiry _ => .forwardTimerExpiry
  | .sleepBitBroadcast _ _ => .sleepBitBroadcast
  | .engineWriteback _ => .engineWriteback
  | .translationWalk _ _ _ => .translationWalk
  | .matrixStep _ => .matrixStep
  | .matrixCompletion _ => .matrixCompletion
  | .matrixAutoRestart _ => .matrixAutoRestart
  | .pilotTokenCapture _ => .pilotTokenCapture
  | .pilotTokenRelease _ => .pilotTokenRelease
  | .multicastTimeout _ => .multicastTimeout
  | .develop _ => .develop
  | .developCompletion _ => .developCompletion
  | .copyAtRelease _ => .copyAtRelease
  | .copyStart _ => .copyStart
  | .copyCompletion _ => .copyCompletion
  | .portGrant _ => .portGrant
  | .assistAtomic _ _ => .assistAtomic
  | .lockResend _ _ => .lockResend
  | .collChunk _ => .collChunk
  | .collPeerTimeout _ => .collPeerTimeout
  | .collAbort _ => .collAbort
  | .collCompletion _ => .collCompletion
  | .safelightHold _ => .safelightHold
  | .safelightRelease _ => .safelightRelease
  | .holdLimitExpiry _ => .holdLimitExpiry
  | .rayStart _ => .rayStart
  | .rayTraversal _ => .rayTraversal
  | .dependenceCounterChange _ _ _ => .dependenceCounterChange
  | .barrierObjectUpdate _ _ _ _ => .barrierObjectUpdate
  | .perfCounterSelectEffect _ => .perfCounterSelectEffect
  | .perfCounterLatch _ => .perfCounterLatch
  | .tracerSample _ => .tracerSample
  | .replayRecord _ _ _ _ _ _ _ _ => .replayRecord
  | .ptpEventMessage _ _ => .ptpEventMessage
  | .ptpGeneralMessage _ _ => .ptpGeneralMessage
  | .ptpMeasurement _ => .ptpMeasurement
  | .tkctlStep _ => .tkctlStep
  | .throttleStepUp _ _ _ => .throttleStepUp
  | .throttleStepDown _ _ _ => .throttleStepDown
  | .thermalTrip _ => .thermalTrip
  | .tamperAlarm _ => .tamperAlarm
  | .laneRetrain _ => .laneRetrain
  | .inboundRead _ _ _ _ => .inboundRead
  | .inboundWrite _ _ _ _ _ => .inboundWrite
  | .inboundAtomic _ _ _ _ _ _ _ _ => .inboundAtomic
  | .mgmtRegisterAccess _ _ _ _ _ => .mgmtRegisterAccess
  | .mgmtCounterWrite _ _ _ => .mgmtCounterWrite
  | .dacdataRead _ _ => .dacdataRead
  | .dacdataWrite _ _ => .dacdataWrite
  | .dacctlQuery _ _ => .dacctlQuery
  | .dacctlStop _ _ => .dacctlStop
  | .dacctlResume _ _ => .dacctlResume
  | .dacctlStep _ _ => .dacctlStep
  | .dacctlExit _ _ => .dacctlExit
  | .linkHold _ _ _ => .linkHold
  | .linkRelease _ _ _ => .linkRelease
  | .linkStatus _ _ _ => .linkStatus
  | .biasFlipToHost _ => .biasFlipToHost
  | .biasFlipToDevice _ => .biasFlipToDevice
  | .biasAckTimeout => .biasAckTimeout
  | .mtkcfgWrite _ _ => .mtkcfgWrite
  | .xlrootWrite _ _ => .xlrootWrite
  | .xlinvPage _ => .xlinvPage
  | .xlinvContext _ => .xlinvContext
  | .xlinvAll _ => .xlinvAll
  | .rpctlWrite _ => .rpctlWrite
  | .trctlWrite _ => .trctlWrite
  | .elctlWrite _ => .elctlWrite
  | .mailboxAttest _ => .mailboxAttest
  | .mailboxUnlock _ => .mailboxUnlock
  | .systemRegisterWrite _ _ => .systemRegisterWrite
  | .producerResultArrival _ => .producerResultArrival
  | .sqpushRowsWritten _ => .sqpushRowsWritten
  | .biasHostAcknowledge => .biasHostAcknowledge
  | .lineLockRequest _ _ => .lineLockRequest
  | .lineUnlock _ _ => .lineUnlock
  | .measurementsMissed => .measurementsMissed
  | .recoveryImageLoad _ _ _ _ => .recoveryImageLoad
  | .lowInletTemperature _ => .lowInletTemperature

/-- What moves next. The manual leaves open in which order the agents of the package move (R426); a
state carries the next choice as plain data.
`deliver k`: the k-th message or landing in flight arrives; `event e`: the event e comes about, or an
input e from outside arrives; `issue core part`: a partition of a core has an issue cycle (R113);
`cycle`: the clocks advance by one. -/
inductive Turn where
  | deliver (k : Nat)
  | event (e : Event)
  | issue (core part : Nat)
  | cycle
  deriving DecidableEq, Repr, Inhabited

end Sys2Proof
end

