-- ==== Sys2Proof/Config.lean ====
section
/-! DEFINITION. What an implementation fixes and the values the manual leaves open. An open value is an
opaque constant: nothing here or in any proof can see what it is. Which units a package has its capability
registers say, which are state; State.reset is that of a PF-KF9-M with every unit present: DESIGN CHOICE,
log entry 1. -/

namespace Sys2Proof.Config

/-! ## Open values -/

/-- What moves at the n-th step (R426). Reading: log entry 16, DESIGN CHOICE, log entry 20, DESIGN CHOICE. -/
opaque nextTurn : Nat → Turn

/-- The n-th open value: data that another package answers with, a report signed by the key store, and
the like. Reading: log entry 7, DESIGN CHOICE. -/
opaque freeValue : Nat → DWord

/-- Which neighbour a tie takes in a format without mantissa bits: R71 names "the one with mantissa bit
0", and neither has one. The argument is the grid number of the neighbour nearer zero.
Reading: log entry 18, DESIGN CHOICE. -/
opaque tieWithoutMantissa : Nat → Bool

/-- What a special register that the handler window does not have reads there: its number (log entry 4). -/
opaque handlerSpecial : Nat → DWord

/-- Where the dispatcher puts the parts of a block in a core's store, and its warps in the berths: a wish for
the n-th part placed, taken where it is possible (log entry 11). -/
opaque placeWish : Nat → Nat

/-- The device's serial number (R396). -/
opaque serial : DWord

/-- Words of the digests of the image headers that the boot ROM accepted: the boot image 0, the running image 1
(R395, R396). -/
opaque imageDigest : Nat → Nat → Word

/-- The fused minimum of an image's security version (R395). -/
opaque minimumVersion : Nat

/-- Where in the segment that a ray shares with a triangle in its own plane the hit lies, in parts of 2^64 of
it: the words of the ray and of the primitive as one number (R322 states no point).
Reading: log entry 19, DESIGN CHOICE. -/
opaque coplanarPoint : Nat → DWord

/-- Which of the records that wait a traversal visits next, by the words of the ray and of its root record, those that
it has read, and its bound: results repeat while prediction is off (R324). Reading: log entry 59, DEDUCED. -/
opaque traversalPick : List Word → Nat

/-! ## The package -/

/-- CAPSUM (R17) of a part with 16 ports, 12 stacks, given its LPCAP, clusters, cores and VARIANT; stepping 0. -/
def capsum (lpcap clusters cores variant : Nat) : DWord := BitVec.ofNat 64
  (16 * 2 ^ 48 + lpcap * 2 ^ 40 + 12 * 2 ^ 36 + clusters * 2 ^ 26 + cores * 2 ^ 16 + variant * 2 ^ 8)

/-- n entries of a table from key k on, all with value v. -/
def fill (v : DWord) : Nat → Nat → List (Nat × DWord)
  | _, 0 => []
  | k, n + 1 => (k, v) :: fill v (k + 1) n

/-- Capability registers (R16 to R18) of a part with every stack, slice and port, and on each die the first n
clusters of 16 cores. -/
def capabilities (lpcap variant n : Nat) : List (Nat × DWord) :=
  [(0x100, capsum lpcap (4 * n) (64 * n) variant)] ++
  fill (BitVec.ofNat 64 (2 ^ n - 1 + 7 * 2 ^ 8 + 0xFFFF * 2 ^ 11)) 0x101 4 ++
  fill 0xFFFF 0x110 n ++ fill 0 (0x110 + n) (8 - n) ++ fill 0xFFFF 0x118 n ++ fill 0 (0x118 + n) (8 - n) ++
  fill 0xFFFF 0x120 n ++ fill 0 (0x120 + n) (8 - n) ++ fill 0xFFFF 0x128 n ++ fill 0 (0x128 + n) (8 - n) ++
  fill 0xFFFFFFFFFFFFFFFF 0x130 12 ++ fill 0xFFFFFF 0x140 2

/-- The products of the scope chapter (R10, R11, R17): PF-KF9-P, PF-KF9-P448, PF-KF9-M, PF-KF9-MX. -/
def partP : List (Nat × DWord) := capabilities 0 1 8
def partP448 : List (Nat × DWord) := capabilities 0 2 7
def partM : List (Nat × DWord) := capabilities 12 3 8
def partMX : List (Nat × DWord) := capabilities 24 4 8

/-- The Quayline node that the management controller names as host (R391): DESIGN CHOICE, log entry 2. -/
def hostNode : Nat := 1

/-- The node identifier of this package (R390): DESIGN CHOICE, log entry 2. -/
def selfNode : Nat := 2

end Sys2Proof.Config
end

