-- ==== Sys2Proof/Machine/Num.lean ====
section
/-! DEFINITION. Exact numbers, the number formats and the one rounding procedure (R62 to R75, R79).
A value is exact, a sign with num / den x 2^exp, until `roundTo` narrows it once. -/

namespace Sys2Proof.Machine

/-! ## Flags (R34) -/

/-- A set of FLAGS bits (R34). -/
abbrev FlagMask := BitVec 6
/-- bit 0 -/
def fInvalid : FlagMask := 1
/-- bit 1 -/
def fDivZero : FlagMask := 2
/-- bit 2 -/
def fOverflow : FlagMask := 4
/-- bit 3 -/
def fUnderflow : FlagMask := 8
/-- bit 4 -/
def fInexact : FlagMask := 16
/-- bit 5 -/
def fSaturated : FlagMask := 32

/-- The flags m when b holds. -/
def flagIf (b : Bool) (m : FlagMask) : FlagMask := if b then m else 0

/-! ## Integers (R60, R62) -/

/-- The low w bits of x, read as a signed number (R60). -/
def sextNat (w x : Nat) : Int :=
  let y := x % 2 ^ w
  if 2 ^ w ≤ 2 * y then (y : Int) - 2 ^ w else y

/-- x mod 2^w (R60). -/
def wrapInt (w : Nat) (x : Int) : Nat := (x % 2 ^ w).toNat

/-- An integer type: its width and its signedness (R62). -/
structure IntType where
  width  : Nat
  signed : Bool
  deriving DecidableEq, Repr, Inhabited

/-- Smallest value of an integer type. -/
def IntType.min (t : IntType) : Int := if t.signed then -2 ^ (t.width - 1) else 0
/-- Largest value of an integer type. -/
def IntType.max (t : IntType) : Int := if t.signed then 2 ^ (t.width - 1) - 1 else 2 ^ t.width - 1
/-- The value of the low bits of a register (R62). -/
def IntType.read (t : IntType) (x : Nat) : Int :=
  if t.signed then sextNat t.width x else ((x % 2 ^ t.width : Nat) : Int)
/-- The bits a register of `bits` bits receives: the value wrapped to the type's width, then its sign
or zeros above (R62). -/
def IntType.write (t : IntType) (bits : Nat) (x : Int) : Nat :=
  wrapInt bits (t.read (wrapInt t.width x))
/-- `clamp` (R60). -/
def clampInt (x lo hi : Int) : Int := if x < lo then lo else if hi < x then hi else x
/-- R86's narrowing: wrapped, or clamped with the saturated flag. -/
def IntType.narrow (t : IntType) (bits : Nat) (sat : Bool) (x : Int) : Nat × FlagMask :=
  if sat then
    let y := clampInt x t.min t.max
    (t.write bits y, flagIf (y ≠ x) fSaturated)
  else (t.write bits x, 0)

/-- The integer types of R49's integer set. -/
def intTypeOf (code : Nat) : IntType :=
  match code with
  | 0 => ⟨32, true⟩
  | 1 => ⟨32, false⟩
  | 2 => ⟨64, true⟩
  | 3 => ⟨64, false⟩
  | 4 => ⟨16, true⟩
  | 5 => ⟨16, false⟩
  | 6 => ⟨8, true⟩
  | _ => ⟨8, false⟩

/-! ## Exact values -/

/-- An exact value: (-1)^neg x num / den x 2^exp. Zero keeps its sign (R75). -/
structure Exact where
  neg : Bool
  num : Nat
  den : Nat
  exp : Int
  deriving DecidableEq, Repr, Inhabited

/-- An integer as an exact value. -/
def Exact.ofInt (x : Int) : Exact := ⟨x < 0, x.natAbs, 1, 0⟩

/-- num x 2^k as a natural number, for k not below zero. -/
def shiftUp (n : Nat) (k : Int) : Nat := n * 2 ^ k.toNat

/-- The signed numerator of x at the exponent e, for e not above x's. -/
def Exact.numAt (x : Exact) (e : Int) : Int :=
  let n := shiftUp x.num (x.exp - e)
  if x.neg then -(n : Int) else n

/-- Exact product; a zero product carries the exclusive OR of the signs (R75). -/
def Exact.mul (x y : Exact) : Exact := ⟨x.neg != y.neg, x.num * y.num, x.den * y.den, x.exp + y.exp⟩

/-- Exact quotient by a nonzero y. -/
def Exact.div (x y : Exact) : Exact := ⟨x.neg != y.neg, x.num * y.den, x.den * y.num, x.exp - y.exp⟩

/-- Exact sum; a sum that is exactly zero takes the sign `zeroNeg`, and equal signs keep theirs (R75). -/
def Exact.add (x y : Exact) (zeroNeg : Bool) : Exact :=
  let e := min x.exp y.exp
  let n := x.numAt e * y.den + y.numAt e * x.den
  let neg := if n = 0 then (if x.neg = y.neg then x.neg else zeroNeg) else decide (n < 0)
  ⟨neg, n.natAbs, x.den * y.den, e⟩

/-- -x. -/
def Exact.negate (x : Exact) : Exact := { x with neg := !x.neg }

/-- Whether the value is zero. -/
def Exact.isZero (x : Exact) : Bool := x.num = 0

/-- floor(|x| / 2^e) with the remainder and its divisor. -/
def Exact.quantum (x : Exact) (e : Int) : Nat × Nat × Nat :=
  let n := shiftUp x.num (x.exp - e)
  let d := x.den * 2 ^ (e - x.exp).toNat
  (n / d, n % d, d)

/-- floor(log2 |x|) of a nonzero x. -/
def Exact.log2 (x : Exact) : Int :=
  let l : Int := (Nat.log2 x.num : Int) - Nat.log2 x.den
  let below := if 0 ≤ l then decide (x.num < x.den * 2 ^ l.toNat)
    else decide (x.num * 2 ^ (-l).toNat < x.den)
  (if below then l - 1 else l) + x.exp

/-- x < y as exact numbers; -0 and +0 are equal. -/
def Exact.lt (x y : Exact) : Bool :=
  let e := min x.exp y.exp
  x.numAt e * y.den < y.numAt e * x.den

/-- x = y as exact numbers. -/
def Exact.eq (x y : Exact) : Bool :=
  let e := min x.exp y.exp
  x.numAt e * y.den = y.numAt e * x.den

/-- floor(x). -/
def Exact.floor (x : Exact) : Int :=
  let (q, r, _) := x.quantum 0
  if x.neg then (if r = 0 then -(q : Int) else -(q : Int) - 1) else q

/-! ## Formats (R64, R67, R68, R70) -/

/-- R68's policies. -/
inductive Policy where
  | ieee | finite | none
  deriving DecidableEq, Repr, Inhabited

/-- A float format: sign bit present, exponent bits, mantissa bits, bias and policy (R64, R67). -/
structure Fmt where
  sign   : Bool
  e      : Nat
  m      : Nat
  bias   : Nat
  policy : Policy
  deriving DecidableEq, Repr, Inhabited

/-- `.f64` -/
def fmtF64 : Fmt := ⟨true, 11, 52, 1023, .ieee⟩
/-- `.f32` -/
def fmtF32 : Fmt := ⟨true, 8, 23, 127, .ieee⟩
/-- `.f16` -/
def fmtF16 : Fmt := ⟨true, 5, 10, 15, .ieee⟩
/-- `.bf16` -/
def fmtBf16 : Fmt := ⟨true, 8, 7, 127, .ieee⟩
/-- `.e5m3` (R70) -/
def fmtE5m3 : Fmt := ⟨false, 5, 3, 15, .finite⟩

/-- Bits of a magnitude. -/
def Fmt.magBits (f : Fmt) : Nat := f.e + f.m
/-- Bits of a code. -/
def Fmt.width (f : Fmt) : Nat := f.magBits + (if f.sign then 1 else 0)
/-- Whether the format has an infinity (R68). -/
def Fmt.hasInf (f : Fmt) : Bool := f.policy = .ieee && f.m ≠ 0
/-- Whether the format has a NaN (R68). -/
def Fmt.hasNaN (f : Fmt) : Bool := f.policy ≠ .none
/-- The largest finite magnitude (R68). -/
def Fmt.maxMag (f : Fmt) : Nat :=
  match f.policy with
  | .ieee => (2 ^ f.e - 1) * 2 ^ f.m - 1
  | .finite => 2 ^ f.magBits - 2
  | .none => 2 ^ f.magBits - 1
/-- The exponent of the smallest normal, or of 2^(1 - bias) where there is none (R67, R79). -/
def Fmt.emin (f : Fmt) : Int := 1 - (f.bias : Int)
/-- A magnitude with its sign. -/
def Fmt.code (f : Fmt) (neg : Bool) (mag : Nat) : Nat :=
  if f.sign && neg then 2 ^ f.magBits + mag else mag
/-- Infinity of a sign (R64). -/
def Fmt.inf (f : Fmt) (neg : Bool) : Nat := f.code neg ((2 ^ f.e - 1) * 2 ^ f.m)
/-- The canonical NaN with a sign (R64, R68); +0 where the format has none (R74). -/
def Fmt.nan (f : Fmt) (neg : Bool) : Nat :=
  match f.policy with
  | .none => 0
  | .finite => f.code neg (2 ^ f.magBits - 1)
  | .ieee =>
    if f.m = 0 then f.code neg (2 ^ f.magBits - 1)
    else f.code neg ((2 ^ f.e - 1) * 2 ^ f.m + 2 ^ (f.m - 1))

/-- What a code stands for. -/
inductive Val where
  /-- a NaN: its sign, whether it is signalling, its mantissa field -/
  | nan (neg signal : Bool) (payload : Nat)
  /-- an infinity -/
  | inf (neg : Bool)
  /-- a finite value -/
  | fin (x : Exact)
  deriving DecidableEq, Repr, Inhabited

/-- The value of a code (R64, R67, R68, R70). -/
def Fmt.decode (f : Fmt) (code : Nat) : Val :=
  let mag := code % 2 ^ f.magBits
  let neg := f.sign && decide (code / 2 ^ f.magBits % 2 = 1)
  let ex := mag / 2 ^ f.m
  let fr := mag % 2 ^ f.m
  let finite : Val :=
    if ex = 0 then .fin ⟨neg, fr, 1, f.emin - f.m⟩
    else .fin ⟨neg, 2 ^ f.m + fr, 1, (ex : Int) - f.bias - f.m⟩
  match f.policy with
  | .none => finite
  | .finite => if mag = 2 ^ f.magBits - 1 then .nan neg false fr else finite
  | .ieee =>
    if ex = 2 ^ f.e - 1 then
      if f.m ≠ 0 && fr = 0 then .inf neg
      else .nan neg (f.m ≠ 0 && fr < 2 ^ (f.m - 1)) fr
    else finite

/-- A NaN code with its quiet bit set and its payload kept (R60, R65). -/
def Fmt.quiet (f : Fmt) (code : Nat) : Nat :=
  match f.decode code with
  | .nan _ true _ => code + 2 ^ (f.m - 1)
  | _ => code

/-- Whether a value is a signalling NaN. -/
def Val.isSignal : Val → Bool
  | .nan _ s _ => s
  | _ => false
/-- Whether a value is a NaN. -/
def Val.isNaN : Val → Bool
  | .nan _ _ _ => true
  | _ => false
/-- Whether a value is infinite. -/
def Val.isInf : Val → Bool
  | .inf _ => true
  | _ => false
/-- Whether a value is a zero. -/
def Val.isZero : Val → Bool
  | .fin x => x.isZero
  | _ => false
/-- The sign of a value. -/
def Val.neg : Val → Bool
  | .nan s _ _ => s
  | .inf s => s
  | .fin x => x.neg

/-! ## Rounding (R71 to R75) -/

/-- R71's modes. -/
inductive RMode where
  | rn | rz | ru | rd | rs
  deriving DecidableEq, Repr, Inhabited

/-- The rounding layout of R50. -/
def rmodeOf (code : Nat) : RMode :=
  match code with
  | 0 => .rn
  | 1 => .rz
  | 2 => .ru
  | 3 => .rd
  | _ => .rs

/-- Whether the grid neighbour away from zero is chosen: rem / d is the part above the one towards
zero, `tieUp` says whether a tie goes away from zero, and `r` is the 24 bits drawn under `.rs` (R71,
R72). Reading: log entry 18, DESIGN CHOICE. -/
def roundsUp (mode : RMode) (neg tieUp : Bool) (rem d r : Nat) : Bool :=
  match mode with
  | .rn => d < 2 * rem || (2 * rem = d && tieUp)
  | .rz => false
  | .ru => !neg && rem ≠ 0
  | .rd => neg && rem ≠ 0
  | .rs => r < rem * 2 ^ 24 / d

/-- R73: the code of an overflowed result and its flags. -/
def Fmt.overflow (f : Fmt) (mode : RMode) (sat neg : Bool) : Nat × FlagMask :=
  let top := f.code neg f.maxMag
  let away := match mode with
    | .rn | .rs => true
    | .rz => false
    | .ru => !neg
    | .rd => neg
  if sat || f.policy = .none then (top, fOverflow ||| fInexact ||| fSaturated)
  else if !away then (top, fOverflow ||| fInexact)
  else if f.hasInf then (f.inf neg, fOverflow ||| fInexact)
  else
    -- the all-ones magnitude, or the canonical NaN's under `ieee` (the two agree where m = 0)
    (f.nan neg, fOverflow ||| fInexact)

/-- `round(x, t, mode, sat)` for a finite exact x (R60, R71 to R73, R75, R79). An unsigned format is
given only values not below zero (R74). -/
def Fmt.round (f : Fmt) (mode : RMode) (sat : Bool) (r : Nat) (x : Exact) : Nat × FlagMask :=
  if x.isZero then (f.code x.neg 0, 0)
  else
    let lg := x.log2
    let step := max lg f.emin - f.m
    let (q, rem, d) := x.quantum step
    let low := q + (step - (f.emin - f.m)).toNat * 2 ^ f.m
    let odd := if f.m = 0 then Config.tieWithoutMantissa low else decide (low % 2 = 1)
    let up := roundsUp mode x.neg (low = f.maxMag || odd) rem d r
    let mag := if up then low + 1 else low
    let tiny := flagIf (lg < f.emin && (rem ≠ 0 || f.maxMag < mag)) fUnderflow
    if f.maxMag < mag then
      let (c, fl) := f.overflow mode sat x.neg
      (c, fl ||| tiny)
    else (f.code x.neg mag, flagIf (rem ≠ 0) fInexact ||| tiny)

/-- An exact value rounded to the integers (R71), with whether it changed. -/
def Exact.roundInt (x : Exact) (mode : RMode) (r : Nat) : Int × Bool :=
  let (q, rem, d) := x.quantum 0
  let n := if roundsUp mode x.neg (q % 2 = 1) rem d r then q + 1 else q
  (if x.neg then -(n : Int) else n, rem ≠ 0)

/-- R74 and R77: a value of the format `src` narrowed into `f`. -/
def Fmt.convert (f src : Fmt) (mode : RMode) (sat : Bool) (r : Nat) (v : Val) : Nat × FlagMask :=
  match v with
  | .nan neg signal payload =>
    if !f.hasNaN then (0, fInvalid)
    else
      let fl := flagIf signal fInvalid
      -- between the IEEE-style formats the payload's top bits are kept (R77)
      let ieee := fun (g : Fmt) => g.sign && (g = fmtF64 || g = fmtF32 || g = fmtF16 || g = fmtBf16)
      if ieee f && ieee src then
        let quieted := if signal then payload + 2 ^ (src.m - 1) else payload
        let top := if src.m ≤ f.m then quieted * 2 ^ (f.m - src.m) else quieted / 2 ^ (src.m - f.m)
        (f.code neg ((2 ^ f.e - 1) * 2 ^ f.m + top), fl)
      else (f.nan neg, fl)
  | .inf neg =>
    if neg && !f.sign then (0, fInvalid ||| flagIf sat fSaturated)
    else if f.hasInf then (f.inf neg, 0)
    else if f.policy = .none || sat then (f.code neg f.maxMag, fInvalid ||| fSaturated)
    else (f.nan neg, fInvalid)
  | .fin x =>
    if x.neg && !f.sign && !x.isZero then (0, if sat then fSaturated else fInvalid)
    else f.round mode sat r x

/-- R72: one step of a random state. -/
def rngStep (x : DWord) : DWord :=
  let x := x ^^^ (x <<< 13)
  let x := x ^^^ (x >>> 7)
  x ^^^ (x <<< 17)

/-- Bits 63..40 of a random state (R72). -/
def rngBits (x : DWord) : Nat := x.toNat / 2 ^ 40

/-! ## Format registers (R36, R67) -/

/-- Whether a format register value is accepted (R36). -/
def fmtRegOk (v : Word) : Bool :=
  let w := v.toNat % 16
  let s := v.toNat / 2 ^ 4 % 2
  let e := v.toNat / 2 ^ 8 % 16
  let p := v.toNat / 2 ^ 20 % 4
  4 ≤ w && w ≤ 8 && e + s ≤ w && p ≠ 3 && !(p = 0 && e < 2)

/-- The bits of a format register that are not reserved (R4, R36). -/
def fmtRegMask : Word := 0x003FCF1F

/-- The format a format register describes (R36, R67). -/
def fmtOfReg (v : Word) : Fmt :=
  let w := v.toNat % 16
  let s := v.toNat / 2 ^ 4 % 2
  let e := v.toNat / 2 ^ 8 % 16
  let p := v.toNat / 2 ^ 20 % 4
  ⟨s = 1, e, w - s - e, v.toNat / 2 ^ 14 % 64,
    if p = 0 then .ieee else if p = 1 then .finite else .none⟩

/-- Whether a format's width is in the class of a minifloat type number (R67). -/
def fmtFits (typeNumber : Nat) (f : Fmt) : Bool :=
  match typeNumber with
  | 16 => f.width = 8
  | 17 => f.width = 6 || f.width = 7
  | 18 => f.width = 4 || f.width = 5
  | _ => true

/-! ## Type numbers (R49) -/

/-- What a type number stands for: an integer type or a float format. -/
inductive NumType where
  | int (t : IntType)
  | flt (f : Fmt)
  deriving DecidableEq, Repr, Inhabited

/-- The type of a type number, with the format register's value for the minifloats (R49, R67, R101). -/
def numTypeOf (typeNumber : Nat) (fmtReg : Word) : NumType :=
  match typeNumber with
  | 0 => .int ⟨8, true⟩
  | 1 => .int ⟨16, true⟩
  | 2 => .int ⟨32, true⟩
  | 3 => .int ⟨64, true⟩
  | 4 => .int ⟨8, false⟩
  | 5 => .int ⟨16, false⟩
  | 6 => .int ⟨32, false⟩
  | 7 => .int ⟨64, false⟩
  | 10 => .flt fmtF16
  | 11 => .flt fmtBf16
  | 12 => .flt fmtF32
  | 13 => .flt fmtF64
  | 19 => .flt fmtE5m3
  | 20 => .int ⟨4, true⟩
  | _ => .flt (fmtOfReg fmtReg)

/-- Bits of a type. -/
def NumType.width : NumType → Nat
  | .int t => t.width
  | .flt f => f.width

/-- The format of a float type code (R49): one element's for `.h2` and `.g2`. -/
def fmtOfFloat (code : Nat) : Fmt :=
  match code with
  | 0 => fmtF32
  | 1 => fmtF64
  | 2 => fmtF16
  | 3 => fmtBf16
  | 4 => fmtF16
  | _ => fmtBf16

end Sys2Proof.Machine
end

