-- ==== Sys2Proof/Machine/Real.lean ====
section
/-! DEFINITION. Square roots, powers of two, logarithms and the circular functions as exact values for
the one rounding of R105. A value that is no fraction is held as the middle of an interval so narrow
that no grid value, tie or 24-bit draw (R71, R72) lies inside it. -/

namespace Sys2Proof.Machine

/-- Binary places of the fixed-point numbers below. -/
def fracBits : Nat := 1024

/-- One, in fixed point. -/
def fixOne : Int := 2 ^ fracBits

/-- Product in fixed point. -/
def fixMul (a b : Int) : Int := a * b / fixOne

/-- An exact value in fixed point, rounded down. -/
def Exact.toFix (x : Exact) : Int :=
  let (q, _, _) := x.quantum (-(fracBits : Int))
  if x.neg then -(q : Int) else q

/-- A positive fixed-point number that is no fraction, times 2^k, as an exact value: the middle of the
interval of its first places. -/
def ofFix (neg : Bool) (v : Int) (k : Int) : Exact :=
  ⟨neg, 2 * (v / 2 ^ 64).toNat + 1, 1, k - (fracBits - 64 : Nat) - 1⟩

/-- Integer square root, one bit at a time from bit k - 1 down. -/
def isqrtAux : Nat → Nat → Nat → Nat
  | 0, _, r => r
  | k + 1, n, r =>
    let c := r + 2 ^ k
    isqrtAux k n (if c * c ≤ n then c else r)

/-- floor(sqrt n). -/
def isqrt (n : Nat) : Nat := isqrtAux (Nat.log2 n / 2 + 1) n 0

/-- The square root of a positive value num / den x 2^exp: exact where it is a fraction with an exact
root, else the middle of a narrow interval. -/
def sqrtExact (x : Exact) : Exact :=
  -- num / den x 2^exp = num x den x 2^exp / den^2, with an even exponent
  let odd := x.exp % 2 = 1
  let n := x.num * x.den * (if odd then 2 else 1)
  let e := (if odd then x.exp - 1 else x.exp) / 2
  let k : Nat := 256
  let r := isqrt (n * 2 ^ (2 * k))
  if r * r = n * 2 ^ (2 * k) then ⟨false, r, x.den, e - k⟩
  else ⟨false, 2 * r + 1, x.den, e - k - 1⟩

/-- 1 / n + 1 / (3 n^3) +- 1 / (5 n^5) ... with alternating signs or with equal ones; `t` is the current
power of 1/n and `i` the odd divisor. -/
def oddSeries (alternate : Bool) (n2 : Int) : Nat → Int → Int → Bool → Int
  | 0, _, _, _ => 0
  | k + 1, t, i, minus =>
    if t = 0 then 0
    else (if minus then -(t / i) else t / i) +
      oddSeries alternate n2 k (t / n2) (i + 2) (alternate && !minus)

/-- pi, in fixed point, by Machin's sum. -/
def fixPi : Int :=
  16 * oddSeries true 25 300 (fixOne / 5) 1 false - 4 * oddSeries true 57121 300 (fixOne / 239) 1 false

/-- ln 2, in fixed point: twice the area tangent of 1/3. -/
def fixLn2 : Int := 2 * oddSeries false 9 400 (fixOne / 3) 1 false

/-- exp of a fixed-point number in 0 .. 1, by its power series; `t` is the current term. -/
def expSeries (y : Int) : Nat → Int → Int → Int
  | 0, _, _ => 0
  | k + 1, t, i => if t = 0 then 0 else t + expSeries y k (fixMul t y / i) (i + 1)

/-- exp of a fixed-point number in 0 .. 1. -/
def fixExp (y : Int) : Int := expSeries y 300 fixOne 1

/-- The series of sine (from t = y, i = 1) or cosine (from t = 1, i = 0), y squared given. -/
def circSeries (y2 : Int) : Nat → Int → Int → Int
  | 0, _, _ => 0
  | k + 1, t, i =>
    if t = 0 then 0 else t + circSeries y2 k (-(fixMul t y2 / ((i + 1) * (i + 2)))) (i + 2)

/-- sin of a fixed-point number in -1 .. 1. -/
def fixSin (y : Int) : Int := circSeries (fixMul y y) 200 y 1
/-- cos of a fixed-point number in -1 .. 1. -/
def fixCos (y : Int) : Int := circSeries (fixMul y y) 200 fixOne 0

/-- The odd power series of the area tangent at z, z squared given. -/
def atanhSeries (z2 : Int) : Nat → Int → Int → Int
  | 0, _, _ => 0
  | k + 1, t, i => if t = 0 then 0 else t / i + atanhSeries z2 k (fixMul t z2) (i + 2)

/-- ln of a fixed-point number in 1 .. 2. -/
def fixLog (m : Int) : Int :=
  let z := (m - fixOne) * fixOne / (m + fixOne)
  2 * atanhSeries (fixMul z z) 400 z 1

/-- 2^x for a finite x. -/
def exp2Exact (x : Exact) : Exact :=
  let n := clampInt x.floor (-5000) 5000
  if (x.quantum 0).2.1 = 0 then ⟨false, 1, 1, n⟩
  else
    let frac := (x.add (Exact.ofInt (-x.floor)) false).toFix
    ofFix false (fixExp (fixMul frac fixLn2)) n

/-- log2 of a positive x. -/
def log2Exact (x : Exact) : Exact :=
  let n := x.log2
  -- x / 2^n in 1 .. 2
  let m : Exact := { x with exp := x.exp - n }
  if m.eq ⟨false, 1, 1, 0⟩ then Exact.ofInt n
  else
    let v := n * fixOne + fixLog m.toFix * fixOne / fixLn2
    ofFix (v < 0) v.natAbs 0

/-- sin or cos of a finite nonzero x in radians, reduced exactly: x = k pi/2 + y. -/
def circExact (cosine : Bool) (x : Exact) : Exact :=
  let v := x.toFix
  let half := fixPi / 2
  let k := (2 * v + half) / (2 * half)
  let y := v - k * half
  let quad := (k % 4 + (if cosine then 1 else 0)) % 4
  let r := if quad % 2 = 0 then fixSin y else fixCos y
  let r := if 2 ≤ quad then -r else r
  ofFix (r < 0) r.natAbs 0

/-- tanh of a finite nonzero x. -/
def tanhExact (x : Exact) : Exact :=
  let a : Exact := { x with neg := false }
  if (Exact.ofInt 128).lt a then ofFix x.neg (fixOne - 2 ^ 80) 0
  else
    -- e^(2a) = 2^k e^r
    let y := 2 * a.toFix
    let k := y / fixLn2
    let ek := fixExp (y - k * fixLn2) * 2 ^ k.toNat
    ofFix x.neg ((ek - fixOne) * fixOne / (ek + fixOne)) 0

end Sys2Proof.Machine
end

