-- ==== Sys2Proof/Machine/Flags.lean ====
section
/-! DEFINITION. The results and the flags of the computing instructions, as functions of one lane's
source values (R86 to R106). No state is read here; the value of a narrow or half type stands in the low
bits of a number. -/

namespace Sys2Proof.Machine

/-- A result with the flags its lane raises. -/
abbrev Res := Nat × FlagMask

/-! ## Integer arithmetic (R86, R87) -/

/-- The operations of R86's table with a signed or unsigned exact value. -/
inductive IntOp where
  | add | sub | mul | mad | abs | neg | min | max | clamp | sad
  deriving DecidableEq, Repr, Inhabited

/-- R86's column x. -/
def IntOp.exact (op : IntOp) (a b c : Int) : Int :=
  match op with
  | .add => a + b
  | .sub => a - b
  | .mul => a * b
  | .mad => a * b + c
  | .abs => |a|
  | .neg => -a
  | .min => Min.min a b
  | .max => Max.max a b
  | .clamp => Min.min (Max.max a b) c
  | .sad => |a - b| + c

/-- Register bits of a type of w bits: 32, or 64. -/
def regBits (w : Nat) : Nat := if w = 64 then 64 else 32

/-- R86: the exact value, wrapped or clamped. -/
def intArith (op : IntOp) (t : IntType) (sat : Bool) (a b c : Nat) : Res :=
  t.narrow (regBits t.width) sat (op.exact (t.read a) (t.read b) (t.read c))

/-- IMULH (R86): floor(a x b / 2^w). -/
def intMulHigh (t : IntType) (a b : Nat) : Res :=
  (t.write (regBits t.width) (t.read a * t.read b / 2 ^ t.width), 0)

/-- IMADW (R86): 32-bit factors, a 64-bit addend of the same signedness. -/
def intMadWide (signed : Bool) (a b c : Nat) : Res :=
  let t : IntType := ⟨32, signed⟩
  (wrapInt 64 (t.read a * t.read b + (IntType.mk 64 signed).read c), 0)

/-- IADDC and ISUBB (R87): the w-bit result and the carry or borrow. -/
def addCarry (subtract : Bool) (w a b : Nat) (ci : Bool) : Nat × Bool :=
  let ua : Int := (a % 2 ^ w : Nat)
  let ub : Int := (b % 2 ^ w : Nat)
  let c : Int := if ci then 1 else 0
  if subtract then (wrapInt w (ua - ub - c), ua - ub - c < 0)
  else (wrapInt w (ua + ub + c), 2 ^ w ≤ ua + ub + c)

/-! ## Bit operations (R88 to R91) -/

/-- Bitwise operation on the low w bits, one bit at a time from bit 0. -/
def bitwise (f : Nat → Bool) : Nat → Nat
  | 0 => 0
  | w + 1 => bitwise f w + (if f w then 2 ^ w else 0)

/-- The low w bits inverted. -/
def notBits (w a : Nat) : Nat := 2 ^ w - 1 - a % 2 ^ w

/-- SHL (R88). Reading: log entry 22, DEDUCED. -/
def shiftLeft (w a n : Nat) : Nat :=
  let n := n % 2 ^ 32
  if w ≤ n then 0 else a * 2 ^ n % 2 ^ w
/-- SHRL (R88). -/
def shiftRightLogical (w a n : Nat) : Nat :=
  let n := n % 2 ^ 32
  if w ≤ n then 0 else a % 2 ^ w / 2 ^ n
/-- SHRA (R88). -/
def shiftRightArith (w a n : Nat) : Nat := wrapInt w (sextNat w a / 2 ^ min (n % 2 ^ 32) w)
/-- ROTL (R88). -/
def rotateLeft (w a n : Nat) : Nat :=
  let k := n % w
  let a := a % 2 ^ w
  a * 2 ^ k % 2 ^ w + a / 2 ^ (w - k)
/-- FUNNEL (R88). -/
def funnel (right : Bool) (w a b n : Nat) : Nat :=
  let z := a % 2 ^ w * 2 ^ w + b % 2 ^ w
  let k := n % w
  if right then z / 2 ^ k % 2 ^ w else z * 2 ^ k / 2 ^ w % 2 ^ w

/-- Count of one bits among the low w. -/
def popCount : Nat → Nat → Nat
  | 0, _ => 0
  | w + 1, a => a % 2 + popCount w (a / 2)
/-- CLZ (R88): w for 0. -/
def leadingZeros (w a : Nat) : Nat :=
  let a := a % 2 ^ w
  if a = 0 then w else w - 1 - Nat.log2 a
/-- CTZ (R88): w for 0. -/
def trailingZeros : Nat → Nat → Nat
  | 0, _ => 0
  | w + 1, a => if a % 2 = 1 then 0 else 1 + trailingZeros w (a / 2)
/-- BREV (R88). -/
def reverseBits (w a : Nat) : Nat := bitwise (fun i => a.testBit (w - 1 - i)) w

/-- BFX (R89). Reading: log entry 22, DEDUCED. -/
def fieldExtract (t : IntType) (a b c : Nat) : Nat :=
  let pos := b % 256
  let len := min (c % 256) t.width
  let e := t.read a
  let f := e / 2 ^ pos % 2 ^ len
  if len = 0 then 0
  else wrapInt (regBits t.width) (if t.signed then sextNat len f.toNat else f)

/-- BFI (R89). -/
def fieldInsert (w a b c : Nat) : Nat :=
  let pos := c % 256
  let len := c / 256 % 256
  bitwise (fun i => if pos ≤ i && i < pos + len then b.testBit (i - pos) else a.testBit i) w

/-- BFM (R88). -/
def fieldMask (w a b : Nat) : Nat :=
  let pos := a % 256
  let len := b % 256
  (2 ^ len - 1) * 2 ^ pos % 2 ^ w

/-- Byte j of a number. -/
def byteOf (x j : Nat) : Nat := x / 2 ^ (8 * j) % 256

/-- One byte of PRMB (R90). -/
def permuteByte (z sel : Nat) : Nat :=
  let b := byteOf z (sel % 8)
  if sel / 8 % 2 = 1 then (if 128 ≤ b then 255 else 0) else b

/-- PRMB (R90). -/
def permuteBytes (a b c : Nat) : Nat :=
  let z := a % 2 ^ 32 + 2 ^ 32 * (b % 2 ^ 32)
  permuteByte z (c % 16) + 2 ^ 8 * permuteByte z (c / 2 ^ 4 % 16) +
  2 ^ 16 * permuteByte z (c / 2 ^ 8 % 16) + 2 ^ 24 * permuteByte z (c / 2 ^ 12 % 16)

/-- LOP (R91): bit i of the result is bit 4 a + 2 b + c of the table. -/
def truthTable3 (tt a b c : Nat) : Nat :=
  bitwise (fun i => tt.testBit
    ((if a.testBit i then 4 else 0) + (if b.testBit i then 2 else 0) + (if c.testBit i then 1 else 0))) 32

/-! ## Compare (R92) -/

/-- The condition of ICMP (R92). -/
def intCompare (cc : Nat) (a b : Int) : Bool :=
  match cc with
  | 0 => a = b
  | 1 => a ≠ b
  | 2 => a < b
  | 3 => a ≤ b
  | 4 => b < a
  | _ => b ≤ a

/-- Order of two values that are no NaN: below, equal or above; -0 = +0. -/
def Val.cmp (x y : Val) : Ordering :=
  match x, y with
  | .inf s, .inf t => if s = t then .eq else if s then .lt else .gt
  | .inf s, _ => if s then .lt else .gt
  | _, .inf t => if t then .gt else .lt
  | .fin a, .fin b => if a.lt b then .lt else if a.eq b then .eq else .gt
  | _, _ => .eq

/-- FCMP (R92): the truth value and the flags. -/
def floatCompare (f : Fmt) (cc a b : Nat) : Bool × FlagMask :=
  let x := f.decode a
  let y := f.decode b
  let signal := flagIf (x.isSignal || y.isSignal) fInvalid
  if x.isNaN || y.isNaN then
    match cc with
    | 0 => (false, signal)
    | 1 => (true, signal)
    | 6 => (false, signal)
    | 7 => (true, signal)
    | _ => (false, fInvalid)
  else
    let o := x.cmp y
    match cc with
    | 0 => (o = .eq, 0)
    | 1 => (o ≠ .eq, 0)
    | 2 => (o = .lt, 0)
    | 3 => (o ≠ .gt, 0)
    | 4 => (o = .gt, 0)
    | 5 => (o ≠ .lt, 0)
    | 6 => (true, 0)
    | _ => (false, 0)

/-! ## Float arithmetic (R98 to R100) -/

/-- R76: the first NaN among the operands, quieted, and invalid when one is signalling. -/
def nanOf (f : Fmt) (codes : List Nat) : Option Res :=
  match codes.find? (fun c => (f.decode c).isNaN) with
  | some c => some (f.quiet c, flagIf (codes.any (fun c => (f.decode c).isSignal)) fInvalid)
  | none => none

/-- The canonical NaN of an invalid operation (R76). -/
def invalidRes (f : Fmt) : Res := (f.nan false, fInvalid)

/-- Exact sum of two values that are no NaN, rounded once. -/
def valAdd (f : Fmt) (mode : RMode) (sat : Bool) (r : Nat) (x y : Val) : Res :=
  match x, y with
  | .inf s, .inf t => if s = t then (f.inf s, 0) else invalidRes f
  | .inf s, _ => (f.inf s, 0)
  | _, .inf t => (f.inf t, 0)
  | .fin a, .fin b => f.round mode sat r (a.add b (mode = .rd))
  | _, _ => invalidRes f

/-- -x, for a value that is no NaN. -/
def Val.negate : Val → Val
  | .inf s => .inf !s
  | .fin x => .fin x.negate
  | v => v

/-- FADD and FSUB (R98). Reading: log entry 25, DEDUCED. -/
def floatAdd (subtract : Bool) (f : Fmt) (mode : RMode) (sat : Bool) (r a b : Nat) : Res :=
  match nanOf f [a, b] with
  | some z => z
  | none => valAdd f mode sat r (f.decode a) (if subtract then (f.decode b).negate else f.decode b)

/-- Exact product of two values that are no NaN; none for 0 x infinity. -/
def valMul (x y : Val) : Option Val :=
  match x, y with
  | .fin a, .fin b => some (.fin (a.mul b))
  | .inf s, .inf t => some (.inf (s != t))
  | .inf s, .fin b => if b.isZero then none else some (.inf (s != b.neg))
  | .fin a, .inf t => if a.isZero then none else some (.inf (a.neg != t))
  | _, _ => none

/-- FMUL (R98). -/
def floatMul (f : Fmt) (mode : RMode) (sat : Bool) (r a b : Nat) : Res :=
  match nanOf f [a, b] with
  | some z => z
  | none =>
    match valMul (f.decode a) (f.decode b) with
    | none => invalidRes f
    | some (.fin x) => f.round mode sat r x
    | some v => (f.inf v.neg, 0)

/-- FFMA (R76, R98): a product 0 x infinity raises invalid even when C is a quiet NaN. -/
def floatFma (f : Fmt) (mode : RMode) (sat : Bool) (r a b c : Nat) : Res :=
  let x := f.decode a
  let y := f.decode b
  let bad := flagIf (!x.isNaN && !y.isNaN && (valMul x y).isNone) fInvalid
  match nanOf f [a, b, c] with
  | some (z, fl) => (z, fl ||| bad)
  | none =>
    match valMul x y with
    | none => invalidRes f
    | some p => valAdd f mode sat r p (f.decode c)

/-- Order of R99: -0 below +0. -/
def minmaxLt (f : Fmt) (a b : Nat) : Bool :=
  let x := f.decode a
  let y := f.decode b
  match x.cmp y with
  | .lt => true
  | .gt => false
  | .eq => x.isZero && x.neg && !y.neg

/-- FMIN and FMAX without the flag (R99). -/
def floatPick (big : Bool) (f : Fmt) (a b : Nat) : Nat :=
  let na := (f.decode a).isNaN
  let nb := (f.decode b).isNaN
  if na && nb then f.quiet a
  else if na then b
  else if nb then a
  else if big then (if minmaxLt f a b then b else a)
  else if minmaxLt f b a then b else a

/-- Invalid when an operand is a signalling NaN. -/
def signalFlag (f : Fmt) (codes : List Nat) : FlagMask :=
  flagIf (codes.any (fun c => (f.decode c).isSignal)) fInvalid

/-- FMIN and FMAX (R99). -/
def floatMinMax (big : Bool) (f : Fmt) (a b : Nat) : Res :=
  (floatPick big f a b, signalFlag f [a, b])

/-- FCLAMP (R99). -/
def floatClamp (f : Fmt) (a b c : Nat) : Res :=
  (if (f.decode a).isNaN then f.quiet a else floatPick false f (floatPick true f a b) c,
    signalFlag f [a, b, c])

/-- FRND (R98): an integral value; inexact when it changes the value. Reading: log entry 25, DEDUCED. -/
def floatRnd (f : Fmt) (mode : RMode) (r a : Nat) : Res :=
  match nanOf f [a] with
  | some z => z
  | none =>
    match f.decode a with
    | .fin x =>
      let (n, changed) := x.roundInt mode r
      ((f.round .rn false 0 { Exact.ofInt n with neg := x.neg }).1, flagIf changed fInexact)
    | _ => invalidRes f

/-- FFRAC (R98). -/
def floatFrac (f : Fmt) (mode : RMode) (sat : Bool) (r a : Nat) : Res :=
  match nanOf f [a] with
  | some z => z
  | none =>
    match f.decode a with
    | .fin x =>
      let fl : Exact := { Exact.ofInt x.floor with neg := if x.isZero then x.neg else decide (x.floor < 0) }
      f.round mode sat r (x.add fl.negate (mode = .rd))
    | _ => invalidRes f

/-- FSCALE (R98): a x 2^n. -/
def floatScale (f : Fmt) (mode : RMode) (sat : Bool) (r a : Nat) (n : Int) : Res :=
  match nanOf f [a] with
  | some z => z
  | none =>
    match f.decode a with
    -- beyond any format's range a larger count changes nothing
    | .fin x => f.round mode sat r { x with exp := x.exp + clampInt n (-5000) 5000 }
    | v => (f.inf v.neg, 0)

/-- FEXPO (R100) into w bits. -/
def floatExpo (w : Nat) (f : Fmt) (a : Nat) : Res :=
  match f.decode a with
  | .nan _ _ _ => (2 ^ (w - 1) + 1, fInvalid)
  | .inf _ => (2 ^ (w - 1) - 1, fInvalid)
  | .fin x => if x.isZero then (2 ^ (w - 1), fInvalid) else (wrapInt w x.log2, 0)

/-- The class bit of R100. -/
def floatClassBit (f : Fmt) (a : Nat) : Nat :=
  match f.decode a with
  | .nan _ s _ => if s then 0 else 1
  | .inf s => if s then 2 else 9
  | .fin x =>
    if x.isZero then (if x.neg then 5 else 6)
    else if x.log2 < f.emin then (if x.neg then 4 else 7)
    else if x.neg then 3 else 8

/-- FNEG (R98): the sign bit inverted. -/
def floatNeg (f : Fmt) (a : Nat) : Nat := a ^^^ 2 ^ f.magBits

/-! ## Conversion (R101 to R104) -/

/-- A value into an integer type (R101): NaN gives 0, beyond range the nearest limit.
Reading: log entry 25, DEDUCED. -/
def toIntRes (t : IntType) (mode : RMode) (sat : Bool) (r : Nat) (v : Val) : Int × FlagMask :=
  let lim := if sat then fSaturated else fInvalid
  match v with
  | .nan _ _ _ => (0, fInvalid)
  | .inf s => (if s then t.min else t.max, lim)
  | .fin x =>
    let (n, changed) := x.roundInt mode r
    let inexact := flagIf changed fInexact
    if n < t.min then (t.min, lim ||| inexact)
    else if t.max < n then (t.max, lim ||| inexact)
    else (n, inexact)

/-- The bits of a converted integer in a register (R62, R101). -/
def intCode (t : IntType) (n : Int) : Nat := t.write (regBits t.width) n

/-- CVT (R101). -/
def convertNum (dst src : NumType) (mode : RMode) (sat : Bool) (r a : Nat) : Res :=
  match src, dst with
  | .int s, .int d => d.narrow (regBits d.width) sat (s.read a)
  | .int s, .flt f => f.convert f mode sat r (.fin (Exact.ofInt (s.read a)))
  | .flt g, .flt f => f.convert g mode sat r (g.decode (a % 2 ^ g.width))
  | .flt g, .int d =>
    let (n, fl) := toIntRes d mode sat r (g.decode (a % 2 ^ g.width))
    (intCode d n, fl)

/-- A value divided by an e5m3 scale (R102), with the flags that adds; the NaN that a NaN scale, or a zero scale of a
zero source, makes has the source's sign. Reading: log entry 25, DEDUCED. -/
def scaleDown (v : Val) (s : Nat) : Val × FlagMask :=
  match fmtE5m3.decode (s % 256) with
  | .fin d =>
    match v with
    | .fin x =>
      if d.isZero then
        if x.isZero then (.nan x.neg false (2 ^ 22), fInvalid) else (.inf x.neg, fDivZero)
      else (.fin (x.div d), 0)
    | .inf neg => (.inf neg, flagIf d.isZero fDivZero)
    | v => (v, 0)
  | _ =>
    match v with
    | .nan _ _ _ => (v, 0)
    | v => (.nan v.neg false (2 ^ 22), 0)

/-- CVTS and one element of PACK (R102, R103): an f32 divided by its scale and narrowed. -/
def narrowScaled (t : NumType) (mode : RMode) (sat : Bool) (r a s : Nat) : Res :=
  let (v, fl) := scaleDown (fmtF32.decode a) s
  match t with
  | .flt f =>
    let (c, fl') := f.convert fmtF32 mode sat r v
    (c, fl ||| fl')
  | .int d =>
    let (n, fl') := toIntRes d mode sat r v
    (intCode d n, fl ||| fl')

/-- The value of an element code of a narrow type. -/
def NumType.value (t : NumType) (code : Nat) : Val :=
  match t with
  | .int i => .fin (Exact.ofInt (i.read code))
  | .flt f => f.decode (code % 2 ^ f.width)

/-- One element of UNPK (R102): an element times its scale, rounded once into f32; a NaN scale gives the positive NaN,
of a NaN element too. Reading: log entry 25, DEDUCED. -/
def widenScaled (t : NumType) (mode : RMode) (sat : Bool) (r code s : Nat) : Res :=
  match fmtE5m3.decode (s % 256) with
  | .fin d =>
    match t.value code with
    | .nan neg _ _ => (fmtF32.nan neg, 0)
    | .inf neg => (fmtF32.inf neg, 0)
    | .fin x => if d.isZero then (fmtF32.code x.neg 0, 0) else fmtF32.round mode sat r (x.mul d)
  | _ => (fmtF32.nan false, 0)

/-- SCENC (R104): its minor has the rounding layout alone (R57), so that it never saturates.
Reading: log entry 25, DEDUCED. -/
def scaleEncode (mode : RMode) (r a b : Nat) : Res :=
  let va := fmtF32.decode a
  match fmtF32.decode b with
  | .fin y =>
    if y.isZero || y.neg then (0xFF, fInvalid)
    else
      match va with
      | .inf _ => (0xFF, fInvalid)
      | .nan _ s _ => (0xFF, flagIf s fInvalid)
      | .fin x =>
        if x.isZero then (0x78, 0)
        else
          let (c, fl) := fmtE5m3.round mode false r { x.div y with neg := false }
          if c = 0 then (1, fUnderflow ||| fInexact) else (c, fl)
  | _ => (0xFF, fInvalid)

/-- SCDEC (R104): b x s in f32. Reading: log entry 25, DEDUCED. -/
def scaleDecode (mode : RMode) (r a b : Nat) : Res :=
  match nanOf fmtF32 [b] with
  | some z => z
  | none =>
    match fmtE5m3.decode (a % 256) with
    | .fin d =>
      match valMul (fmtF32.decode b) (.fin d) with
      | none => invalidRes fmtF32
      | some (.fin x) => fmtF32.round mode false r x
      | some v => (fmtF32.inf v.neg, 0)
    | _ => (fmtF32.nan false, 0)

/-! ## Special functions (R105, R106) -/

/-- The functions of R105. -/
inductive SfuOp where
  | rcp | rsq | sqrt | exp2 | log2 | sin | cos | tanh
  deriving DecidableEq, Repr, Inhabited

/-- R105: the exact value rounded once; the special operands of its table. -/
def sfuFloat (op : SfuOp) (f : Fmt) (mode : RMode) (r a : Nat) : Res :=
  match nanOf f [a] with
  | some z => z
  | none =>
    let rnd := fun x => f.round mode false r x
    let one := fun neg => f.round .rn false 0 ⟨neg, 1, 1, 0⟩
    match op, f.decode a with
    | .rcp, .inf s => (f.code s 0, 0)
    | .rcp, .fin x => if x.isZero then (f.inf x.neg, fDivZero) else rnd ((Exact.ofInt 1).div x)
    | .rsq, .inf s => if s then invalidRes f else (0, 0)
    | .rsq, .fin x =>
      if x.isZero then (f.inf x.neg, fDivZero)
      else if x.neg then invalidRes f
      else rnd ((Exact.ofInt 1).div (sqrtExact x))
    | .sqrt, .inf s => if s then invalidRes f else (a, 0)
    | .sqrt, .fin x => if x.isZero then (a, 0) else if x.neg then invalidRes f else rnd (sqrtExact x)
    | .exp2, .inf s => (if s then 0 else f.inf false, 0)
    | .exp2, .fin x => rnd (exp2Exact x)
    | .log2, .inf s => if s then invalidRes f else (a, 0)
    | .log2, .fin x =>
      if x.isZero then (f.inf true, fDivZero)
      else if x.neg then invalidRes f
      else rnd (log2Exact x)
    | .sin, .inf _ => invalidRes f
    | .sin, .fin x => if x.isZero then (a, 0) else rnd (circExact false x)
    | .cos, .inf _ => invalidRes f
    | .cos, .fin x => if x.isZero then one false else rnd (circExact true x)
    | .tanh, .inf s => one s
    | .tanh, .fin x => if x.isZero then (a, 0) else rnd (tanhExact x)
    | _, _ => invalidRes f

/-- IDIV and IREM (R106). -/
def intDiv (remainder : Bool) (t : IntType) (a b : Nat) : Res :=
  let x := t.read a
  let y := t.read b
  let w := regBits t.width
  if y = 0 then (if remainder then wrapInt w x else 2 ^ w - 1, fDivZero)
  else (t.write w (if remainder then x.tmod y else x.tdiv y), 0)

/-! ## Packed halves (R66) -/

/-- An operation on each half of a word, the flags ORed; the draws go to element 0 first. -/
def onHalves (g : Nat → Nat → Nat → Nat → Res) (r0 r1 a b c : Nat) : Res :=
  let (x, fx) := g r0 (a % 2 ^ 16) (b % 2 ^ 16) (c % 2 ^ 16)
  let (y, fy) := g r1 (a / 2 ^ 16 % 2 ^ 16) (b / 2 ^ 16 % 2 ^ 16) (c / 2 ^ 16 % 2 ^ 16)
  (x + 2 ^ 16 * y, fx ||| fy)

/-- Elements of one operand of a float type code. -/
def elementsOf (t : Nat) : Nat := if t = 4 ∨ t = 5 then 2 else 1

/-- A float operation of a type code: one element, or two halves (R66). -/
def onElements (t : Nat) (g : Fmt → Nat → Nat → Nat → Nat → Res) (r0 r1 a b c : Nat) : Res :=
  let f := fmtOfFloat t
  if elementsOf t = 2 then onHalves (g f) r0 r1 a b c
  else g f r0 (a % 2 ^ f.width) (b % 2 ^ f.width) (c % 2 ^ f.width)

end Sys2Proof.Machine
end

