-- ==== Sys2Proof/Machine/Sparse.lean ====
section
/-! DEFINITION. Sparse tables and sets: sorted lists in one canonical form, an absent key standing for the
table's default value. Everything here is structural recursion. -/

namespace Sys2Proof.Machine

/-- The value at key k, `d` where the table lists none. -/
def tget {β : Type} (d : β) : Table β → Nat → β
  | [], _ => d
  | (j, v) :: t, k => if j = k then v else tget d t k

/-- The entry at key k. -/
def tfind {β : Type} : Table β → Nat → Option β
  | [], _ => none
  | (j, v) :: t, k => if j = k then some v else tfind t k

/-- The table with key k removed. -/
def tdel {β : Type} (t : Table β) (k : Nat) : Table β := t.filter (fun e => e.1 ≠ k)

/-- The table with v at key k, kept in rising order of keys. -/
def tput {β : Type} : Table β → Nat → β → Table β
  | [], k, v => [(k, v)]
  | (j, w) :: t, k, v =>
    if k < j then (k, v) :: (j, w) :: t
    else if j = k then (k, v) :: t
    else (j, w) :: tput t k v

/-- The table with v at key k; the default value is not listed. -/
def tset {β : Type} [DecidableEq β] (d : β) (t : Table β) (k : Nat) (v : β) : Table β :=
  if v = d then tdel t k else tput t k v

/-- Keys strictly rising from above `lo`. -/
def tsorted {β : Type} : Option Nat → Table β → Bool
  | _, [] => true
  | lo, (k, _) :: t => (match lo with | none => true | some j => j < k) && tsorted (some k) t

/-- Whether a sorted set of numbers has k. -/
def nmem (t : List Nat) (k : Nat) : Bool := t.contains k

/-- A sorted set with k added. -/
def nput : List Nat → Nat → List Nat
  | [], k => [k]
  | j :: t, k => if k < j then k :: j :: t else if j = k then j :: t else j :: nput t k

/-- A sorted set with k removed. -/
def ndel (t : List Nat) (k : Nat) : List Nat := t.filter (fun j => j ≠ k)

/-- Rising order from above `lo`. -/
def nsorted : Option Nat → List Nat → Bool
  | _, [] => true
  | lo, k :: t => (match lo with | none => true | some j => j < k) && nsorted (some k) t

/-- The element at position i of a list, `d` beyond its end. -/
def lget {β : Type} (d : β) : List β → Nat → β
  | [], _ => d
  | v :: _, 0 => v
  | _ :: t, n + 1 => lget d t n

/-- The list with f applied at position i. -/
def lupd {β : Type} (f : β → β) : List β → Nat → List β
  | [], _ => []
  | v :: t, 0 => f v :: t
  | v :: t, n + 1 => v :: lupd f t n

/-- n copies. -/
def lrep {β : Type} (v : β) : Nat → List β
  | 0 => []
  | n + 1 => v :: lrep v n

/-- 0, 1, ... n - 1. -/
def upTo (n : Nat) : List Nat := List.range n

/-- The lane numbers of a warp. -/
def laneNumbers : List Nat :=
  [0, 1, 2, 3, 4, 5, 6, 7, 8, 9, 10, 11, 12, 13, 14, 15, 16, 17, 18, 19, 20, 21, 22, 23, 24, 25, 26, 27,
    28, 29, 30, 31]

/-- A set of lanes (R7). -/
abbrev LaneMask := BitVec 32

/-- The lanes of a mask, ascending. -/
def lanesOf (m : LaneMask) : List Nat := laneNumbers.filter (fun l => m.getLsbD l)

/-- The mask of the lanes that satisfy f. -/
def maskOf (f : Nat → Bool) : LaneMask :=
  BitVec.ofNat 32 (laneNumbers.foldl (fun acc l => if f l then acc + 2 ^ l else acc) 0)

/-- The lowest lane of a mask, 0 for none. -/
def lowestLane (m : LaneMask) : Nat := (lanesOf m).headD 0

end Sys2Proof.Machine
end

