-- ==== Sys2Proof/Machine/State.lean ====
section
/-! DEFINITION. The state of a Kalmir package as plain data: everything the manual gives the machine, the
messages in flight, and the model's own choice of what moves next. Tables are sparse (Sparse.lean); an
absent key stands for the record the table's accessor names. -/

namespace Sys2Proof.Machine

/-! ## Faults and refusals of the model -/

/-- Why the machine stops. Every fault the manual describes is a trap and a next state (R367); this type
holds what ends the machine itself. -/
inductive Fault where
  /-- step, once the thermal trip has removed the package's power (R401, R402): nothing of the machine
  acts again. Safe: the hardware does nothing either. -/
  | powerRemoved
  deriving DecidableEq, Repr, Inhabited

/-- Why the model gives no next state. -/
inductive Refusal where
  /-- exec, for an instruction that has no meaning yet. Safe: a run stops there. -/
  | notModelled (mnemonic : String)
  deriving DecidableEq, Repr, Inhabited

/-! ## Faults of a warp (R363, R364) -/

/-- The causes of R364. -/
inductive Cause where
  | illegal | privileged | translation | permission | ownerLost | emptyRegister | copyRights
  | matrixFormat | matrixMetadata | orderedMode | hostAtomic | poison | watchdog | watchpoint
  | breakpoint | trap
  deriving DecidableEq, Repr, Inhabited

/-- The cause code (R364). -/
def Cause.code : Cause → Nat
  | .illegal => 0x01
  | .privileged => 0x02
  | .translation => 0x03
  | .permission => 0x04
  | .ownerLost => 0x05
  | .emptyRegister => 0x06
  | .copyRights => 0x07
  | .matrixFormat => 0x08
  | .matrixMetadata => 0x09
  | .orderedMode => 0x0A
  | .hostAtomic => 0x0B
  | .poison => 0x0C
  | .watchdog => 0x0D
  | .watchpoint => 0x0E
  | .breakpoint => 0x0F
  | .trap => 0x10

/-- A fault with its report (R363, R38): `own` and `ownTick` are OWNID and OWNTK of an owner-lost fault
(R217), `xlstat` is XLSTAT of a translation fault (R317). -/
structure Trap where
  cause   : Cause
  qual    : Nat := 0
  lanes   : LaneMask := 0
  low     : Nat := 0
  addr    : DWord := 0
  pc      : DWord := 0
  own     : DWord := 0
  ownTick : DWord := 0
  xlstat  : DWord := 0
  tick    : DWord := 0
  /-- the fault arrived apart from an issue: watchdog, matrix step or fixer application (R365, R368) -/
  apart   : Bool := false
  deriving DecidableEq, Repr, Inhabited

/-! ## Warps (R19 to R40, R110 to R123) -/

/-- Where a lane waits at a barrier (R344, R348). -/
inductive BarrierWait where
  | none
  /-- at a `BAR` of a scope -/
  | bar (scope : Nat)
  /-- at a `FIX` of a scope code -/
  | fix (scope : Nat)
  deriving DecidableEq, Repr, Inhabited

/-- Where a lane had gone on to when the data of an earlier instruction brought it back there (R61). -/
structure Ahead where
  pc       : DWord
  exited   : Bool := false
  released : Bool := false
  bar      : BarrierWait := .none
  dcwait   : Option Nat := .none
  dcready  : Bool := false
  deriving DecidableEq, Repr, Inhabited

/-- One lane of a warp. -/
structure Lane where
  /-- program counter, bits 56..0 (R120) -/
  pc       : DWord := 0
  /-- exited (R121) -/
  exited   : Bool := true
  /-- patience count (R111) -/
  starve   : Nat := 0
  /-- released from the `.join` it stands at (R115) -/
  released : Bool := false
  /-- p0 to p6; p7 always reads true (R22) -/
  preds    : BitVec 7 := 0
  /-- busy predicates (R28) -/
  busy     : BitVec 7 := 0
  /-- RNGS, and the start value that RNGSEED returns to (R35, R109) -/
  rngs     : DWord := 0
  start    : DWord := 0
  /-- TIDX, TIDY, TIDZ (R32) -/
  tid      : List Word := []
  /-- LVL0 to LVL7 (R32) -/
  lvl      : List Word := []
  /-- MODEL: where it goes on once it has passed the instruction at which a fault of its data put it back
  (R61), the innermost first -/
  ahead    : List Ahead := []
  /-- where the lane stands at a barrier (R344) -/
  bar      : BarrierWait := .none
  /-- the dependence counter whose transition to zero the lane awaits (R340) -/
  dcwait   : Option Nat := .none
  /-- a transition to zero has come since the lane reached its DCWAIT (R339) -/
  dcready  : Bool := false
  deriving DecidableEq, Repr, Inhabited

/-- The matrix restart record (R427). -/
structure Restart where
  valid : Bool := false
  /-- 0 `MMA`, 1 `MMA.bmp`, 2 `MMAS` -/
  form  : Nat := 0
  kb    : Nat := 0
  addr  : Nat := 0
  lane  : Nat := 0
  b     : Nat := 0
  c     : Nat := 0
  dst   : Nat := 0
  deriving DecidableEq, Repr, Inhabited

/-- A bump pointer with its companion (R202). -/
structure Bump where
  ptr  : Nat := 0
  comp : Nat := 0
  deriving DecidableEq, Repr, Inhabited

/-- A warp in its berth, or in the handler window (R366). -/
structure Warp where
  /-- the berth holds a warp -/
  live      : Bool := false
  /-- the resident block it belongs to -/
  block     : Nat := 0
  /-- WARP bits 5..0 -/
  index     : Nat := 0
  /-- allocated vector and uniform registers (R20) -/
  vregs     : Nat := 0
  sregs     : Nat := 0
  vbase     : Nat := 0
  sbase     : Nat := 0
  lanes     : List Lane := []
  /-- q0 to q2; q3 always reads true (R22) -/
  qpreds    : BitVec 3 := 0
  qbusy     : BitVec 3 := 0
  /-- PART (R33) -/
  part      : Nat := 5
  /-- FLAGS (R34) -/
  flags     : FlagMask := 0
  /-- FMT0 to FMT7 (R36) -/
  fmts      : List Word := []
  /-- MSTAT (R37) -/
  mstat     : DWord := 0
  /-- R427 -/
  restart   : Restart := {}
  /-- a restored operation that a quantum end stopped is still to be restarted (R158) -/
  rerun     : Bool := false
  /-- clocks the most recent matrix operation waited for tokens (R163) -/
  tokenWait : Nat := 0
  /-- R123 -/
  asleep    : Bool := false
  sleepTick : DWord := 0
  wakeLatch : Bool := false
  /-- R111 -/
  yieldPending : Bool := false
  yieldPc   : DWord := 0
  yielders  : LaneMask := 0
  /-- stopped by `TRET` 2, a `GRPCTL` stop or a debug stop (R368, R373, R378) -/
  stopped   : Bool := false
  /-- one issue group is allowed before the warp stops again (R378) -/
  stepping  : Bool := false
  /-- the report latch (R369) -/
  latch     : Option DWord := .none
  /-- the fault that waits for the handler or is served (R367) -/
  fault     : Option Trap := .none
  /-- faults that arrived apart from an issue while another one was waiting or served (R199, R347) -/
  later     : List Trap := []
  /-- arithmetic clocks in which the warp has issued nothing (R374) -/
  idle      : Nat := 0
  /-- the clock of its last issue plus one; 0 before the first (R113) -/
  lastIssue : Nat := 0
  /-- instructions issued, the issue sequence of fixer entries (R199) -/
  issued    : Nat := 0
  /-- local atomics performed since the block's last fix point (R200) -/
  localCount : Nat := 0
  /-- global memory instructions issued since the warp started, RCLK (R357) -/
  rclk      : Nat := 0
  /-- the 32-entry table of (line, clock) of the replay log, latest first (R357) -/
  seen      : List (Nat × Nat) := []
  /-- sub-arena pointer of an ordered block (R202) -/
  bump      : Bump := {}
  /-- stands at a safe point for a switch or a `CTXSV` of its block (R117, R381, R383) -/
  parked    : Bool := false
  deriving DecidableEq, Repr, Inhabited

/-! ## In-flight results and accesses -/

/-- A word a producer will write: its key in the store, the value and its poison. -/
structure Landing where
  key    : Nat
  value  : Word
  poison : Bool := false
  deriving DecidableEq, Repr, Inhabited

/-- Which producer a pending result belongs to (R26). -/
inductive ProdKind where
  | sfu | shfl | mnext | rres | sqpop | pcrd | lclk | grprd
  deriving DecidableEq, Repr, Inhabited

/-- A pending result of a producer that lets its lanes go on (R26): the words it will write, the flags
it raises on landing, the clock before which it does not land, and what it waits for: the sheet of `PCRD` (R354), the line of `LCLK` (R356), the target of `GRPRD` (R379). -/
structure Prod where
  kind    : ProdKind
  warp    : Nat
  words   : List Landing := []
  flags   : FlagMask := 0
  after   : Nat := 0
  order   : Nat := 0
  arg     : Nat := 0
  arg2    : Nat := 0
  lanes   : LaneMask := 0
  deriving DecidableEq, Repr, Inhabited

/-- A translated address (R165): the physical byte address, the leaf entry, and the page. -/
structure Phys where
  pa   : Nat
  leaf : DWord
  base : Nat
  size : Nat
  /-- the context and the virtual base of the translation -/
  ctx  : Nat := 0
  virt : Nat := 0
  deriving DecidableEq, Repr, Inhabited

/-- Where a lane's bytes lie. -/
inductive Place where
  /-- a local byte address of a core's store -/
  | loc (core addr : Nat)
  /-- a translated global address, with its virtual one -/
  | glob (p : Phys) (va : Nat)
  deriving DecidableEq, Repr, Inhabited

/-- What a memory instruction in flight does with its data; `stt` is an `STT.aon` (R191). -/
inductive TxnKind where
  | ld | ldu | ldt | gath | atom | red | cas | fatom | macc | stt
  deriving DecidableEq, Repr, Inhabited

/-- One 32-bit word that a lane of a memory instruction awaits or has: `word` is its physical byte
address divided by 4. -/
structure TxnWord where
  lane   : Nat
  index  : Nat
  word   : Nat
  va     : DWord
  ready  : Bool := false
  value  : Word := 0
  poison : Bool := false
  lost   : Bool := false
  own    : DWord := 0
  ownTick : DWord := 0
  deriving DecidableEq, Repr, Inhabited

/-- A memory instruction in flight (R61, R183). -/
structure Txn where
  kind   : TxnKind
  warp   : Nat
  pc     : DWord
  len    : Nat
  x      : Long
  lanes  : LaneMask
  words  : List TxnWord
  /-- operands of an atomic, per lane: (lane, compare, value) -/
  args   : List (Nat × Nat × Nat) := []
  /-- lanes still to be performed at their homes (R195) -/
  todo   : List Nat := []
  /-- physical byte address of each lane -/
  addrs  : List (Nat × Nat) := []
  /-- old values of performed lanes, and the lanes that failed -/
  olds   : List (Nat × Nat) := []
  /-- lanes whose atomic assist was refused (R284) -/
  refused : List Nat := []
  scope  : Nat := 0
  tries  : Nat := 0
  tick   : DWord := 0
  /-- of a versioned tile (R191, R192): which step is under way, the version read, where the version and the
  lanes' elements lie -/
  phase  : Nat := 0
  version : Word := 0
  vplace : Option Place := .none
  places : List (Nat × Place) := []
  /-- the handler run that issued it is over (R366) -/
  stale  : Bool := false
  /-- RCLK of the warp at issue (R357) -/
  rclk   : Nat := 0
  /-- MODEL: acquires of the core before it was issued -/
  age    : Nat := 0
  deriving DecidableEq, Repr, Inhabited

/-- A traced request of a line (R359, R360): the warp's key and RCLK that name its instruction, and what its record
holds; `hops` says which hops it crosses, `done` when it has completed. -/
structure Sample where
  wk     : Nat
  rclk   : Nat
  line   : Nat
  index  : Nat
  pc     : Nat
  va     : Nat
  kind   : Nat
  served : Nat
  hops   : List Bool
  tick   : DWord
  done   : Option DWord := .none
  deriving DecidableEq, Repr, Inhabited

/-! ## Coherence (R205 to R216) -/

/-- A word in a core's near cache (R207). -/
structure NearWord where
  /-- a Valid or Registered copy is held -/
  held    : Bool := false
  /-- Registered -/
  reg     : Bool := false
  /-- request pending -/
  reqPend : Bool := false
  /-- fill pending -/
  fillPend : Bool := false
  /-- bytes a sub-word store has written while the fill is pending -/
  bytes   : BitVec 4 := 0
  value   : Word := 0
  poison  : Bool := false
  /-- line clock of the copy's fill (R213) -/
  clock   : Nat := 0
  /-- the block whose warp stored it last, and that warp's index (R216) -/
  block   : Nat := 0
  warp    : Nat := 0
  /-- the warp whose access claimed the word, its index, and its RCLK then (R357) -/
  asker   : Nat := 0
  askIdx  : Nat := 0
  rclk    : Nat := 0
  /-- the warp whose PREF asked for the word, its block and index, and its RCLK then (R357) -/
  pref    : Option (Nat × Nat × Nat × Nat) := .none
  /-- write-back pending: the kept copy (R210), and the block whose store it held -/
  kept    : Bool := false
  keptVal : Word := 0
  keptPoison : Bool := false
  keptBlock : Nat := 0
  /-- the block whose access claimed the word; its Reg, while a write-back of the word is not acknowledged, is
  still to be sent: whether data are wanted, and its order (R210, R212) -/
  reqBlock : Nat := 0
  unsent  : Option (Bool × Nat) := .none
  /-- how the claim of a store in ordered mode stands: 0 none, 1 asked for, 2 refused, 3 found Lost (R222, R224) -/
  claim   : Nat := 0
  /-- the Registered copy holds an uncorrectable error (R216) -/
  err     : Bool := false
  /-- a Drop that follows the Ack of the word's Reg, with its reason (R216) -/
  dropping : Option Nat := .none
  /-- a Fwd, Xfer or Recall that waits for the fill or for the engine's write (R210, R214) -/
  owed    : List Event := []
  deriving DecidableEq, Repr, Inhabited

/-- A word in the request table of an engine (R214): registered, whether its Reg is acknowledged, whether the
word's old value has come where it was wanted, whether it has been written, and whether its Wb has been sent;
`copy` is the operation, `next` the later operations of the engine on the word and whether they want its old
value. -/
structure EngineWord where
  used    : Bool := false
  acked   : Bool := false
  filled  : Bool := false
  written : Bool := false
  sent    : Bool := false
  /-- the home serves it as an access of a page in host bias, of these bytes (R176, R177) -/
  host    : Bool := false
  mask    : BitVec 4 := 0
  next    : List (Nat × Bool) := []
  value   : Word := 0
  poison  : Bool := false
  copy    : Nat := 0
  owed    : List Event := []
  deriving DecidableEq, Repr, Inhabited

/-- An owner slot of a registry entry (R208). -/
structure Slot where
  agent : Nat
  age   : Nat
  deriving DecidableEq, Repr, Inhabited

/-- A line's registry entry (R208), the requests stalled behind a recall (R209), and the deferred values
of ordered mode with their poison (R222). -/
structure Line where
  slots    : List (Option Slot) := [.none, .none, .none, .none]
  /-- 32 word codes -/
  codes    : List (BitVec 3) := []
  clock    : BitVec 16 := 0
  /-- last registering agent per word, for the replay log (R357) -/
  writers  : List (Nat × Nat) := []
  stalled  : List Event := []
  pulling  : Option Nat := .none
  late     : List (Nat × Word × Bool × Nat) := []
  /-- block of an ordered launch that registered a word: (word, launch, logical index) (R222) -/
  orders   : List (Nat × Nat × Nat) := []
  deriving DecidableEq, Repr, Inhabited

/-- A timer of a Fwd, Xfer or Recall (R215). -/
structure Timer where
  word  : Nat
  owner : Nat
  /-- 0 Fwd, 1 Xfer that wants data, 2 Xfer that wants none, 3 Recall, 4 Xfer to the home for an atomic -/
  kind  : Nat
  /-- the reader or new owner; of kind 4 the access -/
  other : Nat
  limit : Nat
  deriving DecidableEq, Repr, Inhabited

/-- What identifies the issue whose instruction is executed: the core, the berth (64 the handler
window), the issue group, its PC, the instruction's length, and the fields of an operation that is bound
when it runs. -/
structure Issue where
  core  : Nat := 0
  berth : Nat := 0
  lanes : LaneMask := 0
  pc    : DWord := 0
  len   : Nat := 0
  x     : Long := default
  deriving DecidableEq, Repr, Inhabited

/-! ## Blocks and launches (R25, R171, R202, R293 to R305) -/

/-- One entry of the fixer (R199). -/
structure FixEntry where
  addr  : DWord
  value : DWord
  op    : Nat
  ty    : Nat
  lane  : Nat
  warp  : Nat
  seq   : Nat
  block : Nat
  deriving DecidableEq, Repr, Inhabited

/-- What a resident block is doing. -/
inductive BlockMode where
  | running
  /-- a quantum end or pre-emption waits for each warp's safe point (R383) -/
  | saving
  /-- its image lies in the save area (R383) -/
  | saved
  /-- saved at a debugger's request and not placed again until asked for (R412) -/
  | held
  /-- its last warp has ended (R121) -/
  | ended
  /-- retired (R302) -/
  | retired
  /-- discarded (R368) -/
  | discarded
  deriving DecidableEq, Repr, Inhabited

/-- A block that the dispatcher has placed. -/
structure Block where
  launch  : Nat := 0
  core    : Nat := 0
  /-- logical index (R297) -/
  index   : Nat := 0
  /-- first block of its gang (R296) -/
  gang    : Nat := 0
  /-- translation context (R308) -/
  ctx     : Nat := 0
  warps   : Nat := 0
  /-- berths of the warps, in warp order -/
  berths  : List Nat := []
  vregs   : Nat := 0
  sregs   : Nat := 0
  vbases  : List Nat := []
  sbases  : List Nat := []
  spBase  : Nat := 0
  spSize  : Nat := 0
  accBase : Nat := 0x3FFFFF
  tiles   : Nat := 0
  ordered : Bool := false
  nopre   : Bool := false
  prodw   : Nat := 0
  wdog    : Nat := 0
  /-- base and size of the block's arena (R202) -/
  arena   : Nat := 0
  arenaN  : Nat := 0
  bump    : Bump := {}
  cbase   : Nat := 0
  csize   : Nat := 0
  prio    : Nat := 0
  mode    : BlockMode := .running
  /-- running clocks since the block's count restarted (R383) -/
  clocks  : Nat := 0
  fixer   : List FixEntry := []
  /-- entries of a fix point that have still to be applied (R346) -/
  batch   : List FixEntry := []
  /-- offset and size of its image in the core's save area (R385) -/
  image   : Nat := 0
  imageN  : Nat := 0
  /-- the save was asked for with hold (R412) -/
  hold    : Bool := false
  /-- a `CTXSV` stops its warps at their safe points (R381) -/
  halting : Bool := false
  /-- what the image does not hold of each warp: issues, local atomics, RCLK -/
  counts  : List (Nat × Nat × Nat) := []
  /-- of a switched-out block, the lanes that stand at a DCWAIT: warp, lane, counter, ready (R339) -/
  waits   : List (Nat × Nat × Nat × Bool) := []
  /-- MODEL: of a switched-out block, where lanes that a fault of data has put back go on: warp, lane (R61) -/
  aheads  : List (Nat × Nat × List Ahead) := []
  deriving DecidableEq, Repr, Inhabited

/-- Where a launch stands. -/
inductive LaunchMode where
  /-- taken, a deadline launch that has not started (R303) -/
  | deciding
  | started
  | done
  deriving DecidableEq, Repr, Inhabited

/-- A launch the dispatcher holds (R292 to R305). -/
structure Launch where
  queue   : Nat := 0
  ctx     : Nat := 0
  prio    : Nat := 0
  order   : Nat := 0
  /-- the 32 words of its record (R293) -/
  words   : List Word := []
  /-- fallback variants: kernel, parameter, register word, worst case (R293) -/
  variants : List (DWord × DWord × Word × Nat) := []
  mode    : LaunchMode := .started
  /-- 0 primary, 1 or 2 variant (R305) -/
  ran     : Nat := 0
  miss    : Bool := false
  late    : Bool := false
  ready   : DWord := 0
  /-- logical index of its first block (R296), its blocks, those placed and those over -/
  base    : Nat := 0
  blocks  : Nat := 0
  next    : Nat := 0
  ended   : Nat := 0
  status  : List Nat := []
  /-- a gang that waits since a tick, and the cluster reserved for it (R301) -/
  waiting : Option DWord := .none
  reserved : Option Nat := .none
  preempted : Bool := false
  /-- cores that the rest of a gang goes to, and the gang's first block (R300, R301) -/
  gangLeft : List Nat := []
  gangOf   : Nat := 0
  deriving DecidableEq, Repr, Inhabited

/-- What the dispatcher keeps of a command queue beside its descriptor (R299, R309). -/
structure Queue where
  readyAt : Option DWord := .none
  /-- a transition to zero of its head's counter has been seen (R339) -/
  seen    : Bool := false
  /-- not served since a failed translation (R309) -/
  stopped : Bool := false
  deriving DecidableEq, Repr, Inhabited

/-! ## Cores and clusters -/

/-- A piece of a context image whose translation a `CTXSV` holds (R381): context, physical address and length
of the piece, and whether its page is never cached. -/
structure SavePiece where
  ctx    : Nat
  pa     : Nat
  len    : Nat
  direct : Bool
  deriving DecidableEq, Repr, Inhabited

/-- A matrix operation in a core's queue (R134, R149): whose it is, the order in which it entered, its form, `.kb`
select, lane l0 and parameter block, and what it has read at issue (R133, R150): the format register, the
k-groups of its steps, the bitmap rows of A and columns of B and the first poisoned word of theirs, the scale
words of A's rows and B's columns, and the metadata words of A's rows. `zero` says that the tile is still to be
zeroed. -/
structure MatOp where
  warp   : Nat
  order  : Nat
  block  : Nat
  form   : Nat
  kb     : Nat
  lane   : Nat
  pb     : List Word
  fmt    : Word
  groups : List Nat
  step   : Nat
  zero   : Bool
  maskA  : List Nat
  maskB  : List Nat
  badMask : Option Nat
  scaleA : List Word
  scaleB : List Word
  metadata : List Word
  deriving DecidableEq, Repr, Inhabited

/-- A range of the range scoreboard (R136, R270): local addresses lo <= a < hi of a core's store; `dest` says that
loads wait as well; `own` is whose range it is, by kind: 0 a copy, 1 a warp's matrix operation, 2 a push. -/
structure Hold where
  core : Nat
  lo   : Nat
  hi   : Nat
  dest : Bool
  kind : Nat
  own  : Nat
  deriving DecidableEq, Repr, Inhabited

/-- An SFU result queue entry is a `Prod`; the core keeps its performance counters, its handler run and
its power state. -/
structure Core where
  /-- the block the handler window serves and the served warp's berth (R366, R367) -/
  serving : Option Nat := .none
  trapc   : DWord := 0
  trapa   : DWord := 0
  trapp   : DWord := 0
  /-- OWNID, OWNTK (R217), XLSTAT (R317) -/
  ownid   : DWord := 0
  owntk   : DWord := 0
  xlstat  : DWord := 0
  /-- near-cache size in 64 KiB units, 0 for an empty core (R172) -/
  ncache  : Nat := 0
  /-- sleeping and power-gated (R123) -/
  gated   : Bool := false
  /-- the matrix queue, the running operation first (R134) -/
  matrix  : List MatOp := []
  /-- the range scoreboard (R136, R270) -/
  holds   : List Hold := []
  /-- event and value of the eight performance counters (R352) -/
  events  : List Nat := []
  counts  : List Nat := []
  /-- cycles of the last 64 in which the handler window issued, one bit each (R113) -/
  handler : BitVec 64 := 0
  /-- global line requests counted for the tracer (R359) -/
  requests : Nat := 0
  /-- the served fault arrived apart from an issue, so `TRET` 1 acts as `TRET` 0 (R368) -/
  apart   : Bool := false
  /-- the image of a `CTXSV` that waits (R381) -/
  pieces  : List SavePiece := []
  /-- lines of traced requests with the clock of each (R359) -/
  traced  : List (Nat × Nat) := []
  deriving DecidableEq, Repr, Inhabited

/-- A binding's record at the home of its descriptor's line (R245). -/
structure Binding where
  cluster : Nat
  handle  : Nat
  deriving DecidableEq, Repr, Inhabited

/-- A version of a manifest that is live (R250). -/
structure Version where
  number : Nat
  dir    : Nat
  count  : Nat
  elems  : Nat
  plates : List Nat
  dirPlates : List Nat
  deriving DecidableEq, Repr, Inhabited

/-- What a manifest unit keeps of one binding (R242, R245, R259). -/
structure Bound where
  used   : Bool := false
  /-- physical address of the descriptor, its virtual address and context -/
  desc   : Nat := 0
  va     : Nat := 0
  ctx    : Nat := 0
  word0  : Word := 0
  pool   : DWord := 0
  /-- live versions, the current one first -/
  live   : List Version := []
  result : Nat := 0
  status : Nat := 0
  deriving DecidableEq, Repr, Inhabited

/-- An entry of a cluster's landing queue (R248). -/
structure Landed where
  handle : Nat
  remove : Bool
  key    : Nat
  off    : Nat
  pay    : Nat
  deriving DecidableEq, Repr, Inhabited

/-- A word that a manifest unit has still to write (R214, R251): its space as a move's, its physical byte address, the
bits set and those cleared; all of them where the whole word is new. -/
structure UnitWord where
  sp    : Nat
  pa    : Nat
  set   : Word
  clear : Word
  deriving DecidableEq, Repr, Inhabited

/-- An operation of a manifest unit that writes words as an engine does (R214): a develop's, by the develop's number,
or the bitmap's marks of a binding or of versions that are over; the core that issued it, if one did, and the words
that are still to be written. -/
structure UnitJob where
  id     : Nat
  handle : Nat
  core   : Option Nat
  words  : List UnitWord
  deriving DecidableEq, Repr, Inhabited

/-- A develop accepted and not completed (R251, R258): it takes the first `take` entries of its binding that
earlier develops leave. Once started it holds its status, its count for `MCNT` and the version that its job writes. -/
structure Develop where
  id     : Nat := 0
  handle : Nat
  unbind : Bool
  take   : Nat
  core   : Nat
  comp   : Word
  /-- the warp that issued it was the handler (R313) -/
  priv   : Bool := false
  started : Bool := false
  status : Nat := 0
  result : Nat := 0
  version : Option Version := .none
  deriving DecidableEq, Repr, Inhabited

/-- An entry of a unit's cursor table (R253). -/
structure Cursor where
  handle  : Nat
  version : Nat
  block   : Nat
  deriving DecidableEq, Repr, Inhabited

/-- A channel of a survivor queue (R263 to R267). -/
structure Channel where
  bound  : Bool := false
  block  : Nat := 0
  /-- local address of the record, its RING, and its word 1 -/
  recd   : Nat := 0
  ring   : Nat := 0
  shape  : Word := 0
  token  : Nat := 0
  rows   : Nat := 0
  /-- completed tiles and pops -/
  filled : Nat := 0
  popped : Nat := 0
  /-- map words of the tiles not yet popped, the oldest first; where rows are pending the last one is being filled -/
  maps   : List (List Word) := []
  flushed : Bool := false
  deriving DecidableEq, Repr, Inhabited

/-- Rows that a push or a flush has still to write (R265, R267): source address (2^22 for a row of zeros),
destination address and tile, in order. -/
structure Push where
  id   : Nat
  chan : Nat
  core : Nat
  block : Nat
  rowb : Nat
  rows : List (Nat × Nat × Nat)
  deriving DecidableEq, Repr, Inhabited

/-- A cluster: its manifest unit, its survivor queue and its pilot token. -/
structure Cluster where
  token   : Bool := false
  /-- clock of the token's capture -/
  since   : Nat := 0
  bound   : Table Bound := []
  landing : List Landed := []
  develops : List Develop := []
  jobs    : List UnitJob := []
  cursors : Table Cursor := []
  channels : Table Channel := []
  pushes  : List Push := []
  deriving DecidableEq, Repr, Inhabited

/-! ## Engines of the tender and of the fabric -/

/-- Where a copy stands. -/
inductive CopyMode where
  /-- held until its release tick (R279) -/
  | held
  | ready
  | running
  deriving DecidableEq, Repr, Inhabited

/-- One destination word a copy writes: its space and byte address, and for each byte of it that is written
(number of the byte, source space, source byte address). Spaces: 0 local (core x 2^22 + local address),
1 global under registration, 2 a fabric window, 3 global without registration. -/
structure Move where
  dstSp : Nat
  dst   : Nat
  srcs  : List (Nat × Nat × Nat)
  deriving DecidableEq, Repr, Inhabited

/-- An accepted copy or fabric transfer (R269 to R282). -/
structure Copy where
  mode   : CopyMode := .ready
  core   : Nat := 0
  block  : Nat := 0
  store  : Bool := false
  moves  : List Move := []
  comp   : Word := 0
  /-- release tick, and whether it has been released (R279) -/
  tick   : DWord := 0
  released : Bool := false
  timed  : Bool := false
  port   : Option Nat := .none
  /-- first destination address, and whether it is virtual -/
  first  : Nat := 0
  virt   : Bool := false
  /-- an error-log record has been written (R277) -/
  bad    : Bool := false
  /-- a timed transfer has the port (R281) -/
  sending : Bool := false
  deriving DecidableEq, Repr, Inhabited

/-- Where a collective stands (R288, R289). -/
inductive CollMode where
  | running
  | held (since : Nat)
  | ending (status : Nat)
  deriving DecidableEq, Repr, Inhabited

/-- An open collective (R286 to R289). Buffers are lists of words as (space, byte address), with the offset of
the first element in the first word; `members` are the members' nodes in rank order. -/
structure Coll where
  mode   : CollMode := .running
  core   : Nat := 0
  block  : Nat := 0
  desc   : Nat := 0
  comp   : Word := 0
  op     : Nat := 0
  rop    : Nat := 0
  type   : Nat := 0
  chunk  : Nat := 12
  srcs   : List (Nat × Nat) := []
  srcOff : Nat := 0
  dsts   : List (Nat × Nat) := []
  dstOff : Nat := 0
  count  : Nat := 0
  rank   : Nat := 0
  members : List Nat := []
  /-- elements of the destination written so far -/
  done   : Nat := 0
  chunkStart : Nat := 0
  iodie  : Nat := 0
  seq    : Nat := 0
  /-- the peers have been matched with it -/
  matched : Bool := false
  /-- this package stopped while it was open -/
  stoppedHere : Bool := false
  /-- members whose packages are stopped, and whether this package is one of them (R289) -/
  stops  : Nat := 0
  own    : Bool := false
  /-- the port that carries it, and the bursts that the port has granted its chunk (R280, R281) -/
  port   : Nat := 0
  bursts : Nat := 0
  bad    : Bool := false
  deriving DecidableEq, Repr, Inhabited

/-- A message that leaves the package by a Quayline port: kinds 0 to 6 are requests through a window
(State.sendOut), kinds from 16 on answers to requests of other nodes. -/
structure OutMsg where
  node : Nat
  kind : Nat
  addr : Nat
  data : DWord
  tag  : Nat
  /-- what a compare-and-swap compares with, or 1 for data that are poisoned -/
  cmp  : DWord := 0
  deriving DecidableEq, Repr, Inhabited

/-! ## Rays (R318 to R336) -/

/-- A real number base + root or base - root, root the square root of an exact number not below zero. -/
structure Surd where
  base  : Exact
  rad   : Exact := ⟨false, 0, 1, 0⟩
  minus : Bool := false
  deriving DecidableEq, Repr, Inhabited

/-- A hit of a ray (R322): its exact parameter decides the order, the words are the rounded values; `leaf` is
the leaf record in which the primitive was found. -/
structure Hit where
  t     : Surd
  prim  : Nat
  tWord : Word
  u     : Word
  v     : Word
  front : Bool
  kind  : Nat
  opaque_ : Bool
  leaf  : Nat := 0
  deriving DecidableEq, Repr, Inhabited

/-- Where a ray stands (R329 to R334). -/
inductive RayMode where
  /-- issued, not started (R330) -/
  | waiting
  /-- VERSION read and the sounding table looked up -/
  | started
  /-- a candidate is in the slot -/
  | candidate
  /-- a final status is in the slot -/
  | final
  deriving DecidableEq, Repr, Inhabited

/-- A ray in a slot of a lane: `warp` names the block's warp and not its berth, so that it survives a
switch (R329). `rootWords` is the root record as read at its start (R330), `key` its sounding key, `handed`
says that an RRES has been handed the current candidate. -/
structure Ray where
  mode    : RayMode
  core    : Nat
  block   : Nat
  warp    : Nat
  lane    : Nat
  slot    : Nat
  root    : DWord
  flags   : Word
  data    : List Word
  ctx     : Nat := 0
  priv    : Bool := false
  rootWords : List Word := []
  key     : Nat := 0
  /-- leaf record predicted by the sounding table (R327) -/
  leaf    : Option Nat := .none
  status  : Nat := 0
  cands   : List Hit := []
  closest : Option Hit := .none
  result  : Option Hit := .none
  count   : Nat := 0
  handed  : Bool := false
  deriving DecidableEq, Repr, Inhabited

/-- An entry of a sounding table (R325). -/
structure Sounding where
  valid   : Bool := false
  tag     : Nat := 0
  hid     : Nat := 0
  version : Word := 0
  leaf    : Nat := 0
  deriving DecidableEq, Repr, Inhabited

/-! ## Translation, homes and the edges -/

/-- A cached translation (R314): context, first address and size of its page, and the leaf entry. -/
structure Cached where
  ctx  : Nat
  base : Nat
  size : Nat
  leaf : DWord
  deriving DecidableEq, Repr, Inhabited

/-- A translation by which a pinned page has been accessed (R169): its context and virtual base, and whether the
invalidation that runs has removed it (R316). -/
structure PinUser where
  ctx  : Nat
  virt : Nat
  gone : Bool := false
  deriving DecidableEq, Repr, Inhabited

/-- A pinned page (R169): its physical base and size, the unit that keeps it, 1 + slice or 1024 + core, and the
translations by which it has been accessed. -/
structure Pin where
  base  : Nat
  size  : Nat
  unit  : Nat
  users : List PinUser
  deriving DecidableEq, Repr, Inhabited

/-- The flip of a page's bias that runs (R176, R177), with the tick up to which the host may acknowledge one to
device bias. -/
structure Flip where
  toHost : Bool
  base   : Nat
  size   : Nat
  limit  : DWord
  deriving DecidableEq, Repr, Inhabited

/-- The security processor's mailbox (R396, R397). -/
structure Mailbox where
  status  : Nat := 0
  /-- the command that runs: 1 attest, 2 unlock, 0 none -/
  command : Nat := 0
  input   : Table Word := []
  output  : Table Word := []
  /-- the nonce of the latest report has been used by a token, or there is none -/
  used    : Bool := true
  failed  : Nat := 0
  unlocked : Bool := false
  /-- digests of accepted headers since reset, the boot image's apart (R395) -/
  measured : List Nat := []
  /-- only RECOVERY images are accepted, and none has been yet (R395, R398) -/
  recovery : Bool := false
  deriving DecidableEq, Repr, Inhabited

/-- The servo of the tick (R349, R350, R393). -/
structure Servo where
  /-- a forward step has been asked for -/
  step    : Bool := false
  /-- good measurements in a row, 8 at the most -/
  good    : Nat := 0
  /-- tick of the last added count -/
  lastAdd : DWord := 0
  /-- the offset that is still to be driven to 0 -/
  left    : Int := 0
  /-- the last event message: port, kind and its time stamp (R393) -/
  stamp   : Nat × Nat × DWord := (0, 0, 0)
  deriving DecidableEq, Repr, Inhabited

/-- Throttling (R402). -/
structure Power where
  step    : Nat := 0
  /-- tick at which step 1 was entered, and since when the cause of the step has been absent (1 + tick) -/
  since   : DWord := 0
  absent  : DWord := 0
  deriving DecidableEq, Repr, Inhabited

/-- A lock of a line held for another node's atomic assist (R284). -/
structure LineLock where
  node  : Nat
  line  : Nat
  since : DWord
  deriving DecidableEq, Repr, Inhabited

/-- A select of a performance counter that has not taken effect (R353). -/
structure Select where
  counter : Nat
  event   : Nat
  tick    : DWord
  deriving DecidableEq, Repr, Inhabited

/-! ## The state -/

/-- A Kalmir package. -/
structure State where
  /-- MODEL: what moves next (R426) -/
  turn     : Turn
  /-- MODEL: the event that is being executed -/
  now      : Event
  /-- MODEL: the issue whose instruction is being executed -/
  cur      : Issue
  /-- MODEL: steps taken; the next turn is an open value of it -/
  steps    : Nat
  /-- MODEL: counter of the open values used so far -/
  freeNo   : Nat
  /-- messages and landings in flight, the oldest first (R210 to R212) -/
  agenda   : List Event
  /-- arithmetic clocks since reset -/
  clk      : Nat
  /-- TICK (R349) -/
  tick     : DWord
  /-- the words of every core's store and handler window: key core x 0x200000 + local address / 4, the
  handler window from word 0x100000 of its core (R23, R170, R366) -/
  store    : Table Word
  /-- register words that are empty (R26) -/
  empty    : List Nat
  /-- poisoned store words (R30) -/
  poison   : List Nat
  /-- physical memory with the home's copies (R166, R208) -/
  mem      : List Host.Cell
  /-- poisoned words of it (R375), by physical address / 4 -/
  memPoison : List Nat
  /-- near-cache words: key core x 2^50 + physical address / 4 (R207) -/
  near     : Table NearWord
  /-- MODEL: acquires and self-invalidations so far, by the core, cluster, die or package they cover -/
  acqs     : Table Nat
  /-- request tables of engines, by agent x 2^50 + physical address / 4 (R214) -/
  engines  : Table EngineWord
  /-- registry entries by line number (R208) -/
  registry : Table Line
  /-- tick and reason of each Lost word, as OWNTK and OWNID report it (R217) -/
  lostLog  : Table (DWord × DWord)
  /-- timers of R215 -/
  timers   : Table Timer
  /-- sleep bits and fenced bits of agents (R215) -/
  sleepers : List Nat
  fenced   : List Nat
  /-- warps by core x 128 + berth, the handler window at berth 64 -/
  warps    : Table Warp
  blocks   : Table Block
  launches : Table Launch
  queues   : Table Queue
  /-- the queue after the last one taken, and takes so far (R299) -/
  nextQueue : Nat
  takes    : Nat
  /-- clock and tick counts of the dispatcher: tick of each die's last placement plus one (R300) -/
  placed   : Table DWord
  cores    : Table Core
  clusters : Table Cluster
  /-- pilot tokens on the ring of each die: the cluster at whose stop one is or to which it passes, and the clock at
  which it is there (R154) -/
  ring     : Table (List (Nat × Nat))
  /-- bindings recorded at the homes of descriptors, by the descriptor's physical address / 32 (R245) -/
  bindings : Table Binding
  /-- dependence counters, die x 256 + number (R338) -/
  counters : Table Word
  txns     : Table Txn
  /-- traced requests whose record is not written (R359, R360) -/
  samples  : Table Sample
  prods    : Table Prod
  copies   : Table Copy
  colls    : Table Coll
  /-- collectives issued per fabric group (R288) -/
  collSeq  : Table Nat
  rays     : Table Ray
  /-- sounding tables: die x 2^14 + set x 4 + way (R325), the ways of each context and its EN bit
  (R326), the way last written per set -/
  sounding : Table Sounding
  ways     : Table Nat
  predict  : List Nat
  lastWay  : Table Nat
  /-- next unused key of blocks, launches, accesses, results, copies, collectives and rays -/
  fresh    : Nat
  /-- cached translations of each core, and of each die at 1024 + die (R314) -/
  caches   : Table (List Cached)
  /-- low words of table entries that walks in flight have read, by die x 2^60 + physical address (R312) -/
  lows     : Table Word
  /-- pinned pages (R169) -/
  pins     : List Pin
  /-- of the invalidation that runs, the first key of accesses and the words of near caches that it does not wait
  for and waits for (R316) -/
  xlSince  : Nat
  xlWords  : List Nat
  /-- pages in host bias, by physical address / 64 KiB (R176) -/
  hostBias : List Nat
  flip     : Option Flip
  /-- system registers (R386) -/
  sysregs  : Table DWord
  selects  : List Select
  /-- the shutter: STOPPED, and a debug halt's warp (R372, R388) -/
  stopped  : Bool
  haltWarp : Option Nat
  /-- a tamper response has halted the package until reset (R398) -/
  halted   : Bool
  /-- the thermal trip has removed power (R402) -/
  powerOff : Bool
  mailbox  : Mailbox
  servo    : Servo
  power    : Power
  /-- locks held here for other nodes, oldest first, and requests in arrival order (R284) -/
  locks    : List LineLock
  lockQueue : List (Nat × Nat)
  /-- the debug access port's DACSEL and DACADR (R373) -/
  dacsel   : DWord
  dacadr   : DWord
  /-- links held: (source, destination, origin) of die-to-die links (R406) -/
  heldLinks : List (Nat × Nat × Nat)
  /-- messages held there, in the order they were held: the link, the message, and its tick (R407) -/
  heldMsgs : List ((Nat × Nat × Nat) × Event × DWord)
  /-- round-robin position of each Quayline port, and the burst grants of the round (R281) -/
  ports    : Table Nat
  /-- messages sent by Quayline and answers to the host -/
  fabricOut : List OutMsg
  deriving DecidableEq, Repr

/-! ## Reset (R400) -/

/-- n entries of a table from key k on, all with value v. -/
def fillTable {β : Type} (v : β) : Nat → Nat → Table β
  | _, 0 => []
  | k, n + 1 => (k, v) :: fillTable v (k + 1) n

/-- A value of a capability register among the given ones. -/
def capOf : List (Nat × DWord) → Nat → Nat
  | [], _ => 0
  | (k, v) :: t, n => if k = n then v.toNat else capOf t n

/-- QLSTAT0 to QLSTAT15 after reset: LIVE from CAPQL (R18, R399). -/
def liveLanes (caps : Table DWord) : Nat → Table DWord
  | 0 => []
  | n + 1 => liveLanes caps n ++ [(0x200 + n, BitVec.ofNat 64 (capOf caps (0x140 + n / 8) / 2 ^ (8 + 2 * (n % 8)) % 4 * 2 ^ 6))]

/-- The system registers whose reset value is not zero, in rising order of numbers: the capability registers as
given (R16 to R18), MTKCFG (R156), RPCTL, TRCTL and ELCTL (R361, R386), INACL0 (R391), QLSTAT (R399), RSTSTAT
after its last step (R400), and PWRCAP, whose reset value the manual does not give (DESIGN CHOICE, log entry 3). -/
def resetSysregs (caps : Table DWord) : Table DWord :=
  caps ++ fillTable 0x26 0x150 4 ++
  [(0x198, 12), (0x1A0, 12), (0x1A8, 12),
   (0x1F0, BitVec.ofNat 64 (7 * 2 ^ 61 + Config.hostNode))] ++
  liveLanes caps 16 ++ [(0x211, 7), (0x218, BitVec.ofNat 64 (2 ^ 62))]

/-- The machine right after reset, by its capability registers (R16, R400). -/
def State.resetOf (caps : Table DWord) : State where
  turn := Config.nextTurn 0
  now := .reset
  cur := {}
  steps := 0
  freeNo := 0
  agenda := []
  clk := 0
  tick := 0
  store := []
  empty := []
  poison := []
  mem := []
  memPoison := []
  near := []
  acqs := []
  engines := []
  registry := []
  lostLog := []
  timers := []
  sleepers := []
  fenced := []
  warps := []
  blocks := []
  launches := []
  queues := []
  nextQueue := 0
  takes := 0
  placed := []
  cores := []
  clusters := []
  ring := []
  bindings := []
  counters := []
  txns := []
  samples := []
  prods := []
  copies := []
  colls := []
  collSeq := []
  rays := []
  sounding := []
  ways := [(0, 15)]
  predict := [0]
  lastWay := []
  fresh := 1
  caches := []
  lows := []
  pins := []
  xlSince := 0
  xlWords := []
  hostBias := []
  flip := .none
  sysregs := resetSysregs caps
  selects := []
  stopped := false
  haltWarp := .none
  halted := false
  powerOff := false
  mailbox := {}
  servo := {}
  power := {}
  locks := []
  lockQueue := []
  dacsel := 0
  dacadr := 0
  heldLinks := []
  heldMsgs := []
  ports := []
  fabricOut := []

/-- The machine right after reset (R400): a PF-KF9-M with every unit present. Reading: log entry 1, DESIGN CHOICE. -/
def State.reset : State := State.resetOf Config.partM

end Sys2Proof.Machine
end

