-- ==== Sys2Proof/Machine/Operands.lean ====
section
/-! DEFINITION. The one place where registers, predicates, special registers and operand codes are read and
written (R19 to R51), and the accessors of the machine's tables. -/

namespace Sys2Proof.Machine

/-! ## Tables -/

/-- The berth number that stands for a core's handler window (R366). -/
def handlerBerth : Nat := 64

/-- Key of a warp: core id x 128 + berth. -/
def warpKey (core berth : Nat) : Nat := core * 128 + berth

def State.warp (s : State) (k : Nat) : Warp := tget {} s.warps k
def State.setWarp (s : State) (k : Nat) (w : Warp) : State := { s with warps := tput s.warps k w }
def State.modWarp (s : State) (k : Nat) (f : Warp → Warp) : State := s.setWarp k (f (s.warp k))
def State.core (s : State) (c : Nat) : Core := tget {} s.cores c
def State.setCore (s : State) (c : Nat) (v : Core) : State := { s with cores := tput s.cores c v }
def State.modCore (s : State) (c : Nat) (f : Core → Core) : State := s.setCore c (f (s.core c))
def State.block (s : State) (b : Nat) : Block := tget {} s.blocks b
def State.setBlock (s : State) (b : Nat) (v : Block) : State := { s with blocks := tput s.blocks b v }
def State.modBlock (s : State) (b : Nat) (f : Block → Block) : State := s.setBlock b (f (s.block b))
def State.launch (s : State) (k : Nat) : Launch := tget {} s.launches k
def State.setLaunch (s : State) (k : Nat) (v : Launch) : State :=
  { s with launches := tput s.launches k v }
def State.cluster (s : State) (k : Nat) : Cluster := tget {} s.clusters k
def State.setCluster (s : State) (k : Nat) (v : Cluster) : State :=
  { s with clusters := tput s.clusters k v }
def State.modCluster (s : State) (k : Nat) (f : Cluster → Cluster) : State :=
  s.setCluster k (f (s.cluster k))
def State.sysreg (s : State) (n : Nat) : DWord := tget 0 s.sysregs n
def State.setSysreg (s : State) (n : Nat) (v : DWord) : State := { s with sysregs := tput s.sysregs n v }

/-- Lane l of a warp. -/
def Warp.lane (w : Warp) (l : Nat) : Lane := lget {} w.lanes l
/-- A warp with lane l changed. -/
def Warp.modLane (w : Warp) (l : Nat) (f : Lane → Lane) : Warp := { w with lanes := lupd f w.lanes l }
/-- A warp with every lane of a mask changed. -/
def Warp.modLanes (w : Warp) (m : LaneMask) (f : Lane → Lane) : Warp :=
  { w with lanes := w.lanes.zipIdx.map (fun (v, l) => if m.getLsbD l then f v else v) }

/-- Die, cluster (0 to 31 over the package) and cluster member of a core id (R354). -/
def dieOfCore (c : Nat) : Nat := c / 128
def clusterOfCore (c : Nat) : Nat := c / 16
def indexOfCore (c : Nat) : Nat := c % 16

/-- The next open value. Reading: log entry 7, DESIGN CHOICE. -/
def State.takeFree (s : State) : DWord × State :=
  (Config.freeValue s.freeNo, { s with freeNo := s.freeNo + 1 })

/-- A message or landing put in flight (R210, R211). -/
def State.send (s : State) (e : Event) : State := { s with agenda := s.agenda ++ [e] }

/-- A message that its receiver cannot take yet stays under way, ahead of the later ones. -/
def State.sendFirst (s : State) (e : Event) : State := { s with agenda := e :: s.agenda }

/-- Messages under way, with those that a held link keeps (R407). -/
def State.inFlight (s : State) : List Event := s.agenda ++ s.heldMsgs.map (fun m => m.2.1)

/-- Bits hi..lo of a doubleword as a number. -/
def bitsOf (v : DWord) (lo n : Nat) : Nat := v.toNat / 2 ^ lo % 2 ^ n

/-! ## Store words (R23, R26, R30) -/

/-- Key of the word at a local address of a core. -/
def storeKey (core addr : Nat) : Nat := core * 0x200000 + addr / 4
/-- Key of vector register n, lane l, of a warp (R23). -/
def vkey (core : Nat) (w : Warp) (n l : Nat) : Nat := core * 0x200000 + w.vbase / 4 + n * 32 + l
/-- Key of uniform register n (R23). -/
def skey (core : Nat) (w : Warp) (n : Nat) : Nat := core * 0x200000 + w.sbase / 4 + n

def State.word (s : State) (k : Nat) : Word := tget 0 s.store k
def State.isEmpty (s : State) (k : Nat) : Bool := nmem s.empty k
def State.isPoison (s : State) (k : Nat) : Bool := nmem s.poison k

/-- A result lands: the word is full, and poisoned only when the data were (R26, R31, R375). -/
def State.land (s : State) (x : Landing) : State :=
  { s with
    store := tput s.store x.key x.value
    empty := ndel s.empty x.key
    poison := if x.poison then nput s.poison x.key else ndel s.poison x.key }

/-- Results of one instruction land in order. -/
def State.landAll (s : State) (xs : List Landing) : State := xs.foldl State.land s

/-- Words become empty at issue (R26). -/
def State.markEmpty (s : State) (ks : List Nat) : State := { s with empty := ks.foldl nput s.empty }

/-- Words become full again with their values kept (R61). -/
def State.markFull (s : State) (ks : List Nat) : State := { s with empty := ks.foldl ndel s.empty }

/-- Words of a result, the least significant first (R19). -/
def wordsOf : Nat → Nat → List Word
  | 0, _ => []
  | n + 1, v => BitVec.ofNat 32 v :: wordsOf n (v / 2 ^ 32)

/-- The number that words hold, the least significant first. -/
def ofWords : List Word → Nat
  | [] => 0
  | w :: t => w.toNat + 2 ^ 32 * ofWords t

/-- Keys of n registers from register r on: of lane l of a vector register, or of a uniform one. -/
def vkeys (core : Nat) (w : Warp) (r n l : Nat) : List Nat := (upTo n).map (fun i => vkey core w (r + i) l)
def skeys (core : Nat) (w : Warp) (r n : Nat) : List Nat := (upTo n).map (fun i => skey core w (r + i))

/-- Keys of the n words that an operand code names for lane l; none for a code that is no register. -/
def codeKeys (core : Nat) (w : Warp) (code n l : Nat) : List Nat :=
  match codeOf code with
  | .v r => vkeys core w r n l
  | .s r => skeys core w r n
  | _ => []

/-- The number that n registers hold. -/
def State.regs (s : State) (ks : List Nat) : Nat := ofWords (ks.map s.word)

/-! ## Who issues -/

/-- What an instruction needs to know of its issue: the warp, its group, its active lanes (R46, R48), its
fields and its shape. -/
structure Ctx where
  core  : Nat
  berth : Nat
  wk    : Nat
  group : LaneMask
  act   : LaneMask
  pc    : DWord
  len   : Nat
  x     : Long
  sh    : Shape
  uni   : Bool
  deriving DecidableEq, Repr, Inhabited

/-- Whether the handler window issues (R366). -/
def Ctx.handler (cx : Ctx) : Bool := cx.berth = handlerBerth

/-! ## Predicates and guards (R22, R46, R47, R48) -/

/-- Predicate p of a lane; p7 reads true (R22). -/
def Lane.pred (v : Lane) (p : Nat) : Bool := if p = 7 then true else v.preds.getLsbD p
/-- Uniform predicate q; q3 reads true (R22). -/
def Warp.qpred (w : Warp) (q : Nat) : Bool := if q = 3 then true else w.qpreds.getLsbD q

/-- A bit of a small vector set to a value. -/
def setBit {n : Nat} (v : BitVec n) (i : Nat) (b : Bool) : BitVec n :=
  if b then v ||| (BitVec.ofNat n (2 ^ i)) else v &&& ~~~(BitVec.ofNat n (2 ^ i))

/-- A lane's predicate written; p7 discards the write (R22). -/
def Lane.setPred (v : Lane) (p : Nat) (b : Bool) : Lane :=
  if p = 7 then v else { v with preds := setBit v.preds p b, busy := setBit v.busy p false }
/-- A uniform predicate written; q3 discards the write (R22). -/
def Warp.setQpred (w : Warp) (q : Nat) (b : Bool) : Warp :=
  if q = 3 then w else { w with qpreds := setBit w.qpreds q b, qbusy := setBit w.qbusy q false }

/-- Value of a predicate code for a lane (R47). -/
def Warp.predOf (w : Warp) (code l : Nat) : Bool :=
  if 0x200 ≤ code then w.qpred (code - 0x200) else (w.lane l).pred (code % 8)

/-- Whether a predicate code names a busy predicate (R28). -/
def Warp.predBusy (w : Warp) (code l : Nat) : Bool :=
  if 0x200 ≤ code then w.qbusy.getLsbD (code - 0x200) else (w.lane l).busy.getLsbD (code % 8)

end Sys2Proof.Machine

namespace Sys2Proof
open Sys2Proof.Machine

/-- `.join`: guard 7 with N = 1 (R46). -/
def Long.isJoin (x : Long) : Bool := x.guard = 7 && x.neg

end Sys2Proof

namespace Sys2Proof.Machine

/-- The guard's value for a lane (R46, R48). -/
def Warp.guardOf (w : Warp) (uni : Bool) (x : Long) (l : Nat) : Bool :=
  let g := x.guard.toNat
  if uni then (w.qpred (g % 4)) != x.neg
  else if x.isJoin then true
  else (w.lane l).pred g != x.neg

/-- Whether the guard is busy for a lane (R110). -/
def Warp.guardBusy (w : Warp) (uni : Bool) (x : Long) (l : Nat) : Bool :=
  let g := x.guard.toNat
  if uni then w.qbusy.getLsbD (g % 4) else (w.lane l).busy.getLsbD g

/-- The lanes of a group whose guard is true. -/
def Warp.activeOf (w : Warp) (uni : Bool) (x : Long) (group : LaneMask) : LaneMask :=
  maskOf (fun l => group.getLsbD l && w.guardOf uni x l)

/-! ## Special registers (R32 to R38) -/

/-- Start value of a format register (R32, R36). -/
def fmtStart : Word := 0x0011C418

/-- ORD of a block (R38). -/
def ordOf (b : Block) : DWord :=
  BitVec.ofNat 64 (b.index * 2 ^ 32 + b.fixer.length % 1024 * 2 ^ 16 + (if b.ordered then 1 else 0))

/-- WARP of a warp (R32). -/
def warpWord (berth : Nat) (w : Warp) : Nat := berth * 2 ^ 16 + w.index

/-- Special register n of a warp for lane l (R32). In the handler window WARP, VBASE and SBASE have no placement to
show, and what they read is open; TIDX to TIDZ and LVL read the lanes' 0, MSTAT the window's own, SPBASE, ORD and ACCBASE
those of the served block. Reading: log entry 4, DESIGN CHOICE, log entry 23, DEDUCED. -/
def State.special (s : State) (core berth : Nat) (w : Warp) (n l : Nat) : DWord :=
  let v := w.lane l
  let b := s.block w.block
  let placed := fun (x : Nat) =>
    if berth = handlerBerth then Config.handlerSpecial n else BitVec.ofNat 64 x
  match n with
  | 0x00 => BitVec.ofNat 64 l
  | 0x01 => placed (warpWord berth w)
  | 0x02 => (lget 0 v.tid 0).setWidth 64
  | 0x03 => (lget 0 v.tid 1).setWidth 64
  | 0x04 => (lget 0 v.tid 2).setWidth 64
  | 0x05 => BitVec.ofNat 64 w.part
  | 0x06 => w.flags.setWidth 64
  | 0x07 => BitVec.ofNat 64 b.spBase
  | 0x10 => v.rngs
  | 0x11 => s.tick
  | 0x12 => ordOf b
  | 0x13 => placed w.vbase
  | 0x14 => placed w.sbase
  | 0x15 => BitVec.ofNat 64 b.accBase
  | 0x16 => w.mstat
  | 0x20 => (s.core core).trapc
  | 0x21 => (s.core core).trapa
  | 0x22 => (s.core core).trapp
  | _ =>
    if 0x08 ≤ n && n ≤ 0x0F then (lget 0 v.lvl (n - 8)).setWidth 64
    else if 0x18 ≤ n && n ≤ 0x1F then (lget fmtStart w.fmts (n - 0x18)).setWidth 64
    else 0

/-- Special registers that only the handler reads (R32). -/
def privilegedSpecial (n : Nat) : Bool := 0x20 ≤ n && n ≤ 0x22

/-! ## Operand values (R44, R45, R60) -/

/-- How an operand's width and type read a constant or the literal: an integer or bit operand of w bits,
or a float operand of a float type code (R49). -/
inductive OTy where
  | int (w : Nat)
  | flt (code : Nat)
  deriving DecidableEq, Repr, Inhabited

/-- The float constants of R44 as f32, f64, f16 and bf16 patterns, each the value rounded to nearest-even. -/
def floatConst (code : Nat) : Nat × Nat × Nat × Nat :=
  match code with
  | 0x171 => (0x3F000000, 0x3FE0000000000000, 0x3800, 0x3F00)
  | 0x172 => (0xBF000000, 0xBFE0000000000000, 0xB800, 0xBF00)
  | 0x173 => (0x3F800000, 0x3FF0000000000000, 0x3C00, 0x3F80)
  | 0x174 => (0xBF800000, 0xBFF0000000000000, 0xBC00, 0xBF80)
  | 0x175 => (0x40000000, 0x4000000000000000, 0x4000, 0x4000)
  | 0x176 => (0xC0000000, 0xC000000000000000, 0xC000, 0xC000)
  | 0x177 => (0x40800000, 0x4010000000000000, 0x4400, 0x4080)
  | 0x178 => (0xC0800000, 0xC010000000000000, 0xC400, 0xC080)
  | 0x179 => (0x3E800000, 0x3FD0000000000000, 0x3400, 0x3E80)
  | 0x17A => (0x41000000, 0x4020000000000000, 0x4800, 0x4100)
  | 0x17B => (0x3E22F983, 0x3FC45F306DC9C883, 0x3118, 0x3E23)
  | 0x17C => (0x40490FDB, 0x400921FB54442D18, 0x4248, 0x4049)
  | 0x17D => (0x3F317218, 0x3FE62E42FEFA39EF, 0x398C, 0x3F31)
  | 0x17E => (0x3FB8AA3B, 0x3FF71547652B82FE, 0x3DC5, 0x3FB9)
  | _ => (0, 0, 0, 0)

/-- The integer constants of R44. -/
def intConst (code : Nat) : Int :=
  if code ≤ 0x160 then (code : Int) - 0x140 else 0x160 - (code : Int)

/-- A number in both halves of a word. -/
def bothHalves (h : Nat) : Nat := h + 2 ^ 16 * h

/-- An inline constant read by an operand (R44). Reading: log entry 24, DEDUCED. -/
def constValue (t : OTy) (code : Nat) : Nat :=
  if code < 0x171 then
    match t with
    | .int w => wrapInt w (intConst code)
    | .flt c =>
      let v := ((fmtOfFloat c).round .rn false 0 (Exact.ofInt (intConst code))).1
      if c = 4 ∨ c = 5 then bothHalves v else v
  else
    let (f32, f64, f16, bf16) := floatConst code
    match t with
    | .int _ => f32
    | .flt 0 => f32
    | .flt 1 => f64
    | .flt 2 => f16
    | .flt 3 => bf16
    | .flt 4 => bothHalves f16
    | .flt _ => bothHalves bf16

/-- An f32 pattern widened exactly to f64 (R45): a NaN keeps its payload and its quiet bit. -/
def widenF32 (w : Nat) : Nat :=
  match fmtF32.decode w with
  | .nan neg _ p => fmtF64.code neg ((2 ^ 11 - 1) * 2 ^ 52 + p * 2 ^ 29)
  | .inf neg => fmtF64.inf neg
  | .fin x => (fmtF64.round .rn false 0 x).1

/-- The literal word read by an operand (R45); sign-extended to the 128 bits of a `.b128` store too.
Reading: log entry 77, DEDUCED. -/
def literalValue (t : OTy) (w : Word) : Nat :=
  match t with
  | .int n => if n ≤ 32 then w.toNat else wrapInt n w.toInt
  | .flt 1 => widenF32 w.toNat
  | .flt 2 => w.toNat % 2 ^ 16
  | .flt 3 => w.toNat % 2 ^ 16
  | .flt _ => w.toNat

/-- Bits that a float operand uses of its registers (R45, R62). -/
def OTy.mask (t : OTy) (v : Nat) : Nat :=
  match t with
  | .flt 2 => v % 2 ^ 16
  | .flt 3 => v % 2 ^ 16
  | _ => v

/-- Value of an operand code for lane l (R43 to R45, R60): n registers, a constant, the literal or the low
word of a special register, zero-extended and narrowed to a 16-bit type (R60). Reading: log entry 23, DEDUCED. -/
def State.operand (s : State) (cx : Ctx) (t : OTy) (n code l : Nat) : Nat :=
  let w := s.warp cx.wk
  match codeOf code with
  | .v r => t.mask (s.regs (vkeys cx.core w r n l))
  | .s r => t.mask (s.regs (skeys cx.core w r n))
  | .const => constValue t code
  | .lit => literalValue t (cx.x.lit?.getD 0)
  | .special k => t.mask ((s.special cx.core cx.berth w k l).toNat % 2 ^ 32)
  | .reserved => 0

end Sys2Proof.Machine

namespace Sys2Proof
open Sys2Proof.Machine

/-- How a field's operand reads constants and the literal (R44, R45, R49). The source of a conversion
reads them by its type number; a minifloat, `.e5m3` or narrow source reads a bit pattern (R101). -/
def Wd.oty (w : Wd) (ts : TypeSet) (x : Long) : OTy :=
  match w with
  | .ty =>
    match ts with
    | .float => .flt x.tN
    | ts => .int (32 * ts.regs x.tN)
  | .cvtSrc =>
    match x.srcType with
    | 10 => .flt 2
    | 11 => .flt 3
    | 12 => .flt 0
    | 13 => .flt 1
    | t => .int (32 * regsOfTypeNumber t)
  | .f32 => .flt 0
  | w => .int (32 * w.regs ts x)

/-- Registers that a field reads, 0 for a field that is no source operand. The metadata registers of
MMAS are counted by its own rule (R152). -/
def Fld.reads (f : Fld) (sh : Shape) (x : Long) (fget : Bool) : Nat :=
  match f with
  | .src w | .data w => w.regs sh.tset x
  | .key | .u | .uNoEt | .vu | .vscale | .vmeta => 1
  | .g64 | .pair | .val64 | .spair => 2
  | .base => if x.space = 0 then 2 else 1
  | .casGroup => casRegs sh.tset x
  | .fatomB => if x.cN / 8 % 32 = 12 then casRegs sh.tset x else sh.tset.regs x.tN
  | .sreg n | .vsrc n => n
  | .gaddrD => if copyGlobalDst sh.tset x fget then 2 else 1
  | .gaddrS => if copyGlobalSrc sh.tset x fget then 2 else 1
  | .recD => if copyGlobalDst sh.tset x false then 4 else 3
  | .recS => if copyGlobalSrc sh.tset x false then 4 else 3
  | .atC => if x.mN / 8 = 1 then 4 else 1
  | .fabC => if x.tN / 2 % 2 = 1 then 4 else 1
  | _ => 0

/-- Registers that a destination field writes, 0 for a field that is no register destination. -/
def Fld.writes (f : Fld) (sh : Shape) (x : Long) : Nat :=
  match f with
  | .dst w => w.regs sh.tset x
  | .sdst n | .vdst n => n
  | .vote => if x.mN = 2 then 1 else 0
  | _ => 0

/-- The operand type of a source field. Reading: log entry 22, DEDUCED. -/
def Fld.oty (f : Fld) (sh : Shape) (x : Long) (fget : Bool) : OTy :=
  match f with
  | .src w | .data w => w.oty sh.tset x
  | f => .int (32 * f.reads sh x fget)

end Sys2Proof

namespace Sys2Proof.Machine

/-- The operands dst (as a source), A, B and C of lane l by their fields. -/
def State.opD (s : State) (cx : Ctx) (l : Nat) : Nat :=
  s.operand cx (cx.sh.dst.oty cx.sh cx.x false) (cx.sh.dst.reads cx.sh cx.x false) cx.x.dN l
def State.opA (s : State) (cx : Ctx) (l : Nat) : Nat :=
  s.operand cx (cx.sh.a.oty cx.sh cx.x false) (cx.sh.a.reads cx.sh cx.x false) cx.x.aN l
def State.opB (s : State) (cx : Ctx) (l : Nat) : Nat :=
  s.operand cx (cx.sh.b.oty cx.sh cx.x false) (cx.sh.b.reads cx.sh cx.x false) cx.x.bN l
def State.opC (s : State) (cx : Ctx) (l : Nat) : Nat :=
  s.operand cx (cx.sh.c.oty cx.sh cx.x false) (cx.sh.c.reads cx.sh cx.x false) cx.x.cN l

/-! ## Short and pair forms as long-form instructions (R53, R54) -/

end Sys2Proof.Machine

namespace Sys2Proof

/-- A short register field as an operand code: v0 to v63, s0 to s63 (R53). -/
def shortCode (r : Nat) : BitVec 10 := BitVec.ofNat 10 (if r < 64 then r else 0x200 + (r - 64))

/-- The long-form fields a short instruction stands for: type and modifier bits from its table entry
(R53, R56); `one` marks a one-source operation, whose source is B. -/
def Short.toLong (x : Short) (ty mods : Nat) (one : Bool) (c : Nat := 0) : Long where
  form := .short
  ty := BitVec.ofNat 3 ty
  et := 0
  c := BitVec.ofNat 10 c
  b := if one then 0 else shortCode x.b.toNat
  a := if one then shortCode x.b.toNat else shortCode x.a.toNat
  dst := shortCode x.dst.toNat
  safe := x.safe
  neg := false
  guard := BitVec.ofNat 3
    (if x.guard = 3 then (if 64 ≤ x.dst.toNat then 3 else 7) else x.guard.toNat)
  mods := BitVec.ofNat 4 mods

/-- As toLong, for a conversion of one type number to another (R50, R56). -/
def Short.toCvt (x : Short) (dstT srcT : Nat) : Long :=
  { x.toLong 0 0 true srcT with b := BitVec.ofNat 10 dstT }

end Sys2Proof
end

