-- ==== Sys2Proof/Machine/Home.lean ====
section
/-! DEFINITION. Physical memory, homes and registration (R165 to R178, R205 to R225): the bytes of memory in
canonical form, the registry, the near caches and the messages between them. A word is named by its
physical byte address divided by 4. -/

namespace Sys2Proof.Machine

/-! ## Performance counters (R352) -/

/-- Event codes of R352 that the model counts by name. -/
def evClocks : Nat := 0x01
def evIssues : Nat := 0x02
def evLanes : Nat := 0x03
def evEmpty : Nat := 0x04
def evNoToken : Nat := 0x05
def evSfuFull : Nat := 0x07
def evRegs : Nat := 0x0A

/-- n occurrences of an event on a core: every counter that selects it advances (R352).
Reading: log entry 52, DEDUCED. -/
def State.count (s : State) (core ev n : Nat) : State :=
  let c := s.core core
  if c.events.any (fun e => e = ev) then
    s.setCore core { c with counts := c.counts.zipIdx.map (fun (v, k) =>
      if lget 0 c.events k = ev then (v + n) % 2 ^ 48 else v) }
  else s

/-! ## Bytes of memory -/

/-- What an address that the memory does not list reads as (log entry 5). -/
def unlistedByte : Byte := 0

/-- The byte at an address. Reading: log entry 5, DESIGN CHOICE. -/
def memByte : List Host.Cell → Nat → Byte
  | [], _ => unlistedByte
  | (k, v) :: t, a => if k = a then v else memByte t a

/-- Memory without an entry for a. Reading: log entry 5, DESIGN CHOICE. -/
def memDrop : List Host.Cell → Nat → List Host.Cell
  | [], _ => []
  | (k, v) :: t, a => if k = a then t else if a < k then (k, v) :: t else (k, v) :: memDrop t a

/-- Memory with v listed at a. -/
def memList : List Host.Cell → Nat → Byte → List Host.Cell
  | [], a, v => [(a, v)]
  | (k, w) :: t, a, v =>
    if a < k then (a, v) :: (k, w) :: t
    else if k = a then (a, v) :: t
    else (k, w) :: memList t a v

/-- A byte written; what an unlisted address reads as is not listed. -/
def memPut (m : List Host.Cell) (a : Nat) (v : Byte) : List Host.Cell :=
  if v = unlistedByte then memDrop m a else memList m a v

/-- Keys strictly rising from above lo, and no unlisted value listed. -/
def memSorted : Option Nat → List Host.Cell → Bool
  | _, [] => true
  | lo, (k, v) :: t =>
    (match lo with | .none => true | .some j => decide (j < k)) && decide (v ≠ unlistedByte) &&
      memSorted (some k) t

/-- The canonical form of memory. -/
def Memory.wf (m : List Host.Cell) : Bool := memSorted .none m

/-- A word of memory, the byte at the lowest address the least significant (R2). -/
def memWord (m : List Host.Cell) (pw : Nat) : Word :=
  wordOfBytes (memByte m (4 * pw)) (memByte m (4 * pw + 1)) (memByte m (4 * pw + 2)) (memByte m (4 * pw + 3))

/-- A word written. -/
def memPutWord (m : List Host.Cell) (pw : Nat) (v : Word) : List Host.Cell :=
  memPut (memPut (memPut (memPut m (4 * pw) (v.setWidth 8)) (4 * pw + 1) ((v >>> 8).setWidth 8))
    (4 * pw + 2) ((v >>> 16).setWidth 8)) (4 * pw + 3) ((v >>> 24).setWidth 8)

/-- A word with the bytes of a mask replaced. -/
def mergeBytes (mask : BitVec 4) (old new : Word) : Word :=
  let f := fun (i : Nat) => if mask.getLsbD i then byteOf new.toNat i else byteOf old.toNat i
  BitVec.ofNat 32 (f 0 + 2 ^ 8 * f 1 + 2 ^ 16 * f 2 + 2 ^ 24 * f 3)

/-- The home's copy of a word written with its poison (R208, R375). -/
def State.homePut (s : State) (pw : Nat) (v : Word) (bad : Bool) : State :=
  { s with mem := memPutWord s.mem pw v
           memPoison := if bad then nput s.memPoison pw else ndel s.memPoison pw }

/-- The home's copy. -/
def State.homeCopy (s : State) (pw : Nat) : Word := memWord s.mem pw

/-! ## The physical map (R166) -/

/-- First addresses of the tier LPDDR-6 and of the fabric windows. -/
def lpddrBase : Nat := 0x8000000000000
def fabricBase : Nat := 0xC000000000000

/-- The tier or window region that a physical byte address belongs to (R166). -/
inductive Region where
  | hbm | lpddr | fabric | outside
  deriving DecidableEq, Repr, Inhabited

def regionOf (pa : Nat) : Region :=
  if pa < lpddrBase then .hbm
  else if pa < fabricBase then .lpddr
  else if pa < 2 ^ 52 then .fabric
  else .outside

/-! ## Present units (R12 to R14, R16 to R18): the capability registers say which they are -/

/-- Bits that are 1 in a register. -/
def onesIn (v : DWord) : Nat := if v = 0 then 0 else ((upTo 64).filter (fun i => v.getLsbD i)).length

def State.hasCluster (s : State) (cl : Nat) : Bool := decide (cl < 32) && (s.sysreg (0x101 + cl / 8)).getLsbD (cl % 8)
def State.hasCore (s : State) (c : Nat) : Bool := decide (c < 512) && (s.sysreg (0x110 + c / 16)).getLsbD (c % 16)

/-- A die-cache slice, numbered die x 16 + slice. -/
def State.hasSlice (s : State) (n : Nat) : Bool := decide (n < 64) && (s.sysreg (0x101 + n / 16)).getLsbD (11 + n % 16)

/-- A pseudo-channel, numbered (die x 3 + stack) x 64 + pseudo-channel. -/
def State.hasChannel (s : State) (n : Nat) : Bool := decide (n < 768) && (s.sysreg (0x130 + n / 64)).getLsbD (n % 64)

/-- Present slices and pseudo-channels in ascending order, and present clusters (R14, R168). -/
def State.slices (s : State) : List Nat := (upTo 64).filter s.hasSlice
def State.channels (s : State) : List Nat := (upTo 768).filter s.hasChannel
def State.clustersHere (s : State) : List Nat := (upTo 32).filter s.hasCluster

/-- Present capacities in bytes (R3, R14, R17, R18): 1 GiB a pseudo-channel, LPCAP x 128 GiB. -/
def State.hbmBytes (s : State) : Nat := ((upTo 12).map (fun i => onesIn (s.sysreg (0x130 + i)))).foldl (· + ·) 0 * 2 ^ 30
def State.lpddrBytes (s : State) : Nat := bitsOf (s.sysreg 0x100) 40 8 * 2 ^ 37

/-- Memory is behind a physical address: it lies below its tier's present capacity (R14, R166). -/
def State.backed (s : State) (pa : Nat) : Bool :=
  match regionOf pa with
  | .hbm => decide (pa < s.hbmBytes)
  | .lpddr => decide (pa - lpddrBase < s.lpddrBytes)
  | _ => false

/-- R168's hash of a line or unit number. -/
def spread (n : Nat) : Nat := (n ^^^ (n / 2 ^ 15) ^^^ (n / 2 ^ 30)) % 2 ^ 15

/-- The pseudo-channel that holds an address of HBM4E, and the I/O die that holds one of LPDDR-6 (R14, R168). -/
def State.channelOf (s : State) (pa : Nat) : Nat :=
  lget 0 s.channels (spread (pa / 2 ^ 8) % max 1 s.channels.length)
def lpddrSide (pa : Nat) : Nat := pa / 2 ^ 8 % 2

/-! ## Agents (R206) -/

def agentOfCore (c : Nat) : Nat := c / 128 * 512 + c / 16 % 8 * 64 + c % 16 * 4
def coreOfAgent (a : Nat) : Nat := a / 512 % 8 * 128 + a / 64 % 8 * 16 + a / 4 % 16
def agentKind (a : Nat) : Nat := a / 4096 % 256
def tenderOf (c : Nat) : Nat := 0x1000 + agentOfCore c
def matrixOf (c : Nat) : Nat := 0x2000 + agentOfCore c
def manifestOf (cl : Nat) : Nat := 0x3000 + agentOfCore (cl * 16)
def traversalOf (c : Nat) : Nat := 0x4000 + agentOfCore c
def assistOf (io : Nat) : Nat := 0x5000 + (4 + io) * 512

/-- Home slice of a line: the hash over the present slices (R14, R168), or the unit its page is pinned to
(R169). -/
def State.homeOf (s : State) (pw : Nat) : Nat :=
  match s.pins.find? (fun p => decide (p.base ≤ 4 * pw ∧ 4 * pw < p.base + p.size)) with
  | some p => p.unit
  | none =>
    let all := s.slices
    1 + lget 0 all (spread (pw / 32) % max 1 all.length)

/-! ## Registry (R208) -/

def State.line (s : State) (n : Nat) : Line := tget {} s.registry n
def State.setLine (s : State) (n : Nat) (v : Line) : State := { s with registry := tput s.registry n v }

/-- Who has a word's latest value (R208). -/
inductive Owner where
  | unowned
  | lost
  | agent (a : Nat)
  deriving DecidableEq, Repr, Inhabited

/-- R208's word codes. -/
def Line.owner (v : Line) (i : Nat) : Owner :=
  let c := (lget 0 v.codes i).toNat
  if c = 1 then .lost
  else if c < 4 then .unowned
  else
    match lget .none v.slots (c - 4) with
    | some sl => .agent sl.agent
    | none => .unowned

def State.owner (s : State) (pw : Nat) : Owner := (s.line (pw / 32)).owner (pw % 32)

/-- A word's code set. -/
def Line.setCode (v : Line) (i : Nat) (c : BitVec 3) : Line :=
  let codes := if v.codes.isEmpty then lrep 0 32 else v.codes
  { v with codes := lupd (fun _ => c) codes i }

/-- Slot of an agent in a line. -/
def Line.slotOf (v : Line) (a : Nat) : Option Nat :=
  (upTo 4).find? (fun i => match lget .none v.slots i with | some sl => sl.agent = a | none => false)

/-- A free slot. -/
def Line.freeSlot (v : Line) : Option Nat :=
  (upTo 4).find? (fun i => (lget Option.none v.slots i).isNone)

/-- The occupied slot with the greatest age. -/
def Line.oldest (v : Line) : Nat :=
  let age := fun (i : Nat) => match lget .none v.slots i with | some sl => sl.age + 1 | none => 0
  (upTo 4).foldl (fun best i => if age best < age i then i else best) 0

/-- Whether any word of the line is registered in a slot. -/
def Line.uses (v : Line) (slot : Nat) : Bool := v.codes.any (fun c => c.toNat = 4 + slot)

/-- The ages of the occupied slots are 0, 1, 2 and 3 in order of allocation (R208). -/
def rankSlots (slots : List (Option Slot)) : List (Option Slot) :=
  slots.map (fun sl => sl.map (fun x =>
    { x with age := (slots.filter (fun o => match o with | some y => decide (y.age < x.age) | none => false)).length }))

/-- Slots that no word uses any more are freed; the others keep their order (R208, R209). -/
def Line.freeUnused (v : Line) : Line :=
  { v with slots := rankSlots (v.slots.zipIdx.map (fun (sl, i) => if v.uses i then sl else .none)) }

/-- An agent takes a slot as the youngest (R208). -/
def Line.takeSlot (v : Line) (i agent : Nat) : Line :=
  let aged := v.slots.map (fun sl => sl.map (fun x => { x with age := x.age + 1 }))
  { v with slots := lupd (fun _ => some ⟨agent, 0⟩) aged i }

/-! ## Near caches (R207) -/

def nearKey (agent pw : Nat) : Nat := agent * 2 ^ 50 + pw

/-- The near cache's word of a core. -/
def State.near_ (s : State) (core pw : Nat) : NearWord := tget {} s.near (nearKey core pw)
def State.setNear (s : State) (core pw : Nat) (v : NearWord) : State :=
  { s with near := tput s.near (nearKey core pw) v }
def State.engine (s : State) (agent pw : Nat) : EngineWord := tget {} s.engines (nearKey agent pw)
def State.setEngine (s : State) (agent pw : Nat) (v : EngineWord) : State :=
  { s with engines := tput s.engines (nearKey agent pw) v }

/-- The keys under which acquires are counted: a core, a cluster, a die, the package (R201, R218). -/
def acquireKey (scope core : Nat) : Nat :=
  match scope with
  | 3 => 4 * clusterOfCore core + 1
  | 4 => 4 * dieOfCore core + 2
  | 5 => 3
  | 6 => 3
  | _ => 4 * core

/-- Acquires so far whose scope holds a core's near cache. Data that a core asked for before one of them are not kept
as a Valid copy after it (R185). Reading: log entry 39, DEDUCED. -/
def State.acquires (s : State) (core : Nat) : Nat :=
  tget 0 s.acqs (4 * core) + tget 0 s.acqs (4 * clusterOfCore core + 1) + tget 0 s.acqs (4 * dieOfCore core + 2) +
    tget 0 s.acqs 3

/-- What a Read carries of its reader: the agent and the acquires before it. -/
def readerCode (agent age : Nat) : Nat := agent + 2 ^ 20 * age
def readerAgent (r : Nat) : Nat := r % 2 ^ 20
def readerAge (r : Nat) : Nat := r / 2 ^ 20
def State.reader (s : State) (core : Nat) : Nat := readerCode (agentOfCore core) (s.acquires core)

/-- The copy is gone; acknowledgements still due stay recorded (R210). -/
def NearWord.drop (n : NearWord) : NearWord :=
  { n with held := false, reg := false, fillPend := false, bytes := 0, err := false }

/-- Words whose Reg or Wb is not yet acknowledged (R219): those a release of the core waits for. -/
def State.unacked (s : State) (core : Nat) : Bool :=
  s.near.any (fun e => e.1 / 2 ^ 50 = core && (e.2.reqPend || e.2.kept))

/-- The core that issued an engine operation: a copy, a collective, or a job of a manifest unit. -/
def State.operationCore (s : State) (id : Nat) : Option Nat :=
  match tfind s.copies id, tfind s.colls id with
  | some c, _ => some c.core
  | none, some c => some c.core
  | none, none =>
    (s.clusters.flatMap (fun e => e.2.jobs)).findSome? (fun j => if j.id = id then j.core else none)

/-- An operation awaits the Ack of a Reg of a word, which may not even have been sent, or of a Wb that has been. -/
def EngineWord.busy (e : EngineWord) : Bool := e.used && (!e.acked || e.sent)

/-- Engine operations of a core with a Reg, or a Wb that has been sent, that is not acknowledged (R214, R219); of a
develop that has not been taken up no Reg has even been sent. -/
def State.engineBusy (s : State) (core : Nat) : Bool :=
  s.clusters.any (fun e => e.2.develops.any (fun d => !d.started && d.core = core)) ||
  s.engines.any (fun e => (e.2.busy && s.operationCore e.2.copy = some core) ||
    e.2.next.any (fun n => s.operationCore n.1 = some core))

/-- An engine operation of a core has still to have a word registered: the core's own stores and atomics of the
word follow it (R184, R214). -/
def State.engineAhead (s : State) (core pw : Nat) : Bool :=
  s.engines.any (fun e => e.1 % 2 ^ 50 = pw &&
    ((e.2.used && !e.2.acked && s.operationCore e.2.copy = some core) ||
      e.2.next.any (fun n => s.operationCore n.1 = some core)))

/-- The latest value of a word with its poison, whoever has it; none for a Lost word.
Reading: log entry 29, DEDUCED. -/
def State.latest (s : State) (pw : Nat) : Option (Word × Bool) :=
  match s.owner pw with
  | .lost => none
  | .unowned => some (s.homeCopy pw, nmem s.memPoison pw)
  | .agent a =>
    if agentKind a = 0 then
      let n := s.near_ (coreOfAgent a) pw
      if n.kept then some (n.keptVal, n.keptPoison) else some (n.value, n.poison)
    else
      let e := s.engine a pw
      if e.written then some (e.value, e.poison) else some (s.homeCopy pw, nmem s.memPoison pw)

/-- Whether a word's latest value exists: no fill and no engine write is pending (R210, R214). -/
def State.settled (s : State) (pw : Nat) : Bool :=
  match s.owner pw with
  | .agent a =>
    if agentKind a = 0 then (s.near_ (coreOfAgent a) pw).kept || !(s.near_ (coreOfAgent a) pw).fillPend
    else (s.engine a pw).written
  | _ => true

/-- The error log's record is written by Ops; here the home remembers when and why a word was lost (R217). -/
def State.markLost (s : State) (pw agent reason : Nat) : State :=
  let n := pw / 32
  let v := ((s.line n).setCode (pw % 32) 1).freeUnused
  { s.setLine n v with
    lostLog := tput s.lostLog pw (BitVec.ofNat 64 (reason * 2 ^ 32 + agent), s.tick) }

/-- The home takes a word from its owner: the owner's copy is dropped, the word is unowned and the line's
clock advances when `clock` says that this is a registration (R211, R213). -/
def State.takeHome (s : State) (pw : Nat) (clock : Bool) : State :=
  let s := match s.owner pw with
    | .agent a => if agentKind a = 0 then s.setNear (coreOfAgent a) pw (s.near_ (coreOfAgent a) pw).drop else s
    | _ => s
  let n := pw / 32
  let v := ((s.line n).setCode (pw % 32) 0).freeUnused
  let v := { v with orders := v.orders.filter (fun o => o.1 ≠ pw % 32)
                    late := v.late.filter (fun o => o.1 ≠ pw % 32) }
  s.setLine n (if clock then { v with clock := v.clock + 1 } else v)

/-- The home has asked a word's owner for it, for an atomic, and has no answer yet (R211, R215). -/
def State.comingHome (s : State) (pw : Nat) : Bool := s.timers.any (fun e => e.2.word = pw && e.2.kind = 4)

/-- No message about a word is under way to its owner, and its value exists (R210, R211). -/
def State.quiet (s : State) (pw : Nat) : Bool :=
  s.settled pw && !s.comingHome pw && s.inFlight.all (fun e => match e with
    | .fwd p _ _ => p ≠ pw
    | .xfer p _ _ _ _ => p ≠ pw
    | _ => true)

/-- What names the sender of an owner's answer and the request it answers: kind 0 to 4 of its timer (R215). -/
def answerSource (agent kind : Nat) : Nat := agent + 2 ^ 20 * kind
def answerAgent (src : Nat) : Nat := src % 2 ^ 20
def answerKind (src : Nat) : Nat := src / 2 ^ 20
/-- The home as the source of the data of a Reg. -/
def regSource : Nat := answerSource homeSource 1

/-- Messages of an owner's Xfer to the home. -/
def homeBound (pw owner : Nat) (e : Event) : Bool :=
  match e with
  | .xfer p o t _ _ => p = pw && o = owner && t = homeSource
  | .fillData p t _ _ _ _ src => p = pw && t = homeSource && answerAgent src = owner
  | _ => false

/-- A word is taken over while messages about it are under way: whoever holds or awaits it loses it, but for
an agent whose Reg has not arrived, and readers that were forwarded ask the home again. -/
def State.purge (s : State) (pw : Nat) : State :=
  let asked := fun (a : Nat) => (s.inFlight ++ (s.line (pw / 32)).stalled).any (fun e => match e with
    | .reg p b _ _ => p = pw && b = a
    | _ => false) || (agentKind a = 0 && (s.near_ (coreOfAgent a) pw).unsent.isSome)
  let goesOn := fun (e : Event) => match e with
    | .fwd p _ r => if p = pw then some (Event.read p r) else some e
    | .xfer p _ _ _ _ => if p = pw then none else some e
    | .fillData p a _ _ _ _ _ =>
      if p = pw && (a = homeSource || (s.near_ (coreOfAgent a) pw).fillPend) then none else some e
    | e => some e
  let readers := (s.near.filter (fun e => e.1 % 2 ^ 50 = pw)).flatMap (fun e => e.2.owed) ++
    (s.engines.filter (fun e => e.1 % 2 ^ 50 = pw)).flatMap (fun e => e.2.owed)
  let again := readers.filterMap (fun e => match e with | .fwd p _ r => some (Event.read p r) | _ => none)
  { s with
    near := s.near.map (fun (k, w) =>
      if k % 2 ^ 50 = pw && w.held && w.reg && !asked (agentOfCore (k / 2 ^ 50)) then
        (k, { w with held := false, reg := false, fillPend := false, bytes := 0, owed := [] })
      else (k, w))
    engines := s.engines.map (fun (k, e) =>
      if k % 2 ^ 50 = pw && e.used && !asked (k / 2 ^ 50) then
        (k, if e.filled then { e with owed := [] } else
          { e with owed := [], filled := true, value := s.homeCopy pw, poison := nmem s.memPoison pw })
      else (k, e))
    agenda := s.agenda.filterMap goesOn ++ again
    heldMsgs := s.heldMsgs.filterMap (fun m => (goesOn m.2.1).map (fun e => (m.1, e, m.2.2)))
    timers := s.timers.filter (fun e => e.2.word ≠ pw || e.2.kind = 3) }

/-- A word is stored by an agent that registers and writes it back as one (R214, R428): it follows what
was there in coherence order and ends a loss (R211). -/
def State.putThrough (s : State) (agent pw : Nat) (v : Word) (bad : Bool) : State :=
  let s := if s.quiet pw then s else s.purge pw
  let s := (s.takeHome pw true).homePut pw v bad
  let n := pw / 32
  let l := s.line n
  s.setLine n { l with writers := tput l.writers (pw % 32) agent }

/-! ## Timers (R215) -/

/-- 4 and 40 microseconds of arithmetic clocks at 1.8 GHz (R215). -/
def timerLimit (asleep : Bool) : Nat := if asleep then 72000 else 7200

/-- A timer starts (R215). -/
def State.startTimer (s : State) (pw owner kind other : Nat) : State :=
  let limit := if nmem s.fenced owner then 0 else timerLimit (nmem s.sleepers owner)
  { s with timers := tput s.timers s.fresh ⟨pw, owner, kind, other, s.clk + limit⟩
           fresh := s.fresh + 1 }

/-- The first timer of a request stops: its answer has arrived. -/
def dropTimer (pw owner kind other : Nat) : Table Timer → Table Timer
  | [] => []
  | (k, t) :: rest =>
    if t.word = pw && t.owner = owner && t.kind = kind && t.other = other then rest
    else (k, t) :: dropTimer pw owner kind other rest

def State.stopTimer (s : State) (pw owner kind other : Nat) : State :=
  { s with timers := dropTimer pw owner kind other s.timers }

/-! ## Ordered mode (R222 to R225) -/

/-- Order of a Reg: 0 unordered, else 1 + the key of the ordered block. -/
def orderOf (b : Nat) (ordered : Bool) : Nat := if ordered then b + 1 else 0

/-- Whether every block of a launch below an index has retired (R222). -/
def State.lowerRetired (s : State) (launch index : Nat) : Bool :=
  let v := s.launch launch
  decide (index ≤ v.base + v.next) && s.blocks.all (fun e =>
    !(e.2.launch = launch && e.2.index < index) || e.2.mode = .retired || e.2.mode = .discarded)

/-- The ordered block a core holds, if any (R199). -/
def State.orderedOn (s : State) (core : Nat) : Option (Nat × Nat) :=
  match s.blocks.find? (fun e => e.2.core = core && e.2.ordered &&
    (e.2.mode = .running || e.2.mode = .saving || e.2.mode = .ended)) with
  | some e => some (e.2.launch, e.2.index)
  | none => none

/-- The block of an ordered launch that has a word registered (R222). -/
def Line.orderAt (v : Line) (i : Nat) : Option (Nat × Nat) :=
  match v.orders.find? (fun o => o.1 = i) with
  | some o => some (o.2.1, o.2.2)
  | none => none

/-! ## The home's reactions (R211) -/

/-- A message to an owner; a fenced one is sent none: its request is treated as timed out at once (R215). -/
def State.toOwner (s : State) (a : Nat) (e : Event) : State := if nmem s.fenced a then s else s.send e

/-- The clock of a fill as messages carry it: the line's clock, and above it the order in which fills of one clock
left (R213). -/
def State.stamp (s : State) (clock : Nat) : Nat := clock % 2 ^ 16 + 2 ^ 16 * s.steps

/-- The first request that waits at a line arrives again; it keeps its place until then (R209). -/
def nextStalled (n : Nat) (s : State) : State :=
  match (s.line n).pulling, (s.line n).stalled with
  | none, e :: _ => s.sendFirst e
  | _, _ => s

/-- A request at the home of a line (R209): it queues behind requests that wait there, in arrival order, and one
that has waited is served as the first of them. Reading: log entry 54, DEDUCED. -/
def atHome (n : Nat) (e : Event) (serve : State → State) (s : State) : State :=
  let v := s.line n
  if v.pulling.isNone && v.stalled.isEmpty then serve s
  else if v.pulling.isNone && v.stalled.head? = some e then
    nextStalled n (serve (s.setLine n { v with stalled := v.stalled.tail }))
  else s.setLine n { v with stalled := v.stalled ++ [e] }

/-- A request that nobody makes any more leaves the line where it waits. -/
def passStalled (e : Event) (s : State) : State :=
  match s.registry.find? (fun v => v.2.stalled.head? = some e && v.2.pulling.isNone) with
  | some (n, v) => nextStalled n (s.setLine n { v with stalled := v.stalled.tail })
  | none => s

/-- Read(C) at the home. REASON of a word that a request finds Lost is 4 (R217); a lower block of an ordered
launch is served the home's copy (R223). -/
def serveRead (pw reader : Nat) (s : State) : State :=
  let v := s.line (pw / 32)
  let own := fun (s : State) =>
    s.send (.fillData pw reader (s.homeCopy pw) (nmem s.memPoison pw) (s.stamp v.clock.toNat) false homeSource)
  match v.owner (pw % 32) with
  | .lost => s.send (.fillData pw reader 4 false (s.stamp v.clock.toNat) true homeSource)
  | .unowned => own s
  | .agent a =>
    let older := match v.orderAt (pw % 32), s.orderedOn (coreOfAgent reader) with
      | some (l, b), some (l', c) => l = l' && decide (c < b)
      | _, _ => false
    if older then own s else (s.startTimer pw a 0 reader).toOwner a (.fwd pw a reader)

def homeRead (pw reader : Nat) (s : State) : State := atHome (pw / 32) (.read pw reader) (serveRead pw reader) s

/-- The registration is granted: slot, code, clock, the Ack, and the old owner's Xfer or the data. -/
def grantReg (pw b : Nat) (want : Bool) (order : Nat) (slot : Nat) (s : State) : State :=
  let n := pw / 32
  let v := s.line n
  let old := v.owner (pw % 32)
  let v := if v.slotOf b = some slot then v else v.takeSlot slot b
  let v := (v.setCode (pw % 32) (BitVec.ofNat 3 (4 + slot))).freeUnused
  let clock := v.clock + 1
  let v := { v with clock := clock
                    writers := tput v.writers (pw % 32) b
                    late := v.late.filter (fun o => o.1 ≠ pw % 32)
                    orders := v.orders.filter (fun o => o.1 ≠ pw % 32) ++
                      (if order = 0 then [] else
                        [(pw % 32, (s.block (order - 1)).launch, (s.block (order - 1)).index)]) }
  let s := (s.setLine n v).send (.ack pw b clock.toNat)
  match old with
  | .agent a => (s.startTimer pw a (if want then 1 else 2) b).toOwner a (.xfer pw a b want clock.toNat)
  | _ =>
    if want then s.send (.fillData pw b (s.homeCopy pw) (nmem s.memPoison pw) clock.toNat false regSource) else s

/-- A Reg is granted in the slot the agent has, or in a free one; that of a fifth agent stalls, and the oldest
slot's owner is recalled (R209). -/
def slotReg (pw b : Nat) (want : Bool) (order : Nat) (s : State) : State :=
  let n := pw / 32
  let v := s.line n
  match v.slotOf b, v.freeSlot with
  | some i, _ => grantReg pw b want order i s
  | none, some i => grantReg pw b want order i s
  | none, none =>
    let i := v.oldest
    let o := match lget .none v.slots i with | some sl => sl.agent | none => 0
    ((s.setLine n { v with pulling := some i, stalled := .reg pw b want order :: v.stalled }).startTimer (n * 32) o 3 0).toOwner
      o (.recall n o)

/-- Reg(A) of the owner itself: an Ack. The value is gone if A wants data: it has dropped the word and its Drop is
still under way (R216). Reading: log entry 54, DEDUCED. -/
def ownReg (pw b : Nat) (want : Bool) (s : State) : State :=
  let v := s.line (pw / 32)
  let s := s.send (.ack pw b v.clock.toNat)
  if want then s.send (.fillData pw b 3 false v.clock.toNat true regSource) else s

/-- Whether a flip to host bias refuses registrations of a word (R177). -/
def State.flipping (s : State) (pw : Nat) : Bool :=
  match s.flip with
  | some f => f.toHost && decide (f.base ≤ 4 * pw ∧ 4 * pw < f.base + f.size)
  | none => false

/-- A word that some access of a core still awaits is asked for again. -/
def State.askAgain (s : State) (core pw : Nat) : State :=
  if s.txns.any (fun e => e.2.warp / 128 = core && e.2.words.any (fun x => x.word = pw && !x.ready)) then
    s.send (.read pw (s.reader core))
  else s

/-- A Reg that stalled while its page was turned to host bias proceeds as a host-bias access (R177): a near cache's
store reaches the home's copy, and an engine's word goes home as its Wb. -/
def hostReg (pw b : Nat) (want : Bool) (s : State) : State :=
  if agentKind b = 0 then
    let c := coreOfAgent b
    let w := s.near_ c pw
    let mask := if want then w.bytes else 15
    let s := s.homePut pw (mergeBytes mask (s.homeCopy pw) w.value) ((want && nmem s.memPoison pw) || (!want && w.poison))
    (s.setNear c pw { w.drop with reqPend := false, claim := 0 }).askAgain c pw
  else
    let e := s.engine b pw
    if e.used then
      let e := { e with host := true }
      let e' := if e.written then { e with acked := true, sent := true } else
        { e with acked := true, filled := true, value := s.homeCopy pw, poison := nmem s.memPoison pw }
      let s := s.setEngine b pw e'
      if e.written then s.send (.wb pw b e.value e.poison) else s
    else s

/-- The word is registered to another block of the ordered launch a Reg comes from (R224): 0 no such block, 1 a lower
one that has still to retire, 2 a higher one, 3 a lower one that has retired and whose value is not at the home. -/
def orderOfReg (s : State) (pw order : Nat) : Nat :=
  match (s.line (pw / 32)).orderAt (pw % 32), order with
  | some (l, i), o + 1 =>
    let b := s.block o
    if l ≠ b.launch || i = b.index then 0
    else if b.index < i then 2
    else if s.lowerRetired l (i + 1) then 3 else 1
  | _, _ => 0

/-- The clock that an Ack carries when the Reg is refused (R224). -/
def refusedClock : Nat := 2 ^ 17

/-- Reg(B) at the home (R209, R211, R224); one of a fenced agent is dropped (R15). -/
def serveReg (pw b : Nat) (want : Bool) (order : Nat) (s : State) : State :=
  let v := s.line (pw / 32)
  if nmem s.fenced b then s
  else if nmem s.hostBias (pw / 2 ^ 14) then hostReg pw b want s
  else
    match v.owner (pw % 32) with
    | .agent a =>
      if a = b then ownReg pw b want s
      else
        match orderOfReg s pw order with
        | 1 => s.sendFirst (.reg pw b want order)
        | 2 => s.send (.ack pw b refusedClock)
        | 3 => ((s.startTimer pw a 4 0).toOwner a (.xfer pw a homeSource true 0)).sendFirst (.reg pw b want order)
        | _ => slotReg pw b want order s
    | own =>
      if own = .lost && want then s.send (.fillData pw b 4 false v.clock.toNat true regSource)
      else slotReg pw b want order s

/-- Reg(B): it stalls while the page is turned to host bias (R177) or an atomic awaits the word. -/
def homeReg (pw b : Nat) (want : Bool) (order : Nat) (s : State) : State :=
  if s.flipping pw || s.comingHome pw then s.sendFirst (.reg pw b want order)
  else atHome (pw / 32) (.reg pw b want order) (serveReg pw b want order) s

/-- A recall stops its timer once every word of the slot has been answered, deferred ones too (R215, R222), and is
over when the slot is free: the first request that waits arrives again (R209). -/
def endRecall (n : Nat) (s : State) : State :=
  let v := s.line n
  match v.pulling with
  | none => s
  | some i =>
    let owner := match lget .none v.slots i with | some sl => sl.agent | none => 0
    let answered := (upTo 32).all (fun j => (lget 0 v.codes j).toNat ≠ 4 + i || v.late.any (fun o => o.1 = j))
    let s := if answered then s.stopTimer (n * 32) owner 3 0 else s
    if v.uses i then s else nextStalled n (s.setLine n { v.freeUnused with pulling := .none })

/-- A word is unowned again. -/
def Line.leave (v : Line) (j : Nat) : Line :=
  { (v.setCode j 0).freeUnused with orders := v.orders.filter (fun o => o.1 ≠ j), late := v.late.filter (fun o => o.1 ≠ j) }

/-- A write-back reaches the home's copy and is acknowledged (R211). -/
def takeWb (pw a : Nat) (value : Word) (bad : Bool) (s : State) : State :=
  let n := pw / 32
  endRecall n (((s.setLine n ((s.line n).leave (pw % 32))).homePut pw value bad).send (.wbAck pw a))

/-- The owner's Wb has come: the timers of requests that it answers stop (R215), and what the home itself had
asked for is no longer awaited. -/
def State.wbStops (s : State) (pw a : Nat) : State :=
  { s with timers := s.timers.filter (fun e => !(e.2.word = pw && e.2.owner = a && e.2.kind ≠ 3))
           agenda := s.agenda.filter (fun e => !homeBound pw a e)
           heldMsgs := s.heldMsgs.filter (fun m => !homeBound pw a m.2.1) }

/-- A word that an atomic needs has come home from its owner (R211). -/
def comeHome (pw owner : Nat) (value : Word) (bad : Bool) (s : State) : State :=
  let n := pw / 32
  let mine := fun (e : Nat × Timer) => decide (e.2.word = pw ∧ e.2.owner = owner ∧ e.2.kind = 4)
  if !s.timers.any mine then s
  else
    let s := { s with timers := s.timers.filter (fun e => !mine e) }
    if s.owner pw = .agent owner then
      endRecall n ((s.setLine n ((s.line n).leave (pw % 32))).homePut pw value bad)
    else s

/-- Wb(A) at the home (R211, R222). In ordered mode it is held in the registry entry while a lower block has not
retired: the word stays registered and the kept copy answers. What an engine was to write in host bias is an access of
the bytes it writes in the home's copy, or a registered one where the page has been turned back by now (R176, R177). -/
def homeWb (pw a : Nat) (value : Word) (bad : Bool) (s : State) : State :=
  let n := pw / 32
  let s := s.wbStops pw a
  let v := s.line n
  if v.owner (pw % 32) = .agent a then
    let waits := match v.orderAt (pw % 32) with
      | some (l, b) => !s.lowerRetired l b
      | none => false
    if waits then
      endRecall n (s.setLine n { v with late := v.late.filter (fun o => o.1 ≠ pw % 32) ++ [(pw % 32, value, bad, a)] })
    else takeWb pw a value bad s
  else if (s.engine a pw).host then
    let mask := (s.engine a pw).mask
    let value := mergeBytes mask (s.homeCopy pw) value
    let bad := bad || (mask ≠ 15 && nmem s.memPoison pw)
    (if nmem s.hostBias (pw / 2 ^ 14) then s.homePut pw value bad else s.putThrough a pw value bad).send (.wbAck pw a)
  else s.send (.wbAck pw a)

/-! ## The owner's reactions (R210, R214) -/

/-- The reason that a Drop carries, with the agent whose copy was in error where another has the word now: 1
uncorrectable error, 3 context discarded (R216, R217). -/
def dropCode (reason agent : Nat) : Nat := reason + 16 * (agent + 1)

/-- Fwd(reader C) at the owner. A copy with an uncorrectable error answers Lost (R216). A word that an engine has
taken over in the meantime has no value here any more, and the reader's request goes to the home again. -/
def ownerFwd (pw a reader : Nat) (s : State) : State :=
  if nmem s.fenced a then s
  else if agentKind a = 0 then
    let c := coreOfAgent a
    let w := s.near_ c pw
    if w.kept then s.send (.fillData pw reader w.keptVal w.keptPoison w.clock false a)
    else if w.held && w.fillPend then s.setNear c pw { w with owed := w.owed ++ [.fwd pw a reader] }
    else if w.held && w.reg && w.err then
      ((s.setNear c pw w.drop).send (.fillData pw reader 1 false w.clock true a)).send (.drop pw a 1)
    else if w.held && w.reg then s.send (.fillData pw reader w.value w.poison (s.stamp w.clock) false a)
    else (s.stopTimer pw a 0 reader).send (.read pw reader)
  else
    let e := s.engine a pw
    if e.used && !e.written then s.setEngine a pw { e with owed := e.owed ++ [.fwd pw a reader] }
    else if e.used then
      s.send (.fillData pw reader e.value e.poison (s.stamp (s.line (pw / 32)).clock.toNat) false a)
    else (s.stopTimer pw a 0 reader).send (.read pw reader)

/-- The kind of a Xfer's timer (R215). -/
def xferKind (taker : Nat) (want : Bool) : Nat := if taker = homeSource then 4 else if want then 1 else 2

/-- Xfer(new owner B) at the owner, the home itself among the takers: the copy is dropped, a Valid one beside a
pending write-back too (R210). An owner that has dropped the word has no answer, and the timer runs on where data
are wanted. -/
def ownerXfer (pw a taker : Nat) (want : Bool) (clock : Nat) (s : State) : State :=
  let kind := xferKind taker want
  let answer := fun (s : State) (v : Word) (bad : Bool) =>
    s.send (.fillData pw taker v bad clock false (answerSource a kind))
  if nmem s.fenced a then s
  else if agentKind a = 0 then
    let c := coreOfAgent a
    let w := s.near_ c pw
    if w.kept then answer (if w.held && !w.reg then s.setNear c pw w.drop else s) w.keptVal w.keptPoison
    else if w.held && w.fillPend then s.setNear c pw { w with owed := w.owed ++ [.xfer pw a taker want clock] }
    else if w.held && w.reg && w.err then
      let s := s.setNear c pw w.drop
      if taker = homeSource || want then
        (s.send (.fillData pw taker 1 false clock true (answerSource a kind))).send
          (.drop pw (if taker = homeSource then a else taker) (dropCode 1 a))
      else answer s 0 false
    else if w.held && w.reg then answer (s.setNear c pw { w.drop with clock := s.stamp w.clock }) w.value w.poison
    else if want then s else s.stopTimer pw a kind taker
  else
    let e := s.engine a pw
    if e.used && !e.written then
      s.setEngine a pw { e with owed := e.owed ++ [.xfer pw a taker want clock] }
    else if e.used then answer s e.value e.poison
    else if want then s else s.stopTimer pw a kind taker

/-- A core writes one registered word back and drops it or keeps it Valid (R210); a copy with an uncorrectable error
has no value to write (R216). -/
def writeBack (core pw : Nat) (keepValid : Bool) (s : State) : State :=
  let w := s.near_ core pw
  if w.err then (s.setNear core pw w.drop).send (.drop pw (agentOfCore core) 1)
  else
    let w' := { w with kept := true, keptVal := w.value, keptPoison := w.poison, keptBlock := w.block, reg := false
                       held := keepValid, clock := s.stamp w.clock }
    (s.setNear core pw w').send (.wb pw (agentOfCore core) w.value w.poison)

/-- Words of a core's near cache that satisfy f. -/
def State.nearWords (s : State) (core : Nat) (f : Nat → NearWord → Bool) : List Nat :=
  (s.near.filter (fun e => e.1 / 2 ^ 50 = core && f (e.1 % 2 ^ 50) e.2)).map (fun e => e.1 % 2 ^ 50)

/-- Recall at the owner: every word of the line that it holds is written back and dropped (R209). A word whose fill
is pending follows when it is filled; one whose Reg the home has not acknowledged is not the home's yet (R212). -/
def ownerRecall (n a : Nat) (s : State) : State :=
  let c := coreOfAgent a
  if nmem s.fenced a then s
  else if agentKind a = 0 then
    let s := (s.nearWords c (fun pw w => pw / 32 = n && w.held && w.reg && !w.reqPend && !w.fillPend)).foldl
      (fun s pw => writeBack c pw false s) s
    (s.nearWords c (fun pw w => pw / 32 = n && w.held && w.reg && !w.reqPend && w.fillPend)).foldl
      (fun s pw => s.setNear c pw { s.near_ c pw with owed := (s.near_ c pw).owed ++ [.recall n a] }) s
  else endRecall n s

/-- What waited for a word's value is answered, in the order it came. -/
def answerOwed (owed : List Event) (s : State) : State :=
  owed.foldl (fun s e => match e with
    | .fwd pw a r => ownerFwd pw a r s
    | .xfer pw a t w k => ownerXfer pw a t w k s
    | .recall n a => ownerRecall n a s
    | _ => s) s

/-- Ack at the registering agent (R210); a refusal ends the claim of an ordered block (R224). A word dropped
before its Ack is reported to the home after it (R212, R216), and an engine's Wb follows its Ack.
Reading: log entry 54, DEDUCED. -/
def nearAck (pw agent clock : Nat) (s : State) : State :=
  if agentKind agent = 0 then
    let c := coreOfAgent agent
    let w := s.near_ c pw
    if refusedClock ≤ clock then
      (s.setNear c pw { w.drop with reqPend := false, dropping := .none, claim := if w.claim = 1 then 2 else 0 }).askAgain c pw
    else
      let s := s.setNear c pw { w with
        reqPend := false, dropping := .none, clock := if w.held then s.stamp clock else w.clock }
      match w.dropping with
      | some r => s.send (.drop pw agent r)
      | none => s
  else
    let e := s.engine agent pw
    if !e.used then s
    else if e.written && !e.sent then
      (s.setEngine agent pw { e with acked := true, sent := true }).send (.wb pw agent e.value e.poison)
    else s.setEngine agent pw { e with acked := true }

/-- An operation of an engine has a word registered (R214): its Reg goes to the home. -/
def engineReg (agent pw id : Nat) (want : Bool) (rest : List (Nat × Bool)) (s : State) : State :=
  (s.setEngine agent pw { used := true, filled := !want, copy := id, next := rest }).send (.reg pw agent want 0)

/-- Wb ack (R210): a Reg that waited for it is sent. -/
def nearWbAck (pw agent : Nat) (s : State) : State :=
  if agentKind agent = 0 then
    let c := coreOfAgent agent
    let w := s.near_ c pw
    let s := s.setNear c pw { w with kept := false, unsent := .none }
    match w.unsent with
    | some (want, order) => s.send (.reg pw agent want order)
    | none => s
  else
    match (s.engine agent pw).next with
    | [] => s.setEngine agent pw {}
    | (id, want) :: rest => engineReg agent pw id want rest s

/-- The words of accesses in flight that a fill answers, but for accesses issued after more acquires than it. -/
def serveTxns (core pw age : Nat) (value : Word) (bad lost : Bool) (own ownTick : DWord) (s : State) : State :=
  { s with txns := s.txns.map (fun (k, t) =>
      if t.warp / 128 = core && decide (t.age ≤ age) then
        (k, { t with words := t.words.map (fun x =>
          if x.word = pw && !x.ready then
            { x with ready := true, value := value, poison := bad, lost := lost, own := own
                     ownTick := ownTick }
          else x) })
      else (k, t)) }

/-- Whether a clock of 16 bits lies below another: it is behind it by less than half the range (R208, R213).
Reading: log entry 54, DEDUCED. -/
def clockBelow (a b : Nat) : Bool := 2 ^ 15 ≤ (a + 2 ^ 16 - b % 2 ^ 16) % 2 ^ 16

/-- A fill below another (R213): by the line's clocks, and between fills of one clock by the order they left in. -/
def fillBelow (a b : Nat) : Bool :=
  clockBelow a b || (a % 2 ^ 16 = b % 2 ^ 16 && decide (a / 2 ^ 16 < b / 2 ^ 16))

/-- Data arrive at a near cache (R210, R213, R216); a fill that reports a loss carries its REASON (R217). The data of
a Read are not those that a pending sub-word store awaits, and a Read issued before an acquire answers the accesses
issued before it and leaves no copy (R185). A fill below a copy that the core has had is not installed, and who
still waits asks again (R213, R229). Reading: log entry 39, DEDUCED. -/
def nearFill (pw reader : Nat) (value : Word) (bad : Bool) (clock : Nat) (lost forReg : Bool) (s : State) : State :=
  let c := coreOfAgent reader
  let w := s.near_ c pw
  let now := s.acquires c
  let age := if forReg then now else readerAge reader
  let log := tget (0, 0) s.lostLog pw
  let own := (BitVec.ofNat 64 (value.toNat * 2 ^ 32 + bitsOf log.1 0 16), log.2)
  let older := w.clock ≠ 0 && fillBelow clock w.clock
  if forReg ≠ (w.held && w.fillPend) then s
  else if lost then
    let s := if forReg then
        s.setNear c pw { w.drop with reqPend := false, owed := [], claim := if w.claim = 1 then 3 else 0 }
      else s
    serveTxns c pw age 0 false true own.1 own.2 s
  else if forReg then
    let v := mergeBytes w.bytes value w.value
    let s := s.setNear c pw { w with fillPend := false, bytes := 0, value := v, poison := bad, owed := [] }
    answerOwed w.owed (serveTxns c pw now v bad false 0 0 s)
  else if w.held && (w.reg || older) then
    serveTxns c pw now w.value w.poison false 0 0 s
  else if older then s.askAgain c pw
  else if age < now then serveTxns c pw age value bad false 0 0 s
  else
    let s := s.setNear c pw { w with held := true, reg := false, value := value, poison := bad, clock := clock }
    serveTxns c pw now value bad false 0 0 s

/-- A word leaves a near cache or an engine's reach by eviction (R210): a Valid copy is dropped, a
Registered word is written back. -/
def evict (agent pw : Nat) (s : State) : State :=
  if agentKind agent = 0 then
    let c := coreOfAgent agent
    let w := s.near_ c pw
    if !w.held || w.reqPend || w.fillPend || w.kept then s
    else if w.reg then writeBack c pw false s
    else s.setNear c pw w.drop
  else s

/-! ## Stores and loads of a core (R210) -/

/-- A Reg of a word of a core's near cache. Nothing keeps it behind a write-back of the word that is not yet
acknowledged (R212), so it is sent after that. Reading: log entry 54, DEDUCED. -/
def State.askReg (s : State) (core pw : Nat) (want : Bool) (order : Nat) : State :=
  let w := s.near_ core pw
  let s := s.count core evRegs 1
  if w.kept then s.setNear core pw { w with unsent := some (want, order) }
  else s.send (.reg pw (agentOfCore core) want order)

/-- A store of the bytes of a mask into a word by a warp of a block, given by its index and its key. -/
def nearStore (core pw : Nat) (mask : BitVec 4) (v : Word) (block warp wk order : Nat) (s : State) : State :=
  let w := s.near_ core pw
  let whole := mask = 15
  if w.held && w.reg then
    s.setNear core pw { w with
      value := mergeBytes mask w.value v, block := block, warp := warp, claim := 0
      bytes := if w.fillPend then w.bytes ||| mask else w.bytes
      poison := w.poison && !whole, err := w.err && !whole }
  else
    let old := if w.held then w.value else s.homeCopy pw
    let w' : NearWord := { w with
      held := true, reg := true, reqPend := true, fillPend := !whole
      bytes := if whole then 0 else mask
      value := mergeBytes mask old v, poison := false, err := false, block := block, reqBlock := block, warp := warp
      claim := 0, asker := wk, askIdx := (s.warp wk).index, rclk := (s.warp wk).rclk }
    (s.setNear core pw w').askReg core pw (!whole) order

/-- A word is claimed by REGR, or by a store of an ordered block ahead of its performance (R201, R210, R222): `claim`
as NearWord has it; `want` is false only for a word found Lost, which a store of the whole word ends.
Reading: log entry 39, DEDUCED. -/
def nearClaim (core pw block wk order claim : Nat) (want : Bool) (s : State) : State :=
  let w := s.near_ core pw
  if w.held && w.reg then s
  else
    let w' : NearWord := { w with
      held := true, reg := true, reqPend := true, fillPend := want, bytes := 0
      value := if w.held then w.value else s.homeCopy pw
      poison := !want, err := false, block := block, reqBlock := block, claim := claim
      asker := wk, askIdx := (s.warp wk).index, rclk := (s.warp wk).rclk }
    (s.setNear core pw w').askReg core pw want order

/-- Cores whose near caches lie in a scope around a core (R201, R218). -/
def coresIn (scope core c : Nat) : Bool :=
  match scope with
  | 3 => clusterOfCore c = clusterOfCore core
  | 4 => dieOfCore c = dieOfCore core
  | 5 => true
  | 6 => true
  | _ => c = core

/-- INVA and INVR: the Valid words of the near caches in a scope that satisfy f are dropped (R201, R210). -/
def invalidate (scope core : Nat) (f : Nat → Bool) (s : State) : State :=
  { s with
    near := s.near.map (fun (k, w) =>
      if w.held && !w.reg && coresIn scope core (k / 2 ^ 50) && f (k % 2 ^ 50) then (k, w.drop) else (k, w))
    acqs := tput s.acqs (acquireKey scope core) (tget 0 s.acqs (acquireKey scope core) + 1) }

/-- An acquire at a scope (R185). -/
def acquire (scope core : Nat) (s : State) : State := invalidate scope core (fun _ => true) s

/-- Deferred values reach the home once every lower block has retired (R222). -/
def settleLate (n : Nat) (s : State) : State :=
  (s.line n).late.foldl (fun s (i, v, bad, a) =>
    match (s.line n).orderAt i with
    | some (l, b) =>
      if s.lowerRetired l b && (s.line n).owner i = .agent a then
        takeWb (n * 32 + i) a v bad s
      else s
    | none => s) s

end Sys2Proof.Machine
end

