-- ==== Sys2Proof/Machine/Translate.lean ====
section
/-! DEFINITION. Translation of global virtual addresses (R165 to R169, R308 to R317). A lookup takes a
cached translation of the core or of its die, or walks the tables; whether a walk's translation stays in
the caches is the choice of the event TRANSLATION_WALK (R314). -/

namespace Sys2Proof.Machine

/-- A leaf entry's fields (R311). -/
def leafHome (e : DWord) : Nat := bitsOf e 6 2
def leafPin (e : DWord) : Nat := bitsOf e 52 11
def leafPriv (e : DWord) : Bool := e.getLsbD 5
def leafX (e : DWord) : Bool := e.getLsbD 4
def leafW (e : DWord) : Bool := e.getLsbD 3
def leafR (e : DWord) : Bool := e.getLsbD 2
def leafTier (e : DWord) : Nat := bitsOf e 8 1
def leafOrdp (e : DWord) : Bool := e.getLsbD 10

/-- A failed translation or permission: its level and reason (R317). -/
structure Miss where
  level  : Nat
  reason : Nat
  deriving DecidableEq, Repr, Inhabited

/-- Whether the failure takes the permission fault (R317). -/
def Miss.perm (m : Miss) : Bool := 7 ≤ m.reason

/-- No failure: a word that the walk reads is still on its way to it (R312). -/
def Miss.pend (m : Miss) : Bool := m.reason = 16

/-- Index of a level (R310). -/
def levelIndex (lvl va : Nat) : Nat :=
  match lvl with
  | 0 => va / 2 ^ 43 % 2 ^ 14
  | 1 => va / 2 ^ 30 % 2 ^ 13
  | 2 => va / 2 ^ 21 % 2 ^ 9
  | _ => va / 2 ^ 16 % 2 ^ 5

/-- log2 of the page a leaf of a level maps (R310). -/
def levelBits (lvl : Nat) : Nat := if lvl = 1 then 30 else if lvl = 2 then 21 else 16

/-- Level whose leaf maps a page of a size. -/
def levelOfSize (size : Nat) : Nat := if size = 2 ^ 30 then 1 else if size = 2 ^ 21 then 2 else 3

/-- log2 of the alignment of a level's table (R310). -/
def tableBits (lvl : Nat) : Nat := if lvl = 0 then 17 else if lvl = 1 then 16 else if lvl = 2 then 12 else 8

/-- Whether an entry is malformed at a level (R311). -/
def malformed (lvl : Nat) (e : DWord) : Bool :=
  if e.getLsbD 1 then
    lvl = 0 || e.getLsbD 63 || bitsOf e 11 5 ≠ 0 ||
    bitsOf e 16 36 % 2 ^ (levelBits lvl - 16) ≠ 0 || (leafW e && !leafR e) ||
    (match leafHome e with
      | 1 => leafPin e / 64 ≠ 0
      | 2 => leafPin e / 512 ≠ 0
      | _ => leafPin e ≠ 0)
  else
    lvl = 3 || bitsOf e 52 12 ≠ 0 || bitsOf e 2 6 ≠ 0 ||
    bitsOf e 8 44 * 256 % 2 ^ tableBits (lvl + 1) ≠ 0

/-- What the walker reads of an entry (R312). -/
inductive Entry where
  | wait
  | bad
  | value (e : DWord)
  deriving DecidableEq, Repr, Inhabited

/-- Key of a low word that a walk of a die has read. -/
def lowKey (die pa : Nat) : Nat := die * 2 ^ 60 + pa

/-- An entry as the walker of a die reads it, low word and then high word at their homes (R312): the low word may have
been read some time before the high one. A word that its owner or an engine has still to have or to write is awaited.
Reading: log entry 29, DEDUCED. -/
def State.walkRead (s : State) (die pa : Nat) : Entry :=
  let word := fun (pw : Nat) (old : Option Word) =>
    match old with
    | some v => some (some (v, false))
    | none => if s.quiet pw then some (s.latest pw) else none
  match word (pa / 4) (tfind s.lows (lowKey die pa)), word (pa / 4 + 1) none with
  | some (some (lo, false)), some (some (hi, false)) => .value (BitVec.ofNat 64 (lo.toNat + 2 ^ 32 * hi.toNat))
  | none, _ => .wait
  | _, none => .wait
  | _, _ => .bad

/-- The unit that a leaf pins its page to (R169): 1 + slice, 1024 + core, or none. -/
def pinUnit (e : DWord) : Nat :=
  match leafHome e with
  | 1 => 1 + leafPin e
  | 2 => 1024 + leafPin e
  | _ => 0

/-- Bytes that a unit can keep of pinned pages: 4 MiB in a slice, half of a core's near cache (R169). -/
def pinRoom (s : State) (u : Nat) : Nat := if u < 1024 then 4 * 2 ^ 20 else (s.core (u - 1024)).ncache * 2 ^ 15

/-- A pinned page's unit is absent or fenced, or has no room for it (R169). -/
def pinRefused (s : State) (e : DWord) (base size : Nat) : Bool :=
  let u := pinUnit e
  let mine := s.pins.filter (fun p => p.unit = u)
  u ≠ 0 && ((if u < 1024 then !s.hasSlice (u - 1) || nmem s.fenced (0x10000 + (u - 1))
      else !s.hasCore (u - 1024) || nmem s.fenced (agentOfCore (u - 1024))) ||
    (!mine.any (fun p => p.base = base && p.size = size) &&
      decide (pinRoom s u < mine.foldl (fun n p => n + p.size) 0 + size)))

/-- Whether a leaf's page is inside the map, in the tier it names, and pinned to a unit that exists and
has room (R166, R167, R169). -/
def leafReason (s : State) (e : DWord) (base size : Nat) : Option Nat :=
  let last := base + size - 1
  let r := regionOf base
  if regionOf last ≠ r || (r ≠ .fabric && !s.backed last) then some 3
  else if r ≠ .fabric && (leafTier e = 1) ≠ (r = .lpddr) then some 4
  else if pinRefused s e base size then some 5
  else none

/-- The walk of a die from a level on (R310). -/
def walkFrom (s : State) (die va : Nat) : Nat → Nat → Nat → Except Miss Cached
  | 0, _, _ => .error ⟨3, 1⟩
  | fuel + 1, lvl, table =>
    let at_ := table + levelIndex lvl va * 8
    if !s.backed at_ then .error ⟨lvl, 3⟩
    else
      match s.walkRead die at_ with
      | .wait => .error ⟨lvl, 16⟩
      | .bad => .error ⟨lvl, 6⟩
      | .value e =>
        if !e.getLsbD 0 then .error ⟨lvl, 0⟩
        else if malformed lvl e then .error ⟨lvl, 1⟩
        else if e.getLsbD 1 then
          let size := 2 ^ levelBits lvl
          let base := bitsOf e 16 36 * 2 ^ 16
          match leafReason s e base size with
          | some r => .error ⟨lvl, r⟩
          | none => .ok ⟨0, va / size * size, size, e⟩
        else walkFrom s die va fuel (lvl + 1) (bitsOf e 8 44 * 256)

/-- The walk of a context on a die (R308, R310). -/
def walk (s : State) (die ctx va : Nat) : Except Miss Cached :=
  let root := s.sysreg (0x178 + ctx % 8)
  if !root.getLsbD 0 then .error ⟨0, 2⟩
  else (walkFrom s die va 4 0 (bitsOf root 17 35 * 2 ^ 17)).map (fun c => { c with ctx := ctx })

/-- A cached translation that covers an address. -/
def cachedIn (cs : List Cached) (ctx va : Nat) : Option Cached :=
  cs.find? (fun c => c.ctx = ctx && decide (c.base ≤ va ∧ va < c.base + c.size))

/-- The lookup of R314: the core's cache, its die's cache, and then a walk. -/
def lookup (s : State) (core ctx va : Nat) : Except Miss Cached :=
  match cachedIn (tget [] s.caches core) ctx va with
  | some c => .ok c
  | none =>
    match cachedIn (tget [] s.caches (1024 + dieOfCore core)) ctx va with
    | some c => .ok c
    | none => walk s (dieOfCore core) ctx va

/-- What an access needs of its page (R313). -/
structure Need where
  r : Bool := false
  w : Bool := false
  x : Bool := false
  deriving DecidableEq, Repr, Inhabited

def needLoad : Need := { r := true }
def needStore : Need := { w := true }
def needBoth : Need := { r := true, w := true }
def needFetch : Need := { x := true }

/-- First missing right (R313, R317). -/
def denied (e : DWord) (n : Need) (handler : Bool) : Option Nat :=
  if leafPriv e && !handler then some 11
  else if n.r && !leafR e then some 8
  else if n.w && !leafW e then some 9
  else if n.x && !leafX e then some 10
  else none

/-- FWIN of the window a physical address falls in (R390). -/
def windowOf (s : State) (pa : Nat) : DWord := s.sysreg (0x1E0 + pa / 2 ^ 46 % 16)

/-- A window is in use, and its port has live lanes (R390, R399). -/
def windowUp (s : State) (pa : Nat) : Bool :=
  let f := windowOf s pa
  f.getLsbD 63 && bitsOf (s.sysreg (0x200 + bitsOf f 52 4)) 6 2 ≠ 0

/-- A request that leaves the package through the window of a physical address (R390): kind 0 read,
1 write (tag: byte mask), 2 native atomic (tag: operation), 3 line-lock request, 4 unlock, 5 copy read,
6 copy write. Reading: log entry 7, DESIGN CHOICE. -/
def State.sendOut (s : State) (kind pa : Nat) (data : DWord) (tag : Nat) (cmp : DWord := 0) : State :=
  let f := windowOf s pa
  { s with fabricOut := s.fabricOut ++
      [⟨bitsOf f 0 16, kind, bitsOf f 46 6 * 2 ^ 46 + pa % 2 ^ 46, data, tag, cmp⟩] }

/-- Translation and permission of one virtual address (R165, R182, R313): a page of a window that is not in use, or
whose pin has no room, has no translation, and the rights are looked at after it. -/
def translate (s : State) (core ctx : Nat) (handler : Bool) (n : Need) (va : Nat) : Except Miss Phys :=
  if 2 ^ 57 ≤ va then .error ⟨0, 2⟩
  else
    match lookup s core ctx va with
    | .error m => .error m
    | .ok c =>
      let pbase := bitsOf c.leaf 16 36 * 2 ^ 16
      let pa := pbase + (va - c.base)
      if regionOf pa = .fabric && !windowUp s pa then .error ⟨levelOfSize c.size, 3⟩
      else if pinRefused s c.leaf pbase c.size then .error ⟨levelOfSize c.size, 5⟩
      else
        match denied c.leaf n handler with
        | some r => .error ⟨3, r⟩
        | none => .ok ⟨pa, c.leaf, pbase, c.size, ctx, c.base⟩

/-- XLSTAT's value (R317). Reading: log entry 42, DEDUCED. -/
def xlstatOf (ctx : Nat) (m : Miss) : DWord := BitVec.ofNat 64 (ctx * 256 + m.level * 64 + m.reason)

/-- An access to a pinned page takes its pin (R169), which its translation has then been used for. -/
def State.takePin (s : State) (p : Phys) : State :=
  let u := pinUnit p.leaf
  let me : PinUser := { ctx := p.ctx, virt := p.virt }
  let others := fun (us : List PinUser) => us.filter (fun x => !(x.ctx = p.ctx && x.virt = p.virt))
  if u = 0 then s
  else if s.pins.any (fun x => x.base = p.base && x.size = p.size) then
    { s with pins := s.pins.map (fun x =>
        if x.base = p.base && x.size = p.size then { x with users := me :: others x.users } else x) }
  else { s with pins := ⟨p.base, p.size, u, [me]⟩ :: s.pins }

/-- A place's page is pinned. -/
def State.pinPlace (s : State) (p : Place) : State :=
  match p with
  | .glob ph _ => s.takePin ph
  | .loc _ _ => s

/-- Whether accesses to a physical address use no registration: never-cached pages, host-bias pages and
fabric windows (R169, R176, R205). -/
def State.direct (s : State) (p : Phys) : Bool :=
  leafHome p.leaf = 3 || regionOf p.pa = .fabric || nmem s.hostBias (p.pa / 2 ^ 16)

/-- A word of the store written by a local or cluster store: its full/empty state stays, its poison clears
(R24, R31). Reading: log entry 28, DEDUCED. -/
def State.localStore (s : State) (core addr : Nat) (mask : BitVec 4) (v : Word) : State :=
  let k := storeKey core addr
  { s with store := tput s.store k (mergeBytes mask (s.word k) v), poison := ndel s.poison k }

/-- A word of memory written where no registration is used (R169, R176, R188); a fabric window's store goes
out to its package (R390). -/
def State.directStore (s : State) (pw : Nat) (mask : BitVec 4) (v : Word) : State :=
  if regionOf (4 * pw) = .fabric then
    s.sendOut 1 (4 * pw) (v.setWidth 64) mask.toNat
  else s.homePut pw (mergeBytes mask (s.homeCopy pw) v) (nmem s.memPoison pw && mask ≠ 15)

/-- The word that another package holds behind a fabric window at a step of this one: its value is open (log
entry 7). -/
def State.farWord (s : State) (pa : Nat) : Word := (Config.freeValue (2 ^ 64 + s.steps * 2 ^ 57 + pa)).setWidth 32

/-- The core number under which the device itself looks translations up: no core's cache serves it (R309). -/
def deviceCore : Nat := 2 ^ 20

/-- Address of a queue's descriptor (R290, R291). -/
def descriptorAt (s : State) (q : Nat) : Nat := bitsOf (s.sysreg 0x170) 12 45 * 2 ^ 12 + 32 * q

/-- Whether a word of a queue's descriptor lies at a physical word. -/
def inDescriptor (s : State) (q pw : Nat) : Bool :=
  (upTo 8).any (fun i => match translate s deviceCore 0 true needLoad (descriptorAt s q + 4 * i) with
    | .ok p => p.pa / 4 = pw
    | .error _ => false)

/-- A word has been written: a queue that was stopped is served again when it is one of its descriptor (R309). -/
def State.wrote (s : State) (pw : Nat) : State :=
  if s.queues.any (fun e => e.2.stopped) then
    { s with queues := s.queues.map (fun ((q, v) : Nat × Queue) =>
        (q, { v with stopped := v.stopped && !inDescriptor s q pw })) }
  else s

/-- The word at a virtual address of a context as the device itself reads it (R309), none when it does not
translate or cannot be read. -/
def readVirtual (s : State) (core ctx va : Nat) : Option Word :=
  match translate s core ctx true needLoad va with
  | .error _ => none
  | .ok p => if regionOf p.pa = .fabric then none else (s.latest (p.pa / 4)).map Prod.fst

/-- n words at a virtual address, none when one of them cannot be read. -/
def readWords (s : State) (core ctx : Nat) : Nat → Nat → Option (List Word)
  | 0, _ => some []
  | n + 1, va =>
    match readVirtual s core ctx va, readWords s core ctx n (va + 4) with
    | some w, some ws => some (w :: ws)
    | _, _ => none

/-- A word that an engine or the device stores where a page lies (R176, R214, R390). -/
def storeThrough (agent : Nat) (p : Phys) (w : Word) (bad : Bool) (s : State) : State :=
  let s := (s.takePin p).wrote (p.pa / 4)
  if regionOf p.pa = .fabric then s.sendOut 1 p.pa (w.setWidth 64) 15
  else if s.direct p then s.homePut (p.pa / 4) w bad
  else s.putThrough agent (p.pa / 4) w bad

/-- Words written by an engine at a virtual address (R214, R309); none when one of them does not translate. -/
def writeVirtual (core ctx agent : Nat) : State → Nat → List Word → Option State
  | s, _, [] => some s
  | s, va, w :: ws =>
    match translate s core ctx true needStore va with
    | .error _ => none
    | .ok p => writeVirtual core ctx agent (storeThrough agent p w false s) (va + 4) ws

/-- Two words as a doubleword. -/
def dwordOf (lo hi : Word) : DWord := BitVec.ofNat 64 (lo.toNat + 2 ^ 32 * hi.toNat)

/-- A doubleword as its two words. -/
def wordsOfD (v : DWord) : List Word := [v.setWidth 32, (v >>> 32).setWidth 32]

/-- The word fetched at an address (R41, R59 row 1): its latest value. Reading: log entry 29, DEDUCED. -/
def fetchWord (s : State) (core ctx : Nat) (handler : Bool) (va : Nat) : Except Miss Word :=
  match translate s core ctx handler needFetch va with
  | .error m => .error m
  | .ok p =>
    match s.latest (p.pa / 4) with
    | some (w, _) => .ok w
    | none => .error ⟨3, 6⟩

/-- The words of the instruction at an address; the error names the first word that could not be fetched. -/
def fetchInstr (s : State) (core ctx : Nat) (handler : Bool) (va : Nat) :
    Except (Miss × Nat) (List Word) :=
  match fetchWord s core ctx handler va with
  | .error m => .error (m, va)
  | .ok w0 =>
    let rest := lengthOf w0 / 4 - 1
    if rest = 0 then .ok [w0]
    else
      match fetchWord s core ctx handler (va + 4) with
      | .error m => .error (m, va + 4)
      | .ok w1 =>
        if rest = 1 then .ok [w0, w1]
        else
          match fetchWord s core ctx handler (va + 8) with
          | .error m => .error (m, va + 8)
          | .ok w2 => .ok [w0, w1, w2]

/-- One entry of a cache of a size gives way to a new one of the same page or, when the cache is full, some entry does
(R314). -/
def cachePut (room wish : Nat) (c : Cached) (cs : List Cached) : List Cached :=
  let cs := cs.filter (fun x => !(x.ctx = c.ctx && decide (x.base < c.base + c.size ∧ c.base < x.base + x.size)))
  c :: (if cs.length < room then cs else cs.eraseIdx (wish % cs.length))

/-- A translation is installed in a core's cache, of 256 entries, and in its die's, of 16,384, where `die` says so
(R314). -/
def installCached (core wish : Nat) (die : Bool) (c : Cached) (s : State) : State :=
  let d := 1024 + dieOfCore core
  let t := tput s.caches core (cachePut 256 wish c (tget [] s.caches core))
  { s with caches := if die then tput t d (cachePut 16384 wish c (tget [] t d)) else t }

/-- Translations of an address that a core's cache and its die's no longer have (R314). -/
def evictCached (core ctx va : Nat) (s : State) : State :=
  let out := fun (cs : List Cached) => cs.filter (fun c =>
    !(c.ctx = ctx && decide (c.base ≤ va ∧ va < c.base + c.size)))
  let d := 1024 + dieOfCore core
  if (cachedIn (tget [] s.caches core) ctx va).isNone && (cachedIn (tget [] s.caches d) ctx va).isNone then s
  else
    { s with caches := tput (tput s.caches core (out (tget [] s.caches core))) d (out (tget [] s.caches d)) }

/-- The low words, of entries that are valid, that a walk has read when it has come to an entry's high word
(R312). -/
def walkLows (s : State) (die va : Nat) : Nat → Nat → Nat → List (Nat × Word)
  | 0, _, _ => []
  | fuel + 1, lvl, table =>
    let at_ := table + levelIndex lvl va * 8
    match (if s.backed at_ then s.walkRead die at_ else .bad) with
    | .value e =>
      if !e.getLsbD 0 then []
      else (lowKey die at_, e.setWidth 32) ::
        (if e.getLsbD 1 then [] else walkLows s die va fuel (lvl + 1) (bitsOf e 8 44 * 256))
    | _ => []

/-- Cached translations that satisfy f are removed everywhere, and walks in flight read their entries again
(R315, R316). -/
def removeCached (f : Cached → Bool) (s : State) : State :=
  { s with lows := [], caches := s.caches.map (fun (k, cs) => (k, cs.filter (fun c => !f c))) }

/-- Translations of pinned pages that satisfy f are marked as removed (R316). -/
def markPins (f : Cached → Bool) (s : State) : State :=
  { s with pins := s.pins.map (fun p => { p with users := p.users.map (fun u =>
      if f ⟨u.ctx, u.virt, p.size, 0⟩ then { u with gone := true } else u) }) }

/-- Pins whose last translation has been removed are released (R169, R316). -/
def releasePins (s : State) : State :=
  { s with pins := (s.pins.map (fun p => { p with users := p.users.filter (fun u => !u.gone) })).filter (fun p =>
      !p.users.isEmpty) }

/-- Whether n words at a virtual address can be read as they will be: no walk awaits a word, and their values exist. -/
def steady (s : State) (core ctx va n : Nat) : Bool :=
  (upTo n).all (fun i => match translate s core ctx true needLoad (va + 4 * i) with
    | .error m => !m.pend
    | .ok p => regionOf p.pa = .fabric || s.quiet (p.pa / 4))

end Sys2Proof.Machine
end

