-- ==== Sys2Proof/Machine/Ops.lean ====
section
/-! DEFINITION. What every meaning shares: the error log (R386), the debug halt (R372), the end of warps and
blocks (R121, R302), taking a fault into the handler and returning from it (R363 to R369), and the issue of
an instruction from its checks to the advance of its lanes (R40, R59, R61, R110, R365). -/

namespace Sys2Proof.Machine

/-! ## Logs (R358 to R362, R386) -/

/-- The agent that writes log records, rings and completion records: the assist of I/O die 0 (log
entry 6). Reading: log entry 6, DESIGN CHOICE. -/
def deviceAgent : Nat := assistOf 0

/-- A record appended to the ring of a control register, counted in DROP where there is no writing it; the address of
a record that does not translate (R309, R358, R361, R386). Reading: log entry 54, DEDUCED. -/
def State.appendRing (s : State) (ctl stat : Nat) (ws : List Word) : Option Nat × State :=
  let c := s.sysreg ctl
  let st := s.sysreg stat
  let base := bitsOf c 12 45 * 2 ^ 12
  let bytes := 4 * ws.length
  let slots := 2 ^ bitsOf c 0 5 / bytes
  let head := bitsOf st 0 32
  let at_ := base + bytes * (head % max slots 1)
  match writeVirtual deviceCore 0 deviceAgent s at_ ws with
  | none => (some at_, s.setSysreg stat (st + (1 <<< 32)))
  | some s => (none, s.setSysreg stat (BitVec.ofNat 64 (bitsOf st 32 32 * 2 ^ 32 + (head + 1) % 2 ^ 32)))

/-- An error-log record (R386): kind, detail, agent, address with its space bit, block index, context and
warp. A failure on the log's own buffer is only counted (R309). -/
def State.logError (s : State) (kind detail agent addr : Nat) (virt : Bool) (block ctx warp : Nat) : State :=
  if (s.sysreg 0x1A8).getLsbD 63 then
    (s.appendRing 0x1A8 0x1A9
      (wordsOfD s.tick ++ wordsOfD (BitVec.ofNat 64 (addr % 2 ^ 57 + (if virt then 2 ^ 63 else 0))) ++
        [BitVec.ofNat 32 (kind * 2 ^ 24 + detail * 2 ^ 16 + agent), BitVec.ofNat 32 block,
          BitVec.ofNat 32 (ctx * 256 + warp), 0])).2
  else s.setSysreg 0x1A9 (s.sysreg 0x1A9 + (1 <<< 32))

/-- A system structure that cannot be translated is logged (R309). -/
def State.logStructure (s : State) (va : Nat) : State := s.logError 13 0 deviceAgent va true 0 0 0

/-- A record of the replay log or of the tracer: one whose buffer does not translate is dropped, counted and logged
(R309, R358, R361). -/
def State.appendLog (s : State) (ctl stat : Nat) (ws : List Word) : State :=
  match s.appendRing ctl stat ws with
  | (some va, s) => s.logStructure va
  | (none, s) => s

/-- A word marked Lost, with its error-log record of kind 4 (R216). Reading: log entry 65, DEDUCED. -/
def State.loseWord (s : State) (pw agent reason : Nat) : State :=
  (s.markLost pw agent reason).logError 4 reason agent (4 * pw) false 0 0 0

/-! ## The debug halt (R372, R388) -/

/-- The package stops (R372): reason 1 breakpoint, 2 watchpoint, 3 trap entry. -/
def State.halt (s : State) (reason num core warp : Nat) (lanes : LaneMask) (pc : DWord) (wk : Nat) : State :=
  let s := s.setSysreg 0x1C9 (BitVec.ofNat 64 (2 ^ 63 + reason * 2 ^ 61 + num * 2 ^ 59 + core * 2 ^ 50 +
    warp * 2 ^ 44 + lanes.toNat))
  let s := (s.setSysreg 0x1CA pc).setSysreg 0x1CB s.tick
  { (s.setSysreg 0x1D0 (s.sysreg 0x1D0 ||| BitVec.ofNat 64 (2 ^ 60))) with
    stopped := true, haltWarp := some wk }

/-! ## Warps and blocks that end (R121, R139, R302) -/

/-- Every lane has exited. -/
def Warp.ended (w : Warp) : Bool := w.lanes.all (fun v => v.exited)

/-- Results or matrix operations of a warp are outstanding, a suspended operation too (R121, R139). -/
def State.outstanding (s : State) (wk : Nat) : Bool :=
  s.prods.any (fun e => e.2.warp = wk) || s.txns.any (fun e => e.2.warp = wk) ||
  (s.core (wk / 128)).matrix.any (fun m => m.warp = wk) || (s.warp wk).mstat.getLsbD 14

/-- The berth key of warp i of a block, while it has not ended. -/
def State.warpOf (s : State) (b i : Nat) : Option Nat :=
  let v := s.block b
  let k := warpKey v.core (lget 127 v.berths i)
  let w := s.warp k
  if i < v.warps && w.live && w.block = b && w.index = i then some k else none

/-- Keys of the warps of a block that have not ended, in warp order. -/
def State.warpsOf (s : State) (b : Nat) : List Nat := (upTo (s.block b).warps).filterMap (s.warpOf b)

/-- Blocks whose registers and scratchpad lie in a core's store. -/
def Block.resident (b : Block) : Bool := b.mode = .running || b.mode = .saving || b.mode = .ended

/-- A core that no block occupies any more forgets its near-cache size (R172). -/
def State.leaveCore (s : State) (core : Nat) : State :=
  if s.blocks.any (fun e => e.2.core = core && e.2.resident) then s
  else s.setCore core { s.core core with ncache := 0 }

/-- A block retires (R302): its launch counts it, and values deferred behind it reach their homes (R222). -/
def State.retire (s : State) (b : Nat) : State :=
  let v := s.block b
  let s := s.setBlock b { v with mode := .retired }
  let l := s.launch v.launch
  let s := s.setLaunch v.launch { l with ended := l.ended + 1 }
  let s := s.registry.foldl (fun s e => if e.2.late.isEmpty then s else settleLate e.1 s) s
  s.leaveCore v.core

/-- What units outside the core keep of a block that is gone: its cursors close (R252), its channels are free
(R264), and its rays' slots are free (R329). -/
def State.forgetUnits (s : State) (b : Nat) : State :=
  let gone := (s.clusters.flatMap (fun e => e.2.pushes)).filter (fun p => p.block = b)
  { s with
    clusters := s.clusters.map (fun (k, c) =>
      (k, { c with cursors := c.cursors.filter (fun e => e.2.block ≠ b)
                   pushes := c.pushes.filter (fun p => p.block ≠ b)
                   channels := c.channels.map (fun (n, ch) =>
                     if ch.bound && ch.block = b then (n, {}) else (n, ch)) }))
    cores := s.cores.map (fun (k, c) =>
      (k, { c with holds := c.holds.filter (fun h => !(h.kind = 2 && gone.any (fun p => p.id = h.own))) }))
    rays := s.rays.filter (fun e => e.2.block ≠ b) }

/-- The block ends when its last warp has ended (R121); without entries for a fix point it retires. -/
def State.reapBlock (s : State) (b : Nat) : State :=
  let v := s.block b
  if (v.mode = .running || v.mode = .saving) && (s.warpsOf b).isEmpty then
    let s := (s.setBlock b { v with mode := .ended }).forgetUnits b
    if v.ordered && (!v.fixer.isEmpty || !v.batch.isEmpty) then s else s.retire b
  else s

/-- A warp whose lanes have all exited gives its berth up once nothing of it is outstanding (R121). -/
def State.reap (s : State) (wk : Nat) : State :=
  let w := s.warp wk
  if w.live && w.ended && w.fault.isNone && !s.outstanding wk && wk % 128 ≠ handlerBerth then
    (s.setWarp wk { w with live := false, latch := .none }).reapBlock w.block
  else s

/-! ## Discard (R216, R368) -/

/-- The berth number of accesses whose warp has gone: no warp has it. -/
def orphanBerth : Nat := 127

/-- Accesses of warps that are gone: an atomic that is on its way is performed all the same, and nothing else is
left of them. Reading: log entry 33, DEDUCED. -/
def dropTxns (gone : Nat → Bool) (ts : Table Txn) : Table Txn :=
  ts.filterMap (fun (k, t) =>
    if !gone t.warp then some (k, t)
    else if t.kind = .macc || t.kind = .stt || t.todo.isEmpty then none
    else some (k, { t with warp := warpKey (t.warp / 128) orphanBerth }))

/-- Drop of the Registered words of a core that a block stored last (R216); the Drop of a word whose Reg is not
acknowledged follows the Ack, since nothing else would keep it behind the Reg (R212). Reading: log entry 54, DEDUCED. -/
def State.dropWords (s : State) (core b : Nat) : State :=
  (s.nearWords core (fun _ w => w.held && w.reg && w.block = b)).foldl (fun s pw =>
    let w := s.near_ core pw
    let gone := { w.drop with owed := [], claim := 0 }
    if w.unsent.isSome then s.setNear core pw { gone with unsent := .none, reqPend := false }
    else if w.reqPend then s.setNear core pw { gone with dropping := some 3 }
    else (s.setNear core pw gone).send (.drop pw (agentOfCore core) 3)) s

/-- The last version step of an `STT.aon` whose first has been made: nothing keeps it from its end (R193). -/
def State.finishTile (s : State) (t : Txn) : State :=
  if t.kind ≠ .stt || t.phase = 0 then s
  else
    match t.vplace with
    | some (.loc c a) => s.localStore c a 15 (t.version + 2)
    | some (.glob p _) =>
      if s.direct p then s.directStore (p.pa / 4) 15 (t.version + 2)
      else s.putThrough (agentOfCore (t.warp / 128)) (p.pa / 4) (t.version + 2) false
    | none => s

/-- The `STT.aon` of warps that are discarded end first (R193). -/
def State.finishTiles (s : State) (gone : Nat → Bool) : State :=
  s.txns.foldl (fun s e => if gone e.2.warp then s.finishTile e.2 else s) s

/-- A block ends without its result: its warps end, its registered words are dropped, and its launch takes a
status (R216, R305). Reading: log entry 12, DEDUCED. -/
def State.loseBlock (s : State) (b status : Nat) : State :=
  let v := s.block b
  let ws := s.warpsOf b
  let s := ws.foldl (fun s k => s.modWarp k (fun w =>
    { w with live := false, fault := .none, later := [], latch := .none
             lanes := w.lanes.map (fun x => { x with exited := true, ahead := [] }) })) s
  let s := if status = 0x09 then s else s.finishTiles (fun k => ws.contains k)
  let s := { s with txns := dropTxns (fun k => ws.contains k) s.txns
                    prods := s.prods.filter (fun e => !ws.contains e.2.warp) }
  let s := s.modCore v.core (fun c => { c with
    matrix := c.matrix.filter (fun m => !ws.contains m.warp)
    holds := c.holds.filter (fun h => !(h.kind = 1 && ws.contains h.own)) })
  let s := s.dropWords v.core b
  let s := (s.setBlock b { v with mode := .discarded, fixer := [], batch := [] }).forgetUnits b
  let l := s.launch v.launch
  let s := s.setLaunch v.launch { l with ended := l.ended + 1, status := l.status ++ [status] }
  let s := s.registry.foldl (fun s e => if e.2.late.isEmpty then s else settleLate e.1 s) s
  s.leaveCore v.core

/-- Whether a block is still there to be discarded. -/
def Block.over (b : Block) : Bool := b.mode = .retired || b.mode = .discarded

/-- The block is discarded: its launch takes status 0x06 and the error log a record of kind 8 (R368). -/
def State.discard (s : State) (b : Nat) : State :=
  let v := s.block b
  if v.over then s
  else (s.loseBlock b 0x06).logError 8 0 (agentOfCore v.core) 0 false v.index v.ctx 0

/-! ## Lanes that go on, and lanes that are put back (R40, R61) -/

/-- A lane passes its instruction: it goes on at the next one, or where it had gone on to before a fault of data put
it back (R61). Reading: log entry 21, DEDUCED. -/
def Lane.pass (v : Lane) (next : DWord) : Lane :=
  match v.ahead with
  | [] => { v with pc := next, released := false, bar := .none, dcwait := .none, dcready := false }
  | a :: rest => { v with pc := a.pc, exited := a.exited, released := a.released, bar := a.bar, dcwait := a.dcwait
                          dcready := a.dcready, ahead := rest }

/-- A lane whose data failed stands at its instruction again (R61). Reading: log entry 21, DEDUCED. -/
def Lane.putBack (v : Lane) (pc : DWord) : Lane :=
  { v with ahead := ⟨v.pc, v.exited, v.released, v.bar, v.dcwait, v.dcready⟩ :: v.ahead
           pc := pc, exited := false, released := true, bar := .none, dcwait := .none, dcready := false }

/-! ## Taking a fault (R363 to R367) -/

/-- TRAPC of a fault (R363). -/
def Trap.trapc (t : Trap) : DWord :=
  BitVec.ofNat 64 (t.lanes.toNat * 2 ^ 32 + t.low * 2 ^ 16 + t.qual * 2 ^ 8 + t.cause.code)

/-- TRAPA of a fault (R38): bits 56..0 of the address. -/
def Trap.trapa (t : Trap) : DWord := BitVec.ofNat 64 (bitsOf t.addr 0 57)

/-- HVEC of a context (R366). -/
def State.hvec (s : State) (ctx : Nat) : DWord := s.sysreg (0x1B0 + ctx)

/-- The window's key of a core. -/
def windowKey (core : Nat) : Nat := warpKey core handlerBerth

/-- The window's warp as a run of the handler starts (R366, R367): its registers keep their values.
Reading: log entry 17, DESIGN CHOICE. -/
def windowStart (block : Nat) (pc : DWord) (w : Warp) : Warp :=
  let old := if w.lanes.isEmpty then lrep ({} : Lane) 32 else w.lanes
  { w with
    live := true, block := block, index := 0, vregs := 64, sregs := 128
    vbase := 0x400000, sbase := 0x402000
    lanes := old.map (fun v => { v with pc := pc, exited := false, starve := 0, released := false
                                        ahead := [], bar := .none, dcwait := .none })
    part := 5, fmts := if w.fmts.isEmpty then lrep fmtStart 8 else w.fmts
    yieldPending := false, stopped := false, asleep := false, fault := .none, lastIssue := 0 }

/-- Clocks since the handler began do not count for a served warp (R374). Reading: log entry 42, DEDUCED. -/
def State.enterHandler (s : State) (core berth : Nat) (t : Trap) : State :=
  let wk := warpKey core berth
  let w := s.warp wk
  let b := s.block w.block
  let c := s.core core
  let c := { c with
    trapc := t.trapc, trapa := t.trapa, trapp := t.pc
    ownid := if t.cause == Cause.ownerLost then t.own else c.ownid
    owntk := if t.cause == Cause.ownerLost then t.ownTick else c.owntk
    xlstat := if t.cause == Cause.translation || t.cause == Cause.permission then t.xlstat else c.xlstat }
  let c := { c with serving := some berth, apart := t.apart }
  let s := s.setCore core c
  let win := windowStart w.block (BitVec.ofNat 64 (bitsOf (s.hvec b.ctx) 2 55 * 4)) (s.warp (windowKey core))
  let s := s.setWarp (windowKey core) win
  s.landAll [⟨skey core win 0, BitVec.ofNat 32 (warpWord berth w), false⟩,
    ⟨skey core win 1, BitVec.ofNat 32 b.index, false⟩]

/-- The waiting fault that is served next: the earliest tick, then the lowest berth (R367). -/
def State.waiting (s : State) (core : Nat) : Option (Nat × Trap) :=
  (upTo 64).foldl (fun best berth =>
    let w := s.warp (warpKey core berth)
    match w.fault, best with
    | some t, none => if w.live then some (berth, t) else none
    | some t, some (_, u) => if w.live && decide (t.tick.toNat < u.tick.toNat) then some (berth, t) else best
    | none, _ => best) none

/-- An idle window takes the next waiting fault (R367). `halted` says that the debug halt of R372 for this
entry has already taken place. A context without a handler loses the block. Reading: log entry 69, DEDUCED. -/
def State.tryEntry (s : State) (core : Nat) (halted : Bool := false) : State :=
  match (s.core core).serving, s.waiting core with
  | none, some (berth, t) =>
    let wk := warpKey core berth
    let w := s.warp wk
    let b := s.block w.block
    let present := (s.hvec b.ctx).getLsbD 63
    if (s.sysreg 0x1C8).getLsbD 8 && !halted then
      let c := s.core core
      let s := s.setCore core { c with trapc := t.trapc, trapa := t.trapa, trapp := t.pc }
      s.halt 3 0 core w.index t.lanes (BitVec.ofNat 64 (bitsOf (s.hvec b.ctx) 2 55 * 4)) (windowKey core)
    else if present then s.enterHandler core berth t
    else s.discard w.block
  | _, _ => s

/-- The window is free: its lanes have stopped. Results and data of the run that are still on their way land in the
window's registers all the same, which keep their values (R107, R366). Reading: log entry 17, DESIGN CHOICE. -/
def State.freeWindow (s : State) (core : Nat) : State :=
  let wk := windowKey core
  let s := (s.finishTiles (fun k => k = wk)).modWarp wk (fun w =>
    { w with live := false, lanes := w.lanes.map (fun v => { v with exited := true, ahead := [] }) })
  let s := { s with txns := s.txns.filterMap (fun ((k, t) : Nat × Txn) =>
    if t.warp ≠ wk then some (k, t) else if t.kind = TxnKind.stt then none else some (k, { t with stale := true })) }
  s.setCore core { s.core core with serving := .none }

/-- A fault inside the handler (R367): the served block is discarded, kind 9 is logged in place of kind 8, and the
window serves the next waiting fault. Reading: log entry 69, DEDUCED. -/
def State.doubleFault (s : State) (core : Nat) (cause : Cause) : State :=
  let win := s.warp (windowKey core)
  let v := s.block win.block
  let served := match (s.core core).serving with | some berth => (s.warp (warpKey core berth)).index | none => 0
  let s := s.freeWindow core
  let s := if v.over then s else s.loseBlock win.block 0x06
  (s.logError 9 cause.code (agentOfCore core) 0 false v.index v.ctx served).tryEntry core

/-- No fault: the translation that an access needs is not there yet (R312), and the access is tried again. -/
def Trap.pend (t : Trap) : Bool := t.xlstat.getLsbD 4

/-- A warp takes a fault (R367). Every fault that the manual describes comes through here.
Reading: log entry 68, DEDUCED, log entry 69, DEDUCED. -/
def State.raise (s : State) (wk : Nat) (t : Trap) : State :=
  let core := wk / 128
  if t.pend then s
  else if wk % 128 = handlerBerth then s.doubleFault core t.cause
  else (s.modWarp wk (fun w => { w with fault := some { t with tick := s.tick } })).tryEntry core

/-- A fault that arrives apart from an issue waits behind one that its warp has already (R199, R347, R367). -/
def State.raiseLater (s : State) (wk : Nat) (t : Trap) : State :=
  if (s.warp wk).fault.isSome then s.modWarp wk (fun w => { w with later := w.later ++ [t] }) else s.raise wk t

/-- The next fault that waited behind the one that is over. -/
def State.raiseNext (s : State) (wk : Nat) : State :=
  match (s.warp wk).later with
  | [] => s
  | t :: rest =>
    if !(s.warp wk).live || (s.warp wk).fault.isSome then s
    else (s.modWarp wk (fun w => { w with later := rest })).raise wk t

/-- Return from the handler (R368): mode 0 retry, 1 skip, 2 hold, 3 discard. Reading: log entry 69, DEDUCED. -/
def State.leaveHandler (s : State) (core mode : Nat) : State :=
  match (s.core core).serving with
  | none => s
  | some berth =>
    let wk := warpKey core berth
    let c := s.core core
    let w := s.warp wk
    let b := w.block
    let v := s.block b
    let apart := c.apart
    let skip := match fetchWord s core v.ctx false c.trapp.toNat with
      | .ok w0 => if apart then none else some (lengthOf w0)
      | .error _ => none
    let cause := c.trapc.toNat % 256
    let s := s.freeWindow core
    let done := fun (s : State) => ((s.raiseNext wk).reap wk).tryEntry core
    let resume := fun (w : Warp) => { w with fault := .none, idle := 0, stopped := false }
    let retry := fun (w : Warp) =>
      if cause = 0x0E || cause = 0x0F then { resume w with latch := some c.trapp } else resume w
    match mode, skip with
    | 0, _ => done (s.modWarp wk retry)
    | 1, none => done (s.modWarp wk (fun w => { retry w with latch := .none }))
    | 1, some len =>
      let named := BitVec.ofNat 32 (c.trapc.toNat / 2 ^ 32)
      done (s.modWarp wk (fun w =>
        { (resume w).modLanes named (fun x =>
            if x.pc = c.trapp && !x.exited then x.pass (BitVec.ofNat 64 (x.pc.toNat + len)) else x) with
          latch := .none }))
    | 2, _ => done (s.modWarp wk (fun w => { resume w with stopped := true }))
    | _, _ => done (s.discard b)

/-! ## The issue of an instruction -/

/-- The block an issue belongs to: of the handler window, the served one. -/
def State.blockOf (s : State) (cx : Ctx) : Block := s.block (s.warp cx.wk).block
def State.blockKey (s : State) (cx : Ctx) : Nat := (s.warp cx.wk).block

/-- The context of an issue for the fields and the shape of its instruction (R46, R48). -/
def Ctx.of (x : Long) (sh : Shape) (s : State) : Ctx :=
  let c := s.cur
  let wk := warpKey c.core c.berth
  let w := s.warp wk
  let uni := sh.uniform x
  { core := c.core, berth := c.berth, wk := wk, group := c.lanes
    act := if uni then (if w.guardOf true x 0 then c.lanes else 0) else w.activeOf false x c.lanes
    pc := c.pc, len := c.len, x := x, sh := sh, uni := uni }

/-- A fault of the issue with a cause, a qualifier, the failing lanes and an address (R363). XLSTAT of a
permission fault that no leaf decides is what R317 states. -/
def State.trapOf (s : State) (cx : Ctx) (cause : Cause) (qual : Nat) (lanes : LaneMask) (addr : DWord) : Trap :=
  { cause := cause, qual := qual, lanes := lanes, low := lowestLane lanes, addr := addr, pc := cx.pc
    xlstat := xlstatOf (s.blockOf cx).ctx ⟨0, 7⟩ }

/-- The fields of an instruction as (field, code, empty-trap bit): its sources and its destination. -/
def Ctx.fields (cx : Ctx) : List (Fld × Nat × Bool) :=
  [(cx.sh.dst, cx.x.dN, false), (cx.sh.a, cx.x.aN, cx.x.et.getLsbD 0),
    (cx.sh.b, cx.x.bN, cx.x.et.getLsbD 1), (cx.sh.c, cx.x.cN, cx.x.et.getLsbD 2)]

/-- Registers a field reads; a region list has four for each region that field B counts (R201). `fget`
marks FGET, whose ends are exchanged (R280). -/
def readCount (cx : Ctx) (fget : Bool) (f : Fld) : Nat :=
  match f with
  | .sreg n => if cx.sh.b = .imm 1 8 then 4 * (cx.x.bN - 0x140) else n
  | f => f.reads cx.sh cx.x fget

/-- Lanes whose words of a stream hold the element of w bits of lane l (R103). -/
def streamLanes (w l : Nat) : List Nat :=
  let first := l * w / 32
  let last := (l * w + w - 1) / 32
  if first = last then [first] else [first, last]

/-- Bits of an element of a stream (R103). -/
def streamWidth (cx : Ctx) (w : Warp) : Nat := (numTypeOf cx.x.srcType (lget fmtStart w.fmts (cx.x.cN / 32))).width

/-- The words that a source field reads for lane l (R27, R31, R103). -/
def sourceKeys (cx : Ctx) (fget : Bool) (w : Warp) (f : Fld) (code l : Nat) : List Nat :=
  if f = .src .stream then (streamLanes (streamWidth cx w) l).flatMap (codeKeys cx.core w code 1)
  else codeKeys cx.core w code (readCount cx fget f) l

/-- A register operand beyond the allocation (R20). -/
def beyond (w : Warp) (code n : Nat) : Bool :=
  match codeOf code with
  | .v r => decide (0 < n) && decide (w.vregs < r + n)
  | .s r => decide (0 < n) && decide (w.sregs < r + n)
  | _ => false

/-- R59 rows 5 and 6: allocation, and privilege of the instruction and of a special source.
Reading: log entry 32, DEDUCED. -/
def decodeFault (priv fget : Bool) (cx : Ctx) (s : State) : Option Trap :=
  let w := s.warp cx.wk
  if cx.fields.any (fun (f, code, _) =>
      beyond w code (max (readCount cx fget f) (f.writes cx.sh cx.x))) then
    some (s.trapOf cx .illegal 0 cx.group 0)
  else
    let special := cx.fields.any (fun (f, code, _) =>
      (decide (0 < readCount cx fget f) || f = .spec) &&
      (match codeOf code with | .special n => privilegedSpecial n | _ => false))
    if (priv || special) && !cx.handler then some (s.trapOf cx .privileged 0 cx.group 0) else none

/-- Lanes of the active set that a source word of which satisfies p; a uniform instruction counts as its
group. -/
def lanesWith (cx : Ctx) (fget : Bool) (s : State) (p : Bool → Nat → Bool) : LaneMask :=
  let w := s.warp cx.wk
  maskOf (fun l => cx.act.getLsbD l && cx.fields.any (fun (f, code, et) =>
    (sourceKeys cx fget w f code l).any (p et)))

/-- Class 4 (R27): an operand with its empty-trap bit set reads an empty word. -/
def emptyFault (fget : Bool) (cx : Ctx) (s : State) : Option Trap :=
  let m := lanesWith cx fget s (fun et k => et && s.isEmpty k)
  if m = 0 then none else some (s.trapOf cx .emptyRegister 0 m 0)

/-- Class 5 (R31): an active lane reads a poisoned register word; TRAPA is the word's local address. -/
def poisonFault (fget : Bool) (cx : Ctx) (s : State) : Option Trap :=
  let m := lanesWith cx fget s (fun _ k => s.isPoison k)
  if m = 0 then none
  else
    let w := s.warp cx.wk
    let l := lowestLane m
    let ks := cx.fields.flatMap (fun (f, code, _) => sourceKeys cx fget w f code l)
    let k := (ks.filter s.isPoison).headD 0
    some (s.trapOf cx .poison 0 m (BitVec.ofNat 64 (k % 0x200000 * 4)))

/-- A lane of a warp is held at an address by what it has issued there: at a barrier, by a counter. -/
def Warp.heldAt (w : Warp) (pc : DWord) : Bool :=
  w.lanes.any (fun v => v.pc = pc && (v.bar ≠ .none || v.dcwait.isSome))

/-- The report latch at an address clears once no lane is held there (R369). -/
def Warp.unlatch (w : Warp) (pc : DWord) : Warp :=
  if w.latch = some pc && !w.heldAt pc then { w with latch := .none } else w

/-- An access that a warp has issued at an address is in flight: its data may still bring a fault (R61). -/
def State.accessAt (s : State) (wk : Nat) (pc : DWord) : Bool :=
  s.txns.any (fun e => e.2.warp = wk && e.2.pc = pc && !e.2.stale && e.2.kind ≠ .macc)

/-- An issue group at an address has completed without a fault (R369). -/
def State.unlatched (s : State) (pc : DWord) (wk : Nat) (w : Warp) : Warp :=
  if s.accessAt wk pc then w else w.unlatch pc

/-- The lanes of an issue group pass the instruction (R40, R115). -/
def State.advanceLanes (s : State) (cx : Ctx) (m : LaneMask) : State :=
  s.modWarp cx.wk (fun w => s.unlatched cx.pc cx.wk
    (w.modLanes m (fun v => v.pass (BitVec.ofNat 64 (cx.pc.toNat + cx.len)))))

/-- The whole group passes. Reading: log entry 71, DEDUCED. -/
def State.advance (s : State) (cx : Ctx) : State := s.advanceLanes cx cx.group

/-- The first fault of a list of checks. -/
def firstFault (cx : Ctx) (s : State) : List (Ctx → State → Option Trap) → Option Trap
  | [] => none
  | f :: rest =>
    match f cx s with
    | some t => some t
    | none => firstFault cx s rest

/-- Issue of an instruction up to its own effect: R59 rows 5 and 6 and the instruction's own encoding rules
`pre` whatever the guard, then nothing but the advance when no lane is active (R40), then the class 3
checks `early` of the instruction, the empty and the poison checks (R365), and its effect.
Reading: log entry 26, DEDUCED, log entry 68, DEDUCED. -/
def issueWith (x : Long) (sh : Shape) (priv fget : Bool) (pre early : List (Ctx → State → Option Trap))
    (act : Ctx → State → State) (s : State) : State :=
  let cx := Ctx.of x sh s
  match firstFault cx s (decodeFault priv fget :: pre) with
  | some t => s.raise cx.wk t
  | none =>
    if cx.act = 0 then s.advance cx
    else
      match firstFault cx s (early ++ [emptyFault fget, poisonFault fget]) with
      | some t => s.raise cx.wk t
      | none => act cx s

/-- The shape and the fields of a long-form instruction. Reading: log entry 26, DEDUCED. -/
def issueOf (i : Instr) (priv : Bool) (act : Ctx → State → State) (s : State) : State :=
  match i.info with
  | none => s
  | some f => issueWith f.x f.shape priv i.isFget [] [] act s

/-- Flags are raised once for the instruction (R34, R60). -/
def State.raiseFlags (s : State) (wk : Nat) (m : FlagMask) : State :=
  s.modWarp wk (fun w => { w with flags := w.flags ||| m })

/-- A fault of the lanes in a mask, if there is one, else go on. -/
def faultIf (s : State) (cx : Ctx) (cause : Cause) (qual : Nat) (m : LaneMask) (addr : DWord)
    (go : State) : State :=
  if m = 0 then go else s.raise cx.wk (s.trapOf cx cause qual m addr)

/-- Landings of n words for a destination code of a lane. -/
def landings (cx : Ctx) (w : Warp) (code n l v : Nat) (bad : Bool) : List Landing :=
  (codeKeys cx.core w code n l).zip (wordsOf n v) |>.map (fun (k, x) => ⟨k, x, bad⟩)

/-- A uniform register result of an instruction. -/
def State.putUniform (s : State) (cx : Ctx) (n v : Nat) : State :=
  s.landAll (landings cx (s.warp cx.wk) cx.x.dN n 0 v false)

/-- A predicate result of a lane, or of the warp for a uniform code (R22, R47). -/
def Warp.putPred (w : Warp) (code l : Nat) (v : Bool) : Warp :=
  if 0x200 ≤ code then w.setQpred (code - 0x200) v else w.modLane l (fun x => x.setPred (code % 8) v)

end Sys2Proof.Machine
end

