-- ==== Sys2Proof/Machine/Lanewise.lean ====
section
/-! DEFINITION. The instructions that compute in each lane alone: how their operands are gathered, how their
results, predicates, flags and random states are written (R60, R72, R86 to R106). The meanings in
Arith.lean, Float.lean, Convert.lean and Sfu.lean are one line each over what stands here. -/

namespace Sys2Proof.Machine

/-- The outcome of a meaning. -/
abbrev Out := Host.Outcome State Fault Refusal

/-- What a lane computes from: its operand values, predicate sources, drawn bits (R72) and the warp's format
registers (R36). -/
structure LaneIn where
  a    : Nat
  b    : Nat
  c    : Nat
  pa   : Bool
  pb   : Bool
  pc   : Bool
  r0   : Nat
  r1   : Nat
  fmts : List Word
  deriving DecidableEq, Repr, Inhabited

/-- What a lane computes: its register result, its predicate result, a carry, and the flags it raises. -/
structure LaneOut where
  value : Nat := 0
  pred  : Bool := false
  carry : Bool := false
  flags : FlagMask := 0
  deriving DecidableEq, Repr, Inhabited

/-- A register result with flags. -/
def resOut (x : Res) : LaneOut := { value := x.1, flags := x.2 }
/-- A register result without flags. -/
def valOut (v : Nat) : LaneOut := { value := v }
/-- A predicate result. -/
def predOut (b : Bool) : LaneOut := { pred := b }

/-- n steps of a random state (R72). -/
def rngSteps : Nat → DWord → DWord
  | 0, x => x
  | n + 1, x => rngSteps n (rngStep x)

/-- The lane whose random state an evaluation uses: its own, or the lowest of a uniform issue group (R72). -/
def rngLane (cx : Ctx) (l : Nat) : Nat := if cx.uni then lowestLane cx.group else l

/-- The lanes an instruction is evaluated for: the active lanes, or once for a uniform instruction (R48). -/
def evalLanes (cx : Ctx) : List Nat := if cx.uni then [0] else lanesOf cx.act

/-- The predicate code that field C names: in the carry layout the carry-in, which is a `q` predicate in a uniform
form (R47, R87). -/
def predC (cx : Ctx) : Nat :=
  if cx.sh.c = .carry then (if cx.uni then 0x200 else 0) + cx.x.cN % 8 else cx.x.cN

/-- A lane's inputs. -/
def laneIn (cx : Ctx) (s : State) (l : Nat) : LaneIn :=
  let w := s.warp cx.wk
  let x := (w.lane (rngLane cx l)).rngs
  { a := s.opA cx l, b := s.opB cx l, c := s.opC cx l
    pa := w.predOf cx.x.aN l, pb := w.predOf cx.x.bN l, pc := w.predOf (predC cx) l
    r0 := rngBits (rngStep x), r1 := rngBits (rngSteps 2 x), fmts := w.fmts }

/-- Every lane's result, all computed before any is written (R6). -/
def laneOuts (cx : Ctx) (s : State) (f : LaneIn → LaneOut) : List (Nat × LaneOut) :=
  (evalLanes cx).map (fun l => (l, f (laneIn cx s l)))

/-- Register results as landings. -/
def regLandings (cx : Ctx) (w : Warp) (outs : List (Nat × LaneOut)) : List Landing :=
  let n := cx.sh.dst.writes cx.sh cx.x
  outs.flatMap (fun (l, o) => landings cx w cx.x.dN n l o.value false)

/-- The warp after an instruction's predicate results, flags and random steps. -/
def warpAfter (cx : Ctx) (draws : Nat) (outs : List (Nat × LaneOut)) (w : Warp) : Warp :=
  let w := if cx.sh.dst = .pdst then outs.foldl (fun w (l, o) => w.putPred cx.x.dN l o.pred) w else w
  let co := cx.x.cN / 8 % 8
  let w := if cx.sh.c = .carry && co ≠ 7 then
      outs.foldl (fun w (l, o) => w.putPred (if cx.uni then 0x200 + co else co) l o.carry) w
    else w
  let w := if draws = 0 then w
    else outs.foldl (fun w (l, _) =>
      w.modLane (rngLane cx l) (fun v => { v with rngs := rngSteps draws v.rngs })) w
  { w with flags := outs.foldl (fun m (_, o) => m ||| o.flags) w.flags }

/-- A lanewise instruction whose results are written at issue (R60). -/
def lanewise (draws : Nat) (f : LaneIn → LaneOut) (cx : Ctx) (s : State) : State :=
  let outs := laneOuts cx s f
  let s := s.landAll (regLandings cx (s.warp cx.wk) outs)
  (s.modWarp cx.wk (warpAfter cx draws outs)).advance cx

/-- The words that a producer marks empty (R26): its destination words in each active lane. -/
def dstKeys (cx : Ctx) (w : Warp) : List Nat :=
  let n := cx.sh.dst.writes cx.sh cx.x
  (evalLanes cx).flatMap (fun l => codeKeys cx.core w cx.x.dN n l)

/-- A result that lands later (R26): its words are empty until then, its flags rise when it lands. -/
def State.produce (s : State) (cx : Ctx) (kind : ProdKind) (after : Nat) (xs : List Landing)
    (flags : FlagMask) (arg arg2 : Nat := 0) : State :=
  let p : Prod := { kind := kind, warp := cx.wk, words := xs, flags := flags, after := s.clk + after
                    order := s.fresh, arg := arg, arg2 := arg2, lanes := cx.act }
  { s.markEmpty (xs.map Landing.key) with prods := tput s.prods s.fresh p, fresh := s.fresh + 1 }

/-- A lanewise instruction of the SFU (R105 to R107): random steps at issue, results and flags on landing. -/
def lanewiseLate (draws : Nat) (f : LaneIn → LaneOut) (cx : Ctx) (s : State) : State :=
  let outs := laneOuts cx s f
  let xs := regLandings cx (s.warp cx.wk) outs
  let flags := outs.foldl (fun m (_, o) => m ||| o.flags) 0
  let s := s.modWarp cx.wk (warpAfter cx draws (outs.map (fun (l, _) => (l, {}))))
  (s.produce cx .sfu 0 xs flags).advance cx

/-- A pending result lands (R26, R107): its words become full, its flags rise, and its warp may end. -/
def State.landProd (s : State) (k : Nat) : State :=
  match tfind s.prods k with
  | none => s
  | some p =>
    let s := { s.landAll p.words with prods := tdel s.prods k }
    (s.raiseFlags p.warp p.flags).reap p.warp

/-- The type fields of a long-form instruction, as its operations read them. -/
def typeOf (x : Long) : IntType := intTypeOf x.tN
def bitWidth (x : Long) : Nat := if x.tN = 1 then 64 else 32
def roundMode (x : Long) : RMode := rmodeOf (x.mN % 8)
def saturates (x : Long) : Bool := x.mN / 8 = 1

/-- Random steps of an instruction that rounds (R72): one for each element under `.rs`. -/
def drawsOf (mode : RMode) (elements : Nat) : Nat := if mode = .rs then elements else 0

/-- A lanewise instruction. -/
def compute (i : Instr) (draws : Nat) (f : LaneIn → LaneOut) (s : State) : State :=
  issueOf i false (lanewise draws f) s

/-- A lanewise SFU instruction. -/
def computeLate (i : Instr) (draws : Nat) (f : LaneIn → LaneOut) (s : State) : State :=
  issueOf i false (lanewiseLate draws f) s

/-! ## Operations shared by the long, short and pair forms (R53, R54) -/

/-- R86. -/
def laneInt (op : IntOp) (x : Long) (v : LaneIn) : LaneOut :=
  resOut (intArith op (typeOf x) (saturates x) v.a v.b v.c)
/-- IMULH (R86). -/
def laneMulHigh (x : Long) (v : LaneIn) : LaneOut := resOut (intMulHigh (typeOf x) v.a v.b)
/-- A bit operation on a, b and c at the width of the type (R88). -/
def laneBits (x : Long) (g : Nat → Nat → Nat → Nat → Nat) (v : LaneIn) : LaneOut :=
  valOut (g (bitWidth x) v.a v.b v.c)
/-- A float operation on one element or two halves (R66, R98). -/
def laneFloat (x : Long) (g : Fmt → Nat → Nat → Nat → Nat → Res) (v : LaneIn) : LaneOut :=
  resOut (onElements x.tN g v.r0 v.r1 v.a v.b v.c)
/-- LEA (R94). -/
def laneLea (x : Long) (v : LaneIn) : LaneOut := valOut ((v.a + v.b * 2 ^ x.mN) % 2 ^ 32)

/-- Format register of a conversion's destination and source (R50). -/
def fmtAt (v : LaneIn) (n : Nat) : Word := lget fmtStart v.fmts n

/-- CVT (R101). -/
def laneCvt (x : Long) (v : LaneIn) : LaneOut :=
  let d := numTypeOf x.dstType (fmtAt v (x.bN / 32))
  let t := numTypeOf x.srcType (fmtAt v (x.cN / 32))
  resOut (convertNum d t (roundMode x) (saturates x) v.r0 v.a)

/-- FSCALE (R98): the count is a 32-bit register, or a half of one. -/
def laneScale (x : Long) (v : LaneIn) : LaneOut :=
  if elementsOf x.tN = 2 then
    laneFloat x (fun f r a b _ => floatScale f (roundMode x) (saturates x) r a (sextNat 16 b)) v
  else
    resOut (floatScale (fmtOfFloat x.tN) (roundMode x) (saturates x) v.r0 v.a (sextNat 32 v.b))

/-- FEXPO (R100): a 32-bit result, or two 16-bit ones. -/
def laneExpo (x : Long) (v : LaneIn) : LaneOut :=
  if elementsOf x.tN = 2 then laneFloat x (fun f _ a _ _ => floatExpo 16 f a) v
  else laneFloat x (fun f _ a _ _ => floatExpo 32 f a) v

end Sys2Proof.Machine
end

