-- ==== Sys2Proof/Machine/Arith.lean ====
section
/-! DEFINITION. Integer, bit, compare, select, address and move instructions (R86 to R95). One definition per instruction. -/

namespace Sys2Proof.Machine

/-- IADD (R86). -/
def execIadd (x : Long) (s : State) : Out :=
  .next (compute (.iadd x) 0 (laneInt .add x) s)

/-- ISUB (R86). -/
def execIsub (x : Long) (s : State) : Out :=
  .next (compute (.isub x) 0 (laneInt .sub x) s)

/-- IMUL (R86). -/
def execImul (x : Long) (s : State) : Out :=
  .next (compute (.imul x) 0 (laneInt .mul x) s)

/-- IMAD (R86). -/
def execImad (x : Long) (s : State) : Out :=
  .next (compute (.imad x) 0 (laneInt .mad x) s)

/-- IABS (R86). -/
def execIabs (x : Long) (s : State) : Out :=
  .next (compute (.iabs x) 0 (laneInt .abs x) s)

/-- INEG (R86). -/
def execIneg (x : Long) (s : State) : Out :=
  .next (compute (.ineg x) 0 (laneInt .neg x) s)

/-- IMIN (R86). -/
def execImin (x : Long) (s : State) : Out :=
  .next (compute (.imin x) 0 (laneInt .min x) s)

/-- IMAX (R86). -/
def execImax (x : Long) (s : State) : Out :=
  .next (compute (.imax x) 0 (laneInt .max x) s)

/-- ICLAMP (R86). -/
def execIclamp (x : Long) (s : State) : Out :=
  .next (compute (.iclamp x) 0 (laneInt .clamp x) s)

/-- ISAD (R86). -/
def execIsad (x : Long) (s : State) : Out :=
  .next (compute (.isad x) 0 (laneInt .sad x) s)

/-- IMULH (R86). -/
def execImulh (x : Long) (s : State) : Out :=
  .next (compute (.imulh x) 0 (laneMulHigh x) s)

/-- IMADW (R86). -/
def execImadw (x : Long) (s : State) : Out :=
  .next (compute (.imadw x) 0 (fun v => resOut (intMadWide (x.tN = 0) v.a v.b v.c)) s)

/-- IADDC (R87): carry code 7 is a carry-in of 0. -/
def execIaddc (x : Long) (s : State) : Out :=
  .next (compute (.iaddc x) 0 (fun v =>
    let ci := x.cN % 8
    let r := addCarry false (typeOf x).width v.a v.b (ci ≠ 7 && v.pc)
    { value := r.1, carry := r.2 }) s)

/-- ISUBB (R87): carry code 7 is a carry-in of 0. -/
def execIsubb (x : Long) (s : State) : Out :=
  .next (compute (.isubb x) 0 (fun v =>
    let ci := x.cN % 8
    let r := addCarry true (typeOf x).width v.a v.b (ci ≠ 7 && v.pc)
    { value := r.1, carry := r.2 }) s)

/-- AND (R88). -/
def execAnd (x : Long) (s : State) : Out :=
  .next (compute (.and x) 0 (laneBits x (fun _ a b _ => a &&& b)) s)

/-- OR (R88). -/
def execOr (x : Long) (s : State) : Out :=
  .next (compute (.or x) 0 (laneBits x (fun _ a b _ => a ||| b)) s)

/-- XOR (R88). -/
def execXor (x : Long) (s : State) : Out :=
  .next (compute (.xor x) 0 (laneBits x (fun _ a b _ => a ^^^ b)) s)

/-- NOT (R88). -/
def execNot (x : Long) (s : State) : Out :=
  .next (compute (.not x) 0 (laneBits x (fun w a _ _ => notBits w a)) s)

/-- SHL (R88). -/
def execShl (x : Long) (s : State) : Out :=
  .next (compute (.shl x) 0 (laneBits x (fun w a b _ => shiftLeft w a b)) s)

/-- SHRL (R88). -/
def execShrl (x : Long) (s : State) : Out :=
  .next (compute (.shrl x) 0 (laneBits x (fun w a b _ => shiftRightLogical w a b)) s)

/-- SHRA (R88). -/
def execShra (x : Long) (s : State) : Out :=
  .next (compute (.shra x) 0 (laneBits x (fun w a b _ => shiftRightArith w a b)) s)

/-- ROTL (R88). -/
def execRotl (x : Long) (s : State) : Out :=
  .next (compute (.rotl x) 0 (laneBits x (fun w a b _ => rotateLeft w a b)) s)

/-- POPC (R88). -/
def execPopc (x : Long) (s : State) : Out :=
  .next (compute (.popc x) 0 (laneBits x (fun w a _ _ => popCount w a)) s)

/-- CLZ (R88). -/
def execClz (x : Long) (s : State) : Out :=
  .next (compute (.clz x) 0 (laneBits x (fun w a _ _ => leadingZeros w a)) s)

/-- CTZ (R88). -/
def execCtz (x : Long) (s : State) : Out :=
  .next (compute (.ctz x) 0 (laneBits x (fun w a _ _ => trailingZeros w a)) s)

/-- BREV (R88). -/
def execBrev (x : Long) (s : State) : Out :=
  .next (compute (.brev x) 0 (laneBits x (fun w a _ _ => reverseBits w a)) s)

/-- BFI (R89). -/
def execBfi (x : Long) (s : State) : Out :=
  .next (compute (.bfi x) 0 (laneBits x (fun w a b c => fieldInsert w a b c)) s)

/-- BFM (R88). -/
def execBfm (x : Long) (s : State) : Out :=
  .next (compute (.bfm x) 0 (laneBits x (fun w a b _ => fieldMask w a b)) s)

/-- PRMB (R90). -/
def execPrmb (x : Long) (s : State) : Out :=
  .next (compute (.prmb x) 0 (laneBits x (fun _ a b c => permuteBytes a b c)) s)

/-- FUNNEL (R88). -/
def execFunnel (x : Long) (s : State) : Out :=
  .next (compute (.funnel x) 0 (laneBits x (funnel (x.mN = 1))) s)

/-- LOP (R91): the truth table is spread over the major, the minor and the type field. -/
def execLop (hi : Bool) (x : Long) (s : State) : Out :=
  .next (compute (.lop hi x) 0 (fun v =>
    valOut (truthTable3 ((if hi then 128 else 0) + x.mN * 8 + x.tN) v.a v.b v.c)) s)

/-- BFX (R89). -/
def execBfx (x : Long) (s : State) : Out :=
  .next (compute (.bfx x) 0 (fun v => valOut (fieldExtract (typeOf x) v.a v.b v.c)) s)

/-- ICMP (R92). -/
def execIcmp (x : Long) (s : State) : Out :=
  .next (compute (.icmp x) 0 (fun v => predOut (intCompare x.mN ((typeOf x).read v.a) ((typeOf x).read v.b) && v.pc)) s)

/-- SEL (R93). -/
def execSel (x : Long) (s : State) : Out :=
  .next (compute (.sel x) 0 (fun v => valOut (if v.pc != (x.mN % 2 = 1) then v.a else v.b)) s)

/-- CSET (R93). -/
def execCset (x : Long) (s : State) : Out :=
  .next (compute (.cset x) 0 (fun v => valOut (if v.pa != (x.mN % 2 = 1) then v.b else 0)) s)

/-- PSET (R93). -/
def execPset (x : Long) (s : State) : Out :=
  .next (compute (.pset x) 0 (fun v => predOut (x.mN.testBit (2 * bit v.pa + bit v.pb))) s)

/-- LEA (R94). -/
def execLea (x : Long) (s : State) : Out :=
  .next (compute (.lea x) 0 (laneLea x) s)

/-- LEAW (R94). -/
def execLeaw (x : Long) (s : State) : Out :=
  .next (compute (.leaw x) 0 (fun v => valOut (wrapInt 64 (v.a + sextNat 32 v.b * 2 ^ x.mN))) s)

/-- MOV (R95). -/
def execMov (x : Long) (s : State) : Out :=
  .next (compute (.mov x) 0 (fun v => valOut v.a) s)

/-- MOVL (R95): the literal is the high word. -/
def execMovl (x : Long) (s : State) : Out :=
  .next (compute (.movl x) 0 (fun v => valOut (v.b % 2 ^ 32 * 2 ^ 32 + v.a % 2 ^ 32)) s)

end Sys2Proof.Machine
end

