-- ==== Sys2Proof/Machine/Access.lean ====
section
/-! DEFINITION. Memory accesses of lanes (R179 to R185): addresses, the checks of R182 in their order,
watchpoints, and the loads and stores of words in each space. -/

namespace Sys2Proof.Machine

/-! ## Addresses (R179, R180) -/

/-- Bytes of a memory type code (R49, R180). -/
def memBytes (t : Nat) : Nat :=
  match t with
  | 0 => 4
  | 1 => 8
  | 2 => 16
  | 3 => 1
  | 4 => 1
  | _ => 2

/-- The memory-offset layout of field B (R50). -/
def offsetOf (x : Long) : Int :=
  if x.bN = 0x17F then (x.lit?.getD 0).toInt
  else if x.bN < 512 then x.bN else (x.bN : Int) - 1024

/-- Base and displacement as the address of a space (R179): 64 bits of a global address wrap. -/
def addressIn (space : Nat) (base : Nat) (disp : Int) : Int :=
  if space = 0 then (wrapInt 64 ((base : Int) + disp) : Int) else (base : Int) + disp

/-- Why a lane's access fails: the fault, its qualifier and XLSTAT. -/
structure LaneMiss where
  cause  : Cause
  qual   : Nat
  xlstat : DWord
  deriving DecidableEq, Repr, Inhabited

/-- A permission fault that no leaf decides (R317). -/
def refusedAt (s : State) (cx : Ctx) (qual : Nat) : LaneMiss :=
  ⟨.permission, qual, xlstatOf (s.blockOf cx).ctx ⟨0, 7⟩⟩

/-- A failed translation or permission of a page (R317). -/
def missAt (s : State) (cx : Ctx) (m : Miss) : LaneMiss :=
  ⟨if m.perm then .permission else .translation, if m.reason = 5 then 1 else 0,
    xlstatOf (s.blockOf cx).ctx m⟩

/-- Whether a local address lies in a block's scratchpad (R170). Reading: log entry 30, DEDUCED. -/
def Block.inScratch (b : Block) (a : Nat) : Bool := decide (b.spBase ≤ a ∧ a < b.spBase + b.spSize)

/-- Whether a local address lies in the block's registers, scratchpad or accumulator tiles (R24, R170). -/
def State.inBlock (s : State) (b : Nat) (a : Nat) : Bool :=
  let v := s.block b
  v.inScratch a || decide (v.accBase ≤ a ∧ a < v.accBase + v.tiles * 0x10000) ||
  (s.warpsOf b).any (fun k =>
    let w := s.warp k
    decide (w.vbase ≤ a ∧ a < w.vbase + w.vregs * 128) || decide (w.sbase ≤ a ∧ a < w.sbase + w.sregs * 4))

/-- Blocks of a block's gang (R296). -/
def State.gangOf (s : State) (b : Nat) : List (Nat × Block) :=
  let v := s.block b
  s.blocks.filter (fun e => e.2.launch = v.launch && e.2.gang = v.gang && e.2.resident)

/-- What kind of access a lane makes: a load, a store, or an atomic (R182, R195, R313). -/
structure Want where
  need    : Need
  scratch : Bool := false
  deriving DecidableEq, Repr, Inhabited

def wantLoad : Want := ⟨needLoad, false⟩
def wantStore : Want := ⟨needStore, false⟩
def wantAtomic : Want := ⟨needBoth, true⟩

/-- R182's checks of one lane: space range, alignment, translation, permission. Reading: log entry 30, DEDUCED. -/
def checkLane (s : State) (cx : Ctx) (space z : Nat) (want : Want) (a : Int) : Except LaneMiss Place :=
  let b := s.blockKey cx
  let v := s.block b
  let aligned := a % (z : Int) = 0
  match space with
  | 0 =>
    if 2 ^ 57 ≤ a then .error (missAt s cx ⟨0, 2⟩)
    else if !aligned then .error (refusedAt s cx 1)
    else
      match translate s cx.core v.ctx cx.handler want.need a.toNat with
      | .error m => .error (missAt s cx m)
      | .ok p => .ok (.glob p a.toNat)
  | 1 =>
    if a < 0 ∨ 0x3FFFFF < a then .error (refusedAt s cx 0)
    else if !aligned then .error (refusedAt s cx 1)
    else if s.inBlock b a.toNat && (!want.scratch || v.inScratch a.toNat) then .ok (.loc cx.core a.toNat)
    else .error (refusedAt s cx 0)
  | 2 =>
    if a < 0 ∨ 0x3FFFFFF < a then .error (refusedAt s cx 0)
    else if !aligned then .error (refusedAt s cx 1)
    else
      let c := clusterOfCore cx.core * 16 + a.toNat / 2 ^ 22
      let la := a.toNat % 2 ^ 22
      if (s.gangOf b).any (fun e => e.2.core = c && e.2.inScratch la) then .ok (.loc c la)
      else .error (refusedAt s cx 0)
  | _ =>
    if a < 0 ∨ (v.csize : Int) ≤ a then .error (refusedAt s cx 0)
    else if !aligned then .error (refusedAt s cx 1)
    else
      match translate s cx.core v.ctx cx.handler want.need (v.cbase + a.toNat) with
      | .error m => .error (missAt s cx m)
      | .ok p => .ok (.glob p (v.cbase + a.toNat))

/-- A lane, its address and the outcome of its checks. -/
structure LaneAcc where
  lane  : Nat
  addr  : Int
  place : Except LaneMiss Place

/-- The virtual address of a lane's access in a space (R317): that of the constant segment begins at CBASE. -/
def virtualOf (s : State) (cx : Ctx) (space : Nat) (a : Int) : DWord :=
  BitVec.ofInt 64 (if 2 < space then ((s.blockOf cx).cbase : Int) + a else a)

/-- The fault of the lowest failing lane with the mask of all failing lanes (R182); none when none fails. A
uniform access fails for its whole group. Lanes whose walks have still to end are waited for. -/
def accessFault (s : State) (cx : Ctx) (accs : List LaneAcc) : Option Trap :=
  let failed := accs.filter (fun a => match a.place with | .error _ => true | .ok _ => false)
  let pending := failed.filter (fun a => match a.place with | .error m => m.xlstat.getLsbD 4 | .ok _ => false)
  match pending ++ failed with
  | [] => none
  | a :: _ =>
    match a.place with
    | .ok _ => none
    | .error m =>
      let mask := if cx.uni then cx.act else maskOf (fun l => failed.any (fun e => e.lane = l))
      let addr := if bitsOf m.xlstat 0 4 = 7 then BitVec.ofInt 64 a.addr else virtualOf s cx cx.x.space a.addr
      some { s.trapOf cx m.cause m.qual mask addr with xlstat := m.xlstat }

/-- The places of accesses that have passed their checks. -/
def placesOf (accs : List LaneAcc) : List (Nat × Place) :=
  accs.filterMap (fun a => match a.place with | .ok p => some (a.lane, p) | .error _ => none)

/-! ## Watchpoints (R370 to R372) -/

/-- What a matching watchpoint or breakpoint register does. -/
inductive Stop where
  | none
  | fault (n : Nat) (lanes : LaneMask) (addr : DWord)
  | halt (n : Nat) (lanes : LaneMask)
  deriving DecidableEq, Repr, Inhabited

/-- Whether a watchpoint register matches an access (R370). Reading: log entry 31, DEDUCED. -/
def watchHits (wpt : DWord) (ctx : Nat) (load store : Bool) (va z : Nat) : Bool :=
  let len := max 4 (bitsOf wpt 0 4)
  let base := bitsOf wpt 4 53 * 16 / 2 ^ len * 2 ^ len
  wpt.getLsbD 63 && ((wpt.getLsbD 62 && load) || (wpt.getLsbD 61 && store)) &&
  (wpt.getLsbD 57 || bitsOf wpt 58 3 = ctx) && decide (va < base + 2 ^ len ∧ base < va + z)

/-- The lowest watchpoint that an active lane's access overlaps (R371); the report latch suppresses it
(R369). Reading: log entry 31, DEDUCED. -/
def watch (s : State) (cx : Ctx) (load store : Bool) (accs : List (Nat × Int × Nat)) : Stop :=
  let w := s.warp cx.wk
  if w.latch = some cx.pc then .none
  else
    let ctx := (s.blockOf cx).ctx
    let hits := fun (n : Nat) => accs.filter (fun (_, a, z) => watchHits (s.sysreg (0x1C0 + n)) ctx load store a.toNat z)
    match (upTo 4).find? (fun n => !(hits n).isEmpty) with
    | none => .none
    | some n =>
      let hs := hits n
      let mask := if cx.uni then cx.act else maskOf (fun l => hs.any (fun e => e.1 = l))
      if (s.sysreg 0x1C8).getLsbD n then .halt n cx.group
      else .fault n mask (BitVec.ofInt 64 ((hs.headD (0, 0, 0)).2.1))

/-- A stop takes effect, or the instruction goes on. -/
def stopOr (s : State) (cx : Ctx) (st : Stop) (go : State) : State :=
  match st with
  | .none => go
  | .fault n lanes addr => s.raise cx.wk (s.trapOf cx .watchpoint n lanes addr)
  | .halt n lanes => s.halt 2 n cx.core (s.warp cx.wk).index lanes cx.pc cx.wk

/-! ## Words of a place -/

/-- Words an access of z bytes touches. -/
def wordCount (z : Nat) : Nat := if z ≤ 4 then 1 else z / 4

/-- The value that z bytes at an address take of its words, extended by the type's signedness (R62, R187). -/
def extendLoad (t z a : Nat) (ws : List Word) : Nat :=
  let v := ofWords ws / 2 ^ (8 * (a % 4))
  match t with
  | 3 => v % 2 ^ 8
  | 4 => wrapInt 32 (sextNat 8 v)
  | 5 => v % 2 ^ 16
  | 6 => wrapInt 32 (sextNat 16 v)
  | _ => v % 2 ^ (8 * z)

/-- The bytes that a store of z bytes at an address writes in its first word, and its data shifted there. -/
def storeMask (z a : Nat) : BitVec 4 :=
  if 4 ≤ z then 15 else BitVec.ofNat 4 ((2 ^ z - 1) * 2 ^ (a % 4))
def storeShift (z a v : Nat) : Nat := if 4 ≤ z then v else v % 2 ^ (8 * z) * 2 ^ (8 * (a % 4))

/-- The order a store of a block carries into a page (R222, R225). -/
def State.storeOrder (s : State) (cx : Ctx) (p : Phys) : Nat :=
  orderOf (s.blockKey cx) ((s.blockOf cx).ordered && leafOrdp p.leaf)

/-- A word of a place stored by a lane. -/
def storeWord (cx : Ctx) (p : Place) (i : Nat) (mask : BitVec 4) (v : Word) (s : State) : State :=
  match p with
  | .loc c a => s.localStore c (a + 4 * i) mask v
  | .glob ph _ =>
    let pw := ph.pa / 4 + i
    if s.direct ph then s.directStore pw mask v
    else
      nearStore cx.core pw mask v (s.blockKey cx) (s.warp cx.wk).index cx.wk (s.storeOrder cx ph) s

/-- A lane's store of z bytes (R187). -/
def storeLane (cx : Ctx) (z : Nat) (p : Place) (data : Nat) (s : State) : State :=
  let a := match p with | .loc _ a => a | .glob ph _ => ph.pa
  let s := match p with | .glob ph _ => s.takePin ph | .loc _ _ => s
  let note := fun (s : State) (i : Nat) => match p with | .glob ph _ => s.wrote (ph.pa / 4 + i) | .loc _ _ => s
  (upTo (wordCount z)).foldl (fun s i =>
    storeWord cx p i (storeMask z a) (BitVec.ofNat 32 (storeShift z a (data / 2 ^ (32 * i)))) (note s i)) s

/-- The words a load awaits: those of the store, of memory that uses no registration and of Registered or
Valid copies are there at once; for the others a Read goes to the home (R210). The value of a fabric
window's word is the other package's (log entry 7). -/
def loadWord (cx : Ctx) (lane i : Nat) (p : Place) (s : State) : TxnWord × State :=
  match p with
  | .loc c a =>
    let k := storeKey c (a + 4 * i)
    (⟨lane, i, k, BitVec.ofNat 64 ((a + 4 * i) / 4 * 4), true, s.word k, s.isPoison k, false, 0, 0⟩, s)
  | .glob ph va =>
    let pw := ph.pa / 4 + i
    let v : TxnWord := { lane := lane, index := i, word := pw, va := BitVec.ofNat 64 va }
    if regionOf ph.pa = .fabric then
      let (x, s) := s.takeFree
      ({ v with ready := true, value := x.setWidth 32 }, s.sendOut 0 (4 * pw) 0 0)
    else if s.direct ph then
      ({ v with ready := true, value := s.homeCopy pw, poison := nmem s.memPoison pw }, s)
    else
      let w := s.near_ cx.core pw
      if w.held && !w.fillPend then ({ v with ready := true, value := w.value, poison := w.poison }, s)
      else if w.held then (v, s)
      else (v, s.send (.read pw (s.reader cx.core)))

/-- The words of a lane's access of z bytes. Reading: log entry 28, DEDUCED. -/
def loadLane (cx : Ctx) (z : Nat) (acc : List TxnWord × State) (e : Nat × Place) : List TxnWord × State :=
  let (ws, s) := acc
  let s := match e.2 with | .glob ph _ => s.takePin ph | .loc _ _ => s
  (upTo (wordCount z)).foldl (fun (ws, s) i =>
    let (w, s) := loadWord cx e.1 i e.2 s
    (ws ++ [w], s)) (ws, s)

/-- Physical or local byte address of a place. -/
def Place.addr : Place → Nat
  | .loc _ a => a
  | .glob ph _ => ph.pa

/-! ## Counting requests (R357, R359) -/

/-- r of the tracer (R359). -/
def tracerShift (c : DWord) : Nat :=
  match bitsOf c 61 2 with
  | 1 => 16
  | 2 => 12
  | 3 => 8
  | _ => min 20 (bitsOf c 7 5)

/-- Whether every word of a line that a request names is in the near cache (R352, events 0x08 and 0x09). -/
def lineHit (s : State) (core : Nat) (pws : List Nat) (line : Nat) : Bool :=
  pws.all (fun pw => pw / 32 ≠ line || (s.near_ core pw).held)

/-- The die that the home of an address lies on, where it lies on a compute die (R168, R169). -/
def State.homeDie (s : State) (pw : Nat) : Nat :=
  let h := s.homeOf pw
  if h < 1024 then (h - 1) / 16 else dieOfCore (h - 1024)

/-- Where a request is served (R360): a code of SERVED, or from 0x100 on the two codes between which the
die cache's content decides, a + 16 x b + 0x100. Reading: log entry 8, DESIGN CHOICE. -/
def servedBy (s : State) (core : Nat) (p : Phys) : Nat :=
  let pw := p.pa / 4
  if regionOf p.pa = .fabric then 6
  else if s.direct p then 7
  else if (s.near_ core pw).held then 0
  else match s.owner pw with
    | .agent _ => 3
    | _ => 0x100 + (if s.homeDie pw = dieOfCore core then 1 else 2) + 16 * (if regionOf p.pa = .lpddr then 5 else 4)

/-- The hops that a request crosses (R360): near cache, cluster network, die crossbar, die-to-die link, die cache,
memory controller, the last one as the die cache's content decides. Reading: log entry 8, DESIGN CHOICE. -/
def hopsOf (s : State) (core : Nat) (p : Phys) : List Bool :=
  let served := servedBy s core p
  let away := s.homeDie (p.pa / 4) ≠ dieOfCore core ||
    (match s.owner (p.pa / 4) with | .agent a => decide (a / 512 % 8 ≠ dieOfCore core) | _ => false)
  match served with
  | 0 => [true, false, false, false, false, false]
  | 6 => [true, true, true, true, false, false]
  | 7 => [true, true, true, away || regionOf p.pa = .lpddr, false, true]
  | 3 => [true, true, true, away, true, false]
  | _ => [true, true, true, away, true, true]

/-- Misses of the core's translation cache, and walks, of a page (R314, R352). -/
def State.countMiss (s : State) (core ctx va : Nat) : State :=
  if (cachedIn (tget [] s.caches core) ctx va).isSome then s
  else
    let s' := s.count core 0x0D 1
    if (cachedIn (tget [] s.caches (1024 + dieOfCore core)) ctx va).isSome then s' else s'.count core 0x0E 1

/-- Near-cache hits and misses of a request, by line (R352). Reading: log entry 66, DEDUCED. -/
def State.countLines (s : State) (core : Nat) (accs : List (Nat × Place)) : State :=
  let pws := accs.filterMap (fun e => match e.2 with
    | .glob p _ => if s.direct p then none else some (p.pa / 4)
    | .loc _ _ => none)
  ((pws.map (fun p => p / 32)).dedup).foldl (fun s' n =>
    s'.count core (if lineHit s core pws n then 0x08 else 0x09) 1) s

/-- A request of a line is counted, and traced where its number says so, but for one that joins a traced request of
another warp (R175, R359). -/
def State.traceLine (s : State) (cx : Ctx) (kind : Nat) (va : Nat) (p : Phys) : State :=
  let c := s.sysreg 0x1A0
  let w := s.warp cx.wk
  let line := p.pa / 128
  let n := (s.core cx.core).requests + 1
  let joins := (s.core cx.core).traced.any (fun e => e.1 = line && decide (s.clk ≤ e.2 + 16))
  let s := s.modCore cx.core (fun v => { v with requests := n })
  if c.getLsbD 63 && n % 2 ^ tracerShift c = 0 && !joins then
    let t : Sample := {
      wk := cx.wk, rclk := w.rclk, line := line, index := w.index, pc := cx.pc.toNat, va := va / 128 * 128, kind := kind
      served := servedBy s cx.core p, hops := hopsOf s cx.core p, tick := s.tick }
    let s := s.modCore cx.core (fun v => { v with
      traced := (line, s.clk) :: v.traced.filter (fun e => decide (s.clk ≤ e.2 + 16)) })
    { s.count cx.core 0x13 1 with samples := tput s.samples s.fresh t, fresh := s.fresh + 1 }
  else s

/-- The first access to each line of some accesses. -/
def firstOfLines (accs : List (Nat × Phys)) : List (Nat × Phys) :=
  accs.foldl (fun l a => if l.any (fun b => b.2.pa / 128 = a.2.pa / 128) then l else l ++ [a]) []

/-- The global requests of an instruction: RCLK advances (R357), translations and lines hit or miss (R352), and each
line is counted for the tracer (R359). Reading: log entry 66, DEDUCED. -/
def State.countRequests (s : State) (cx : Ctx) (kind : Nat) (accs : List (Nat × Place)) : State :=
  let gs := accs.filterMap (fun e => match e.2 with | .glob p va => some (va, p) | .loc _ _ => none)
  if gs.isEmpty then s
  else
    let ctx := (s.blockOf cx).ctx
    let s := (s.modWarp cx.wk (fun w => { w with rclk := w.rclk + 1 })).countLines cx.core accs
    let s := (gs.map (fun g => g.1 / 2 ^ 16)).dedup.foldl (fun s' pg => s'.countMiss cx.core ctx (pg * 2 ^ 16)) s
    (firstOfLines gs).foldl (fun s g => s.traceLine cx kind g.1 g.2) s

/-! ## Memory instructions in flight -/

/-- Words of a lane of an atomic in flight: the first and how many. -/
def atomicWords (t : Txn) (l : Nat) : Nat × Nat :=
  ((match t.addrs.find? (fun e => e.1 = l) with | some e => e.2 | none => 0) / 4,
    if t.kind = .stt then 1 else wordCount (memBytes t.x.tN))

/-- Whether an order code acquires, and whether it releases (R50, R185). -/
def acquires (order : Nat) : Bool := order = 1 || order = 3
def releases (order : Nat) : Bool := order = 2 || order = 3

/-- Order code of a memory instruction: FATOM has it in field C (R272). -/
def TxnKind.order (kind : TxnKind) (x : Long) : Nat := if kind = .fatom then x.cN / 256 else x.order

/-- An access of a lane that is in flight keeps a later one of the lane to the same word waiting (R184). -/
def Txn.names (t : Txn) (l pw : Nat) : Bool :=
  t.words.any (fun x => x.lane = l && x.word = pw && !x.ready) ||
  (t.todo.contains l && decide ((atomicWords t l).1 ≤ pw ∧ pw < (atomicWords t l).1 + (atomicWords t l).2))

/-- Words of an access that may not be performed yet: an earlier access of the lane to the word has not been (R184),
an engine operation of the core has still to have it registered (R214), or a Drop of it waits (R216); a load waits
for the first alone. Reading: log entry 21, DEDUCED. -/
def State.wordHeld (s : State) (cx : Ctx) (store : Bool) (l pw : Nat) : Bool :=
  s.txns.any (fun e => e.2.warp = cx.wk && e.2.kind ≠ .macc && e.2.names l pw) ||
  (store && (s.engineAhead cx.core pw || (s.near_ cx.core pw).dropping.isSome))

def State.accessHeld (s : State) (cx : Ctx) (store : Bool) (z : Nat) (ps : List (Nat × Place)) : Bool :=
  ps.any (fun e => match e.2 with
    | .loc _ _ => false
    | .glob p _ => (upTo (wordCount z)).any (fun i => s.wordHeld cx store e.1 (p.pa / 4 + i)))

/-- An acquire of a lane has not performed: no later memory access of the lane is (R185). -/
def State.acquireHeld (s : State) (wk l : Nat) : Bool :=
  s.txns.any (fun e => e.2.warp = wk && !e.2.stale && e.2.lanes.getLsbD l && (Sys2Proof.Machine.acquires (e.2.kind.order e.2.x) || e.2.kind = .ldt))

/-- An `STT.aon` holds its lanes until its last version step (R191). -/
def State.tileHeld (s : State) (wk l : Nat) : Bool :=
  s.txns.any (fun e => e.2.warp = wk && e.2.kind = .stt && e.2.lanes.getLsbD l)

/-- An access in flight is recorded. -/
def State.openTxn (s : State) (t : Txn) : Nat × State :=
  (s.fresh, { s with txns := tput s.txns s.fresh { t with rclk := (s.warp t.warp).rclk, age := s.acquires (t.warp / 128) }, fresh := s.fresh + 1 })

/-- The context of an access in flight. -/
def Txn.ctx (t : Txn) (sh : Shape) (group : LaneMask) : Ctx where
  core := t.warp / 128
  berth := t.warp % 128
  wk := t.warp
  group := group
  act := t.lanes
  pc := t.pc
  len := t.len
  x := t.x
  sh := sh
  uni := sh.uniform t.x

/-- A fault found as data return (class 10, R61, R216, R375): owner-lost before poison of the lowest
failing lane; the failing lanes. -/
def dataFault (s : State) (cx : Ctx) (words : List TxnWord) (space : Nat) : Option Trap :=
  let bad := words.filter (fun w => w.ready && (w.lost || w.poison))
  match (lanesOf cx.act).filter (fun l => bad.any (fun w => w.lane = l)), bad with
  | [], [] => none
  | [], w :: _ => some (badTrap w cx.act)
  | l :: _, _ =>
    match bad.find? (fun w => w.lane = l) with
    | none => none
    | some w => some (badTrap w (if cx.uni then cx.act else maskOf (fun l => bad.any (fun w => w.lane = l))))
where
  badTrap (w : TxnWord) (mask : LaneMask) : Trap :=
    if w.lost then { s.trapOf cx .ownerLost 0 mask w.va with own := w.own, ownTick := w.ownTick }
    else s.trapOf cx .poison (if space = 1 || space = 2 then 0 else 1) mask w.va

/-- The register landings of a load of a lane (R187). -/
def loadLanding (cx : Ctx) (w : Warp) (words : List TxnWord) (l : Nat) (a : Nat) : List Landing :=
  let mine := words.filter (fun x => x.lane = l)
  let t := cx.x.tN
  let n := cx.sh.dst.writes cx.sh cx.x
  landings cx w cx.x.dN n l (extendLoad t (memBytes t) a (mine.map (fun x => x.value))) false

/-- Every lane. -/
def wholeGroup : LaneMask := BitVec.allOnes 32

/-- Lanes whose data failed stand at the instruction again (R61). A handler's run that is over has no lanes left. -/
def State.putBack (s : State) (t : Txn) (m : LaneMask) : State :=
  if t.stale then s else s.modWarp t.warp (fun w => w.modLanes m (fun v => v.putBack t.pc))

end Sys2Proof.Machine
end

