-- ==== Sys2Proof/Machine/Memory.lean ====
section
/-! DEFINITION. Loads, stores, gathers, versioned tiles, atomics, fences and the allocator (R179 to R204), and
the events at which their data arrive and their atomics are performed. -/

namespace Sys2Proof.Machine

/-! ## Addresses and the common checks (R179, R182, R365) -/

/-- Displacement of a lane: the offset of field B, or the scaled index of a gather or scatter (R179). -/
def dispOf (indexed : Bool) (cx : Ctx) (s : State) (l : Nat) : Int :=
  if indexed then sextNat 32 (s.opB cx l) * 2 ^ (cx.x.cN / 8 % 8) else offsetOf cx.x

/-- Address of a lane of a load or store. -/
def laneAddr (indexed : Bool) (cx : Ctx) (s : State) (l : Nat) : Int :=
  addressIn cx.x.space (s.opA cx l) (dispOf indexed cx s l)

/-- Address of a lane of an atomic: the base alone (R186). -/
def baseAddr (cx : Ctx) (s : State) (l : Nat) : Int := addressIn cx.x.space (s.opA cx l) 0

/-- Accesses of lanes, checked one after another: the pins that lower lanes take leave less room (R169). -/
def checkLanes (cx : Ctx) (z : Nat) (want : Want) (addr : Nat → Int) : State → List Nat → List LaneAcc
  | _, [] => []
  | s, l :: ls =>
    let p := checkLane s cx cx.x.space z want (addr l)
    ⟨l, addr l, p⟩ :: checkLanes cx z want addr (match p with | .ok p => s.pinPlace p | .error _ => s) ls

/-- The accesses of the active lanes, checked. -/
def laneAccs (cx : Ctx) (s : State) (z : Nat) (want : Want) (addr : Nat → Int) : List LaneAcc :=
  checkLanes cx z want addr s (evalLanes cx)

/-- Classes 6, 7 and 9 of R365, and then the access itself. -/
def access (cx : Ctx) (s : State) (load store : Bool) (z : Nat) (issue : Option Trap) (accs : List LaneAcc)
    (go : List (Nat × Place) → State) : State :=
  let st := if cx.x.space = 0 then watch s cx load store (accs.map (fun a => (a.lane, a.addr, z))) else .none
  stopOr s cx st (
    match issue with
    | some t => s.raise cx.wk t
    | none =>
      match accessFault s cx accs with
      | some t => s.raise cx.wk t
      | none => if s.accessHeld cx store z (placesOf accs) then s else go (placesOf accs))

/-- The scope of field C (R50). -/
def scopeOf (x : Long) : Nat := x.cN % 8

/-! ## Loads (R187, R189) -/

/-- The record of a memory instruction in flight. -/
def Ctx.txn (cx : Ctx) (kind : TxnKind) (ws : List TxnWord) (ps : List (Nat × Place)) : Txn where
  kind := kind
  warp := cx.wk
  pc := cx.pc
  len := cx.len
  x := cx.x
  lanes := cx.act
  words := ws
  addrs := ps.map (fun e => (e.1, e.2.addr))
  scope := scopeOf cx.x

/-- Accesses whose lanes land one by one (R183). -/
def TxnKind.lanewise (kind : TxnKind) : Bool := kind = .gath || kind = .fatom

/-- KIND of a tracer record (R360). -/
def loadKind (x : Long) : Nat := if acquires x.order then 3 else 0
def storeKind (x : Long) : Nat := if releases x.order then 4 else 1

/-- LD, LDU and GATH. Data that are all there at issue are checked at once, so that their fault is precise; the
others are checked as they return. The lanes go on, and wait where they read an empty word (R27, R61, R183).
Reading: log entry 21, DEDUCED. -/
def loadLanes (kind : TxnKind) (indexed : Bool) (cx : Ctx) (s : State) : State :=
  let z := memBytes cx.x.tN
  access cx s true false z none (laneAccs cx s z wantLoad (laneAddr indexed cx s)) (fun ps =>
    let (ws, s1) := ps.foldl (loadLane cx z) ([], s)
    let ready := ws.all (fun w => w.ready) && kind ≠ .gath
    match (if ready then dataFault s cx ws cx.x.space else none) with
    | some t => s.raise cx.wk t
    | none =>
      let s1 := s1.countRequests cx (loadKind cx.x) ps
      let (_, s1) := s1.openTxn (cx.txn kind ws ps)
      (s1.markEmpty (dstKeys cx (s.warp cx.wk))).advance cx)

def execLd (x : Long) (s : State) : Out := .next (issueOf (.ld x) false (loadLanes .ld false) s)
def execLdu (x : Long) (s : State) : Out := .next (issueOf (.ldu x) false (loadLanes .ldu false) s)
def execGath (x : Long) (s : State) : Out := .next (issueOf (.gath x) false (loadLanes .gath true) s)

/-! ## Stores (R187, R189) -/

/-- A word that an ordered block stores into a page of its launch's order: the lane, its virtual address, whether the
whole word is stored, and the order of its Reg (R222). -/
structure OrderedWord where
  lane  : Nat
  va    : Nat
  word  : Nat
  whole : Bool
  order : Nat
  deriving DecidableEq, Repr, Inhabited

/-- The words that stores of z bytes write in order (R222, R225). -/
def orderedWords (s : State) (cx : Ctx) (z : Nat) (ps : List (Nat × Place)) : List OrderedWord :=
  ps.flatMap (fun e => match e.2 with
    | .loc _ _ => []
    | .glob p va =>
      if s.direct p || s.storeOrder cx p = 0 then []
      else (upTo (wordCount z)).map (fun i =>
        ⟨e.1, va, p.pa / 4 + i, decide (storeMask z p.pa = 15), s.storeOrder cx p⟩))

/-- How a word stands whose store waits for its Reg (R222, R224). -/
inductive Standing where
  /-- Registered and acknowledged, with its value: the store may be performed -/
  | held
  | asked
  | refused
  | lost
  | unasked
  deriving DecidableEq, Repr, Inhabited

/-- Reading: log entry 75, DEDUCED. -/
def standingOf (s : State) (core : Nat) (o : OrderedWord) : Standing :=
  let w := s.near_ core o.word
  if w.held && w.reg then (if w.reqPend || w.fillPend then .asked else .held)
  else if w.claim = 2 then .refused
  else if w.claim = 3 && !o.whole then .lost
  else if w.reqPend then .asked
  else .unasked

/-- The Reg of a word goes out ahead of its store; its old value is wanted, so that the word keeps it when another
word of the store fails, but for one found Lost. Reading: log entry 75, DEDUCED. -/
def claimOrdered (cx : Ctx) (s : State) (o : OrderedWord) : State :=
  nearClaim cx.core o.word (s.blockKey cx) cx.wk o.order 1 ((s.near_ cx.core o.word).claim ≠ 3) s

/-- A fault of an ordered store (R216, R224): the lanes whose words failed, the first one's address. -/
def orderedTrap (s : State) (cx : Ctx) (lost : Bool) (bad : List OrderedWord) : Trap :=
  let va := match bad with | o :: _ => o.va | [] => 0
  let pw := match bad with | o :: _ => o.word | [] => 0
  let log := tget (0, 0) s.lostLog pw
  let t := s.trapOf cx (if lost then .ownerLost else .orderedMode) (if lost then 0 else 3)
    (maskOf (fun l => bad.any (fun o => o.lane = l))) (BitVec.ofNat 64 va)
  if lost then { t with own := BitVec.ofNat 64 (4 * 2 ^ 32 + bitsOf log.1 0 16), ownTick := log.2 } else t

/-- What is known of failed claims of a store is forgotten: the store asks again when it issues again. -/
def forgetClaims (cx : Ctx) (os : List OrderedWord) (s : State) : State :=
  os.foldl (fun s o =>
    let w := s.near_ cx.core o.word
    if w.held then s else s.setNear cx.core o.word { w with claim := 0 }) s

/-- Stores go on once every word that they write in order is Registered; a refusal is the inversion fault, and a
sub-word store of a Lost word takes the owner-lost fault (R216, R222, R224). Reading: log entry 75, DEDUCED. -/
def orderedGo (s : State) (cx : Ctx) (z : Nat) (ps : List (Nat × Place)) (go : State) : State :=
  let os := orderedWords s cx z ps
  let in_ := fun (k : Standing) => os.filter (fun o => standingOf s cx.core o = k)
  if in_ .refused ≠ [] then (forgetClaims cx os s).raise cx.wk (orderedTrap s cx false (in_ .refused))
  else if in_ .lost ≠ [] then (forgetClaims cx os s).raise cx.wk (orderedTrap s cx true (in_ .lost))
  else if os.all (fun o => standingOf s cx.core o = .held) then go
  else (in_ .unasked).foldl (claimOrdered cx) s

/-- The active lanes' data are stored in ascending lane order (R187). -/
def storeAll (cx : Ctx) (z : Nat) (ps : List (Nat × Place)) (s : State) : State :=
  let s0 := s
  ps.foldl (fun s' e => storeLane cx z e.2 (s0.opD cx e.1) s') s

/-- ST and SCAT. -/
def storeLanes (indexed : Bool) (cx : Ctx) (s : State) : State :=
  let z := memBytes cx.x.tN
  access cx s false true z none (laneAccs cx s z wantStore (laneAddr indexed cx s)) (fun ps =>
    orderedGo s cx z ps ((storeAll cx z ps (s.countRequests cx (storeKind cx.x) ps)).advance cx))

def execSt (x : Long) (s : State) : Out := .next (issueOf (.st x) false (storeLanes false) s)
def execScat (x : Long) (s : State) : Out := .next (issueOf (.scat x) false (storeLanes true) s)

/-! ## Versioned tiles (R190 to R193) -/

/-- Base of the tile: that of the lowest active lane. -/
def tileAt (cx : Ctx) (s : State) : Int := laneAddr false cx s (lowestLane cx.act)

/-- Address of a lane's element. -/
def elementAddr (cx : Ctx) (s : State) (l : Nat) : Int :=
  addressIn cx.x.space (wrapInt 64 (tileAt cx s)) (16 + l * memBytes cx.x.tN)

/-- The version's access by the lowest active lane, and the elements' accesses. -/
def versionAcc (cx : Ctx) (s : State) (want : Want) : LaneAcc :=
  let a := tileAt cx s
  ⟨lowestLane cx.act, a, checkLane s cx cx.x.space 16 want a⟩

def elementAccs (cx : Ctx) (s : State) (want : Want) : List LaneAcc :=
  laneAccs cx s (memBytes cx.x.tN) want (elementAddr cx s)

/-- The version and the elements pass the checks of R182 together; the base of an `STT` that leaves the version alone
is checked for its range before its alignment. -/
def tileAccess (cx : Ctx) (s : State) (load store : Bool) (version : Option Want) (want : Want)
    (go : Option Place → List (Nat × Place) → State) : State :=
  let z := memBytes cx.x.tN
  let vs := match version with | some v => [versionAcc cx s v] | none => []
  let es := elementAccs cx s want
  let st := if cx.x.space = 0 then
      watch s cx load store (vs.map (fun a => (a.lane, a.addr, 4)) ++ es.map (fun a => (a.lane, a.addr, z)))
    else .none
  let base := tileAt cx s
  let inSpace := match cx.x.space with
    | 0 => decide (base < 2 ^ 57)
    | 1 => decide (0 ≤ base ∧ base ≤ 0x3FFFFF)
    | _ => decide (0 ≤ base ∧ base ≤ 0x3FFFFFF)
  stopOr s cx st (
    if base % 16 ≠ 0 && inSpace && version.isNone then
      s.raise cx.wk (s.trapOf cx .permission 1 cx.act (BitVec.ofInt 64 base))
    else
      match accessFault s cx (vs ++ es) with
      | some t => s.raise cx.wk t
      | none =>
        let ps := placesOf es
        let v := (placesOf vs).head?
        if s.accessHeld cx store z ps || s.accessHeld cx store 4 v.toList then s else go (v.map Prod.snd) ps)

/-- The words of an `LDT` that hold the version have this number. -/
def versionIndex : Nat := 1000

/-- The version word is asked for by the lowest lane. -/
def askVersion (cx : Ctx) (v : Place) (s : State) : List TxnWord × State :=
  let (w, s) := loadWord cx (lowestLane cx.act) 0 v s
  ([{ w with index := versionIndex }], s)

/-- LDT (R192): its first try reads the version. -/
def ldtLanes (cx : Ctx) (s : State) : State :=
  tileAccess cx s true false (some wantLoad) wantLoad (fun v ps =>
    match v with
    | none => s
    | some v =>
      let s1 := s.countRequests cx (loadKind cx.x) ps
      let (ws, s1) := askVersion cx v s1
      let (_, s1) := s1.openTxn { cx.txn .ldt ws ps with vplace := some v, places := ps }
      let pd := cx.x.cN / 8 % 8
      let s1 := s1.markEmpty (dstKeys cx (s.warp cx.wk))
      let s1 := s1.modWarp cx.wk (fun w => w.modLanes cx.act (fun y =>
        if pd = 7 then y else { y with busy := setBit y.busy pd true }))
      s1.advance cx)

def execLdt (x : Long) (s : State) : Out := .next (issueOf (.ldt x) false ldtLanes s)

/-- Words of a place: their latest value and poison, none for a Lost word; a fabric window's is the other
package's (log entry 7). -/
def placeWord (s : State) (p : Place) (i : Nat) : Option (Word × Bool) :=
  match p with
  | .loc c a => some (s.word (storeKey c (a + 4 * i)), s.isPoison (storeKey c (a + 4 * i)))
  | .glob ph _ =>
    if regionOf ph.pa = .fabric then some (s.farWord (ph.pa + 4 * i), false)
    else s.latest (ph.pa / 4 + i)

/-- Whether messages about a word of a place are under way, or its registration by this core is. -/
def placeBusy (s : State) (core : Nat) (p : Place) (n : Nat) : Bool :=
  match p with
  | .loc _ _ => false
  | .glob ph _ => !s.direct ph && (upTo n).any (fun i =>
      !s.quiet (ph.pa / 4 + i) || (s.near_ core (ph.pa / 4 + i)).reqPend)

/-- A word is written at its home in one atomic step, and the issuing core keeps no older copy and installs no older
fill (R184, R195, R211, R213). -/
def State.writeHome (s : State) (core pw : Nat) (v : Word) : State :=
  let s := ((s.wrote pw).takeHome pw false).homePut pw v false
  let w := s.near_ core pw
  if w.reg then s
  else s.setNear core pw { w.drop with clock := s.stamp (s.line (pw / 32)).clock.toNat }

/-- Whether the home of a place's word performs what is atomic there by message: no scratchpad, and a page under
registration. -/
def atHomeOf (s : State) (p : Place) : Bool :=
  match p with
  | .loc _ _ => false
  | .glob ph _ => !s.direct ph

/-- The lane number under which an `STT.aon` has its version steps made at the version's home. -/
def versionLane : Nat := 32

/-- STT (R191): with `.aon` its lanes are held while the version goes from even to odd, the elements are registered
and the version becomes even again; in ordered mode the elements are registered before the first step.
Reading: log entry 34, DEDUCED. -/
def sttLanes (cx : Ctx) (s : State) : State :=
  let z := memBytes cx.x.tN
  let aon := cx.x.cN / 8 % 2 = 1
  tileAccess cx s aon true (if aon then some ⟨needBoth, false⟩ else none) wantStore (fun v ps =>
    orderedGo s cx z ps (
      let s1 := s.countRequests cx (storeKind cx.x) ps
      match v with
      | none => (storeAll cx z ps s1).advance cx
      | some v =>
        let home := atHomeOf s v
        let t := { cx.txn .stt [] ps with
          args := ps.map (fun e => (e.1, 0, s.opD cx e.1)), vplace := some v, places := ps
          addrs := ps.map (fun e => (e.1, e.2.addr)) ++ [(versionLane, v.addr)]
          todo := if home then [versionLane] else [] }
        let (id, s1) := s1.openTxn t
        let s1 := if home then s1.send (.homeAtomic id versionLane) else s1
        s1.advanceLanes cx (cx.group &&& ~~~cx.act)))

def execStt (x : Long) (s : State) : Out := .next (issueOf (.stt x) false sttLanes s)

/-! ## Atomics (R194 to R200) -/

/-- The new value of an operation at a width of 8z bits (R194). -/
def atomicNew (op t old b : Nat) : Nat :=
  let w := 8 * memBytes t
  let f := fmtOfFloat t
  match op with
  | 0 => (old + b) % 2 ^ w
  | 1 => old &&& (b % 2 ^ w)
  | 2 => old ||| (b % 2 ^ w)
  | 3 => old ^^^ (b % 2 ^ w)
  | 4 => b % 2 ^ w
  | 5 => if sextNat w (b % 2 ^ w) < sextNat w old then b % 2 ^ w else old
  | 6 => if sextNat w old < sextNat w (b % 2 ^ w) then b % 2 ^ w else old
  | 7 => min old (b % 2 ^ w)
  | 8 => max old (b % 2 ^ w)
  | 9 => (floatAdd false f .rn false 0 old b).1
  | 10 => (floatMinMax false f old b).1
  | _ => (floatMinMax true f old b).1

/-- Operation number of ATOM, RED and FATOM; 12 stands for compare-and-swap. -/
def atomicOp (kind : TxnKind) (x : Long) : Nat := if kind = .cas then 12 else x.cN / 8 % 32

/-- What an atomic leaves of an old value (R194, R196). -/
def atomicStep (kind : TxnKind) (x : Long) (cmp val old : Nat) : Nat :=
  let w := 8 * memBytes x.tN
  if atomicOp kind x = 12 then (if old = cmp % 2 ^ w then val % 2 ^ w else old)
  else atomicNew (atomicOp kind x) x.tN old val

/-- Operands of a lane: compare and new value of a group, or 0 and the operand (R194, R196). -/
def atomicArgs (kind : TxnKind) (cx : Ctx) (s : State) (l : Nat) : Nat × Nat :=
  let b := s.opB cx l
  if atomicOp kind cx.x = 12 then
    let w := 32 * cx.sh.tset.regs cx.x.tN
    (b % 2 ^ w, b / 2 ^ w)
  else (0, b)

/-- The z bytes at a place's words, and those bytes replaced. -/
def bytesIn (z a : Nat) (ws : List Word) : Nat := ofWords ws / 2 ^ (8 * (a % 4)) % 2 ^ (8 * z)
def putBytesIn (z a : Nat) (ws : List Word) (v : Nat) : List Word :=
  if 4 ≤ z then wordsOf ws.length v
  else ws.map (fun w => mergeBytes (storeMask z a) w (BitVec.ofNat 32 (storeShift z a v)))

/-- An atomic of one lane in a scratchpad (R195); none when a word is poisoned. -/
def atomicLocal (kind : TxnKind) (x : Long) (core a cmp val : Nat) (s : State) : Option (Nat × State) :=
  let z := memBytes x.tN
  let ks := (upTo (wordCount z)).map (fun i => storeKey core (a + 4 * i))
  if ks.any s.isPoison then none
  else
    let ws := ks.map s.word
    let old := bytesIn z a ws
    let new := putBytesIn z a ws (atomicStep kind x cmp val old)
    some (old, { s with store := (ks.zip new).foldl (fun t (k, v) => tput t k v) s.store })

/-- Whether Quayline performs an operation on z bytes natively (R284). -/
def nativeOp (op z : Nat) : Bool := (z = 4 || z = 8) && (op ≤ 8 || op = 12)

/-- Whether Quayline performs an atomic natively (R197, R284). -/
def nativeAtomic (kind : TxnKind) (x : Long) : Bool := nativeOp (atomicOp kind x) (memBytes x.tN)

/-- An old value of z bytes that another package's memory answers with (log entry 7). -/
def State.farOld (s : State) (z : Nat) : Nat × State :=
  let (lo, s) := s.takeFree
  let (hi, s) := s.takeFree
  ((lo.toNat + 2 ^ 64 * hi.toNat) % 2 ^ (8 * z), s)

/-- A native atomic leaves the package (R284): its operation and width, its operand and what it compares with. -/
def State.sendNative (s : State) (pa op z cmp val : Nat) : State :=
  s.sendOut 2 pa (BitVec.ofNat 64 val) (op + 2 ^ 8 * z) (BitVec.ofNat 64 cmp)

/-- The assist has the lock of a line of another package: it reads the line, writes the z bytes at an address back and
sends the unlock (R284). -/
def State.assistOn (s : State) (pa z new : Nat) : State :=
  let s := s.sendOut 0 (pa / 128 * 128) 0 128
  let s := (upTo (wordCount z)).foldl (fun s i =>
    s.sendOut 1 (pa / 4 * 4 + 4 * i) (BitVec.ofNat 64 (storeShift z pa new / 2 ^ (32 * i) % 2 ^ 32))
      (storeMask z pa).toNat) s
  s.sendOut 4 (pa / 128 * 128) 0 0

/-- Class 7: an assisted atomic through a window whose target refuses line locks (R197). -/
def lockRefused (kind : TxnKind) (cx : Ctx) (s : State) (accs : List LaneAcc) : Option Trap :=
  if nativeAtomic kind cx.x then none
  else
    let bad := accs.filter (fun a => match a.place with
      | .ok (.glob p _) => regionOf p.pa = .fabric && (windowOf s p.pa).getLsbD 62
      | _ => false)
    match bad with
    | [] => none
    | a :: _ =>
      some (s.trapOf cx .hostAtomic 0 (maskOf (fun l => bad.any (fun e => e.lane = l)))
        (BitVec.ofInt 64 a.addr))

/-- Class 7: ordered mode (R198, R199, R283). -/
def orderedRefused (kind : TxnKind) (cx : Ctx) (s : State) (addr : Nat → Int) : Option Trap :=
  let b := s.blockOf cx
  let a := BitVec.ofInt 64 (addr (lowestLane cx.act))
  if !b.ordered then none
  else if kind = .fatom then some (s.trapOf cx .orderedMode 4 cx.act a)
  else if cx.x.space = 2 || (cx.x.space = 0 && kind ≠ .red) then some (s.trapOf cx .orderedMode 1 cx.act a)
  else if cx.x.space = 0 && decide (512 < b.fixer.length + (lanesOf cx.act).length) then
    some (s.trapOf cx .orderedMode 2 cx.act a)
  else none

/-- A global RED of an ordered block takes its fixer entries (R199). -/
def takeEntries (cx : Ctx) (ps : List (Nat × Place)) (s : State) : State :=
  let w := s.warp cx.wk
  let b := s.blockOf cx
  let es := ps.map (fun e => ({
    addr := BitVec.ofNat 64 (match e.2 with | .glob _ va => va | .loc _ a => a)
    value := BitVec.ofNat 64 (s.opB cx e.1), op := atomicOp .red cx.x, ty := cx.x.tN
    lane := e.1, warp := w.index, seq := w.issued, block := b.index } : FixEntry))
  ((s.setBlock (s.blockKey cx) { b with fixer := b.fixer ++ es }).count cx.core 0x12 es.length).advance cx

/-- A lane of an access has found a word lost or poisoned. -/
def Txn.failed (t : Txn) (l : Nat) (lost : Bool) (own ownTick : DWord) : Txn :=
  { t with
    todo := t.todo.filter (fun j => j ≠ l)
    words := t.words.map (fun w => if w.lane = l then
      { w with lost := lost, poison := !lost, own := own, ownTick := ownTick } else w) }

/-- A word an access names. -/
def Txn.addWord (t : Txn) (w : TxnWord) : Txn := { t with words := t.words ++ [w] }

/-- What a lane of an atomic needs at issue: in a scratchpad it is performed at once; at a home by message;
through a window natively at once, with the old value, or the failure, the other package's (R61, log entry 7), or by
the assist. -/
def atomicLane (kind : TxnKind) (cx : Ctx) (id : Nat) (s0 : State) (acc : Txn × State) (e : Nat × Place) :
    Txn × State :=
  let (t, s) := acc
  let l := e.1
  let (cmp, val) := atomicArgs kind cx s0 l
  let t := { t with args := t.args ++ [(l, cmp, val)] }
  match e.2 with
  | .loc c a =>
    match atomicLocal kind cx.x c a cmp val s with
    | some (old, s) => ({ t with olds := t.olds ++ [(l, old)] }, s)
    | none =>
      (t.addWord ⟨l, 0, a / 4, BitVec.ofNat 64 (a / 4 * 4), true, 0, true, false, 0, 0⟩, s)
  | .glob p va =>
    let s := s.takePin p
    let t := t.addWord ⟨l, 0, p.pa / 4, BitVec.ofNat 64 va, true, 0, false, false, 0, 0⟩
    if regionOf p.pa = .fabric then
      if nativeAtomic kind cx.x then
        let z := memBytes cx.x.tN
        let (old, s) := (s.sendNative p.pa (atomicOp kind cx.x) z cmp val).farOld z
        let (r, s) := s.takeFree
        (match r.toNat % 4 with
          | 2 => t.failed l false 0 0
          | 3 => t.failed l true r s.tick
          | _ => { t with olds := t.olds ++ [(l, old)] }, s)
      else ({ t with todo := t.todo ++ [l] }, s.sendOut 3 (p.pa / 128 * 128) 0 0)
    else ({ t with todo := t.todo ++ [l] }, s.send (.homeAtomic id l))

/-- ATOM, RED, CAS and FATOM: the lanes go on while their atomics are on their way (R26, R183).
Reading: log entry 33, DEDUCED. -/
def atomicLanes (kind : TxnKind) (cx : Ctx) (s : State) : State :=
  let z := memBytes cx.x.tN
  let addr := baseAddr cx s
  let accs := (laneAccs cx s z wantAtomic addr).map (fun a =>
    match a.place with
    | .ok (.glob p _) =>
      -- R283: a lane of FATOM must address a window
      if kind = .fatom && regionOf p.pa ≠ .fabric then { a with place := .error (refusedAt s cx 5) } else a
    | _ => a)
  let issue := match orderedRefused kind cx s addr with
    | some t => some t
    | none => lockRefused kind cx s accs
  access cx s true true z issue accs (fun ps =>
    let b := s.blockOf cx
    if b.ordered && cx.x.space = 0 then takeEntries cx ps s
    else
      let s0 := s.countRequests cx 2 ps
      let id := s0.fresh
      let t0 : Txn := { cx.txn kind [] ps with tick := s.tick, rclk := (s0.warp cx.wk).rclk, age := s.acquires cx.core }
      let (t, s1) := ps.foldl (atomicLane kind cx id s) (t0, { s0 with fresh := s0.fresh + 1 })
      let s1 := { s1 with txns := tput s1.txns id t }
      let s1 := s1.markEmpty (dstKeys cx (s.warp cx.wk))
      let s1 := if b.ordered then s1.modWarp cx.wk (fun w => { w with localCount := w.localCount + 1 }) else s1
      s1.advance cx)

def execAtom (x : Long) (s : State) : Out := .next (issueOf (.atom x) false (atomicLanes .atom) s)
def execRed (x : Long) (s : State) : Out := .next (issueOf (.red x) false (atomicLanes .red) s)
def execCas (x : Long) (s : State) : Out := .next (issueOf (.cas x) false (atomicLanes .cas) s)

/-! ## FENCE, INVA, INVR, WBR, REGR, PREF (R201) -/

/-- FENCE: the waits of a release and of an acquire are eligibility; an acquire then invalidates.
Reading: log entry 35, DEDUCED. -/
def fenceGroup (cx : Ctx) (s : State) : State :=
  let s := if acquires cx.x.order then acquire (scopeOf cx.x) cx.core s else s
  s.advance cx

def execFence (x : Long) (s : State) : Out := .next (issueOf (.fence x) false fenceGroup s)

def invaGroup (cx : Ctx) (s : State) : State := (acquire (scopeOf cx.x) cx.core s).advance cx

def execInva (x : Long) (s : State) : Out := .next (issueOf (.inva x) false invaGroup s)

/-- Physical byte ranges of a virtual range, page by page. -/
def rangePages (s : State) (core ctx : Nat) (handler : Bool) (n : Need) :
    Nat → Nat → Nat → Except (Miss × Nat) (List (Phys × Nat × Nat))
  | 0, _, _ => .ok []
  | fuel + 1, va, len =>
    if len = 0 then .ok []
    else
      match translate s core ctx handler n va with
      | .error m => .error (m, va)
      | .ok p =>
        let room := p.base + p.size - p.pa
        let k := min room len
        match rangePages (s.takePin p) core ctx handler n fuel (va + k) (len - k) with
        | .error e => .error e
        | .ok rest => .ok ((p, p.pa, k) :: rest)

/-- The pages of a range of len bytes; a page has at least 64 KiB. -/
def pagesOf (s : State) (cx : Ctx) (n : Need) (va len : Nat) : Except (Miss × Nat) (List (Phys × Nat × Nat)) :=
  rangePages s cx.core (s.blockOf cx).ctx cx.handler n (len / 2 ^ 16 + 2) va len

/-- The regions of a list: base and length, widened to whole lines (R201). -/
def regionsOf (cx : Ctx) (s : State) : List (Nat × Nat) :=
  let w := s.warp cx.wk
  let n := cx.x.bN - 0x140
  match codeOf cx.x.aN with
  | .s r => (upTo n).map (fun i =>
      let base := s.regs (skeys cx.core w (r + 4 * i) 2)
      let len := s.regs (skeys cx.core w (r + 4 * i + 2) 1)
      if len = 0 then (base, 0) else (base / 128 * 128, (base + len + 127) / 128 * 128 - base / 128 * 128))
  | _ => []

/-- All regions translated; the first failure decides. -/
def regionPages (cx : Ctx) (s : State) : Except (Miss × Nat) (List (Phys × Nat × Nat)) :=
  (regionsOf cx s).foldl (fun acc e =>
    match acc with
    | .error m => .error m
    | .ok ps =>
      match pagesOf s cx {} e.1 e.2 with
      | .error m => .error m
      | .ok qs => .ok (ps ++ qs)) (.ok [])

/-- Whether a physical word lies in a list of ranges. -/
def inPages (ps : List (Phys × Nat × Nat)) (pw : Nat) : Bool :=
  ps.any (fun (_, pa, k) => decide (pa / 4 ≤ pw ∧ 4 * pw < pa + k))

/-- A failed translation at issue (R317). -/
def pageTrap (s : State) (cx : Ctx) (m : Miss) (va : Nat) : Trap :=
  let e := missAt s cx m
  { s.trapOf cx e.cause e.qual cx.act (BitVec.ofNat 64 va) with xlstat := e.xlstat }

/-- An instruction over regions (R201). -/
def overRegions (act : List (Phys × Nat × Nat) → State → State) (cx : Ctx) (s : State) : State :=
  match regionPages cx s with
  | .error (m, va) => s.raise cx.wk (pageTrap s cx m va)
  | .ok ps => act ps s

def invrGroup (cx : Ctx) (s : State) : State :=
  overRegions (fun ps s => (invalidate (scopeOf cx.x) cx.core (inPages ps) s).advance cx) cx s

def execInvr (x : Long) (s : State) : Out := .next (issueOf (.invr x) false invrGroup s)

/-- WBR waits for words of its regions whose Reg, whose fill or whose earlier write-back is pending.
Reading: log entry 35, DEDUCED. -/
def wbrGroup (cx : Ctx) (s : State) : State :=
  overRegions (fun ps s =>
    let mine := s.nearWords cx.core (fun pw w => inPages ps pw && w.held && w.reg)
    if mine.any (fun pw => (s.near_ cx.core pw).reqPend || (s.near_ cx.core pw).fillPend || (s.near_ cx.core pw).kept) then s
    else (mine.foldl (fun s pw => writeBack cx.core pw true s) s).advance cx) cx s

def execWbr (x : Long) (s : State) : Out := .next (issueOf (.wbr x) false wbrGroup s)

/-- The lane whose operands an instruction reads that acts once per issue group (R186). -/
def groupLane (cx : Ctx) : Nat := if cx.uni then 0 else lowestLane cx.act

/-- The requests that REGR and PREF make, one a line (R359). -/
def lineRequests (ps : List (Nat × Phys × Nat)) : List (Nat × Place) :=
  ps.flatMap (fun (va, p, k) => (upTo ((k + p.pa % 128 + 127) / 128)).map (fun i =>
    let d := if i = 0 then 0 else 128 * i - p.pa % 128
    (0, Place.glob { p with pa := p.pa + d } (va + d))))

/-- REGR. -/
def regrGroup (cx : Ctx) (s : State) : State :=
  let a := s.opA cx (groupLane cx)
  let len := s.opB cx (groupLane cx)
  let refuse := s.raise cx.wk (s.trapOf cx .permission 0 cx.act (BitVec.ofNat 64 a))
  if a % 4 ≠ 0 || len % 4 ≠ 0 || len < 4 || 4096 < len then refuse
  else
    match pagesOf s cx needBoth a len with
    | .error (m, va) => s.raise cx.wk (pageTrap s cx m va)
    | .ok ps =>
      if ps.any (fun e => leafHome e.1.leaf = 3) then refuse
      else
        let vas := ps.foldl (fun (acc : List (Nat × Phys × Nat) × Nat) e =>
          (acc.1 ++ [(acc.2, { e.1 with pa := e.2.1 }, e.2.2)], acc.2 + e.2.2)) ([], a)
        let s := s.countRequests cx 1 (lineRequests vas.1)
        let s := ps.foldl (fun s e =>
          if s.direct e.1 then s
          else (upTo (e.2.2 / 4)).foldl (fun s i =>
            nearClaim cx.core (e.2.1 / 4 + i) (s.blockKey cx) cx.wk (s.storeOrder cx e.1) 0 true s) (s.takePin e.1)) s
        s.advance cx

def execRegr (x : Long) (s : State) : Out := .next (issueOf (.regr x) false regrGroup s)

/-- The lines of one page that PREF brings into the near cache: a Read for each word that is not there. -/
def prefetchPage (cx : Ctx) (pa k : Nat) (s : State) : State :=
  let w := s.warp cx.wk
  (upTo (k / 4)).foldl (fun s' i =>
    let n := s'.near_ cx.core (pa / 4 + i)
    if n.held then s'
    else (s'.setNear cx.core (pa / 4 + i) { n with pref := some (cx.wk, w.block, w.index, w.rclk) }).send
      (.read (pa / 4 + i) (s'.reader cx.core))) s

/-- The ranges of pages that a range translates to; lines that do not translate are left out. -/
def prefetchPages (cx : Ctx) (s : State) : Nat → Nat → Nat → List (Nat × Phys × Nat)
  | 0, _, _ => []
  | fuel + 1, va, len =>
    if len = 0 then []
    else
      match translate s cx.core (s.blockOf cx).ctx cx.handler needLoad va with
      | .error _ => prefetchPages cx s fuel (va + 128) (len - 128)
      | .ok p =>
        let k := min (p.base + p.size - p.pa) len
        (va, p, k) :: prefetchPages cx (s.takePin p) fuel (va + k) (len - k)

/-- A walk that a PREF needs awaits a word. -/
def prefetchWaits (cx : Ctx) (s : State) (va lines : Nat) : Bool :=
  (upTo lines).any (fun i =>
    match translate s cx.core (s.blockOf cx).ctx cx.handler needLoad (va + 128 * i) with
    | .error m => m.pend
    | .ok _ => false)

/-- PREF (R201): level 1 brings lines into the die cache, which holds every home's copy already.
Reading: log entry 35, DEDUCED. -/
def prefGroup (cx : Ctx) (s : State) : State :=
  let a := s.opA cx (groupLane cx)
  let len := s.opB cx (groupLane cx)
  if cx.x.cN % 2 = 1 || len = 0 || 65536 < len then s.advance cx
  else
    let first := a / 128 * 128
    let ps := prefetchPages cx s 514 first ((a + len + 127) / 128 * 128 - first)
    if prefetchWaits cx s first ((a + len + 127) / 128 - a / 128) then s
    else
      let s := s.countRequests cx 0 (lineRequests ps)
      (ps.foldl (fun s (_, p, k) => if s.direct p then s else prefetchPage cx p.pa k (s.takePin p)) s).advance cx

def execPref (x : Long) (s : State) : Out := .next (issueOf (.pref x) false prefGroup s)

/-! ## DALLOC and DFREE (R202 to R204) -/

/-- The region a warp allocates from: base and size (R202). -/
def arenaOf (b : Block) (w : Warp) : Nat × Nat :=
  let base := b.arena + b.index * b.arenaN
  if b.ordered then
    let sub := b.arenaN / max 1 b.warps / 16 * 16
    (base + w.index * sub, sub)
  else (base, b.arenaN)

/-- The bump pointer a warp uses; it starts at the region's start with companion 0 (R202). -/
def bumpOf (b : Block) (w : Warp) : Bump := if b.ordered then w.bump else b.bump

def State.setBump (s : State) (cx : Ctx) (p : Bump) : State :=
  if (s.blockOf cx).ordered then s.modWarp cx.wk (fun w => { w with bump := p })
  else s.modBlock (s.blockKey cx) (fun b => { b with bump := p })

/-- One lane's allocation: its pointer, and the pointer with its companion afterwards (R203).
Reading: log entry 36, DEDUCED. -/
def allocate (last : Nat) (p : Bump) (n : Nat) : Option (Nat × Bump) :=
  let t := 16 + 16 * ((n + 15) / 16)
  if n = 0 || last < p.ptr + t then none else some (p.ptr, ⟨p.ptr + t, t / 16⟩)

/-- The allocations of the active lanes: (lane, header address, header units, companion below). -/
def allocations (cx : Ctx) (s : State) (last : Nat) : List Nat → Bump → List (Nat × Nat × Nat × Nat) × Bump
  | [], p => ([], p)
  | l :: ls, p =>
    match allocate last p (s.opA cx l) with
    | none => allocations cx s last ls p
    | some (h, q) =>
      let (rest, r) := allocations cx s last ls q
      ((l, h, q.comp, p.comp) :: rest, r)

/-- A header as one number of 16 bytes (R203). -/
def headerOf (units below : Nat) : Nat :=
  units + 2 ^ 32 * 1 + 2 ^ 64 * (below % 2 ^ 32) + 2 ^ 96 * (2 ^ 32 - 1 - units % 2 ^ 32)

/-- DALLOC. -/
def dallocLanes (cx : Ctx) (s : State) : State :=
  let w := s.warp cx.wk
  let b := s.blockOf cx
  let (base, size) := arenaOf b w
  let (as, p) := allocations cx s (base + size) (lanesOf cx.act) (bumpOf b w)
  let cx0 := { cx with x := { cx.x with mods := 0 } }
  let accs := as.map (fun (l, h, _, _) => (⟨l, h, checkLane s cx0 0 4 ⟨needBoth, false⟩ h⟩ : LaneAcc))
  access cx0 s false true 16 none accs (fun ps =>
    orderedGo s cx 16 ps (
      let s1 := (ps.zip as).foldl (fun s' (e, (_, _, units, below)) =>
        storeLane cx 16 e.2 (headerOf units below) s') (s.countRequests cx 1 ps)
      let outs := (lanesOf cx.act).map (fun l =>
        (l, valOut (match as.find? (fun e => e.1 = l) with | some e => e.2.1 + 16 | none => 0)))
      ((s1.landAll (regLandings cx w outs)).setBump cx p).advance cx))

def execDalloc (x : Long) (s : State) : Out := .next (issueOf (.dalloc x) false dallocLanes s)

/-- A header word as DFREE finds it at its home: it waits, it fails, or its value. -/
inductive HeadRead where
  | wait
  | fail (t : Trap)
  | value (p : Phys) (v : Word)
  deriving DecidableEq, Repr, Inhabited

def headWord (cx : Ctx) (s : State) (l va : Nat) : HeadRead :=
  let mask := maskOf (fun j => j = l)
  match translate s cx.core (s.blockOf cx).ctx cx.handler needBoth va with
  | .error m =>
    let e := missAt s cx m
    .fail { s.trapOf cx e.cause e.qual mask (BitVec.ofNat 64 va) with xlstat := e.xlstat }
  | .ok p =>
    if placeBusy s cx.core (.glob p va) 1 then .wait
    else
      match placeWord s (.glob p va) 0 with
      | none =>
        let log := tget (0, 0) s.lostLog (p.pa / 4)
        .fail { s.trapOf cx .ownerLost 0 mask (BitVec.ofNat 64 va) with
                own := BitVec.ofNat 64 (4 * 2 ^ 32 + bitsOf log.1 0 16), ownTick := log.2 }
      | some (v, bad) => if bad then .fail (s.trapOf cx .poison 1 mask (BitVec.ofNat 64 va)) else .value p v

/-- A header word written at its home. -/
def headPut (cx : Ctx) (p : Phys) (v : Word) (s : State) : State :=
  if s.direct p then s.directStore (p.pa / 4) 15 v else s.writeHome cx.core (p.pa / 4) v

/-- What freeing comes to for one lane. -/
inductive Freed where
  | wait
  | fail (t : Trap)
  | done (s : State)

/-- The pointer moves down over free allocations (R204): words 1 and 2 of each header are read, and word 2 is followed
as written. -/
def moveDown (cx : Ctx) (l base : Nat) : Nat → Bump → State → Freed
  | 0, p, s => .done (s.setBump cx p)
  | fuel + 1, p, s =>
    if p.comp = 0 then .done (s.setBump cx p)
    else
      let h := (p.ptr + 2 ^ 64 - 16 * p.comp) % 2 ^ 64
      match headWord cx s l (h + 4), headWord cx s l (h + 8) with
      | .wait, _ => .wait
      | _, .wait => .wait
      | .fail t, _ => .fail t
      | _, .fail t => .fail t
      | .value _ used, .value _ below =>
        if used = 0 then moveDown cx l base fuel ⟨h, below.toNat⟩ s else .done (s.setBump cx p)

/-- One lane of DFREE (R204). Reading: log entry 36, DEDUCED. -/
def freeLane (cx : Ctx) (l a : Nat) (s : State) : Freed :=
  let w := s.warp cx.wk
  let b := s.blockOf cx
  let base := b.arena + b.index * b.arenaN
  let mine := arenaOf b w
  let refuse := Freed.fail (s.trapOf cx .permission 2 (maskOf (fun j => j = l)) (BitVec.ofNat 64 a))
  if a = 0 then .done s
  else if a < base + 16 || base + b.arenaN < a || a % 16 ≠ 0 then refuse
  else
    let h := a - 16
    match headWord cx s l h, headWord cx s l (h + 4), headWord cx s l (h + 8), headWord cx s l (h + 12) with
    | .value _ w0, .value p1 w1, .value _ w2, .value _ w3 =>
      if w3 ≠ ~~~w0 || w1 ≠ 1 then refuse
      else
        let s := headPut cx p1 0 s
        let p := bumpOf b w
        if h + 16 * w0.toNat = p.ptr then
          moveDown cx l mine.1 (p.ptr / 16 + 1) ⟨h, w2.toNat⟩ s
        else .done s
    | .fail t, _, _, _ => .fail t
    | _, .fail t, _, _ => .fail t
    | _, _, .fail t, _ => .fail t
    | _, _, _, .fail t => .fail t
    | _, _, _, _ => .wait

/-- The lanes in ascending order; a failing lane frees nothing, and its fault joins the mask. -/
def freeLanes (cx : Ctx) (s0 : State) : List Nat → Option Trap → State → Option (Option Trap × State)
  | [], t, s => some (t, s)
  | l :: ls, t, s =>
    match freeLane cx l (s0.opA cx l) s with
    | .wait => none
    | .fail u =>
      freeLanes cx s0 ls (match t with | none => some u | some v => some { v with lanes := v.lanes ||| u.lanes }) s
    | .done s => freeLanes cx s0 ls t s

/-- DFREE: every lane is judged before any takes effect. Reading: log entry 36, DEDUCED. -/
def dfreeLanes (cx : Ctx) (s : State) : State :=
  let st := watch s cx true true ((lanesOf cx.act).filterMap (fun l =>
    let a := s.opA cx l
    if a < 16 then none else some (l, (a : Int) - 16, 16)))
  stopOr s cx st (
    match freeLanes cx s (lanesOf cx.act) none s with
    | none => s
    | some (some t, _) => s.raise cx.wk t
    | some (none, s) => s.advance cx)

def execDfree (x : Long) (s : State) : Out := .next (issueOf (.dfree x) false dfreeLanes s)

end Sys2Proof.Machine
end

