-- ==== Sys2Proof/Machine/Arrivals.lean ====
section
/-! DEFINITION. The events of memory: data arrive at waiting lanes, atomics are performed at their homes,
messages are handled at homes and owners (R183, R195, R205 to R217), results land (R26), and the logs that
memory traffic writes (R357 to R360). An event that is not a message checks its own condition and changes
nothing while that does not hold. -/

namespace Sys2Proof.Machine

/-! ## Accesses in flight -/

/-- The instruction an access belongs to. -/
def TxnKind.instr (k : TxnKind) (x : Long) : Instr :=
  match k with
  | .ld => .ld x
  | .ldu => .ldu x
  | .ldt => .ldt x
  | .gath => .gath x
  | .atom => .atom x
  | .red => .red x
  | .cas => .cas x
  | .fatom => .fatom x
  | .macc => .macc x
  | .stt => .stt x

/-- The context of an access for the lanes it still has. -/
def Txn.cx (t : Txn) : Ctx :=
  t.ctx (match (t.kind.instr t.x).info with
    | some f => f.shape
    | none => ⟨.vec, .none, [], .none, .zero, .zero, .zero, .zero⟩) t.lanes

/-- An access is over. -/
def State.closeTxn (s : State) (id : Nat) : State := { s with txns := tdel s.txns id }

/-- An access is over without a fault: the report latch at its instruction may clear (R369). -/
def State.endTxn (s : State) (id : Nat) (t : Txn) : State :=
  let s := s.closeTxn id
  s.modWarp t.warp (s.unlatched t.pc t.warp)

/-- A fault that data bring waits while another fault of its warp is waiting or served (R367). -/
def State.faultBusy (s : State) (wk : Nat) : Bool := (s.warp wk).fault.isSome

/-- Destination words of some lanes of an access. -/
def txnKeys (cx : Ctx) (w : Warp) (ls : List Nat) : List Nat :=
  ls.flatMap (fun l => codeKeys cx.core w cx.x.dN (cx.sh.dst.writes cx.sh cx.x) l)

/-- The lanes of an access as its landings count them. -/
def Txn.laneList (t : Txn) (cx : Ctx) : List Nat := if cx.uni then [0] else lanesOf t.lanes

/-- A fault that data bring is reported, unless the handler's run it belongs to is over. -/
def State.report (s : State) (t : Txn) (tr : Trap) : State := if t.stale then s else s.raise t.warp tr

/-- A fault that data bring waits while another fault of its warp is waiting or served (R367). -/
def Txn.waits (t : Txn) (s : State) : Bool := !t.stale && s.faultBusy t.warp

/-- Lanes of an access that fail: their words are full again, they stand at the instruction, and the fault is taken
(R61, R183). -/
def failLanes (id : Nat) (t : Txn) (tr : Trap) (s : State) : State :=
  let cx := t.cx
  let s := s.markFull (txnKeys cx (s.warp t.warp) (if cx.uni then [0] else lanesOf tr.lanes))
  (((s.putBack t tr.lanes).closeTxn id).report t tr).reap t.warp

/-- LD, LDU and LDT fail whole: every lane stands at the instruction with full words and a predicate that is not
busy, and the fault names the lanes whose data failed (R61, R183, R363). -/
def failWhole (id : Nat) (t : Txn) (tr : Trap) (s : State) : State :=
  let cx := t.cx
  let pd := t.x.cN / 8 % 8
  let s := s.markFull (txnKeys cx (s.warp t.warp) (t.laneList cx))
  let s := if t.kind ≠ .ldt || pd = 7 then s else
    s.modWarp t.warp (fun w => w.modLanes t.lanes (fun y => { y with busy := setBit y.busy pd false }))
  (((s.putBack t t.lanes).closeTxn id).report t tr).reap t.warp

/-- Address of a lane in an access. -/
def Txn.addr (t : Txn) (l : Nat) : Nat :=
  match t.addrs.find? (fun e => e.1 = l) with
  | some e => e.2
  | none => 0

/-- An access that acquires does so when its data are there (R185). -/
def State.acquireOf (s : State) (t : Txn) : State :=
  if Sys2Proof.Machine.acquires (t.kind.order t.x) then acquire t.scope (t.warp / 128) s else s

/-- LD and LDU: every lane lands together (R183). -/
def arriveLoad (id : Nat) (t : Txn) (s : State) : State :=
  if t.words.any (fun w => !w.ready) then s
  else
    let cx := t.cx
    match dataFault s cx t.words t.x.space with
    | some tr => if t.waits s then s else failWhole id t tr s
    | none =>
      let w := s.warp t.warp
      let s := s.landAll ((t.laneList cx).flatMap (fun l => loadLanding cx w t.words l (t.addr l)))
      ((s.acquireOf t).endTxn id t).reap t.warp

/-- One lane of a per-lane access lands (R183): `xs` are its words. -/
def landLane (id : Nat) (t : Txn) (l : Nat) (xs : List Landing) (s : State) : State :=
  let s := (s.landAll xs).acquireOf t
  let rest := t.lanes &&& ~~~maskOf (fun j => j = l)
  if rest = 0 then (s.endTxn id t).reap t.warp
  else { s with txns := tput s.txns id { t with lanes := rest } }

/-- The lanes of a per-lane access that are left have all failed: they take the fault (R61, R183). -/
def failRest (id : Nat) (t : Txn) (s : State) : State :=
  let left := t.words.filter (fun w => t.lanes.getLsbD w.lane)
  if left.any (fun w => !w.ready) || !t.todo.isEmpty then s
  else
    match dataFault s t.cx left t.x.space with
    | some tr => if t.waits s then s else failLanes id t tr s
    | none => s

/-- GATH: the lowest lane whose data are there lands (R183). -/
def arriveGather (id : Nat) (t : Txn) (s : State) : State :=
  let mine := fun (l : Nat) => t.words.filter (fun w => w.lane = l)
  match (lanesOf t.lanes).find? (fun l => (mine l).all (fun w => w.ready && !w.lost && !w.poison)) with
  | some l => landLane id t l (loadLanding t.cx (s.warp t.warp) t.words l (t.addr l)) s
  | none => failRest id t s

/-- The result of a lane of an atomic (R195, R196); poisoned where the assist was refused (R284). -/
def atomicLanding (cx : Ctx) (w : Warp) (t : Txn) (l old : Nat) : List Landing :=
  (landings cx w cx.x.dN (cx.sh.dst.writes cx.sh cx.x) l (extendLoad t.x.tN (memBytes t.x.tN) 0 (wordsOf 4 old))
    (t.refused.contains l))

/-- ATOM, RED and CAS: when every lane has been performed or has failed, the ones that did not fail land
together, and the others take the fault (R61, R183). -/
def arriveAtomic (id : Nat) (t : Txn) (s : State) : State :=
  let cx := t.cx
  if !t.todo.isEmpty then s
  else
    let tr := dataFault s cx t.words t.x.space
    if tr.isSome && t.waits s then s
    else
      let w := s.warp t.warp
      let s := (s.landAll (t.olds.flatMap (fun e => atomicLanding cx w t e.1 e.2))).acquireOf t
      match tr with
      | some tr => failLanes id t tr s
      | none => (s.endTxn id t).reap t.warp

/-- FATOM: its lanes land one by one (R283). -/
def arriveFatom (id : Nat) (t : Txn) (s : State) : State :=
  match (lanesOf t.lanes).find? (fun l => t.olds.any (fun e => e.1 = l)) with
  | none => failRest id t s
  | some l =>
    let old := match t.olds.find? (fun e => e.1 = l) with | some e => e.2 | none => 0
    landLane id t l (atomicLanding t.cx (s.warp t.warp) t l old) s

/-! ## Versioned tiles (R191, R192) -/

/-- A try of LDT begins anew with its version; the core's Valid copies are dropped, so that what is read now is
asked for now. -/
def nextTry (id : Nat) (t : Txn) (tries : Nat) (s : State) : State :=
  match t.vplace with
  | none => s.closeTxn id
  | some v =>
    let (ws, s) := askVersion t.cx v (acquire 2 t.cx.core s)
    { s with txns := tput s.txns id { t with words := ws, phase := 0, tries := tries, age := s.acquires t.cx.core } }

/-- What a try of LDT has read makes it go on (R192): the first version is followed by an acquire and the elements,
these by the second version, and a failed try by the next. The second version is asked for when the elements are
there. Reading: log entry 34, DEDUCED. -/
def arriveTile (id : Nat) (t : Txn) (s : State) : State :=
  if t.words.any (fun w => !w.ready) then s
  else
    let cx := t.cx
    let version := match t.words.find? (fun w => w.index = versionIndex) with | some w => w.value | none => 0
    match dataFault s cx t.words t.x.space, t.vplace, t.phase with
    | some tr, _, _ => if t.waits s then s else failWhole id t tr s
    | none, none, _ => s.closeTxn id
    | none, some _, 0 =>
      let (ws, s) := t.places.foldl (loadLane cx (memBytes t.x.tN)) ([], acquire t.scope cx.core s)
      { s with txns := tput s.txns id { t with words := ws, version := version, phase := 1, age := s.acquires cx.core } }
    | none, some v, 1 =>
      let (ws, s) := askVersion cx v (acquire 2 cx.core s)
      { s with txns := tput s.txns id { t with words := t.words ++ ws, phase := 2, age := s.acquires cx.core } }
    | none, some _, _ =>
      let ok := t.version = version && !version.getLsbD 0
      if !ok && decide (t.tries + 1 < 256) then nextTry id t (t.tries + 1) s
      else
        let w := s.warp t.warp
        let ws := t.words.filter (fun x => x.index ≠ versionIndex)
        let s := s.landAll ((t.laneList cx).flatMap (fun l => loadLanding cx w ws l (t.addr l)))
        let s := s.modWarp t.warp (fun w => (lanesOf t.lanes).foldl (fun w l => w.putPred (t.x.cN / 8 % 8) l ok) w)
        (s.endTxn id t).reap t.warp

/-- The first version step of an `STT.aon` has been made: its elements are stored and registered (R191). -/
def storeElements (id : Nat) (t : Txn) (old : Word) (s : State) : State :=
  let s := t.places.foldl (fun s e =>
    storeLane t.cx (memBytes t.x.tN) e.2 (match t.args.find? (fun a => a.1 = e.1) with | some a => a.2.2 | none => 0) s) s
  { s with txns := tput s.txns id { t with phase := 1, version := old, todo := [], words := [] } }

/-- Elements of an `STT.aon` whose registration is not acknowledged. -/
def elementsPending (s : State) (t : Txn) : Bool :=
  t.places.any (fun e => match e.2 with
    | .loc _ _ => false
    | .glob p _ => (upTo (wordCount (memBytes t.x.tN))).any (fun i => (s.near_ (t.warp / 128) (p.pa / 4 + i)).reqPend))

/-- An `STT.aon` is over: its lanes pass (R191). -/
def endTile (id : Nat) (t : Txn) (s : State) : State := ((s.closeTxn id).advanceLanes t.cx t.lanes).reap t.warp

/-- The first version step where no home performs it by message: an even version becomes odd; through a window a
read and a compare-and-swap leave the package. -/
def firstStep (id : Nat) (t : Txn) (v : Place) (s : State) : State :=
  match v, placeWord s v 0 with
  | _, none => s
  | .glob p _, some (x, bad) =>
    if regionOf p.pa = .fabric then
      let s := s.sendOut 0 p.pa 0 0 0
      if x.getLsbD 0 then s
      else
        let (y, s) := s.takeFree
        let s := s.sendOut 2 p.pa ((x + 1).setWidth 64) 12 (x.setWidth 64)
        if y.setWidth 32 = x then storeElements id t x s else s
    else if bad then { s with txns := tput s.txns id { t with words := [badVersion t v false 0 0] } }
    else if x.getLsbD 0 then s
    else storeElements id t x (s.directStore (p.pa / 4) 15 (x + 1))
  | .loc c a, some (x, bad) =>
    if bad then { s with txns := tput s.txns id { t with words := [badVersion t v false 0 0] } }
    else if x.getLsbD 0 then s
    else storeElements id t x (s.localStore c a 15 (x + 1))
where
  badVersion (t : Txn) (v : Place) (lost : Bool) (own ownTick : DWord) : TxnWord :=
    { lane := lowestLane t.lanes, index := versionIndex, word := v.addr / 4
      va := BitVec.ofNat 64 (match v with | .glob _ va => va | .loc _ a => a)
      ready := true, poison := !lost, lost := lost, own := own, ownTick := ownTick }

/-- STT.aon goes on (R191): its first version step, the wait for the elements' registrations and for the release,
and its last version step, after which the lanes pass. Reading: log entry 34, DEDUCED. -/
def arriveStore (id : Nat) (t : Txn) (s : State) : State :=
  if !t.todo.isEmpty then s
  else
    match t.phase, t.vplace with
    | _, none => endTile id t s
    | 0, some v =>
      match dataFault s t.cx t.words t.x.space with
      | some tr => if t.waits s then s else (s.closeTxn id).report t tr
      | none => firstStep id t v s
    | 1, some v =>
      if elementsPending s t || s.unacked t.cx.core || s.engineBusy t.cx.core then s
      else
        match v with
        | .loc c a => endTile id t (s.localStore c a 15 (t.version + 2))
        | .glob p _ =>
          if s.direct p then endTile id t (s.directStore (p.pa / 4) 15 (t.version + 2))
          else { s.send (.homeAtomic id versionLane) with txns := tput s.txns id { t with phase := 2, todo := [versionLane] } }
    | _, some _ => endTile id t s

/-- Data arrive (R183). The accesses of MACC belong to the matrix unit and land with its results.
Reading: log entry 21, DEDUCED. -/
def dataArrival (id : Nat) (s : State) : State :=
  match tfind s.txns id with
  | none => s
  | some t =>
    if t.warp % 128 = orphanBerth then (if t.todo.isEmpty then s.closeTxn id else s)
    else match t.kind with
    | .ld => arriveLoad id t s
    | .ldu => arriveLoad id t s
    | .ldt => arriveTile id t s
    | .gath => arriveGather id t s
    | .atom => arriveAtomic id t s
    | .red => arriveAtomic id t s
    | .cas => arriveAtomic id t s
    | .fatom => arriveFatom id t s
    | .stt => arriveStore id t s
    | .macc => s

def execLoadDataArrival (s : State) : Out :=
  .next (match s.now with | .loadDataArrival id => dataArrival id s | _ => s)

/-! ## Atomics at homes (R195, R211) -/

/-- A lane of an access has been performed with an old value. -/
def Txn.performed (t : Txn) (l old : Nat) : Txn :=
  { t with todo := t.todo.filter (fun j => j ≠ l), olds := t.olds ++ [(l, old)] }

/-- Another node holds the lock of a line (R284). -/
def State.lineLocked (s : State) (line : Nat) : Bool := s.locks.any (fun k => k.line = line)

/-- The home asks the owner of a word for it, once (R211). -/
def askHome (id pw : Nat) (s : State) : State :=
  match s.owner pw with
  | .agent a => (s.startTimer pw a 4 id).send (.xfer pw a homeSource true 0)
  | _ => s

/-- Whether an agent has a word. -/
def State.away (s : State) (pw : Nat) : Bool := match s.owner pw with | .agent _ => true | _ => false

/-- A version step of an `STT.aon` at its home (R191): it waits while the version is odd. -/
def versionStep (id : Nat) (t : Txn) (pw : Nat) (s : State) : State :=
  let core := t.warp / 128
  let again := Event.homeAtomic id versionLane
  if t.phase = 0 then
    let lostBy := tget (0, 0) s.lostLog pw
    let fail := fun (lost : Bool) (own tick : DWord) =>
      match t.vplace with
      | some v => { s with txns := tput s.txns id { t with todo := [], words := [firstStep.badVersion t v lost own tick] } }
      | none => s
    if s.owner pw = .lost then fail true (BitVec.ofNat 64 (4 * 2 ^ 32 + bitsOf lostBy.1 0 16)) lostBy.2
    else if nmem s.memPoison pw then fail false 0 0
    else
      let x := s.homeCopy pw
      if x.getLsbD 0 then s.sendFirst again else storeElements id t x (s.writeHome core pw (x + 1))
  else { s.writeHome core pw (t.version + 2) with txns := tput s.txns id { t with todo := [] } }

/-- The atomic of a lane at its word's home: lanes that name one location come in ascending order, it queues
behind a recall of the line (R209), it follows its core's Regs of its words, and words that an owner has come home
first (R184, R195, R211).
Reading: log entry 33, DEDUCED, log entry 39, DEDUCED. -/
def serveAtomic (id l : Nat) (t : Txn) (s : State) : State :=
  let z := memBytes t.x.tN
  let (pw, n) := atomicWords t l
  let core := t.warp / 128
  let ws := (upTo n).map (fun i => pw + i)
  let again := Event.homeAtomic id l
  if t.todo.any (fun j => decide (j < l) && t.addr j = t.addr l) || s.lineLocked (pw / 32) ||
      ws.any (fun p => s.comingHome p || (s.near_ core p).reqPend) then s.sendFirst again
  else if ws.any (fun p => s.away p) then (ws.foldl (fun s p => askHome id p s) s).sendFirst again
  else if t.kind = .stt then versionStep id t pw s
  else
    match ws.find? (fun p => s.owner p = .lost), ws.any (fun p => nmem s.memPoison p) with
    | some p, _ =>
      let log := tget (0, 0) s.lostLog p
      { s with txns := tput s.txns id (t.failed l true (BitVec.ofNat 64 (4 * 2 ^ 32 + bitsOf log.1 0 16)) log.2) }
    | none, true => { s with txns := tput s.txns id (t.failed l false 0 0) }
    | none, false =>
      let old := bytesIn z (t.addr l) (ws.map (fun p => s.homeCopy p))
      let (cmp, val) := match t.args.find? (fun e => e.1 = l) with
        | some e => e.2
        | none => (0, 0)
      let new := putBytesIn z (t.addr l) (ws.map (fun p => s.homeCopy p)) (atomicStep t.kind t.x cmp val old)
      let s := (ws.zip new).foldl (fun s e => s.writeHome core e.1 e.2) s
      { s with txns := tput s.txns id (t.performed l old) }

def performAtomic (id l : Nat) (s : State) : State :=
  match tfind s.txns id with
  | none => passStalled (.homeAtomic id l) s
  | some t =>
    if !t.todo.contains l then passStalled (.homeAtomic id l) s
    else atHome ((atomicWords t l).1 / 32) (.homeAtomic id l) (serveAtomic id l t) s

def execHomeAtomic (s : State) : Out :=
  .next (match s.now with | .homeAtomic id l => performAtomic id l s | _ => s)

/-! ## Messages at homes and owners (R210, R211) -/

def execRead (s : State) : Out :=
  .next (match s.now with | .read pw r => homeRead pw r s | _ => s)

def execReg (s : State) : Out :=
  .next (match s.now with
    | .reg pw a want order => homeReg pw a want order s
    | _ => s)

def execWb (s : State) : Out :=
  .next (match s.now with | .wb pw a v bad => homeWb pw a v bad s | _ => s)

/-- Drop(A) at the home (R211, R216): a word still registered to A is Lost. -/
def homeDrop (pw a code : Nat) (s : State) : State :=
  if s.owner pw = .agent a then
    endRecall (pw / 32) (s.loseWord pw (if code < 16 then a else code / 16 - 1) (code % 16))
  else s

def execDrop (s : State) : Out :=
  .next (match s.now with
    | .drop pw a code => homeDrop pw a code s
    | _ => s)

def execAck (s : State) : Out :=
  .next (match s.now with | .ack pw a c => nearAck pw a c s | _ => s)

def execFwd (s : State) : Out :=
  .next (match s.now with
    | .fwd pw a r => ownerFwd pw a r (s.count (coreOfAgent a) 0x0B 1)
    | _ => s)

def execXfer (s : State) : Out :=
  .next (match s.now with
    | .xfer pw a b want k => ownerXfer pw a b want k (s.count (coreOfAgent a) 0x0B 1)
    | _ => s)

def execRecall (s : State) : Out :=
  .next (match s.now with | .recall n a => ownerRecall n a s | _ => s)

def execEviction (s : State) : Out :=
  .next (match s.now with | .eviction a pw => evict a pw s | _ => s)

/-! ## Fills and the replay log (R213, R216, R357, R358) -/

/-- A dependence of a warp on a line goes into its table of 32 entries, the least recently used one going out, unless
the table implies it; a warp that has ended has no table any more. It is logged unless it is implied (R357). `blk` is
the block's key and `idx` the warp's index. -/
def noteDependence (core wk blk idx line writer clock rclk : Nat) (s : State) : State :=
  let w := s.warp wk
  let here := w.live && w.block = blk && w.index = idx
  let b := s.block blk
  let clock := clock % 2 ^ 16
  let old := if here then w.seen.find? (fun e => e.1 = line) else none
  let implied := match old with
    | some e => decide (clock ≤ e.2)
    | none => false
  let seen := ((line, match old with | some e => max e.2 clock | none => clock) ::
    w.seen.filter (fun e => e.1 ≠ line)).take 32
  let s := if here then s.setWarp wk { w with seen := seen } else s
  let queued := (s.agenda.filter (fun e => match e with
    | .replayRecord c _ _ _ _ _ _ _ => dieOfCore c = dieOfCore core
    | _ => false)).length
  if implied then s
  else if 64 ≤ queued then s.setSysreg 0x199 (s.sysreg 0x199 + (1 <<< 32))
  else s.send (.replayRecord core line writer clock rclk b.index (b.ctx * 256 + idx) s.tick)

/-- The dependences that a fill carries to a core (R357): of the warps that await the word, whoever answers, of the
warp that had it prefetched, or of the warp whose access the Xfer answers. -/
def noteFill (pw agent clock src : Nat) (s : State) : State :=
  let c := coreOfAgent agent
  let n := s.near_ c pw
  let line := pw / 32
  if !(s.sysreg 0x198).getLsbD 63 then s
  else if src = regSource then s
  else if answerKind src ≠ 0 then
    if n.held && n.reg then noteDependence c n.asker n.reqBlock n.askIdx line (answerAgent src) clock n.rclk s else s
  else
    let writer := if src = homeSource then tget (readerAgent agent) (s.line line).writers (pw % 32) else answerAgent src
    if n.held || writer = readerAgent agent then s
    else
      let ts := s.txns.filter (fun e => e.2.warp / 128 = c && decide (e.2.age ≤ readerAge agent) &&
        e.2.words.any (fun x => x.word = pw && !x.ready))
      let s := ts.foldl (fun s e =>
        let w := s.warp e.2.warp
        noteDependence c e.2.warp w.block w.index line writer clock e.2.rclk s) s
      match n.pref with
      | some (wk, blk, idx, rclk) =>
        let s := s.setNear c pw { s.near_ c pw with pref := .none }
        if ts.any (fun e => e.2.warp = wk) then s else noteDependence c wk blk idx line writer clock rclk s
      | none => s

/-- Lanes of an atomic whose word has been lost while it came home take the fault (R216). -/
def failWaiting (id pw owner reason : Nat) (s : State) : State :=
  match tfind s.txns id with
  | none => s
  | some t =>
    let ls := t.todo.filter (fun l => decide ((atomicWords t l).1 ≤ pw ∧ pw < (atomicWords t l).1 + (atomicWords t l).2))
    let own := BitVec.ofNat 64 (reason * 2 ^ 32 + owner)
    let t' := if t.kind = .stt then
        (match t.vplace with
          | some v => if t.phase = 0 then { t with todo := [], words := [firstStep.badVersion t v true own s.tick] } else t
          | none => t)
      else ls.foldl (fun t l => t.failed l true own s.tick) t
    { s with txns := tput s.txns id t' }

/-- The owner answers Lost to the home, which wanted a word for an atomic (R216). -/
def lostAtHome (pw owner reason : Nat) (s : State) : State :=
  let mine := fun (e : Nat × Timer) => decide (e.2.word = pw ∧ e.2.owner = owner ∧ e.2.kind = 4)
  let ids := (s.timers.filter mine).map (fun e => e.2.other)
  let s := { s with timers := s.timers.filter (fun e => !mine e) }
  let s := if s.owner pw = .agent owner then endRecall (pw / 32) (s.loseWord pw owner reason) else s
  ids.foldl (fun s id => failWaiting id pw owner reason s) s

/-- The timer of an owner's answer stops (R215). -/
def State.answered (s : State) (pw agent src : Nat) : State :=
  if answerAgent src = homeSource then s else s.stopTimer pw (answerAgent src) (answerKind src) agent

/-- Data arrive at the home, at an engine or at a near cache (R210, R211). A sub-word store whose fill reports a
loss is logged (R216). An answer to a store of the whole word brings no data. -/
def fillArrival (pw agent : Nat) (v : Word) (bad : Bool) (clock : Nat) (lost : Bool) (src : Nat) (s : State) : State :=
  let c := coreOfAgent agent
  let s := s.answered pw agent src
  let n := s.near_ c pw
  if agent = homeSource then
    (if lost then lostAtHome pw (answerAgent src) v.toNat s else comeHome pw (answerAgent src) v bad s)
  else if answerKind src = 2 then (if agentKind agent ≠ 0 then s else noteFill pw agent clock src s)
  else if agentKind agent ≠ 0 then
    let e := s.engine agent pw
    if e.used && !e.written && !e.filled then
      s.setEngine agent pw { e with filled := true, value := v, poison := bad || lost }
    else s
  else if lost && n.held && n.fillPend && n.bytes ≠ 0 && answerKind src ≠ 0 then
    let b := s.block n.block
    (nearFill pw agent v bad clock lost true s).logError 5 0 agent (4 * pw) false b.index b.ctx n.warp
  else nearFill pw agent v bad clock lost (answerKind src ≠ 0) (if lost then s else noteFill pw agent clock src s)

def execFillData (s : State) : Out :=
  .next (match s.now with
    | .fillData pw a v bad clock lost src => fillArrival pw a v bad clock lost src s
    | _ => s)

/-- A replay record (R358). Reading: log entry 54, DEDUCED. -/
def execReplayRecord (s : State) : Out :=
  .next (match s.now with
    | .replayRecord _ line writer clock rclk block cw tick =>
      s.appendLog 0x198 0x199 (wordsOfD tick ++ wordsOfD (BitVec.ofNat 64 line) ++
        [BitVec.ofNat 32 (writer * 2 ^ 16 + clock), BitVec.ofNat 32 rclk, BitVec.ofNat 32 block, BitVec.ofNat 32 cw])
    | _ => s)

/-- Something of a traced request is still to come: a word of its line that its instruction awaits, an atomic of it,
or the Ack of a Reg that it made. -/
def sampleOpen (s : State) (x : Sample) : Bool :=
  s.txns.any (fun e => e.2.warp = x.wk && e.2.rclk = x.rclk &&
    (e.2.words.any (fun w => w.word / 32 = x.line && !w.ready) ||
      e.2.todo.any (fun l => (atomicWords e.2 l).1 / 32 = x.line))) ||
  s.near.any (fun e => e.1 / 2 ^ 50 = x.wk / 128 && e.1 % 2 ^ 50 / 32 = x.line && e.2.reqPend &&
    e.2.asker = x.wk && e.2.rclk = x.rclk)

/-- Traced requests that have completed have their records sent (R360). -/
def closeSamples (s : State) : State :=
  (s.samples.filter (fun e => e.2.done.isNone && !sampleOpen s e.2)).foldl (fun s' e =>
    { s' with samples := tput s'.samples e.1 { e.2 with done := some s.tick } }.send (.tracerSample e.1)) s

/-- Hop times: open values where a hop is crossed, 0 elsewhere. -/
def hopTimes : List Bool → State → List Nat × State
  | [], s => ([], s)
  | h :: hs, s =>
    let (v, s) := if h then (let (f, s) := s.takeFree; (f.toNat % 2 ^ 16, s)) else (0, s)
    let (vs, s) := hopTimes hs s
    (v :: vs, s)

/-- A tracer sample (R360), of a request that has completed: the times in the hops' queues are open, and so is
whether a die cache held the line (log entry 8). -/
def execTracerSample (s : State) : Out :=
  .next (match s.now with
    | .tracerSample k =>
      match tfind s.samples k with
      | none => s
      | some x =>
        let s := { s with samples := tdel s.samples k }
        let (f, s) := s.takeFree
        let inCache := x.served < 0x100 || f.getLsbD 63
        let code := if x.served < 0x100 then x.served else if inCache then (x.served - 0x100) % 16 else (x.served - 0x100) / 16
        let hops := if inCache && 0x100 ≤ x.served then x.hops.set 5 false else x.hops
        let (hs, s) := hopTimes hops s
        let h := fun (i : Nat) => lget 0 hs i
        s.appendLog 0x1A0 0x1A1 (wordsOfD x.tick ++ wordsOfD (BitVec.ofNat 64 x.pc) ++ wordsOfD (BitVec.ofNat 64 x.va) ++
          [BitVec.ofNat 32 (x.wk / 128 * 2 ^ 16 + x.index * 2 ^ 8 + x.kind * 16 + code),
            (x.done.getD s.tick - x.tick).setWidth 32, BitVec.ofNat 32 (h 1 * 2 ^ 16 + h 0),
            BitVec.ofNat 32 (h 3 * 2 ^ 16 + h 2), BitVec.ofNat 32 (h 5 * 2 ^ 16 + h 4), 0, 0, 0, 0, 0])
    | _ => s)

/-! ## Timers, sleep bits, fenced units (R15, R215, R216) -/

/-- Messages of a request that has timed out are no longer answered, and an answer to it that is under way is
dropped. Reading: log entry 65, DEDUCED. -/
def withdraw (pw owner other : Nat) (s : State) : State :=
  let gone := fun (e : Event) => match e with
    | .fwd p o r => p = pw && o = owner && r = other
    | .xfer p o t _ _ => p = pw && o = owner && t = other
    | .fillData p t _ _ _ _ src => p = pw && t = other && answerAgent src = owner
    | _ => false
  let c := coreOfAgent owner
  let n := s.near_ c pw
  let s := { s with agenda := s.agenda.filter (fun e => !gone e)
                    heldMsgs := s.heldMsgs.filter (fun m => !gone m.2.1) }
  if agentKind owner = 0 then
    (if n.owed.any gone then s.setNear c pw { n with owed := n.owed.filter (fun e => !gone e) } else s)
  else
    let e := s.engine owner pw
    if e.owed.any gone then s.setEngine owner pw { e with owed := e.owed.filter (fun x => !gone x) } else s

/-- Every word of a line in a slot is marked Lost, and the slot is freed (R209). -/
def loseSlot (n agent reason : Nat) (s : State) : State :=
  match (s.line n).slotOf agent with
  | none => s
  | some i =>
    (upTo 32).foldl (fun s j =>
      if (lget 0 (s.line n).codes j).toNat = 4 + i then s.loseWord (n * 32 + j) agent reason else s) s

/-- A timer expires (R215, R216). Reading: log entry 65, DEDUCED. -/
def expire (k : Nat) (s : State) : State :=
  match tfind s.timers k with
  | none => s
  | some t =>
    if s.clk < t.limit then s
    else
      let s := { s with timers := tdel s.timers k }
      let reason := if nmem s.fenced t.owner then 2 else 0
      match t.kind with
      | 0 =>
        let s := (withdraw t.word t.owner t.other s)
        let s := if s.owner t.word = .agent t.owner then s.loseWord t.word t.owner reason else s
        s.send (.fillData t.word t.other (BitVec.ofNat 32 reason) false 0 true homeSource)
      | 1 =>
        let s := (withdraw t.word t.owner t.other s)
        let s := if s.owner t.word = .agent t.other then s.loseWord t.word t.owner reason else s
        s.send (.fillData t.word t.other (BitVec.ofNat 32 reason) false 0 true regSource)
      | 2 =>
        let s := loseSlot (t.word / 32) t.owner reason (withdraw t.word t.owner t.other s)
        s.logError 15 reason t.owner (4 * t.word) false 0 0 0
      | 4 =>
        let s := (withdraw t.word t.owner homeSource s)
        let s := if s.owner t.word = .agent t.owner then s.loseWord t.word t.owner reason else s
        failWaiting t.other t.word t.owner reason s
      | _ => endRecall (t.word / 32) (loseSlot (t.word / 32) t.owner reason s)

def execForwardTimerExpiry (s : State) : Out :=
  .next (match s.now with | .forwardTimerExpiry k => expire k s | _ => s)

/-- The agents that lie in a core. -/
def agentsOf (core : Nat) : List Nat := [agentOfCore core, tenderOf core, matrixOf core, traversalOf core]

/-- Keys of the live warps of a core, the handler window apart. -/
def State.warpsOn (s : State) (core : Nat) : List Nat :=
  (s.warps.filter (fun e => e.1 / 128 = core && e.2.live && e.1 % 128 ≠ handlerBerth)).map Prod.fst

/-- Every resident warp of a core sleeps, and no handler runs: the core may be power-gated (R123). -/
def mayGate (s : State) (core : Nat) : Bool :=
  let ws := s.warpsOn core
  !ws.isEmpty && ws.all (fun k => (s.warp k).asleep && (s.warp k).fault.isNone) && (s.core core).serving.isNone

/-- The sleep bits of a core's agents are set before it is gated and cleared after it has woken (R215). -/
def sleepBits (core : Nat) (asleep : Bool) (s : State) : State :=
  if asleep then
    if mayGate s core && !(s.core core).gated then
      { s with sleepers := (agentsOf core).foldl nput s.sleepers }
    else s
  else if (s.core core).gated then s
  else { s with sleepers := (agentsOf core).foldl ndel s.sleepers }

def execSleepBitBroadcast (s : State) : Out :=
  .next (match s.now with | .sleepBitBroadcast c b => sleepBits c b s | _ => s)

/-- A core is power-gated; its registered words are retained (R123, R215). -/
def execCorePowerGate (s : State) : Out :=
  .next (match s.now with
    | .corePowerGate c =>
      if mayGate s c && nmem s.sleepers (agentOfCore c) then s.modCore c (fun v => { v with gated := true }) else s
    | _ => s)

/-- A message is under way to an agent of a core. -/
def messageFor (core : Nat) (e : Event) : Bool :=
  match e with
  | .ack _ a _ => coreOfAgent (a % 4096) = core && agentKind a ≠ 3 && agentKind a ≠ 5
  | .fillData _ a _ _ _ _ _ => a ≠ homeSource && coreOfAgent (a % 4096) = core && agentKind a ≠ 3 && agentKind a ≠ 5
  | .fwd _ a _ => coreOfAgent (a % 4096) = core && agentKind a ≠ 3 && agentKind a ≠ 5
  | .xfer _ a _ _ _ => coreOfAgent (a % 4096) = core && agentKind a ≠ 3 && agentKind a ≠ 5
  | .recall _ a => coreOfAgent (a % 4096) = core && agentKind a ≠ 3 && agentKind a ≠ 5
  | .wbAck _ a => coreOfAgent (a % 4096) = core && agentKind a ≠ 3 && agentKind a ≠ 5
  | _ => false

/-- What wakes a gated core: a message to it, or a warp that no longer sleeps (R123, R215). -/
def wakes (s : State) (core : Nat) : Bool :=
  s.agenda.any (messageFor core) ||
  (s.warpsOn core).any (fun k => !(s.warp k).asleep || (s.warp k).fault.isSome)

/-- A gated core wakes, and its sleep bits are cleared by broadcast (R123, R215). -/
def execCoreWake (s : State) : Out :=
  .next (match s.now with
    | .coreWake c =>
      if (s.core c).gated && wakes s c then
        (s.modCore c (fun v => { v with gated := false })).send (.sleepBitBroadcast c false)
      else s
    | _ => s)

/-- Codes of units that are no agents: a die-cache slice, a pseudo-channel and a cluster, by number (R12). -/
def sliceUnit (n : Nat) : Nat := 0x10000 + n
def channelUnit (n : Nat) : Nat := 0x20000 + n
def clusterUnit (n : Nat) : Nat := 0x30000 + n

/-- What a fenced manifest unit had under way is gone. -/
def fenceUnits (as : List Nat) (s : State) : State :=
  { s with clusters := s.clusters.map (fun ((k, c) : Nat × Cluster) =>
      (k, if as.contains (manifestOf k) then { c with develops := [], jobs := [] } else c)) }

/-- Agents are fenced (R15): their bits are set, requests to them count as timed out (R215), their request tables are
gone, and the words registered to them are Lost. -/
def fenceAgents (as : List Nat) (s : State) : State :=
  let s := { fenceUnits as s with
    fenced := as.foldl nput s.fenced
    timers := s.timers.map (fun ((k, t) : Nat × Timer) => (k, if as.contains t.owner then { t with limit := min t.limit s.clk } else t))
    engines := s.engines.filter (fun e => !as.contains (e.1 / 2 ^ 50)) }
  s.registry.foldl (fun s e => as.foldl (fun s a => endRecall e.1 (loseSlot e.1 a 2 s)) s) s

/-- A core is fenced with its engines: its blocks are lost (R305), and so is what it holds and has under way. -/
def fenceCore (c : Nat) (s : State) : State :=
  let s := fenceAgents (agentsOf c) s
  let s := s.blocks.foldl (fun s e => if e.2.core = c && e.2.resident then s.loseBlock e.1 0x09 else s) s
  let s := s.modCore c (fun v => { v with serving := .none, matrix := [], holds := [], pieces := [] })
  let s := s.modWarp (windowKey c) (fun w => { w with live := false })
  { s with
    near := s.near.filter (fun e => e.1 / 2 ^ 50 ≠ c)
    caches := tdel s.caches c
    copies := s.copies.filter (fun e => e.2.core ≠ c)
    txns := s.txns.filter (fun e => e.2.warp / 128 ≠ c)
    prods := s.prods.filter (fun e => e.2.warp / 128 ≠ c) }

/-- A unit is fenced off (R15): the words registered to it are Lost, CAPSUM.FENCED is set, and the blocks of a
core are lost (R305). A unit is named by its agent identifier, one that is no agent by its code. A die-cache slice or a
pseudo-channel owns no words: the lines and the memory behind it stay as usable as before, on which the manual is
silent. Reading: log entry 65, DEDUCED, log entry 80, DESIGN CHOICE. -/
def fence (unit : Nat) (s : State) : State :=
  let s := s.setSysreg 0x100 (s.sysreg 0x100 ||| BitVec.ofNat 64 (2 ^ 63))
  let s := { s with fenced := nput s.fenced unit }
  if 0x10000 ≤ unit then
    if clusterUnit 0 ≤ unit then
      let cl := unit - clusterUnit 0
      (upTo 16).foldl (fun s i => fenceCore (cl * 16 + i) s) (fenceAgents [manifestOf cl] s)
    else s
  else if agentKind unit = 0 then fenceCore (coreOfAgent unit) s
  else fenceAgents [unit] s

/-- UNIT_FENCE (R15). -/
def execUnitFence (s : State) : Out :=
  .next (match s.now with | .unitFence u => fence u s | _ => s)

/-- The scrubber has found an error in a store word (R30): a corrected one is logged, an uncorrectable one
poisons the word. Reading: log entry 65, DEDUCED. -/
def scrubWord (core word : Nat) (bad : Bool) (s : State) : State :=
  let k := core * 0x200000 + word
  let owner := s.blocks.find? (fun e => e.2.core = core && e.2.resident && s.inBlock e.1 (4 * word))
  let b := match owner with | some e => e.2 | none => {}
  let s := if bad then { s with poison := nput s.poison k } else s
  s.logError (if bad then 2 else 1) 0 (agentOfCore core) (4 * word) false b.index b.ctx 0

/-- An uncorrectable error of the home's copy of a word (R375, R386): it is poisoned and logged.
Reading: log entry 65, DEDUCED. -/
def memoryError (pw : Nat) (s : State) : State :=
  { s with memPoison := nput s.memPoison pw }.logError 3 0 deviceAgent (4 * pw) false 0 0 0

/-- An uncorrectable error of a copy in a near cache (R30): it is poisoned and logged, and a Registered one can no
longer be forwarded: its owner answers Lost (R216). Reading: log entry 65, DEDUCED. -/
def nearError (core pw : Nat) (s : State) : State :=
  let w := s.near_ core pw
  if !w.held || w.fillPend then s
  else
    let b := s.block w.block
    (s.setNear core pw { w with poison := true, err := w.reg }).logError 2 0 (agentOfCore core) (4 * pw) false b.index b.ctx 0

def execScrub (s : State) : Out :=
  .next (match s.now with
    | .scrub c w bad => scrubWord c w bad s
    | .memoryError p => memoryError p s
    | .nearError c p => nearError c p s
    | _ => s)

/-! ## Results of producers (R26, R107, R127) -/

/-- The oldest SFU result of a warp lands (R107). Reading: log entry 74, DEDUCED. -/
def landSfu (wk : Nat) (s : State) : State :=
  match s.prods.find? (fun e => e.2.warp = wk && e.2.kind = .sfu) with
  | some e => s.landProd e.1
  | none => s

def execSfuResultLanding (s : State) : Out :=
  .next (match s.now with | .sfuResultLanding c w => landSfu (warpKey c w) s | _ => s)

/-- A pending result of some kinds lands once its clock has come. Reading: log entry 74, DEDUCED. -/
def landKind (kinds : List ProdKind) (k : Nat) (s : State) : State :=
  match tfind s.prods k with
  | some p => if kinds.contains p.kind && decide (p.after ≤ s.clk) then s.landProd k else s
  | none => s

def execShflResultLanding (s : State) : Out :=
  .next (match s.now with | .shflResultLanding k => landKind [.shfl] k s | _ => s)

/-! ## Translation (R310, R314) -/

/-- A walk that a core's lookup starts, which its caches no longer have a translation for, or the die's cache alone
(R314). The walk reads the low words of its entries, or it ends, and a translation it finds is installed. -/
def walkEvent (core ctx va : Nat) (s : State) : State :=
  let (f, s) := s.takeFree
  let die := dieOfCore core
  let near := cachedIn (tget [] s.caches (1024 + die)) ctx va
  let root := s.sysreg (0x178 + ctx % 8)
  match f.toNat % 4, near with
  | 1, some c => installCached core (f.toNat / 4) false c s
  | 2, _ =>
    if root.getLsbD 0 then
      { s with lows := (walkLows s die va 4 0 (bitsOf root 17 35 * 2 ^ 17)).foldl (fun t e => tput t e.1 e.2) s.lows }
    else s
  | _, _ =>
    let s := (evictCached core ctx va s).countMiss core ctx va
    match walk s die ctx va with
    | .ok c => installCached core (f.toNat / 4) true c { s with lows := [] }
    | .error _ => { s with lows := [] }

def execTranslationWalk (s : State) : Out :=
  .next (match s.now with | .translationWalk core ctx va => walkEvent core ctx va s | _ => s)

end Sys2Proof.Machine
end

