-- ==== Sys2Proof/Machine/Counters.lean ====
section
/-! DEFINITION. Dependence counters, barrier objects, BAR and FIX, the tick, performance counters and line
clocks (R337 to R356). -/

namespace Sys2Proof.Machine

/-! ## The instruction where a lane stands, and safe points (R117) -/

/-- The instruction at an address, as a warp would issue it. -/
def instrAt (s : State) (core ctx : Nat) (handler : Bool) (pc : DWord) : Option Instr :=
  match fetchInstr s core ctx handler pc.toNat with
  | .ok ws => match decodeWords ws with | .ok (i, _) => some i | .error _ => none
  | .error _ => none

/-- Context in which a warp fetches. -/
def State.ctxOf (s : State) (wk : Nat) : Nat := (s.block (s.warp wk).block).ctx

/-- The S bit of an instruction (R42, R53, R54). -/
def safePoint (i : Instr) : Bool :=
  match i.info with
  | some f => f.x.safe
  | none =>
    match i.sop, i with
    | some (_, x), _ => x.safe
    | none, .pair p => p.safe
    | none, _ => false

/-- Whether the instruction at an address has S = 1. -/
def safeAt (s : State) (wk : Nat) (pc : DWord) : Bool :=
  match instrAt s (wk / 128) (s.ctxOf wk) (wk % 128 = handlerBerth) pc with
  | some i => safePoint i
  | none => false

/-- A block stops its warps at their safe points. -/
def Block.stopping (b : Block) : Bool := b.mode = .saving || b.halting

/-! ## BAR and FIX (R344 to R348) -/

/-- The active lanes of a group stand at a barrier from now on; the others pass it. -/
def standAt (wait : Ctx → BarrierWait) (cx : Ctx) (s : State) : State :=
  let w := wait cx
  (s.modWarp cx.wk (fun v => v.modLanes cx.act (fun x => { x with bar := w }))).advanceLanes cx
    (cx.group &&& ~~~cx.act)

/-- BAR (R344): arrival, of which the release is eligibility; BARRIER_RELEASE lets its lanes go. -/
def execBar (x : Long) (s : State) : Out :=
  .next (issueOf (.bar x) false (standAt (fun cx => .bar (scopeOf cx.x))) s)

/-- FIX (R348). -/
def execFix (x : Long) (s : State) : Out :=
  .next (issueOf (.fix x) false (standAt (fun cx => .fix (scopeOf cx.x))) s)

/-- Lanes that have not exited. -/
def Warp.liveLanes (w : Warp) : List Nat := laneNumbers.filter (fun l => !(w.lane l).exited)

/-- Whether every lane of a warp that has not exited waits in a way. -/
def Warp.arrived (w : Warp) (f : BarrierWait → Bool) : Bool := w.liveLanes.all (fun l => f (w.lane l).bar)

/-- The barrier a warp waits at with all its lanes. -/
def Warp.barrier (w : Warp) : Option BarrierWait :=
  match w.liveLanes with
  | [] => none
  | l :: _ =>
    match (w.lane l).bar with
    | .none => none
    | .bar n => if w.arrived (fun x => x = .bar n) then some (.bar n) else none
    | .fix n => if w.arrived (fun x => match x with | .fix _ => true | _ => false) then some (.fix n) else none

/-- Blocks that a barrier gathers: those of the gang, or the block. -/
def barrierBlocks (s : State) (b : Nat) (wait : BarrierWait) : List Nat :=
  let v := s.block b
  match wait with
  | .bar 3 => (s.blocks.filter (fun e => e.2.launch = v.launch && e.2.gang = v.gang && !e.2.over)).map Prod.fst
  | _ => [b]

/-- The warps that take part in a barrier, and whether all of them are in their berths (R344). -/
def participants (s : State) (wk : Nat) (wait : BarrierWait) : List Nat :=
  if wait = .bar 1 then [wk]
  else (barrierBlocks s (s.warp wk).block wait).flatMap s.warpsOf

def allPlaced (s : State) (wk : Nat) (wait : BarrierWait) : Bool :=
  let v := s.block (s.warp wk).block
  wait = .bar 1 ||
  ((barrierBlocks s (s.warp wk).block wait).all (fun b =>
    let m := (s.block b).mode
    m = .running || m = .saving || m = .ended || m = .retired) &&
   (wait ≠ .bar 3 || (s.launch v.launch).gangLeft = [] || (s.launch v.launch).gangOf ≠ v.gang))

/-- Whether two waits meet at one barrier (R344, R348). Reading: log entry 40, DEDUCED. -/
def meets (a b : BarrierWait) : Bool :=
  match a, b with
  | .bar m, .bar n => m = n
  | .fix _, .fix _ => true
  | _, _ => false

/-- Every participant has arrived. Reading: log entry 40, DEDUCED. -/
def gathered (s : State) (wk : Nat) (wait : BarrierWait) : Bool :=
  allPlaced s wk wait && (participants s wk wait).all (fun k => (s.warp k).arrived (meets wait))

/-- A warp leaves its barrier: it acquires at the scope of each BAR or FIX that its lanes stand at, and they issue
it with no further effect, which is a safe point where its S bit is 1 (R117, R344, R345, R348).
Reading: log entry 40, DEDUCED. -/
def leaveBarrier (wk : Nat) (s : State) : State :=
  let w := s.warp wk
  let core := wk / 128
  let scopes := (w.lanes.filterMap (fun v => if v.exited then none else match v.bar with
    | .bar n => some n
    | .fix n => some n
    | .none => none)).dedup
  let safe := w.lanes.any (fun v => !v.exited && v.bar ≠ .none && safeAt s wk v.pc)
  let park := safe && (s.block w.block).stopping
  let s := scopes.foldl (fun s n => acquire n core s) s
  let s := s.count core evIssues ((w.lanes.filter (fun v => !v.exited && v.bar ≠ .none)).map (fun v => v.pc)).dedup.length
  let s := s.count core evLanes (w.lanes.filter (fun v => !v.exited && v.bar ≠ .none)).length
  s.modWarp wk (fun w => { w with
    lanes := w.lanes.map (fun v =>
      if v.exited || v.bar = .none then v else v.pass (BitVec.ofNat 64 (v.pc.toNat + 8)))
    latch := if w.lanes.any (fun v => v.bar ≠ .none && w.latch = some v.pc) then .none else w.latch
    parked := w.parked || park })

/-- Whether a barrier is a fix point of an ordered block (R346). -/
def isFixPoint (s : State) (b : Nat) (wait : BarrierWait) : Bool :=
  (s.block b).ordered && wait ≠ .bar 1

/-- Local atomics are counted anew after a fix point (R200). -/
def restartCounts (ps : List Nat) (s : State) : State :=
  ps.foldl (fun s k => s.modWarp k (fun w => { w with localCount := 0 })) s

/-- Entries of a block that no fix point has applied yet. -/
def Block.unapplied (b : Block) : Bool := !b.fixer.isEmpty || !b.batch.isEmpty

/-- A barrier releases (R344): everyone is there, and the entries of a fix point have been applied.
Reading: log entry 40, DEDUCED. -/
def releaseBarrier (wk : Nat) (s : State) : State :=
  let w := s.warp wk
  match w.barrier with
  | none => s
  | some wait =>
    let clear := (barrierBlocks s w.block wait).all (fun b => !isFixPoint s b wait || !(s.block b).unapplied)
    if w.live && gathered s wk wait && clear then
      let ps := participants s wk wait
      let t := ps.foldl (fun s k => leaveBarrier k s) s
      if isFixPoint s w.block wait then restartCounts ps t else t
    else s

def execBarrierRelease (s : State) : Out :=
  .next (match s.now with | .barrierRelease wk => releaseBarrier wk s | _ => s)

/-! ## Applying a batch (R199, R346, R347) -/

/-- Whether an entry comes before another (R199). -/
def FixEntry.before (a b : FixEntry) : Bool :=
  a.block < b.block || (a.block = b.block && (a.warp < b.warp || (a.warp = b.warp &&
    (a.lane < b.lane || (a.lane = b.lane && a.seq < b.seq)))))

def insertEntry (e : FixEntry) : List FixEntry → List FixEntry
  | [] => [e]
  | x :: xs => if e.before x then e :: x :: xs else x :: insertEntry e xs

/-- A batch in the order of application. -/
def sortEntries (es : List FixEntry) : List FixEntry := es.foldl (fun acc e => insertEntry e acc) []

/-- The fields of a RED with an entry's operation and type. -/
def FixEntry.long (e : FixEntry) : Long :=
  { form := .long, ty := BitVec.ofNat 3 e.ty, et := 0, c := BitVec.ofNat 10 (8 * e.op), b := 0, a := 0
    dst := 0, safe := false, neg := false, guard := 7, mods := 0 }

/-- The words of an entry, once its address translates. -/
def entryWords (e : FixEntry) (p : Phys) : List Nat :=
  (upTo (wordCount (memBytes e.ty))).map (fun i => p.pa / 4 + i)

/-- Whether an entry's home can perform it now. -/
def entryQuiet (s : State) (core ctx : Nat) (e : FixEntry) : Bool :=
  match translate s core ctx false needBoth e.addr.toNat with
  | .error m => !m.pend
  | .ok p => regionOf p.pa = .fabric ||
    (entryWords e p).all (fun pw => s.quiet pw && !(s.near_ core pw).reqPend)

/-- An entry is performed as a relaxed RED at its home; or it fails with a fault. -/
def applyEntry (core ctx : Nat) (e : FixEntry) (s : State) : Option Trap × State :=
  match translate s core ctx false needBoth e.addr.toNat with
  | .error m =>
    (some { cause := if m.perm then .permission else .translation, qual := if m.reason = 5 then 1 else 0
            addr := e.addr, xlstat := xlstatOf ctx m, apart := true }, s)
  | .ok p =>
    let s := s.takePin p
    if regionOf p.pa = .fabric then
      let z := memBytes e.ty
      if nativeOp e.op z then (none, s.sendNative p.pa e.op z 0 e.value.toNat)
      else
        let (old, s) := (s.sendOut 3 (p.pa / 128 * 128) 0 0).farOld z
        let (r, s) := s.takeFree
        if r.getLsbD 0 then
          (none, s.logError 6 0 (assistOf (bitsOf (windowOf s p.pa) 52 4 / 8)) p.pa false e.block ctx e.warp)
        else (none, s.assistOn p.pa z (atomicNew e.op e.ty old e.value.toNat))
    else
      let ws := entryWords e p
      match ws.find? (fun w => (s.latest w).isNone), ws.any (fun w => (s.latest w).any Prod.snd) with
      | some w, _ =>
        let log := tget (0, 0) s.lostLog w
        (some { cause := .ownerLost, addr := e.addr, own := BitVec.ofNat 64 (4 * 2 ^ 32 + bitsOf log.1 0 16)
                ownTick := log.2, apart := true }, s)
      | none, true => (some { cause := .poison, qual := 1, addr := e.addr, apart := true }, s)
      | none, false =>
        let vs := ws.map (fun w => ((s.latest w).getD (0, false)).1)
        let z := memBytes e.ty
        let old := bytesIn z p.pa vs
        let new := putBytesIn z p.pa vs (atomicNew e.op e.ty old e.value.toNat)
        (none, (ws.zip new).foldl (fun s x => s.writeHome core x.1 x.2) s)

/-- A batch is applied; the first failure, with its entry, is kept. -/
def applyAll (core ctx : Nat) : List FixEntry → Option (FixEntry × Trap) → State → Option (FixEntry × Trap) × State
  | [], bad, s => (bad, s)
  | e :: es, bad, s =>
    let (t, s) := applyEntry core ctx e s
    applyAll core ctx es (match bad, t with | none, some t => some (e, t) | bad, _ => bad) s

/-- The warp that takes a failure of a batch (R347): that of the entry, or the first participant that has not
ended. -/
def failingWarp (s : State) (ps : List Nat) (e : FixEntry) : Option Nat :=
  let ps := ps.filter (fun k => !(s.warp k).ended)
  match ps.find? (fun k => (s.warp k).index = e.warp && (s.block (s.warp k).block).index = e.block) with
  | some k => some k
  | none => ps.head?

/-- The entries of the blocks of a fix point become its batch, and the fixers are empty (R346). -/
def takeBatch (bs : List Nat) (s : State) : State :=
  bs.foldl (fun s k => s.modBlock k (fun x => { x with batch := x.batch ++ x.fixer, fixer := [] })) s

/-- The batch of the blocks of a fix point is taken, and then applied (R346); a failure goes to a participant, whose
lanes have not issued their BAR or FIX, while the others are released (R347). -/
def applyFixPoint (b wk : Nat) (wait : BarrierWait) (s : State) : State :=
  let v := s.block b
  let bs := barrierBlocks s b wait
  let es := sortEntries (bs.flatMap (fun k => (s.block k).batch))
  let lowest := bs.foldl (fun m k => min m (s.block k).index) v.index
  if !gathered s wk wait then s
  else if bs.any (fun k => !(s.block k).fixer.isEmpty) then takeBatch bs s
  else if es.isEmpty || !s.lowerRetired v.launch lowest || es.any (fun e => !entryQuiet s v.core v.ctx e) then s
  else
    let ps := participants s wk wait
    let s := bs.foldl (fun s k => s.modBlock k (fun x => { x with batch := [] })) s
    let (bad, s) := applyAll v.core v.ctx es none s
    match bad with
    | none => s
    | some (e, t) =>
      match failingWarp s ps e with
      | none => s
      | some k =>
        let w := s.warp k
        let lanes := maskOf (fun l => !(w.lane l).exited)
        let l := lowestLane lanes
        let s := restartCounts ps ((ps.filter (fun j => j ≠ k)).foldl (fun s j => leaveBarrier j s) s)
        let s := s.modWarp k (fun w => { w with lanes := w.lanes.map (fun v => { v with bar := .none }) })
        s.raiseLater k { t with lanes := lanes, low := l, pc := (w.lane l).pc }

/-- The batch of a block that has ended is applied; a failure is logged, and the launch takes status 0x07
(R199, R346). -/
def applyAtEnd (b : Nat) (s : State) : State :=
  let v := s.block b
  let es := sortEntries v.batch
  if !v.fixer.isEmpty then takeBatch [b] s
  else if !s.lowerRetired v.launch v.index || es.any (fun e => !entryQuiet s v.core v.ctx e) then s
  else
    let (bad, s) := applyAll v.core v.ctx es none (s.modBlock b (fun x => { x with batch := [] }))
    let s := match bad with
      | none => s
      | some (e, t) =>
        let l := s.launch v.launch
        (s.setLaunch v.launch { l with status := l.status ++ [0x07] }).logError 7 t.cause.code
          (agentOfCore v.core) e.addr.toNat true v.index v.ctx e.warp
    s.retire b

/-- FIX_POINT_APPLY (R346). Reading: log entry 40, DEDUCED. -/
def fixPoint (b : Nat) (s : State) : State :=
  let v := s.block b
  if !v.ordered then s
  else if v.mode = .ended then applyAtEnd b s
  else
    match (s.warpsOf b).head? with
    | none => s
    | some wk =>
      match (s.warp wk).barrier with
      | some wait => if isFixPoint s b wait then applyFixPoint b wk wait s else s
      | none => s

def execFixPointApply (s : State) : Out :=
  .next (match s.now with | .fixPointApply b => fixPoint b s | _ => s)

/-! ## Dependence counters (R338 to R340) -/

/-- The counter an operand names: die x 256 + number (R338). -/
def counterOf (v : Nat) : Nat := v % 1024

def State.counter (s : State) (n : Nat) : Word := tget 0 s.counters n

/-- DCINC and DCDEC (R340): the release is eligibility; the change is sent. -/
def sendChange (neg : Bool) (cx : Ctx) (s : State) : State :=
  let n := BitVec.ofNat 32 (s.opB cx 0)
  (s.send (.dependenceCounterChange (counterOf (s.opA cx 0)) (if neg then -n else n) (cx.wk + 1))).advance cx

def execDcinc (x : Long) (s : State) : Out := .next (issueOf (.dcinc x) false (sendChange false) s)
def execDcdec (x : Long) (s : State) : Out := .next (issueOf (.dcdec x) false (sendChange true) s)

/-- A change that a warp has sent to a counter has not arrived yet. -/
def changeComing (s : State) (wk n : Nat) : Bool :=
  s.inFlight.any (fun e => match e with
    | .dependenceCounterChange m _ w => m = n && w = wk + 1
    | _ => false)

/-- The counter that a lane standing at a DCWAIT it has not noted yet names, once its guard is true and its operand's
value exists. -/
def waitsAt (s : State) (wk l : Nat) : Option Nat :=
  let w := s.warp wk
  let v := w.lane l
  if v.exited || !w.live || v.dcwait.isSome then none
  else
    match instrAt s (wk / 128) (s.ctxOf wk) (wk % 128 = handlerBerth) v.pc with
    | some (.dcwait x) =>
      match (Instr.dcwait x).info with
      | some f =>
        let cx := Ctx.of f.x f.shape { s with cur := { core := wk / 128, berth := wk % 128, lanes := maskOf (fun j => j = l)
                                                       pc := v.pc, len := 8 } }
        let missing := cx.fields.any (fun (g, code, _) => (sourceKeys cx false w g code l).any s.isEmpty)
        if cx.act = 0 || w.guardBusy cx.uni f.x l || missing || (decodeFault false false cx s).isSome then none
        else some (counterOf (s.opA cx 0))
      | none => none
    | _ => none

/-- A lane has reached the DCWAIT of a counter (R340): it is ready when the counter reads 0 then, behind its warp's own
changes of the counter (R339). -/
def arriveWait (s : State) (wk n : Nat) (v : Lane) : Lane :=
  { v with dcwait := some n, dcready := s.counter n = 0 && !changeComing s wk n }

/-- Lanes of the warps of a block that stand at a DCWAIT and are not noted are noted. -/
def noteWaits (s : State) (wk : Nat) : State :=
  let w := s.warp wk
  if !w.live then s
  else s.setWarp wk { w with lanes := w.lanes.zipIdx.map (fun (v, l) =>
    match waitsAt s wk l with
    | some n => arriveWait s wk n v
    | none => v) }

/-- Before a counter changes, the lanes that stand at a DCWAIT of it are noted as they have found it (R339, R340); the
sender's own warp finds the change made. Reading: log entry 61, DEDUCED. -/
def noteArrivals (n sender : Nat) (s : State) : State :=
  { s with warps := s.warps.map (fun ((k, w) : Nat × Warp) =>
      (k, { w with lanes := w.lanes.zipIdx.map (fun (v, l) =>
        if waitsAt s k l = some n then
          (let u := arriveWait s k n v; if sender = k + 1 then { u with dcready := false } else u)
        else v) })) }

/-- A transition to zero reaches the lanes that wait on the counter, of switched-out blocks too (R339).
Reading: log entry 61, DEDUCED. -/
def wakeWaiters (n : Nat) (s : State) : State :=
  { s with
    warps := s.warps.map (fun ((k, w) : Nat × Warp) =>
      (k, { w with lanes := w.lanes.map (fun v => { v with
        dcready := v.dcready || v.dcwait = some n
        ahead := v.ahead.map (fun a => { a with dcready := a.dcready || a.dcwait = some n }) }) }))
    blocks := s.blocks.map (fun ((k, b) : Nat × Block) =>
      (k, { b with
        waits := b.waits.map (fun e => if e.2.2.1 = n then (e.1, e.2.1, n, true) else e)
        aheads := b.aheads.map (fun e => (e.1, e.2.1, e.2.2.map (fun a =>
          { a with dcready := a.dcready || a.dcwait = some n }))) })) }

/-- DCWAIT (R340): lanes arrive, behind their warp's own changes of the counter (R339), or pass with an acquire when the counter reads 0 at their arrival or a
transition to zero has come since. -/
def dcwaitGroup (cx : Ctx) (s : State) : State :=
  let n := counterOf (s.opA cx 0)
  let w := s.warp cx.wk
  let pass := maskOf (fun l => cx.group.getLsbD l &&
    (match (w.lane l).dcwait with | .none => (arriveWait s cx.wk n (w.lane l)).dcready | .some _ => (w.lane l).dcready))
  let stay := cx.group &&& ~~~pass
  let s := s.modWarp cx.wk (fun w => w.modLanes stay (fun v =>
    if v.dcwait.isNone then { v with dcwait := some n, dcready := false } else v))
  if pass = 0 then s else (acquire (scopeOf cx.x) cx.core s).advanceLanes cx pass

def execDcwait (x : Long) (s : State) : Out := .next (issueOf (.dcwait x) false dcwaitGroup s)

/-! ## Barrier objects (R341 to R343) -/

/-- The words of a barrier object: PENDING, BYTES, COUNT, PHASE (R341). -/
def boWord (s : State) (core addr i : Nat) : Word := s.word (storeKey core (addr + 4 * i))

def boPut (core addr : Nat) (pending bytes count phase : Word) (s : State) : State :=
  (((s.localStore core addr 15 pending).localStore core (addr + 4) 15 bytes).localStore core (addr + 8) 15
    count).localStore core (addr + 12) 15 phase

/-- An update of a barrier object (R342): an arrival or not, and bytes. Reading: log entry 61, DEDUCED. -/
def boUpdate (core addr : Nat) (arrive : Bool) (bytes : Word) (s : State) : State :=
  let p := boWord s core addr 0
  let n := boWord s core addr 2
  let ph := boWord s core addr 3
  let p := if arrive && p ≠ 0 then p - 1 else p
  let b := boWord s core addr 1 + bytes
  if p = 0 && b = 0 then boPut core addr n b n (ph + 1) s else boPut core addr p b n ph s

def execBarrierObjectUpdate (s : State) : Out :=
  .next (match s.now with
    | .barrierObjectUpdate c a arrive bytes => boUpdate c a arrive bytes s
    | _ => s)

/-- The checks of R341, and then the instruction on the object's address. -/
def overObject (act : Nat → Ctx → State → State) (cx : Ctx) (s : State) : State :=
  let l := groupLane cx
  let a : Int := s.opA cx l
  match checkLane s cx 1 16 wantAtomic a with
  | .error m => s.raise cx.wk (s.trapOf cx m.cause m.qual cx.act (BitVec.ofInt 64 a))
  | .ok _ => act a.toNat cx s

/-- BOINIT. -/
def boinitGroup (a : Nat) (cx : Ctx) (s : State) : State :=
  let c := BitVec.ofNat 32 (max (s.opB cx 0) 1)
  (boPut cx.core a c 0 c 0 s).advance cx

def execBoinit (x : Long) (s : State) : Out := .next (issueOf (.boinit x) false (overObject boinitGroup) s)

/-- BOARRV: the old phase is its result. -/
def boarrvGroup (a : Nat) (cx : Ctx) (s : State) : State :=
  let old := boWord s cx.core a 3
  ((boUpdate cx.core a true (BitVec.ofNat 32 (s.opB cx 0)) s).putUniform cx 1 old.toNat).advance cx

def execBoarrv (x : Long) (s : State) : Out := .next (issueOf (.boarrv x) false (overObject boarrvGroup) s)

/-- BOWAIT: the group waits while PHASE is the operand. -/
def bowaitGroup (a : Nat) (cx : Ctx) (s : State) : State :=
  if (boWord s cx.core a 3).toNat = s.opB cx 0 then s
  else (acquire (scopeOf cx.x) cx.core s).advance cx

def execBowait (x : Long) (s : State) : Out := .next (issueOf (.bowait x) false (overObject bowaitGroup) s)

/-- BOTEST. -/
def botestGroup (a : Nat) (cx : Ctx) (s : State) : State :=
  let r := (boWord s cx.core a 3).toNat ≠ s.opB cx (groupLane cx)
  let s := if r then acquire (scopeOf cx.x) cx.core s else s
  (s.modWarp cx.wk (fun w => (evalLanes cx).foldl (fun w l => w.putPred cx.x.dN l r) w)).advance cx

def execBotest (x : Long) (s : State) : Out := .next (issueOf (.botest x) false (overObject botestGroup) s)

/-! ## The tick and line clocks (R351, R356) -/

/-- TICKRD (R351): the tick, or the 1588 time in ns. -/
def tickrdLanes (cx : Ctx) (s : State) : State :=
  let v := if cx.x.aN = 0x140 then s.tick.toNat else s.tick.toNat * 5 / 9
  let outs := (evalLanes cx).map (fun l => (l, valOut v))
  (s.landAll (regLandings cx (s.warp cx.wk) outs)).advance cx

def execTickrd (x : Long) (s : State) : Out := .next (issueOf (.tickrd x) false tickrdLanes s)

/-- LCLK (R356): the address is checked as that of a load of 4 bytes; each lane's result lands when the home
answers. -/
def lclkLanes (cx : Ctx) (s : State) : State :=
  let addr : Nat → Int := fun l => addressIn 0 (s.opA cx l) (offsetOf cx.x)
  let accs : List LaneAcc := (lanesOf cx.act).map (fun l => ⟨l, addr l, checkLane s cx 0 4 wantLoad (addr l)⟩)
  let cx0 := { cx with x := { cx.x with mods := 0 } }
  access cx0 s true false 4 none accs (fun ps =>
    let w := s.warp cx.wk
    let s1 := ps.foldl (fun s e =>
      match e.2 with
      | .glob p _ => s.produce cx .lclk 0 (landings cx w cx.x.dN 1 e.1 0 false) 0 (p.pa / 4)
      | .loc _ _ => s) s
    (s1.countRequests cx 0 ps).advance cx)

def execLclk (x : Long) (s : State) : Out := .next (issueOf (.lclk x) false lclkLanes s)

/-- What LCLK reads of a word (R356): the line's clock and the word's code. -/
def lclkValue (s : State) (pw : Nat) : Nat :=
  let v := s.line (pw / 32)
  v.clock.toNat + 2 ^ 16 * (lget 0 v.codes (pw % 32)).toNat

/-- The home answers an LCLK. -/
def answerLclk (k : Nat) (p : Prod) (s : State) : State :=
  let v := BitVec.ofNat 32 (lclkValue s p.arg)
  State.landProd { s with prods := tput s.prods k { p with words := p.words.map (fun x => { x with value := v }) } } k

/-! ## Performance counters (R352 to R354) -/

/-- The cores that are present and not fenced (R354). -/
def presentCores (s : State) : List Nat := (upTo 512).filter (fun c => s.hasCore c && !nmem s.fenced (agentOfCore c))

/-- PCSEL (R353). -/
def pcselGroup (cx : Ctx) (s : State) : State :=
  let k := s.opA cx 0 % 8
  let e := s.opB cx 0 % 256
  if 4 ≤ k && !cx.handler then s.raise cx.wk (s.trapOf cx .privileged 0 cx.group 0)
  else
    let te := s.tick + 4096
    (({ s with selects := s.selects ++ [({ counter := k, event := e, tick := te } : Select)] }).putUniform cx 2 te.toNat).advance cx

def execPcsel (x : Long) (s : State) : Out := .next (issueOf (.pcsel x) false pcselGroup s)

/-- A list of eight with position k set. -/
def setEight (v : Nat) (k : Nat) (l : List Nat) : List Nat :=
  lupd (fun _ => v) (if l.isEmpty then lrep 0 8 else l) k

/-- A selection takes effect on every present core (R353): the oldest one first. -/
def selectEffect (s : State) : State :=
  match s.selects with
  | [] => s
  | x :: rest =>
    if s.tick.toNat < x.tick.toNat then s
    else
      (upTo 512).foldl (fun s c => s.modCore c (fun v =>
        { v with events := setEight x.event x.counter v.events, counts := setEight 0 x.counter v.counts }))
        { s with selects := rest }

def execPerfCounterSelectEffect (s : State) : Out :=
  .next (match s.now with | .perfCounterSelectEffect _ => selectEffect s | _ => s)

/-- PCRD (R354): the registers land after the latch at Tr. -/
def pcrdGroup (cx : Ctx) (s : State) : State :=
  let tr := s.tick + 4096
  (s.produce cx .pcrd 0 (landings cx (s.warp cx.wk) cx.x.dN 8 0 0 false) 0 (s.opA cx 0 % 8) tr.toNat).advance cx

def execPcrd (x : Long) (s : State) : Out := .next (issueOf (.pcrd x) false pcrdGroup s)

/-- A contact sheet (R354): sum, minimum and maximum with the lowest cores that have them, and Tr. -/
def contactSheet (vs : List (Nat × Nat)) (tr : Nat) : List Word :=
  let sum := vs.foldl (fun a e => a + e.2) 0
  let first := vs.headD (0, 0)
  let lo := vs.foldl (fun (m : Nat × Nat) e => if e.2 < m.2 then e else m) first
  let hi := vs.foldl (fun (m : Nat × Nat) e => if m.2 < e.2 then e else m) first
  wordsOf 2 sum ++ [BitVec.ofNat 32 lo.2, BitVec.ofNat 32 (lo.1 * 2 ^ 16 + lo.2 / 2 ^ 32),
    BitVec.ofNat 32 hi.2, BitVec.ofNat 32 (hi.1 * 2 ^ 16 + hi.2 / 2 ^ 32)] ++ wordsOf 2 tr

/-- The counters are latched, and the sheet's registers land (R354). -/
def latchCounters (k : Nat) (s : State) : State :=
  match tfind s.prods k with
  | none => s
  | some p =>
    let due := s.selects.any (fun x => decide (x.tick.toNat ≤ p.arg2))
    if p.kind ≠ .pcrd || decide (s.tick.toNat < p.arg2) || due then s
    else
      let vs := (presentCores s).map (fun c => (c, lget 0 (s.core c).counts p.arg))
      let sheet := contactSheet vs p.arg2
      let xs := (p.words.zip sheet).map (fun e => { e.1 with value := e.2 })
      State.landProd { s with prods := tput s.prods k { p with words := xs } } k

def execPerfCounterLatch (s : State) : Out :=
  .next (match s.now with | .perfCounterLatch k => latchCounters k s | _ => s)

end Sys2Proof.Machine
end

