-- ==== Sys2Proof/Machine/Tender.lean ====
section
/-! DEFINITION. The tender: copies, fabric transfers and atomics on other packages (R268 to R284). -/

namespace Sys2Proof.Machine

/-! ## Rights, completion operands, scoreboard (R258, R268 to R270) -/

/-- Class 3 (R268): only the block's producer warp and the handler issue copies. -/
def copyRights (cx : Ctx) (s : State) : Option Trap :=
  if cx.handler || (s.warp cx.wk).index = (s.blockOf cx).prodw then none
  else some (s.trapOf cx .copyRights 0 cx.act 0)

/-- The fields of a completion operand (R258). -/
def compBar (c : Word) : Bool := c.getLsbD 31
def compDc (c : Word) : Bool := c.getLsbD 30
def compDcNum (c : Word) : Nat := c.toNat / 2 ^ 22 % 2 ^ 8
def compObj (c : Word) : Nat := c.toNat % 2 ^ 22

/-- The check of a completion operand (R258). Reading: log entry 37, DEDUCED. -/
def compFault (cx : Ctx) (s : State) (c : Word) : Option Trap :=
  let a := compObj c
  if compBar c && (a % 16 ≠ 0 || !(s.blockOf cx).inScratch a) then
    some (s.trapOf cx .permission 0 cx.act (BitVec.ofNat 64 a))
  else none

/-- A completion signals a dependence counter of a core's die (R276). -/
def signalDc (core : Nat) (c : Word) (s : State) : State :=
  if compDc c then s.send (.dependenceCounterChange (dieOfCore core * 256 + compDcNum c) (-1) 0) else s

/-- Bytes are subtracted from a completion's barrier object (R276). Reading: log entry 38, DEDUCED. -/
def countBytes (core : Nat) (c : Word) (n : Nat) (s : State) : State :=
  if compBar c then boUpdate core (compObj c) false (-(BitVec.ofNat 32 n)) s else s

/-- Whether a range of a core's store meets a held one. Reading: log entry 60, DEDUCED. -/
def Hold.meets (h : Hold) (core lo hi : Nat) : Bool := h.core = core && decide (lo < h.hi ∧ h.lo < hi)

/-- Ranges entered in a core's scoreboard. Reading: log entry 60, DEDUCED. -/
def State.addHolds (s : State) (core : Nat) (hs : List Hold) : State :=
  s.modCore core (fun c => { c with holds := c.holds ++ hs })

/-- Copies in one queue of a core (R269). -/
def queueLength (s : State) (core : Nat) (store : Bool) : Nat :=
  (s.copies.filter (fun e => e.2.core = core && e.2.store = store)).length

/-- A scratchpad range that a copy names: whether it is a destination, its core, and lo <= a < hi. -/
abbrev Span := Bool × Nat × Nat × Nat

/-- Whether the tender has no room for a copy: its queue, the 32 entries of the scoreboard, or a scratchpad
destination that a matrix operation or a push holds (R269, R270). -/
def noRoom (s : State) (core : Nat) (store : Bool) (spans : List Span) : Bool :=
  decide (16 ≤ queueLength s core store) || decide (32 < (s.core core).holds.length + spans.length) ||
  spans.any (fun (dest, c, lo, hi) => dest && ((s.core core).holds ++ (s.core c).holds).any (fun k =>
    k.kind ≠ 0 && k.meets c lo hi))

/-! ## Ranges (R273) -/

/-- One end of a copy: a local address of a core, or a virtual one. -/
inductive End where
  | loc (core addr : Nat)
  | glob (va : Nat)
  deriving DecidableEq, Repr, Inhabited

/-- The space code of a translated page (State's Move): the bias of a page is its home's record (R176). -/
def spaceOf (p : Phys) : Nat :=
  if regionOf p.pa = .fabric then 2 else if leafHome p.leaf = 3 then 3 else 1

/-- A range's words in ascending order, as (space, byte address), with the pages it uses; or its fault. -/
def endWords (s : State) (cx : Ctx) (n : Need) (e : End) (len : Nat) :
    Except Trap (List (Nat × Nat) × List Phys) :=
  match e with
  | .loc c a => .ok ((upTo (len / 4)).map (fun i => (0, c * 2 ^ 22 + a + 4 * i)), [])
  | .glob va =>
    match pagesOf s cx n va len with
    | .error (m, at_) => .error (pageTrap s cx m at_)
    | .ok ps => .ok (ps.flatMap (fun (p, pa, k) => (upTo (k / 4)).map (fun i => (spaceOf p, pa + 4 * i))),
        ps.map (fun e => e.1))

/-- The fault of a copy's limits with an address (R273). -/
def copyFault (s : State) (cx : Ctx) (a : Nat) : Trap := s.trapOf cx .permission 4 cx.act (BitVec.ofNat 64 a)

/-- A local range must lie in the issuing block's scratchpad; its address has 22 bits (R272, R273). -/
def localBad (b : Block) (a len : Nat) : Bool :=
  2 ^ 22 ≤ a || a < b.spBase || b.spBase + b.spSize < a + len

/-- The limits of R273 for one end. -/
def endLimit (s : State) (cx : Ctx) (e : End) (len : Nat) : Option Trap :=
  match e with
  | .loc _ a => if a % 4 ≠ 0 || localBad (s.blockOf cx) a len then some (copyFault s cx a) else none
  | .glob va => if va % 4 ≠ 0 then some (copyFault s cx va) else none

/-- A destination word of a copy of whole words. -/
def wordMove (d c : Nat × Nat) : Move :=
  ⟨d.1, d.2, (upTo 4).map (fun i => (i, c.1, c.2 + i))⟩

/-- What a checked copy consists of: its moves, its pages, and its scratchpad ranges. -/
structure Plan where
  moves : List Move := []
  pages : List Phys := []
  spans : List Span := []
  first : Nat := 0
  virt  : Bool := false
  deriving DecidableEq, Repr, Inhabited

/-- Scratchpad ranges of an end, and those of the two ends of a copy. -/
def endRange (dest : Bool) (e : End) (len : Nat) : List Span :=
  match e with
  | .loc c a => [(dest, c, a, a + len)]
  | .glob _ => []
def endRanges (dst src : End) (len : Nat) : List Span := endRange true dst len ++ endRange false src len

/-- COPY's checks in order and its plan (R273). Reading: log entry 37, DEDUCED. -/
def planRange (s : State) (cx : Ctx) (dst src : End) (len : Nat) : Except Trap Plan :=
  if len % 4 ≠ 0 || len = 0 then .error (copyFault s cx 0)
  else
    match endLimit s cx dst len, endLimit s cx src len with
    | some t, _ => .error t
    | none, some t => .error t
    | none, none =>
      match endWords s cx needStore dst len with
      | .error t => .error t
      | .ok (dw, dp) =>
        match endWords (dp.foldl State.takePin s) cx needLoad src len with
        | .error t => .error t
        | .ok (sw, sp) => .ok {
              moves := (dw.zip sw).map (fun e => wordMove e.1 e.2)
              pages := dp ++ sp
              spans := endRanges dst src len
              first := (match dst with | .loc _ a => a | .glob va => va)
              virt := (match dst with | .loc _ _ => false | .glob _ => true) }

/-! ## Acceptance (R269 to R271, R214) -/

/-- The tender registers a destination word of an operation (R214): the old value is wanted where the
operation writes only a part of the word, or reads it as a source too. A word that an earlier operation of the unit
has is registered again when that one's write-back is acknowledged. -/
def engineClaim (agent id : Nat) (srcs : List Nat) (s : State) (m : Move) : State :=
  if m.dstSp ≠ 1 then s
  else
    let pw := m.dst / 4
    let e := s.engine agent pw
    let want := m.srcs.length < 4 || srcs.contains pw
    let s := if e.used then s.setEngine agent pw { e with next := e.next ++ [(id, want)] }
      else engineReg agent pw id want [] s
    match s.operationCore id with
    | some c => s.count c evRegs 1
    | none => s

/-- An operation of an engine still has a word, or waits for one (R214). -/
def State.engineOpen (s : State) (id : Nat) : Bool :=
  s.engines.any (fun e => (e.2.used && e.2.copy = id) || e.2.next.any (fun n => n.1 = id))

/-- An engine's word is an operation's to write now. -/
def EngineWord.turn (e : EngineWord) (id : Nat) : Bool := e.used && e.copy = id && !e.written

/-- Physical words that a list of moves reads under registration. -/
def sourceWords (ms : List Move) : List Nat :=
  (ms.flatMap (fun m => (m.srcs.filter (fun x => x.2.1 = 1)).map (fun x => x.2.2 / 4))).dedup

/-- Port of a fabric transfer (R280). -/
def portOf (s : State) (ms : List Move) : Option Nat :=
  match ms.find? (fun m => m.dstSp = 2 || m.srcs.any (fun x => x.2.1 = 2)) with
  | none => none
  | some m =>
    let pa := if m.dstSp = 2 then m.dst else
      match m.srcs.find? (fun x => x.2.1 = 2) with | some x => x.2.2 | none => 0
    some (bitsOf (windowOf s pa) 52 4)

/-- Destination words in ascending order. -/
def insertMove (m : Move) : List Move → List Move
  | [] => [m]
  | x :: xs => if m.dst ≤ x.dst then m :: x :: xs else x :: insertMove m xs

/-- A copy is accepted (R269, R270, R214). -/
def accept (cx : Ctx) (store timed : Bool) (at_ : Option DWord) (comp : Word) (p : Plan) (s : State) : State :=
  let id := s.fresh
  let c : Copy := {
    mode := if at_.isSome then .held else .ready
    core := cx.core, block := s.blockKey cx, store := store, moves := p.moves, comp := comp
    tick := at_.getD 0, timed := timed, port := portOf s p.moves, first := p.first, virt := p.virt }
  let s := { s with copies := tput s.copies id c, fresh := s.fresh + 1 }
  let s := s.addHolds cx.core (p.spans.map (fun (dest, k, lo, hi) => ⟨k, lo, hi, dest, 0, id⟩))
  let s := p.pages.foldl State.takePin s
  let srcs := sourceWords p.moves
  let s := p.moves.foldl (engineClaim (tenderOf cx.core) id srcs) s
  s.advance cx

/-- The completion and the release tick of field C (R272). -/
def copyComp (cx : Ctx) (s : State) : Word := BitVec.ofNat 32 (s.opC cx 0)
def copyTick (cx : Ctx) (s : State) (at_ : Bool) : Option DWord :=
  if at_ then some (BitVec.ofNat 64 (s.opC cx 0 / 2 ^ 64)) else none

/-- A plan is checked for its completion operand and accepted, or its fault is taken.
Reading: log entry 37, DEDUCED. -/
def acceptPlan (cx : Ctx) (store timed at_ : Bool) (plan : Except Trap Plan) (s : State) : State :=
  match compFault cx s (copyComp cx s) with
  | some t => s.raise cx.wk t
  | none =>
    match plan with
    | .error t => s.raise cx.wk t
    | .ok p => accept cx store timed (copyTick cx s at_) (copyComp cx s) p s

/-- An end of a copy: a global pair or a local address of the issuing core. -/
def endOf (cx : Ctx) (glob : Bool) (v : Nat) : End := if glob then .glob v else .loc cx.core v

/-- A copy-class instruction: its lane waits while the unit has no room for it (R269, R288); the rights check is
class 3 (R268). Reading: log entry 37, DEDUCED. -/
def copyIssue (i : Instr) (full : Ctx → State → Bool) (act : Ctx → State → State) (s : State) : State :=
  match i.info with
  | none => s
  | some f =>
    let cx := Ctx.of f.x f.shape s
    if cx.act ≠ 0 && full cx s then s else issueWith f.x f.shape false i.isFget [] [copyRights] act s

/-- The two ends of a COPY (R273): direction 0 global to local, 1 local to global, 2 global to global. -/
def copyEnds (cx : Ctx) (s : State) : End × End :=
  (endOf cx (cx.x.tN ≠ 0) (s.opD cx 0), endOf cx (cx.x.tN ≠ 1) (s.opA cx 0))

/-- The tender has no room for a COPY. -/
def copyFull (cx : Ctx) (s : State) : Bool :=
  noRoom s cx.core (cx.x.tN ≠ 0) (endRanges (copyEnds cx s).1 (copyEnds cx s).2 (s.opB cx 0))

/-- COPY (R273). -/
def copyGroup (cx : Ctx) (s : State) : State :=
  acceptPlan cx (cx.x.tN ≠ 0) false (cx.x.mN / 8 = 1)
    (planRange s cx (copyEnds cx s).1 (copyEnds cx s).2 (s.opB cx 0)) s

def execCopy (x : Long) (s : State) : Out := .next (copyIssue (.copy x) copyFull copyGroup s)

/-! ## COPYT (R274) -/

/-- p, q and h of a bank-permutation mode (R145). -/
def modePqh (mode : Nat) : Nat × Nat × Nat :=
  match mode with
  | 1 => (1, 7, 0)
  | 2 => (2, 7, 0)
  | 3 => (3, 7, 0)
  | 4 => (4, 7, 0)
  | 5 => (5, 7, 0)
  | 6 => (1, 4, 0)
  | 7 => (2, 4, 0)
  | 8 => (3, 4, 0)
  | 9 => (3, 4, 1)
  | 10 => (3, 4, 2)
  | 11 => (2, 5, 0)
  | 12 => (1, 6, 0)
  | 13 => (5, 7, 1)
  | 14 => (5, 7, 2)
  | 15 => (5, 7, 3)
  | _ => (0, 0, 0)

/-- o' of a byte offset in row y (R145). -/
def permute (mode y o : Nat) : Nat :=
  let (p, q, h) := modePqh mode
  o ^^^ (y / 2 ^ h % 2 ^ p * 2 ^ q)

/-- A tensor shape record (R143). -/
structure Record where
  remote : Bool
  core   : Nat
  addr   : Nat
  s0     : Nat
  s1     : Nat
  s2     : Nat
  mode   : Nat
  /-- its reserved bits are zero, and CORE is zero when REMOTE is 0 -/
  clean  : Bool
  deriving DecidableEq, Repr, Inhabited

def recordOf (w0 w1 w2 : Nat) : Record where
  remote := w0.testBit 26
  core := w0 / 2 ^ 22 % 16
  addr := w0 % 2 ^ 22
  s0 := w1 % 2 ^ 16
  s1 := w1 / 2 ^ 16 % 2 ^ 16
  s2 := w2 % 2 ^ 16
  mode := w2 / 2 ^ 16 % 16
  clean := w0 / 2 ^ 27 = 0 && w2 / 2 ^ 20 = 0 && (w0.testBit 26 || w0 / 2 ^ 22 % 16 = 0)

/-- The core whose scratchpad a record names (R143, R173). -/
def Record.home (r : Record) (core : Nat) : Nat := if r.remote then clusterOfCore core * 16 + r.core else core

/-- Local byte address of element (x, y, z) of width w bits. -/
def Record.element (r : Record) (w x y z : Nat) : Nat :=
  r.addr + permute r.mode y ((x * r.s0 + y * r.s1 + z * r.s2) * w / 8)

/-- The elements of a tile (R274), x fastest. -/
def tileElements (x y z : Nat) : List (Nat × Nat × Nat) :=
  (upTo z).flatMap (fun k => (upTo y).flatMap (fun j => (upTo x).map (fun i => (i, j, k))))

/-- Bytes written are gathered into destination words. -/
def addByte (ms : List ((Nat × Nat) × List (Nat × Nat × Nat))) (d c : Nat × Nat) :
    List ((Nat × Nat) × List (Nat × Nat × Nat)) :=
  let key := (d.1, d.2 / 4 * 4)
  match ms with
  | [] => [(key, [(d.2 % 4, c.1, c.2)])]
  | (k, bs) :: rest =>
    if k = key then (k, bs.filter (fun b => b.1 ≠ d.2 % 4) ++ [(d.2 % 4, c.1, c.2)]) :: rest
    else (k, bs) :: addByte rest d c

/-- The global end of an element: its translated place. -/
def elementGlobal (s : State) (cx : Ctx) (n : Need) (va : Nat) : Except Trap (Phys × (Nat × Nat)) :=
  match translate s cx.core (s.blockOf cx).ctx cx.handler n va with
  | .error m => .error (pageTrap s cx m va)
  | .ok p => .ok (p, (spaceOf p, p.pa))

/-- The plan of a tile copy from its elements' two addresses (local, global), in order. -/
def planElements (s : State) (cx : Ctx) (toLocal : Bool) (core bytes : Nat) :
    List (Nat × Nat) → List ((Nat × Nat) × List (Nat × Nat × Nat)) → List Phys →
      Except Trap (List ((Nat × Nat) × List (Nat × Nat × Nat)) × List Phys)
  | [], ms, ps => .ok (ms, ps)
  | (la, va) :: rest, ms, ps =>
    match elementGlobal s cx (if toLocal then needLoad else needStore) va with
    | .error t => .error t
    | .ok (p, (sp, pa)) =>
      let l := core * 2 ^ 22 + la
      let ms := (upTo bytes).foldl (fun ms i =>
        if toLocal then addByte ms (0, l + i) (sp, pa + i) else addByte ms (sp, pa + i) (0, l + i)) ms
      planElements (s.takePin p) cx toLocal core bytes rest ms
        (if ps.any (fun q => q.base = p.base && q.size = p.size) then ps else ps ++ [p])

/-- Whether a range of a core lies in the scratchpad of a block of the gang, or of the block itself. -/
def gangRange (s : State) (cx : Ctx) (remote : Bool) (core lo hi : Nat) : Bool :=
  if remote then
    (s.gangOf (s.blockKey cx)).any (fun e =>
      e.2.core = core && decide (e.2.spBase ≤ lo ∧ hi ≤ e.2.spBase + e.2.spSize))
  else
    let b := s.blockOf cx
    decide (b.spBase ≤ lo ∧ hi ≤ b.spBase + b.spSize)

/-- The operands of a COPYT: the local record, the global end's registers, the extents (R274). -/
def tileOperands (cx : Ctx) (s : State) : Nat × Nat × Nat :=
  let toLocal := cx.x.tN = 0
  let d := s.opD cx 0
  let a := s.opA cx 0
  (if toLocal then d else a, if toLocal then a else d, s.opB cx 0)

/-- The elements of a tile, its width code, and the record of its local end. -/
def tileShape (lrec ext : Nat) : List (Nat × Nat × Nat) × Nat × Record :=
  (tileElements (ext % 2 ^ 16) (ext / 2 ^ 16 % 2 ^ 16) (ext / 2 ^ 32 % 2 ^ 16), ext / 2 ^ 48 % 8,
    recordOf (lrec % 2 ^ 32) (lrec / 2 ^ 32 % 2 ^ 32) (lrec / 2 ^ 64 % 2 ^ 32))

/-- Local addresses of a tile's elements. -/
def tileLocals (lrec ext : Nat) : List Nat :=
  let (es, wc, r) := tileShape lrec ext
  es.map (fun (x, y, z) => r.element (8 * 2 ^ wc) x y z)

/-- A tile's local end from its lowest byte to its highest (R274). -/
def tileSpan (core lrec ext : Nat) : Nat × Nat × Nat :=
  let (_, wc, r) := tileShape lrec ext
  let las := tileLocals lrec ext
  (r.home core, las.foldl min (las.headD 0), las.foldl max 0 + 2 ^ wc)

/-- COPYT's checks in order and its plan (R274). -/
def planTile (cx : Ctx) (s : State) (lrec grec ext : Nat) (toLocal : Bool) : Except Trap Plan :=
  let (es, wc, r) := tileShape lrec ext
  let base := grec % 2 ^ 64
  let g0 := grec / 2 ^ 64 % 2 ^ 16
  let g1 := grec / 2 ^ 80 % 2 ^ 16
  let g2 := grec / 2 ^ 96 % 2 ^ 16
  let w := 8 * 2 ^ wc
  if es.isEmpty || 4 ≤ wc || ext / 2 ^ 51 ≠ 0 || !r.clean || grec / 2 ^ 112 ≠ 0 then
    .error (copyFault s cx 0)
  else
    let las := tileLocals lrec ext
    let vas := es.map (fun (x, y, z) => wrapInt 64 ((base + (x * g0 + y * g1 + z * g2) * w / 8 : Nat) : Int))
    match las.find? (fun a => a % (w / 8) ≠ 0), vas.find? (fun a => a % (w / 8) ≠ 0) with
    | some a, _ => .error (copyFault s cx a)
    | none, some a => .error (copyFault s cx a)
    | none, none =>
      let (core, lo, hi) := tileSpan cx.core lrec ext
      if !gangRange s cx r.remote core lo hi then .error (copyFault s cx lo)
      else
        match planElements s cx toLocal core (w / 8) (las.zip vas) [] [] with
        | .error t => .error t
        | .ok (ms, ps) =>
          let moves := ms.map (fun e => (⟨e.1.1, e.1.2, e.2⟩ : Move))
          .ok { moves := moves.foldl (fun acc m => insertMove m acc) [], pages := ps
                spans := [(toLocal, core, lo, hi)]
                first := if toLocal then lo else base, virt := !toLocal }

/-- The tender has no room for a COPYT. -/
def copytFull (cx : Ctx) (s : State) : Bool :=
  let toLocal := cx.x.tN = 0
  let (lrec, _, ext) := tileOperands cx s
  let (core, lo, hi) := tileSpan cx.core lrec ext
  noRoom s cx.core (!toLocal) [(toLocal, core, lo, hi)]

/-- COPYT. -/
def copytGroup (cx : Ctx) (s : State) : State :=
  let toLocal := cx.x.tN = 0
  let (lrec, grec, ext) := tileOperands cx s
  acceptPlan cx (!toLocal) false (cx.x.mN / 8 = 1) (planTile cx s lrec grec ext toLocal) s

def execCopyt (x : Long) (s : State) : Out := .next (copyIssue (.copyt x) copytFull copytGroup s)

/-! ## COPYL (R275) -/

/-- Words of a core's store at a local address. -/
def localWords (s : State) (core a n : Nat) : List Word := (upTo n).map (fun i => s.word (storeKey core (a + 4 * i)))

/-- The ends and the length of the entry of the list at a local address, and its reserved word (R275). -/
def listEntry (cx : Ctx) (s : State) (dir at_ : Nat) : End × End × Nat × Nat :=
  let ws := localWords s cx.core at_ 6
  (endOf cx (dir ≠ 0) (ofWords (ws.take 2)), endOf cx (dir ≠ 1) (ofWords ((ws.drop 2).take 2)),
    ofWords ((ws.drop 4).take 1), ofWords (ws.drop 5))

/-- One entry of the list, checked as a COPY (R275); TRAPA of its fault is the entry's address. -/
def planEntry (cx : Ctx) (s : State) (dir at_ : Nat) : Except Trap Plan :=
  let (dst, src, len, kept) := listEntry cx s dir at_
  if kept ≠ 0 then .error (copyFault s cx at_)
  else
    match planRange s cx dst src len with
    | .error t => .error { t with addr := BitVec.ofNat 64 at_ }
    | .ok p => .ok p

/-- The entries in order; the first failing one decides. -/
def planEntries (cx : Ctx) (s : State) (dir at_ : Nat) : Nat → Plan → Except Trap Plan
  | 0, p => .ok p
  | n + 1, p =>
    match planEntry cx s dir at_ with
    | .error t => .error t
    | .ok q =>
      planEntries cx s dir (at_ + 24) n
        { moves := p.moves ++ q.moves, pages := p.pages ++ q.pages, spans := p.spans ++ q.spans
          first := if p.moves.isEmpty then q.first else p.first
          virt := if p.moves.isEmpty then q.virt else p.virt }

def planList (cx : Ctx) (s : State) : Except Trap Plan :=
  let a := s.opD cx 0
  let n := s.opA cx 0
  if a % 8 ≠ 0 then .error (copyFault s cx a)
  else if n = 0 || 16 < n then
    (if localBad (s.blockOf cx) a 0 then .error (copyFault s cx a) else .error (copyFault s cx 0))
  else if localBad (s.blockOf cx) a (24 * n) then .error (copyFault s cx a)
  else planEntries cx s cx.x.tN a n {}

/-- The tender has no room for a COPYL: a list that fails its own check names no range. -/
def copylFull (cx : Ctx) (s : State) : Bool :=
  let a := s.opD cx 0
  let n := s.opA cx 0
  let named := a % 8 = 0 && decide (n ≤ 16) && !localBad (s.blockOf cx) a (24 * n)
  noRoom s cx.core (cx.x.tN ≠ 0) (if named then (upTo n).flatMap (fun i =>
    let (dst, src, len, _) := listEntry cx s cx.x.tN (a + 24 * i)
    endRanges dst src len) else [])

/-- COPYL. -/
def copylGroup (cx : Ctx) (s : State) : State :=
  acceptPlan cx (cx.x.tN ≠ 0) false (cx.x.mN / 8 = 1) (planList cx s) s

def execCopyl (x : Long) (s : State) : Out := .next (copyIssue (.copyl x) copylFull copylGroup s)

/-! ## FPUT and FGET (R280) -/

/-- The fault of an end that must, or must not, lie in a window (R280). -/
def fabricFault (s : State) (cx : Ctx) (va : Nat) : Trap := s.trapOf cx .permission 5 cx.act (BitVec.ofNat 64 va)

/-- Every page of a global end is in a window, or none is. -/
def fabricPages (s : State) (cx : Ctx) (n : Need) (remote : Bool) (va len : Nat) : Option Trap :=
  match pagesOf s cx n va len with
  | .error _ => none
  | .ok ps =>
    match ps.find? (fun e => (regionOf e.1.pa = .fabric) ≠ remote) with
    | some _ => some (fabricFault s cx va)
    | none => none

/-- The addresses of the two ends of a transfer (R272, R280): FGET's local end is its destination. -/
def fabricAddrs (cx : Ctx) (s : State) (get : Bool) : Nat × Nat :=
  (s.operand cx (cx.sh.dst.oty cx.sh cx.x get) (cx.sh.dst.reads cx.sh cx.x get) cx.x.dN 0,
    s.operand cx (cx.sh.a.oty cx.sh cx.x get) (cx.sh.a.reads cx.sh cx.x get) cx.x.aN 0)

/-- The two ends of a transfer. -/
def fabricEnds (cx : Ctx) (s : State) (get : Bool) : End × End :=
  let localGlob := cx.x.tN % 2 = 1
  (endOf cx (!get || localGlob) (fabricAddrs cx s get).1, endOf cx (get || localGlob) (fabricAddrs cx s get).2)

/-- The tender has no room for a transfer. -/
def fabricFull (get : Bool) (cx : Ctx) (s : State) : Bool :=
  noRoom s cx.core (!get) (endRanges (fabricEnds cx s get).1 (fabricEnds cx s get).2 (s.opB cx 0))

/-- The plan of a transfer: COPY's checks, and then those of R280. -/
def planFabric (cx : Ctx) (s : State) (get : Bool) : Except Trap Plan :=
  let localGlob := cx.x.tN % 2 = 1
  let (d, a) := fabricAddrs cx s get
  let len := s.opB cx 0
  let (dst, src) := fabricEnds cx s get
  match planRange s cx dst src len with
  | .error t => .error t
  | .ok p =>
    let remote := fabricPages s cx (if get then needLoad else needStore) true (if get then a else d) len
    let near := if localGlob then
        fabricPages s cx (if get then needStore else needLoad) false (if get then d else a) len
      else none
    match remote, near with
    | some t, _ => .error t
    | none, some t => .error t
    | none, none => .ok p

def fabricGroup (get : Bool) (cx : Ctx) (s : State) : State :=
  acceptPlan cx (!get) (cx.x.tN / 4 = 1) (cx.x.tN / 2 % 2 = 1) (planFabric cx s get) s

def execFput (x : Long) (s : State) : Out := .next (copyIssue (.fput x) (fabricFull false) (fabricGroup false) s)
def execFget (x : Long) (s : State) : Out := .next (copyIssue (.fget x) (fabricFull true) (fabricGroup true) s)

/-! ## The events of copies (R271, R276 to R281) -/

/-- Copies of a queue that start before a copy: released ones first, then in acceptance order (R271, R279). -/
def startsBefore (s : State) (id : Nat) (c : Copy) : Bool :=
  s.copies.any (fun e => e.2.core = c.core && e.2.store = c.store && e.2.mode = .ready && e.1 ≠ id &&
    ((e.2.released && !c.released) || (e.2.released = c.released && decide (e.1 < id))))

/-- COPY_START: the core's Regs and Wbs are acknowledged (R271). -/
def copyStart (id : Nat) (s : State) : State :=
  match tfind s.copies id with
  | none => s
  | some c =>
    if c.mode = .ready && !s.unacked c.core && !startsBefore s id c then
      { s with copies := tput s.copies id { c with mode := .running } }
    else s

def execCopyStart (s : State) : Out :=
  .next (match s.now with | .copyStart id => copyStart id s | _ => s)

/-- COPY_AT_RELEASE: the tick is there (R279). -/
def copyRelease (id : Nat) (s : State) : State :=
  match tfind s.copies id with
  | none => s
  | some c =>
    if c.mode = .held && decide (c.tick.toNat ≤ s.tick.toNat) then
      { s with copies := tput s.copies id { c with mode := .ready, released := true } }
    else s

def execCopyAtRelease (s : State) : Out :=
  .next (match s.now with | .copyAtRelease id => copyRelease id s | _ => s)

/-- What an engine operation reads of a source word: its value and whether it is bad; none while it cannot be
read yet. -/
inductive Source where
  | wait
  | value (v : Word) (bad : Bool)
  deriving DecidableEq, Repr, Inhabited

def sourceWord (s : State) (agent id sp a : Nat) (far : Word) : Source :=
  match sp with
  | 0 =>
    let k := storeKey (a / 2 ^ 22) (a % 2 ^ 22)
    .value (s.word k) (s.isPoison k)
  | 1 =>
    let pw := a / 4
    let e := s.engine agent pw
    if s.owner pw = .agent agent && e.turn id then
      (if e.filled then .value e.value e.poison else .wait)
    else if !s.quiet pw then .wait
    else
      match s.latest pw with
      | some (v, bad) => .value v bad
      | none => .value 0 true
  | 2 => .value far (!windowUp s a)
  | _ => .value (s.homeCopy (a / 4)) (nmem s.memPoison (a / 4))

/-- The sources of a move gathered: its bytes as a word, the mask of the bytes, and whether one is bad. A word behind a
window is what its package holds (log entry 7). -/
def gatherMove (s : State) (agent id : Nat) : List (Nat × Nat × Nat) → Option (Nat × Nat × Bool)
  | [] => some (0, 0, false)
  | (i, sp, a) :: rest =>
    match sourceWord s agent id sp (a / 4 * 4) (s.farWord (a / 4 * 4)), gatherMove s agent id rest with
    | .value v bad, some (w, m, b) => some (w + byteOf v.toNat (a % 4) * 2 ^ (8 * i), m + 2 ^ i, bad || b)
    | _, _ => none

/-- An engine writes its word, and the Wb goes home after the Ack of its Reg (R214); whoever waited for it is
answered. -/
def engineWrite (agent id pw : Nat) (mask : BitVec 4) (v : Word) (bad : Bool) (s : State) : State :=
  let e := s.engine agent pw
  if !e.turn id then s
  else
    let mask := e.mask ||| mask
    let x := mergeBytes mask e.value v
    let p := bad || (e.poison && mask ≠ 15)
    let s := s.setEngine agent pw { e with
      written := true, sent := e.acked, mask := mask, value := x, poison := p, owed := [] }
    answerOwed e.owed ((if e.acked then s.send (.wb pw agent x p) else s).wrote pw)

/-- A word leaves for the package behind its window, whose assist registers it and acknowledges it (R280); poison goes
with it (R277). -/
def farWrite (agent id pw : Nat) (mask : BitVec 4) (v : Word) (bad : Bool) (s : State) : State :=
  let s := s.setEngine agent pw { used := true, acked := true, filled := true, written := true, sent := true, copy := id }
  (s.sendOut 6 (4 * pw) (v.setWidth 64) mask.toNat (if bad then 1 else 0)).send (.wbAck pw agent)

/-- Whether a destination word cannot be written yet: the engine has an earlier operation's word there, or the old
value of a word written in part has still to come. -/
def destBusy (s : State) (agent id : Nat) (m : Move) : Bool :=
  let e := s.engine agent (m.dst / 4)
  match m.dstSp with
  | 1 => !e.turn id || (m.srcs.length < 4 && !e.filled)
  | 2 => e.used
  | _ => false

/-- One destination word of a running copy is written; `k` chooses it (R271). A copy's bytes count when they are
in the scratchpad, or when the word's write-back is acknowledged (R276). -/
def moveWord (id k : Nat) (s : State) : State :=
  match tfind s.copies id with
  | none => s
  | some c =>
    let n := c.moves.length
    match c.moves[k % max 1 n]? with
    | none => s
    | some m =>
      let agent := tenderOf c.core
      let pw := m.dst / 4
      match gatherMove s agent id m.srcs with
      | none => s
      | some (v, mask, bad) =>
        if c.mode ≠ .running || destBusy s agent id m then s
        else
          let bytes := m.srcs.length
          let mk := BitVec.ofNat 4 mask
          let w := BitVec.ofNat 32 v
          let bad := bad || (m.dstSp = 2 && !windowUp s m.dst)
          let s := if bad && !c.bad then
              let b := s.block c.block
              s.logError 6 0 agent c.first c.virt b.index b.ctx 0
            else s
          let s := { s with copies := tput s.copies id { c with
            moves := c.moves.eraseIdx (k % max 1 n), bad := c.bad || bad, sending := c.timed } }
          let s := s.count c.core 0x0C bytes
          match m.dstSp with
          | 0 =>
            let core := m.dst / 2 ^ 22
            let s := s.localStore core (m.dst % 2 ^ 22) mk w
            let s := if bad then { s with poison := nput s.poison (storeKey core (m.dst % 2 ^ 22)) } else s
            countBytes c.core c.comp bytes s
          | 1 => engineWrite agent id pw mk w bad s
          | 2 => farWrite agent id pw mk w bad s
          | _ => countBytes c.core c.comp 4 ((s.wrote pw).homePut pw (mergeBytes mk (s.homeCopy pw) w) bad)

/-- A word of a copy that needs no port is written. Reading: log entry 7, DESIGN CHOICE. -/
def engineStep (id : Nat) (s : State) : State :=
  match tfind s.copies id with
  | none => s
  | some c =>
    if c.mode = .running && c.port.isNone && !c.moves.isEmpty then
      let (f, s) := s.takeFree
      moveWord id f.toNat s
    else s

/-- An engine's Wb, or a word of another package, is acknowledged (R210, R276, R280): the bytes of a copy count
then. -/
def wbAckArrival (pw agent : Nat) (s : State) : State :=
  let e := s.engine agent pw
  let s := nearWbAck pw agent s
  if agentKind agent = 1 && e.used then
    match tfind s.copies e.copy with
    | some c => countBytes c.core c.comp 4 s
    | none => s
  else s

def execWbAck (s : State) : Out :=
  .next (match s.now with | .wbAck pw a => wbAckArrival pw a s | _ => s)

/-- COPY_COMPLETION: the copy signals and retires (R276). -/
def copyCompletion (id : Nat) (s : State) : State :=
  match tfind s.copies id with
  | none => s
  | some c =>
    if c.mode = .running && c.moves.isEmpty && !s.engineOpen id then
      let s := signalDc c.core c.comp s
      let s := s.modCore c.core (fun v => { v with holds := v.holds.filter (fun h => !(h.kind = 0 && h.own = id)) })
      { s with copies := tdel s.copies id }
    else s

def execCopyCompletion (s : State) : Out :=
  .next (match s.now with | .copyCompletion id => copyCompletion id s | _ => s)

/-! ## FATOM and the atomic assist (R283, R284) -/

def execFatom (x : Long) (s : State) : Out := .next (issueOf (.fatom x) false (atomicLanes .fatom) s)

/-- Whether a lane of an access awaits the assist of a window. -/
def awaitsAssist (t : Txn) (l : Nat) : Bool :=
  t.todo.contains l && regionOf (t.addr l) = .fabric &&
  !t.todo.any (fun j => decide (j < l) && t.addr j = t.addr l)

/-- ASSIST_ATOMIC: the target has granted the lock, and the assist reads, computes, writes back and unlocks; the old
value is the target's (log entry 7). The lane fails where the word is Lost or in error there (R61), and a target may
refuse at run time: the lane's destination is then poisoned, with an error-log record (R284). -/
def assistAtomic (id l : Nat) (s : State) : State :=
  match tfind s.txns id with
  | none => s
  | some t =>
    if !awaitsAssist t l then s
    else
      let (old, s) := s.farOld (memBytes t.x.tN)
      let (r, s) := s.takeFree
      let b := s.block (s.warp t.warp).block
      let (cmp, val) := match t.args.find? (fun e => e.1 = l) with | some e => e.2 | none => (0, 0)
      let unlock := fun (s : State) => s.sendOut 4 (t.addr l / 128 * 128) 0 0
      let keep := fun (t : Txn) (s : State) => { s with txns := tput s.txns id t }
      match r.toNat % 4 with
      | 1 =>
        let s := s.logError 6 0 (assistOf (bitsOf (windowOf s (t.addr l)) 52 4 / 8)) (t.addr l) false b.index b.ctx
          (s.warp t.warp).index
        let t := t.performed l old
        keep { t with refused := t.refused ++ [l] } s
      | 2 => keep (t.failed l false 0 0) (unlock s)
      | 3 => keep (t.failed l true r s.tick) (unlock s)
      | _ => keep (t.performed l old) (s.assistOn (t.addr l) (memBytes t.x.tN) (atomicStep t.kind t.x cmp val old))

def execAssistAtomic (s : State) : Out :=
  .next (match s.now with | .assistAtomic id l => assistAtomic id l s | _ => s)

/-- LOCK_RESEND: no grant within 1 microsecond (R284). -/
def lockResend (id l : Nat) (s : State) : State :=
  match tfind s.txns id with
  | none => s
  | some t =>
    if awaitsAssist t l && decide (t.tick.toNat + 1800 ≤ s.tick.toNat) then
      { s.sendOut 3 (t.addr l / 128 * 128) 0 0 with txns := tput s.txns id { t with tick := s.tick } }
    else s

def execLockResend (s : State) : Out :=
  .next (match s.now with | .lockResend id l => lockResend id l s | _ => s)

/-- An answer to another node's request; kinds: 16 data, 17 done, 18 error, 19 lock granted. -/
def State.answer (s : State) (node kind addr : Nat) (data : DWord) (tag : Nat) : State :=
  { s with fabricOut := s.fabricOut ++ [OutMsg.mk node kind addr data tag 0] }

/-- Lock requests that can be granted, in arrival order (R284). -/
def grantLocks : List (Nat × Nat) → State → State
  | [], s => s
  | (node, line) :: rest, s =>
    if s.lineLocked line then grantLocks rest { s with lockQueue := s.lockQueue ++ [(node, line)] }
    else
      grantLocks rest ({ s with locks := s.locks ++ [LineLock.mk node line s.tick] }.answer node 19 (128 * line) 0 0)

/-- Queued requests are looked at again. -/
def serveLocks (s : State) : State := grantLocks s.lockQueue { s with lockQueue := [] }

/-- Locks older than 20 microseconds lapse (R284). Reading: log entry 41, DEDUCED. -/
def lapseLocks (s : State) : State :=
  if s.locks.any (fun k => decide (k.since.toNat + 36000 ≤ s.tick.toNat)) then
    serveLocks { s with locks := s.locks.filter (fun k => !decide (k.since.toNat + 36000 ≤ s.tick.toNat)) }
  else s

end Sys2Proof.Machine
end

