-- ==== Sys2Proof/Machine/Collective.lean ====
section
/-! DEFINITION. Collectives (R285 to R289). What the other members send is their data: an open value (log
entry 7). -/

namespace Sys2Proof.Machine

/-! ## The fabric group table (R285) -/

/-- A defined fabric group: rank, and the members' nodes in rank order. -/
structure Group where
  rank  : Nat
  nodes : List Nat
  deriving DecidableEq, Repr, Inhabited

/-- The group's entry, read by the device in context 0; none when it is undefined or cannot be read. -/
def groupOf (s : State) (g : Nat) : Option Group :=
  let base := bitsOf (s.sysreg 0x168) 12 45 * 2 ^ 12 + 16 * g
  match readWords s deviceCore 0 4 base with
  | some [w0, _, lo, hi] =>
    let count := w0.toNat % 2 ^ 16
    let list := (dwordOf lo hi).toNat
    if count = 0 || 4096 < count then none
    else
      match readWords s deviceCore 0 ((list % 4 + 2 * count + 3) / 4) (list / 4 * 4) with
      | some ws =>
        some ⟨w0.toNat / 2 ^ 16, (upTo count).map (fun i =>
          let o := list % 4 + 2 * i
          ofWords ws / 2 ^ (8 * o) % 2 ^ 16)⟩
      | none => none
  | _ => none

/-- The address of the table's part that the device cannot read (R309). -/
def groupMiss (s : State) (g : Nat) : Option Nat :=
  let base := bitsOf (s.sysreg 0x168) 12 45 * 2 ^ 12 + 16 * g
  match readWords s deviceCore 0 4 base with
  | some [w0, _, lo, hi] =>
    let count := w0.toNat % 2 ^ 16
    let list := (dwordOf lo hi).toNat
    if count = 0 || 4096 < count then none
    else if (readWords s deviceCore 0 ((list % 4 + 2 * count + 3) / 4) (list / 4 * 4)).isSome then none
    else some list
  | _ => some base

/-- The table's entry and its list of nodes can be read as they will be. -/
def groupSteady (s : State) (g : Nat) : Bool :=
  let base := bitsOf (s.sysreg 0x168) 12 45 * 2 ^ 12 + 16 * g
  steady s deviceCore 0 base 4 &&
  (match readWords s deviceCore 0 4 base with
    | some [w0, _, lo, hi] =>
      let list := (dwordOf lo hi).toNat
      let count := w0.toNat % 2 ^ 16
      decide (4096 < count) || steady s deviceCore 0 (list / 4 * 4) ((list % 4 + 2 * count + 3) / 4)
    | _ => true)

/-- An unreadable group table is logged. -/
def noteGroup (g : Nat) (s : State) : State :=
  match groupMiss s g with
  | some va => s.logStructure va
  | none => s

/-! ## COLL (R286, R287) -/

/-- The type numbers a collective takes. -/
def collTypes : List Nat := [2, 3, 6, 10, 11, 12, 13]

/-- Bytes of an element. -/
def elementBytes (type : Nat) : Nat := (numTypeOf type 0).width / 8

/-- Elements of the source and of the destination buffer of a member (R287): operations 0 all-reduce,
1 reduce-scatter, 2 all-gather, 3 all-to-all. -/
def destCount (op n p : Nat) : Nat :=
  match op with
  | 1 => n / p
  | 2 => n * p
  | _ => n

/-- The I/O die whose collective engine runs a core's collective: the manual does not say which (log entry 9). -/
def collDie (core : Nat) : Nat := if dieOfCore core < 2 then 0 else 1

/-- Collectives open on an I/O die's engine (R288). -/
def openColls (s : State) (io : Nat) : Nat := (s.colls.filter (fun e => e.2.iodie = io)).length

/-- A descriptor (R286). -/
structure CollDesc where
  clean : Bool
  group : Nat
  rop   : Nat
  type  : Nat
  chunk : Nat
  src   : Nat
  dst   : Nat
  count : Nat
  deriving DecidableEq, Repr, Inhabited

def collDesc (s : State) (core a : Nat) : CollDesc :=
  let w := fun (i : Nat) => (s.word (storeKey core (a + 4 * i))).toNat
  { clean := w 0 / 2 ^ 16 = 0 && w 1 / 2 ^ 5 = 0
    group := w 0 / 2 ^ 8 % 2 ^ 8, rop := w 0 / 2 ^ 5 % 8, type := w 0 % 2 ^ 5, chunk := w 1 % 2 ^ 5
    src := w 2 + 2 ^ 32 * w 3, dst := w 4 + 2 ^ 32 * w 5, count := w 6 }

/-- A buffer's words, from the word of its first byte to that of its last. -/
def bufferWords (s : State) (cx : Ctx) (n : Need) (va bytes : Nat) :
    Except Trap (List (Nat × Nat) × List Phys) :=
  if bytes = 0 then .ok ([], [])
  else endWords s cx n (.glob (va / 4 * 4)) ((va % 4 + bytes + 3) / 4 * 4)

/-- The claims of a collective on its destination words (R214): the old value is wanted for a word it may
write in parts, and where it is a source too. -/
def collClaim (agent id : Nat) (c : Coll) (s : State) : State :=
  let eb := elementBytes c.type
  let part := eb < 4
  c.dsts.foldl (fun s (sp, a) =>
    let bytes := if part then 2 else 4
    engineClaim agent id ((c.srcs.filter (fun e => e.1 = 1)).map (fun e => e.2 / 4)) s
      ⟨sp, a, (upTo bytes).map (fun i => (i, sp, a + i))⟩) s

/-- A collective's engine has no room for another (R288). -/
def collFull (cx : Ctx) (s : State) : Bool := decide (8 ≤ openColls s (collDie cx.core))

/-- COLL: the checks at issue, and acceptance (R286, R288). The port of its engine's die that carries it is open (log
entry 9). -/
def collGroup (op : Nat) (cx : Ctx) (s : State) : State :=
  let a := s.opD cx 0
  let b := s.blockOf cx
  let refuse := fun (x : Nat) => s.raise cx.wk (copyFault s cx x)
  if a % 32 ≠ 0 || localBad b a 32 then refuse a
  else
    let d := collDesc s cx.core a
    let eb := elementBytes d.type
    let io := collDie cx.core
    let comp := copyComp cx s
    let g := groupOf s d.group
    let p := match g with | some g => g.nodes.length | none => 1
    if !groupSteady s d.group then s
    else if !d.clean || !collTypes.contains d.type || d.chunk < 12 || 20 < d.chunk || (op ≤ 1 && 2 < d.rop) then refuse a
    else if d.src % eb ≠ 0 then refuse d.src
    else if d.dst % eb ≠ 0 then refuse d.dst
    else if (op = 1 || op = 3) && d.count % p ≠ 0 then refuse a
    else
      match compFault cx s comp with
      | some t => s.raise cx.wk t
      | none =>
        let src := if g.isSome then bufferWords s cx needLoad d.src (d.count * eb) else .ok ([], [])
        let dst := if g.isSome then bufferWords s cx needStore d.dst (destCount op d.count p * eb) else .ok ([], [])
        match dst, src with
        | .error t, _ => s.raise cx.wk t
        | .ok _, .error t => s.raise cx.wk t
        | .ok (dw, dp), .ok (sw, sp) =>
          let s := noteGroup d.group s
          let id := s.fresh
          let (port, s) := s.takeFree
          let c : Coll := {
            mode := if g.isSome then .running else .ending 3
            core := cx.core, block := s.blockKey cx, desc := a, comp := comp, op := op, rop := d.rop
            type := d.type, chunk := d.chunk, srcs := sw, srcOff := d.src % 4, dsts := dw, dstOff := d.dst % 4
            count := d.count, rank := (match g with | some g => g.rank | none => 0)
            members := (match g with | some g => g.nodes | none => []), iodie := io, port := 8 * io + port.toNat % 8
            chunkStart := s.tick.toNat, seq := tget 0 s.collSeq d.group }
          let s := { s with colls := tput s.colls id c, fresh := s.fresh + 1
                            collSeq := tput s.collSeq d.group (tget 0 s.collSeq d.group + 1) }
          let s := (dp ++ sp).foldl State.takePin s
          (collClaim (assistOf io) id c s).advance cx

def execCollAllReduce (x : Long) (s : State) : Out :=
  .next (copyIssue (.collAllReduce x) collFull (collGroup 0) s)
def execCollReduceScatter (x : Long) (s : State) : Out :=
  .next (copyIssue (.collReduceScatter x) collFull (collGroup 1) s)
def execCollAllGather (x : Long) (s : State) : Out :=
  .next (copyIssue (.collAllGather x) collFull (collGroup 2) s)
def execCollAllToAll (x : Long) (s : State) : Out :=
  .next (copyIssue (.collAllToAll x) collFull (collGroup 3) s)

/-! ## Results (R287) -/

/-- Combination of two elements of a type. -/
def collCombine (rop type a b : Nat) : Nat :=
  match numTypeOf type 0 with
  | .int t =>
    let x := t.read a
    let y := t.read b
    t.write t.width (match rop with | 0 => x + y | 1 => min x y | _ => max x y)
  | .flt f =>
    match rop with
    | 0 => (floatAdd false f .rn false 0 a b).1
    | 1 => floatPick false f a b
    | _ => floatPick true f a b

/-- An element of this member's source buffer, with its poison; none while a word of it cannot be read. -/
def sourceElement (s : State) (agent id : Nat) (c : Coll) (i : Nat) : Option (Nat × Bool) :=
  let eb := elementBytes c.type
  let o := c.srcOff + i * eb
  let ws := (upTo ((eb + 3) / 4)).map (fun k => (c.srcs[o / 4 + k]?).getD (1, 0))
  let vs := ws.map (fun (sp, a) => sourceWord s agent id sp a (s.farWord a))
  vs.foldr (fun x acc =>
    match x, acc with
    | .value v bad, some (n, b) => some (v.toNat + 2 ^ 32 * n, bad || b)
    | _, _ => none) (some (0, false)) |>.map (fun (n, b) => (n / 2 ^ (8 * (o % 4)) % 2 ^ (8 * eb), b))

/-- Element j of the destination: the members' elements folded from rank 0 upward, or the element of one
member; another member's element is open. -/
def destElement (agent id : Nat) (c : Coll) (j : Nat) (s : State) : Option (Nat × Bool) × State :=
  let p := c.members.length
  let eb := elementBytes c.type
  let own := fun (i : Nat) => sourceElement s agent id c i
  let from_ := fun (s : State) (q i : Nat) =>
    if q = c.rank then (own i, s)
    else
      let (v, s) := s.takeFree
      (some (v.toNat % 2 ^ (8 * eb), false), s)
  let fold := fun (i : Nat) =>
    (upTo p).foldl (fun (acc : Option (Nat × Bool) × State) q =>
      let (x, s) := from_ acc.2 q i
      (match q, acc.1, x with
        | 0, _, x => x
        | _, some (a, b), some (v, b') => some (collCombine c.rop c.type a v, b || b')
        | _, _, _ => none, s)) (none, s)
  match c.op with
  | 0 => fold j
  | 1 => fold (c.rank * (c.count / p) + j)
  | 2 => from_ s (j / max 1 c.count) (j % max 1 c.count)
  | _ =>
    let m := max 1 (c.count / p)
    from_ s (j / m) (c.rank * m + j % m)

/-- Elements of the chunk that a collective is at. -/
def Coll.chunkLength (c : Coll) : Nat :=
  min (2 ^ c.chunk / elementBytes c.type) (destCount c.op c.count c.members.length - c.done)

/-- Destination element j is written; the halves of one word gather in the engine's word until both are there. -/
def writeElement (agent id : Nat) (c : Coll) (j v : Nat) (bad : Bool) (s : State) : State :=
  let eb := elementBytes c.type
  let o := c.dstOff + j * eb
  let last := eb = 4 || eb = 8 || o % 4 = 2 || decide (j + 1 = destCount c.op c.count c.members.length)
  (upTo ((eb + 3) / 4)).foldl (fun s k =>
    let (sp, a) := (c.dsts[o / 4 + k]?).getD (1, 0)
    let mask := storeMask eb (o % 4)
    let w := BitVec.ofNat 32 (storeShift eb (o % 4) (v / 2 ^ (32 * k)))
    let pw := a / 4
    let e := s.engine agent pw
    if sp = 1 then
      if last then engineWrite agent id pw mask w bad s
      else s.setEngine agent pw { e with
        value := mergeBytes mask e.value w, mask := e.mask ||| mask, poison := e.poison || bad }
    else if sp = 2 then
      if e.used then s.sendOut 6 a (w.setWidth 64) mask.toNat (if bad then 1 else 0)
      else farWrite agent id pw mask w bad s
    else (s.wrote pw).homePut pw (mergeBytes mask (s.homeCopy pw) w) bad) s

/-- The destination words of a collective's chunk can be written: each is its operation's now, with the old value
where it is written in parts. -/
def chunkReady (s : State) (agent id : Nat) (c : Coll) : Bool :=
  let eb := elementBytes c.type
  let first := (c.dstOff + c.done * eb) / 4
  let past := (c.dstOff + (c.done + c.chunkLength) * eb + 3) / 4
  ((c.dsts.drop first).take (past - first)).all (fun (sp, a) =>
    let e := s.engine agent (a / 4)
    match sp with
    | 1 => e.turn id && e.filled
    | 2 => !e.used || e.copy = id
    | _ => true)

/-- n elements from element j on; none when a source cannot be read yet. Reading: log entry 10, DEDUCED. -/
def writeElements (agent id : Nat) (c : Coll) : Nat → Nat → State → Option State
  | 0, _, s => some s
  | n + 1, j, s =>
    match destElement agent id c j s with
    | (none, _) => none
    | (some (v, bad), s) => writeElements agent id c n (j + 1) (writeElement agent id c j v bad s)

/-! ## Ports (R280, R281) -/

/-- Channel of a transfer on its port; collectives have channel 14. -/
def channelOf (c : Copy) : Nat := if c.timed then 15 else c.core % 128 % 14

/-- Running transfers of a port that have words left. -/
def onPort (s : State) (port : Nat) : List (Nat × Copy) :=
  s.copies.filter (fun e => e.2.port = some port && e.2.mode = .running && !e.2.moves.isEmpty)

/-- Bursts of 4 KiB of the chunk that a collective is at; a member alone sends none. -/
def Coll.chunkBursts (c : Coll) : Nat :=
  if c.members.length ≤ 1 then 0 else (c.chunkLength * elementBytes c.type + 4095) / 4096

/-- Running collectives of a port whose chunk has bursts left. -/
def collsOnPort (s : State) (port : Nat) : List (Nat × Coll) :=
  s.colls.filter (fun e => e.2.port = port && e.2.mode = .running && decide (e.2.bursts < e.2.chunkBursts))

/-- At most n words of a transfer, in any order (R271): one burst of 4 KiB at the most. -/
def burst (id : Nat) : Nat → State → State
  | 0, s => s
  | n + 1, s =>
    let (k, s) := s.takeFree
    burst id n (moveWord id k.toNat s)

/-- The timed transfer that has its port, which keeps it until it is sent, else the first accepted (R281). -/
def timedHead (ts : List (Nat × Copy)) : Option (Nat × Copy) :=
  match ts.find? (fun e => e.2.timed && e.2.sending) with
  | some e => some e
  | none => ts.find? (fun e => e.2.timed)

/-- A channel's turn on a port: a burst of its first transfer, or of its first collective. -/
def channelTurn (port ch : Nat) (s : State) : State :=
  let s := { s with ports := tput s.ports port ch }
  if ch = 14 then
    match collsOnPort s port with
    | (id, c) :: _ => { s with colls := tput s.colls id { c with bursts := c.bursts + 1 } }
    | [] => s
  else
    match (onPort s port).find? (fun e => channelOf e.2 = ch) with
    | some e => burst e.1 1024 s
    | none => s

/-- PORT_GRANT: the timed channel's head first, else the next channel in turn (R281). -/
def portGrant (port : Nat) (s : State) : State :=
  let ts := onPort s port
  match timedHead ts with
  | some e => burst e.1 1024 s
  | none =>
    let last := tget 15 s.ports port
    let next := (upTo 16).map (fun i => (last + 1 + i) % 16)
    match next.find? (fun ch => ts.any (fun e => channelOf e.2 = ch) || (ch = 14 && !(collsOnPort s port).isEmpty)) with
    | none => s
    | some ch => channelTurn port ch s

def execPortGrant (s : State) : Out :=
  .next (match s.now with | .portGrant p => portGrant p s | _ => s)

/-! ## Events (R288, R289) -/

def State.setColl (s : State) (id : Nat) (c : Coll) : State := { s with colls := tput s.colls id c }

/-- A message to every other member: kind 8 hold, 9 release, 10 abort. -/
def tellMembers (kind : Nat) (c : Coll) (s : State) : State :=
  c.members.zipIdx.foldl (fun s (node, r) =>
    if r = c.rank then s else s.answer node kind c.seq 0 0) s

/-- Destination words of a failed collective that it has not written are written as poisoned, in their turns (log entry
10). Reading: log entry 38, DEDUCED. -/
def poisonRest (id : Nat) (c : Coll) (s : State) : State :=
  let agent := assistOf c.iodie
  c.dsts.foldl (fun s (sp, a) =>
    if sp = 1 then engineWrite agent id (a / 4) 15 (s.engine agent (a / 4)).value true s else s) s

/-- A collective ends with a status. -/
def endColl (id : Nat) (c : Coll) (status : Nat) (s : State) : State :=
  (if status = 0 then s else poisonRest id c s).setColl id { c with mode := .ending status }

/-- COLL_CHUNK: the next chunk of the destination (R288), when its port has granted it its bursts (R280). It starts only
after the Regs and Wbs of the issuing core are acknowledged; whether the members' sequences match is the other
members' doing. -/
def collChunk (id : Nat) (s : State) : State :=
  match tfind s.colls id with
  | none => s
  | some c =>
    let agent := assistOf c.iodie
    if c.mode ≠ .running || (c.done = 0 && s.unacked c.core) || !chunkReady s agent id c ||
        decide (c.bursts < c.chunkBursts) then s
    else
      let (f, s0) := if c.matched || c.members.length ≤ 1 then ((0 : DWord), s) else s.takeFree
      if f.getLsbD 0 then endColl id c 3 s0
      else
        let c := { c with matched := true }
        let total := destCount c.op c.count c.members.length
        let n := c.chunkLength
        match writeElements agent id c n c.done s0 with
        | none => s
        | some s =>
          let c := { c with done := c.done + n, chunkStart := s.tick.toNat, stoppedHere := false, bursts := 0 }
          if total ≤ c.done then endColl id c 0 s else s.setColl id c

def execCollChunk (s : State) : Out :=
  .next (match s.now with | .collChunk id => collChunk id s | _ => s)

/-- COLL_PEER_TIMEOUT: a peer has not answered a chunk within 50 ms (R288). -/
def collTimeout (id : Nat) (s : State) : State :=
  match tfind s.colls id with
  | none => s
  | some c =>
    if c.mode = .running && 1 < c.members.length && decide (c.chunkStart + 90000000 ≤ s.tick.toNat) then
      tellMembers 10 c (endColl id c 2 s)
    else s

def execCollPeerTimeout (s : State) : Out :=
  .next (match s.now with | .collPeerTimeout id => collTimeout id s | _ => s)

/-- COLL_ABORT: a member's abort arrives (R288); status 1 in a package that stopped and was held past the
limit (R289). -/
def collAbort (id : Nat) (s : State) : State :=
  match tfind s.colls id with
  | none => s
  | some c =>
    match c.mode with
    | .ending _ => s
    | _ => if c.members.length ≤ 1 then s else endColl id c (if c.stoppedHere then 1 else 2) s

def execCollAbort (s : State) : Out :=
  .next (match s.now with | .collAbort id => collAbort id s | _ => s)

/-- COLL_COMPLETION: STATUS is written and the completion signalled (R276, R288). Reading: log entry 38, DEDUCED. -/
def collCompletion (id : Nat) (s : State) : State :=
  match tfind s.colls id with
  | none => s
  | some c =>
    match c.mode with
    | .ending status =>
      if s.engineOpen id then (if status = 0 then s else poisonRest id c s)
      else
        let s := s.localStore c.core (c.desc + 0x1C) 15 (BitVec.ofNat 32 status)
        let bytes := destCount c.op c.count (max 1 c.members.length) * elementBytes c.type
        let s := countBytes c.core c.comp (if status = 3 && c.members.isEmpty then 0 else bytes) s
        { signalDc c.core c.comp s with colls := tdel s.colls id }
    | _ => s

def execCollCompletion (s : State) : Out :=
  .next (match s.now with | .collCompletion id => collCompletion id s | _ => s)

/-- A member's package stops: the collective stops at its chunk boundary (R289). -/
def Coll.hold (c : Coll) (tick : Nat) : Coll :=
  match c.mode with
  | .running => { c with mode := .held tick, stops := 1 }
  | .held _ => { c with stops := c.stops + 1 }
  | .ending _ => c

/-- A member's package goes on: when none is stopped, so does the collective, its timers having been frozen (R289). -/
def Coll.release (c : Coll) (tick : Nat) : Coll :=
  match c.mode with
  | .held since =>
    if 1 < c.stops then { c with stops := c.stops - 1 }
    else { c with mode := .running, stops := 0, chunkStart := c.chunkStart + (tick - since) }
  | _ => c

/-- SAFELIGHT_HOLD: another member's package stops (R289). -/
def safelightHold (id : Nat) (s : State) : State :=
  match tfind s.colls id with
  | none => s
  | some c => if 1 < c.members.length then s.setColl id (c.hold s.tick.toNat) else s

def execSafelightHold (s : State) : Out :=
  .next (match s.now with | .safelightHold id => safelightHold id s | _ => s)

/-- SAFELIGHT_RELEASE: another member's package goes on (R289); what this one's own stop holds is not another's to
release. -/
def safelightRelease (id : Nat) (s : State) : State :=
  match tfind s.colls id with
  | none => s
  | some c => if c.own && c.stops ≤ 1 then s else s.setColl id (c.release s.tick.toNat)

def execSafelightRelease (s : State) : Out :=
  .next (match s.now with | .safelightRelease id => safelightRelease id s | _ => s)

/-- HOLD_LIMIT_EXPIRY: the hold has passed COLLCFG.HOLD (R289). -/
def holdExpiry (id : Nat) (s : State) : State :=
  match tfind s.colls id with
  | none => s
  | some c =>
    let hold := bitsOf (s.sysreg 0x169) 0 32
    match c.mode with
    | .held since =>
      if hold ≠ 0 && !s.stopped && decide (since + 1800 * hold ≤ s.tick.toNat) then tellMembers 10 c (endColl id c 1 s) else s
    | _ => s

def execHoldLimitExpiry (s : State) : Out :=
  .next (match s.now with | .holdLimitExpiry id => holdExpiry id s | _ => s)

/-- This package stops or resumes: every open collective's members are told, and its own engine stops and goes on as
theirs do (R289, R388, R389). -/
def tellStop (stop : Bool) (s : State) : State :=
  s.colls.foldl (fun s e =>
    let c := e.2
    match c.mode with
    | .ending _ => s
    | _ =>
      let s := tellMembers (if stop then 8 else 9) c s
      if stop = c.own then s
      else s.setColl e.1 (if stop then { c.hold s.tick.toNat with stoppedHere := true, own := true }
        else { c.release s.tick.toNat with own := false })) s

end Sys2Proof.Machine
end

