-- ==== Sys2Proof/Machine/Context.lean ====
section
/-! DEFINITION. The start of a block's warps (R21, R32, R35, R295 to R297) and the context images of blocks
(R380 to R385). -/

namespace Sys2Proof.Machine

/-! ## A launch's record (R293) -/

/-- Word i of the record. -/
def Launch.word (l : Launch) (i : Nat) : Nat := (lget 0 l.words i).toNat

/-- Doubleword at word i. -/
def Launch.dword (l : Launch) (i : Nat) : Nat := l.word i + 2 ^ 32 * l.word (i + 1)

/-- The entry point and the parameter of what runs: the primary or a variant (R303). -/
def Launch.kernel (l : Launch) : Nat :=
  if l.ran = 0 then l.dword 0 else (lget (0, 0, 0, 0) l.variants (l.ran - 1)).1.toNat
def Launch.param (l : Launch) : Nat :=
  if l.ran = 0 then l.dword 2 else (lget (0, 0, 0, 0) l.variants (l.ran - 1)).2.1.toNat

/-- Register counts of a word at offset 0x18 (R293). -/
def vregsIn (w : Nat) : Nat := 8 * (w / 2 ^ 16 % 2 ^ 8)
def sregsIn (w : Nat) : Nat := 32 * (w / 2 ^ 24)

/-- The register word of what runs. -/
def Launch.regWord (l : Launch) : Nat :=
  if l.ran = 0 then l.word 6 else (lget (0, 0, 0, 0) l.variants (l.ran - 1)).2.2.1.toNat

def Launch.ordered (l : Launch) : Bool := (l.word 8).testBit 31
def Launch.nopre (l : Launch) : Bool := (l.word 8).testBit 30
def Launch.deadline (l : Launch) : Nat := l.dword 24

/-! ## The hierarchy (R295 to R297) -/

/-- A level: extent, domain, scope. -/
structure Level where
  extent : Nat
  domain : Nat
  scope  : Nat
  deriving DecidableEq, Repr, Inhabited

def levelOf (w : Nat) : Level := ⟨w % 2 ^ 24, w / 2 ^ 24 % 8, w / 2 ^ 27 % 8⟩

/-- The levels of a record, the innermost first. -/
def Launch.levels (l : Launch) : List Level :=
  (upTo (l.word 8 / 2 ^ 27 % 8 + 1)).map (fun i => levelOf (l.word (16 + i)))

/-- P(d) (R296). -/
def productAt (ls : List Level) (d : Nat) : Nat :=
  ls.foldl (fun p v => if v.domain = d then p * v.extent else p) 1

/-- Live lanes of a warp, warps of a block, threads of a block. -/
def Launch.width (l : Launch) : Nat := productAt l.levels 0 * productAt l.levels 1
def Launch.warps (l : Launch) : Nat := productAt l.levels 2
def Launch.gang (l : Launch) : Nat := productAt l.levels 3

/-- Mixed-radix digits of a number over the levels that satisfy f, 0 at the others (R297). -/
def digitsOf (f : Level → Bool) : List Level → Nat → List Nat
  | [], _ => []
  | v :: vs, n => if f v then n % max 1 v.extent :: digitsOf f vs (n / max 1 v.extent) else 0 :: digitsOf f vs n

/-- Indices of a thread at every level: from its index in the block and the block's logical index (R297). -/
def levelIndices (ls : List Level) (block thread : Nat) : List Nat :=
  (List.zip (digitsOf (fun v => decide (v.domain ≤ 2)) ls thread)
    (digitsOf (fun v => decide (2 < v.domain)) ls block)).map (fun e => e.1 + e.2)

/-- TIDX, TIDY, TIDZ (R297). -/
def tidOf (ls : List Level) (idx : List Nat) : List Word :=
  let inner := ((ls.zip idx).filter (fun e => decide (e.1.domain ≤ 2))).map (fun e => BitVec.ofNat 32 e.2)
  (inner ++ lrep 0 3).take 3

/-- A lane at warp start (R21, R32, R35, R121, R296). -/
def startLane (l : Launch) (index warp lane : Nat) : Lane :=
  let t := warp * l.width + lane
  let ls := l.levels
  let idx := levelIndices ls index t
  let seed := BitVec.ofNat 64 (index * 2 ^ 32 + t + 1)
  { pc := BitVec.ofNat 64 (l.kernel % 2 ^ 57)
    exited := !decide (lane < l.width)
    rngs := seed, start := seed
    tid := tidOf ls idx
    lvl := (idx.map (BitVec.ofNat 32) ++ lrep 0 8).take 8 }

/-- Start of an ordered warp's sub-arena (R202). -/
def subArena (b : Block) (i : Nat) : Nat :=
  b.arena + b.index * b.arenaN + i * (b.arenaN / max 1 b.warps / 16 * 16)

/-- Warp i of a block at warp start. -/
def startWarp (l : Launch) (b : Nat) (v : Block) (i : Nat) : Warp :=
  { live := true, block := b, index := i, vregs := v.vregs, sregs := v.sregs
    vbase := lget 0 v.vbases i, sbase := lget 0 v.sbases i
    lanes := laneNumbers.map (startLane l v.index i)
    fmts := lrep fmtStart 8
    bump := ⟨subArena v i, 0⟩ }

/-- Words of the store: n from a key on, all full, unpoisoned and zero. Reading: log entry 15, DESIGN CHOICE. -/
def State.clearWords (s : State) (key n : Nat) : State :=
  { s with
    store := s.store.filter (fun e => !decide (key ≤ e.1 ∧ e.1 < key + n))
    empty := s.empty.filter (fun k => !decide (key ≤ k ∧ k < key + n))
    poison := s.poison.filter (fun k => !decide (key ≤ k ∧ k < key + n)) }

/-- The registers of a warp read zero, but for s0:1 (R21). -/
def startRegs (core : Nat) (w : Warp) (param : Nat) (s : State) : State :=
  let s := s.clearWords (vkey core w 0 0) (w.vregs * 32)
  let s := s.clearWords (skey core w 0) w.sregs
  s.landAll (((skeys core w 0 2).zip (wordsOf 2 param)).map (fun (k, x) => ⟨k, x, false⟩))

/-! ## `.join` (R115) and safe points (R117) -/

/-- Whether the instruction at an address has `.join`. -/
def joinAt (s : State) (wk : Nat) (pc : DWord) : Bool :=
  match instrAt s (wk / 128) (s.ctxOf wk) (wk % 128 = handlerBerth) pc with
  | some i => match i.info with | some f => f.x.isJoin | none => false
  | none => false

/-- A lane held at a `.join` (R115). -/
def heldAtJoin (s : State) (wk l : Nat) : Bool :=
  let v := (s.warp wk).lane l
  !v.exited && !v.released && joinAt s wk v.pc

/-- JOIN_RELEASE (R115): every live lane is held, and those at the lowest PC are released. -/
def joinRelease (wk : Nat) (s : State) : State :=
  let w := s.warp wk
  let ls := w.liveLanes
  if !w.live || ls.isEmpty || !ls.all (heldAtJoin s wk) then s
  else
    let low := ls.foldl (fun m l => min m (w.lane l).pc.toNat) (w.lane (ls.headD 0)).pc.toNat
    s.setWarp wk (w.modLanes (maskOf (fun l => ls.contains l && (w.lane l).pc.toNat = low))
      (fun v => { v with released := true }))

def execJoinRelease (s : State) : Out :=
  .next (match s.now with | .joinRelease wk => joinRelease wk s | _ => s)

/-! ## The image (R380) -/

/-- A word of an image with its poison. -/
abbrev ImageWord := Word × Bool

/-- A section filled up to the next multiple of 256 bytes. -/
def padSection (ws : List ImageWord) : List ImageWord :=
  ws ++ lrep (0, false) ((64 - ws.length % 64) % 64)

def cleanWords (ws : List Word) : List ImageWord := ws.map (fun w => (w, false))

/-- Numbers of b bits packed into words. -/
def packWords (b : Nat) (vs : List Nat) : List Word :=
  wordsOf ((vs.length * b + 31) / 32) (vs.foldr (fun v acc => v % 2 ^ b + 2 ^ b * acc) 0)

/-- Words of the store from a key on. -/
def State.storeWords (s : State) (key n : Nat) : List ImageWord :=
  (upTo n).map (fun i => (s.word (key + i), s.isPoison (key + i)))

/-- Words an image has (R380): warps, registers, scratchpad, tiles and fixer entries. -/
def imageWords (v : Block) (fixer : Nat) : Nat :=
  let up := fun (n : Nat) => (n + 63) / 64 * 64
  64 + 256 * v.warps + up (v.warps * v.sregs) + up (v.warps * v.vregs * 32) + up (v.spSize / 4) +
    v.tiles * 2 ^ 14 + up (8 * fixer)

/-- Shape word at 0x10 of the header. -/
def shapeWord (v : Block) : Nat := v.vregs / 8 + 2 ^ 8 * (v.sregs / 32) + 2 ^ 16 * v.tiles

/-- The fixer entries of a block that are not applied: those of a fix point that waits come first. -/
def Block.entries (v : Block) : List FixEntry := v.batch ++ v.fixer

/-- The header. -/
def imageHeader (s : State) (v : Block) : List Word :=
  [0x43580001, BitVec.ofNat 32 v.warps] ++ wordsOf 2 v.index ++
  [BitVec.ofNat 32 (shapeWord v), BitVec.ofNat 32 (v.spSize / 4096)] ++
  wordsOf 2 (if v.ordered then 0 else v.bump.ptr) ++
  [BitVec.ofNat 32 v.entries.length, 0] ++ wordsOfD s.tick ++
  [BitVec.ofNat 32 (if v.ordered then 0 else v.bump.comp)]

/-- Lane state byte. -/
def laneState (s : State) (wk l : Nat) (v : Lane) : Nat :=
  (if v.exited then 1 else 0) + (if heldAtJoin s wk l then 2 else 0) + (if v.released then 4 else 0) +
  (if v.bar = .none then 0 else 8)

/-- Scope code of the barrier a warp's lanes stand at. -/
def barrierScope (w : Warp) : Nat :=
  (w.lanes.foldl (fun r v =>
    match r, v.bar with
    | none, .bar n => some n
    | none, .fix n => some n
    | r, _ => r) none).getD 0

/-- The restart record's two words. -/
def restartWords (r : Restart) : List Word :=
  [BitVec.ofNat 32 (r.addr % 2 ^ 22 + 2 ^ 22 * (r.form % 4) + 2 ^ 24 * (r.kb % 4) + 2 ^ 26 * (r.lane % 32) +
      (if r.valid then 2 ^ 31 else 0)),
    BitVec.ofNat 32 (r.b % 2 ^ 9 + 2 ^ 9 * (r.c % 2 ^ 9) + 2 ^ 18 * (r.dst % 2 ^ 9))]

/-- The section of one warp; `stopped` is bit 0 of 0x2E0. -/
def warpImage (s : State) (wk : Nat) (w : Warp) : List Word :=
  let ls := if w.lanes.isEmpty then lrep ({} : Lane) 32 else w.lanes
  let ws := ls.flatMap (fun v => wordsOfD v.pc) ++
    ls.flatMap (fun v => wordsOfD v.rngs) ++
    packWords 8 (ls.map (fun v => v.preds.toNat)) ++
    packWords 8 (ls.zipIdx.map (fun (v, l) => laneState s wk l v)) ++
    packWords 16 (ls.map (fun v => v.starve)) ++
    [w.flags.setWidth 32, BitVec.ofNat 32 w.part, w.qpreds.setWidth 32,
      BitVec.ofNat 32 ((if w.asleep then 1 else 0) + (if w.wakeLatch then 2 else 0) +
        (if w.yieldPending then 4 else 0))] ++
    wordsOfD w.sleepTick ++ wordsOfD w.yieldPc ++ [w.yielders, BitVec.ofNat 32 (barrierScope w)] ++
    wordsOf 2 (match w.latch with | some pc => pc.toNat % 2 ^ 57 + 2 ^ 63 | none => 0) ++
    ((w.fmts ++ lrep fmtStart 8).take 8) ++ wordsOfD w.mstat ++ wordsOf 2 w.bump.ptr ++
    [if w.stopped then 1 else 0, BitVec.ofNat 32 w.bump.comp, 0, 0] ++ restartWords w.restart
  ws ++ lrep 0 (256 - ws.length)

/-- A fixer entry. -/
def fixerWords (e : FixEntry) : List Word :=
  wordsOfD e.addr ++ wordsOfD e.value ++
  [BitVec.ofNat 32 (e.op + 2 ^ 8 * e.ty + 2 ^ 16 * e.lane + 2 ^ 24 * e.warp), BitVec.ofNat 32 e.seq,
    BitVec.ofNat 32 e.block, 0]

/-- Warp i of a block as an image shows it: of a warp that has ended, every lane has exited. -/
def State.warpShown (s : State) (b i : Nat) : Nat × Warp :=
  match s.warpOf b i with
  | some k => (k, s.warp k)
  | none => (0, { bump := ⟨subArena (s.block b) i, 0⟩ })

/-- The image of a block (R380). -/
def imageOf (s : State) (b : Nat) : List ImageWord :=
  let v := s.block b
  let base := fun (a : Nat) => storeKey v.core a
  padSection (cleanWords (imageHeader s v)) ++
  (upTo v.warps).flatMap (fun i => let e := s.warpShown b i; cleanWords (warpImage s e.1 e.2)) ++
  padSection ((upTo v.warps).flatMap (fun i => s.storeWords (base (lget 0 v.sbases i)) v.sregs)) ++
  padSection ((upTo v.warps).flatMap (fun i => s.storeWords (base (lget 0 v.vbases i)) (v.vregs * 32))) ++
  padSection (s.storeWords (base v.spBase) (v.spSize / 4)) ++
  s.storeWords (base v.accBase) (v.tiles * 2 ^ 14) ++
  padSection (cleanWords (v.entries.flatMap fixerWords))

/-! ## Restoring (R382) -/

/-- Number in n words of an image from word i on. -/
def imageNum (ws : List ImageWord) (i n : Nat) : Nat := ofWords (((ws.drop i).take n).map Prod.fst)

/-- The header's conditions (R382). -/
def imageFits (v : Block) (ws : List ImageWord) : Bool :=
  let n := imageNum ws 8 1
  imageNum ws 0 1 = 0x43580001 && imageNum ws 1 1 = v.warps && imageNum ws 4 1 = shapeWord v &&
  imageNum ws 5 1 = v.spSize / 4096 && decide (n ≤ 512) && (n = 0 || v.ordered)

/-- The barrier of a lane that stands at one: a FIX when its instruction is one. -/
def waitAt (s : State) (core ctx scope : Nat) (pc : DWord) : BarrierWait :=
  match instrAt s core ctx false pc with
  | some (.fix _) => .fix scope
  | _ => .bar scope

/-- A lane of a warp section; patience starts at 0 (R111). -/
def restoreLane (s : State) (core ctx : Nat) (ws : List ImageWord) (l : Nat) (v : Lane) : Lane :=
  let st := imageNum ws 136 8 / 2 ^ (8 * l) % 2 ^ 8
  let pc := BitVec.ofNat 64 (imageNum ws (2 * l) 2 % 2 ^ 57)
  let rngs := imageNum ws (64 + 2 * l) 2
  { v with
    pc := pc, rngs := if rngs = 0 then 1 else BitVec.ofNat 64 rngs
    preds := BitVec.ofNat 7 (imageNum ws 128 8 / 2 ^ (8 * l)), busy := 0, starve := 0
    exited := st.testBit 0, released := st.testBit 2, ahead := [], dcwait := .none, dcready := false
    bar := if st.testBit 3 && !st.testBit 0 then waitAt s core ctx (imageNum ws 169 1 % 8) pc else .none }

/-- The restart record of a warp section. -/
def restoreRestart (ws : List ImageWord) : Restart :=
  let a := imageNum ws 188 1
  let b := imageNum ws 189 1
  { valid := a.testBit 31, form := a / 2 ^ 22 % 4, kb := a / 2 ^ 24 % 4, addr := a % 2 ^ 22
    lane := a / 2 ^ 26 % 32, b := b % 2 ^ 9, c := b / 2 ^ 9 % 2 ^ 9, dst := b / 2 ^ 18 % 2 ^ 9 }

/-- A warp from its section. Reading: log entry 45, DEDUCED. -/
def restoreWarp (s : State) (core ctx : Nat) (ws : List ImageWord) (w : Warp) : Warp :=
  let bits := imageNum ws 163 1
  let part := imageNum ws 161 1 % 8
  let latch := imageNum ws 170 2
  { w with
    lanes := w.lanes.zipIdx.map (fun (v, l) => restoreLane s core ctx ws l v)
    qpreds := BitVec.ofNat 3 (imageNum ws 162 1), qbusy := 0
    part := if part = 0 || 5 < part then 5 else part
    flags := BitVec.ofNat 6 (imageNum ws 160 1)
    fmts := (upTo 8).map (fun i => BitVec.ofNat 32 (imageNum ws (172 + i) 1) &&& fmtRegMask)
    mstat := BitVec.ofNat 64 (imageNum ws 180 2)
    restart := restoreRestart ws
    rerun := (imageNum ws 180 1).testBit 14 && imageNum ws 180 1 % 256 = 4
    asleep := bits.testBit 0, wakeLatch := bits.testBit 1, yieldPending := bits.testBit 2
    sleepTick := BitVec.ofNat 64 (imageNum ws 164 2), yieldPc := BitVec.ofNat 64 (imageNum ws 166 2)
    yielders := BitVec.ofNat 32 (imageNum ws 168 1)
    latch := if latch.testBit 63 then some (BitVec.ofNat 64 (latch % 2 ^ 57)) else .none
    bump := ⟨imageNum ws 182 2, imageNum ws 185 1⟩
    stopped := (imageNum ws 184 1).testBit 0, parked := false, fault := .none, idle := 0 }

/-- Words of an image placed in the store, full, with their poison. -/
def putWords (key : Nat) (ws : List ImageWord) (s : State) : State :=
  s.landAll (ws.zipIdx.map (fun (w, i) => ⟨key + i, w.1, w.2⟩))

/-- A fixer entry of an image. -/
def restoreEntry (ws : List ImageWord) : FixEntry :=
  let k := imageNum ws 4 1
  { addr := BitVec.ofNat 64 (imageNum ws 0 2), value := BitVec.ofNat 64 (imageNum ws 2 2), op := k % 2 ^ 5
    ty := k / 2 ^ 8 % 8, lane := k / 2 ^ 16 % 32, warp := k / 2 ^ 24 % 64, seq := imageNum ws 5 1
    block := imageNum ws 6 1 }

/-- A per-warp list of register words of a section. -/
def putPerWarp (core n : Nat) (bases : List Nat) (ws : List ImageWord) (s : State) : State :=
  bases.zipIdx.foldl (fun s (a, i) => putWords (storeKey core a) ((ws.drop (i * n)).take n) s) s

/-- Everything of a block but its warps: registers, scratchpad, tiles, fixer and bump pointer. -/
def restoreStore (b : Nat) (ws : List ImageWord) (s : State) : State :=
  let v := s.block b
  let up := fun (n : Nat) => (n + 63) / 64 * 64
  let o1 := 64 + 256 * v.warps
  let o2 := o1 + up (v.warps * v.sregs)
  let o3 := o2 + up (v.warps * v.vregs * 32)
  let o4 := o3 + up (v.spSize / 4)
  let o5 := o4 + v.tiles * 2 ^ 14
  let s := putPerWarp v.core v.sregs (v.sbases.take v.warps) (ws.drop o1) s
  let s := putPerWarp v.core (v.vregs * 32) (v.vbases.take v.warps) (ws.drop o2) s
  let s := putWords (storeKey v.core v.spBase) ((ws.drop o3).take (v.spSize / 4)) s
  let s := putWords (storeKey v.core v.accBase) ((ws.drop o4).take (v.tiles * 2 ^ 14)) s
  s.modBlock b (fun v => { v with
    fixer := (upTo (imageNum ws 8 1)).map (fun i => restoreEntry (ws.drop (o5 + 8 * i)))
    batch := []
    bump := if v.ordered then v.bump else ⟨imageNum ws 6 2, imageNum ws 12 1⟩ })

/-- A lane that stood at a DCWAIT when its block was switched out still does, with the transitions that have come since
(R339); a lane that a fault of data has put back goes on where it was (R61). -/
def restoreWait (v : Block) (i l : Nat) (x : Lane) : Lane :=
  let x := match v.aheads.find? (fun e => e.1 = i && e.2.1 = l) with
    | some (_, _, as) => { x with ahead := as }
    | none => x
  match v.waits.find? (fun e => e.1 = i && e.2.1 = l) with
  | some (_, _, n, ready) => { x with dcwait := some n, dcready := ready }
  | none => x

/-- Warp i of a block restored into a berth: it counts as one that has not yet issued. Reading: log entry 78, DESIGN
CHOICE. -/
def restoreInto (b : Nat) (ws : List ImageWord) (i berth : Nat) (s : State) : State :=
  let v := s.block b
  let w := restoreWarp s v.core v.ctx (ws.drop (64 + 256 * i)) (startWarp (s.launch v.launch) b v i)
  let c := lget (0, 0, 0) v.counts i
  s.setWarp (warpKey v.core berth) { w with
    issued := c.1, localCount := c.2.1, rclk := c.2.2, lastIssue := 0
    lanes := w.lanes.zipIdx.map (fun (x, l) => restoreWait v i l x) }

/-- What a switched-out block keeps of its lanes that stand at a DCWAIT (R339). -/
def waitsOf (s : State) (b : Nat) : List (Nat × Nat × Nat × Bool) :=
  (s.warpsOf b).flatMap (fun k => (s.warp k).lanes.zipIdx.filterMap (fun (v, l) =>
    v.dcwait.map (fun n => ((s.warp k).index, l, n, v.dcready))))

/-- What a switched-out block keeps of its lanes that a fault of data has put back (R61). -/
def aheadsOf (s : State) (b : Nat) : List (Nat × Nat × List Ahead) :=
  (s.warpsOf b).flatMap (fun k => (s.warp k).lanes.zipIdx.filterMap (fun (v, l) =>
    if v.ahead = [] then none else some ((s.warp k).index, l, v.ahead)))

/-- Whether a warp section has a lane that has not exited. -/
def imageLive (ws : List ImageWord) (i : Nat) : Bool :=
  (upTo 32).any (fun l => !(imageNum (ws.drop (64 + 256 * i)) 136 8 / 2 ^ (8 * l)).testBit 0)

/-- Free berths of a core, in ascending order. -/
def freeBerths (s : State) (core : Nat) : List Nat :=
  (upTo 64).filter (fun i => !(s.warp (warpKey core i)).live)

/-- The bookkeeping of a block's warps that no image holds. -/
def countsOf (s : State) (b : Nat) : List (Nat × Nat × Nat) :=
  (upTo (s.block b).warps).map (fun i =>
    match s.warpOf b i with
    | some k => let w := s.warp k; (w.issued, w.localCount, w.rclk)
    | none => lget (0, 0, 0) (s.block b).counts i)

/-! ## Safe points of a block (R117, R381, R383, R384) -/

/-- Whether a warp counts as at a safe point. -/
def atSafePoint (s : State) (served : Option Nat) (queued : Bool) (wk : Nat) : Bool :=
  let w := s.warp wk
  w.parked || w.stopped || served = some wk || (queued && w.fault.isSome)

/-- Whether every producer of a block has landed (R29). -/
def noProducers (s : State) (b : Nat) : Bool :=
  let ws := s.warpsOf b
  !s.prods.any (fun e => ws.contains e.2.warp) && !s.txns.any (fun e => ws.contains e.2.warp)

/-- Copies that name a block's scratchpad: by a range of theirs, or by their barrier object (R278).
Reading: log entry 60, DEDUCED. -/
def namesScratch (v : Block) (c : Copy) : Bool :=
  let inside := fun (sp a : Nat) => sp = 0 && a / 2 ^ 22 = v.core && v.inScratch (a % 2 ^ 22)
  c.moves.any (fun m => inside m.dstSp m.dst || m.srcs.any (fun x => inside x.2.1 x.2.2)) ||
  (c.core = v.core && compBar c.comp && v.inScratch (compObj c.comp))

/-- What names a block's scratchpad and has not retired: copies, whose ranges stand in their cores' scoreboards until
they do, pushes, develops with a barrier object there, and collectives (R252, R278, R289).
Reading: log entry 60, DEDUCED. -/
def scratchBusy (s : State) (b : Nat) : Bool :=
  let v := s.block b
  s.copies.any (fun e => namesScratch v e.2) ||
  s.colls.any (fun e => e.2.block = b) ||
  s.clusters.any (fun e => e.2.pushes.any (fun p => p.block = b) ||
    e.2.develops.any (fun d => d.core = v.core && compBar d.comp && v.inScratch (compObj d.comp))) ||
  s.cores.any (fun e => e.2.holds.any (fun h =>
    (h.kind = 0 || h.kind = 2) && h.meets v.core v.spBase (v.spBase + v.spSize)))

/-- The matrix operations of a block stop where they are (R158): each step is one step of the machine, so
that every moment is a step boundary. Reading: log entry 45, DEDUCED. -/
def stopMatrix (b : Nat) (s : State) : State :=
  let v := s.block b
  let ws := s.warpsOf b
  let ops := (s.core v.core).matrix.filter (fun m => ws.contains m.warp)
  let s := ops.foldl (fun s m => s.modWarp m.warp (fun w =>
    { w with mstat := BitVec.ofNat 64 (w.mstat.toNat / 2 ^ 16 * 2 ^ 16 % 2 ^ 48 +
      2 ^ 14 + bitsOf w.mstat 11 3 * 2 ^ 11 + 4) })) s
  s.modCore v.core (fun c => { c with
    matrix := c.matrix.filter (fun m => !ws.contains m.warp)
    holds := c.holds.filter (fun h => !(h.kind = 1 && ws.contains h.own)) })

end Sys2Proof.Machine
end

