-- ==== Sys2Proof/Machine/Control.lean ====
section
/-! DEFINITION. Control flow, sleeping and waiting on the tick (R110 to R125), TRAP and BKPT (R377). -/

namespace Sys2Proof.Machine

/-! ## Transfers (R119, R120) -/

/-- The signed word offset of the branch layout (R119). -/
def branchOffset (x : Long) : Int := sextNat 30 (x.aN + 2 ^ 10 * x.bN + 2 ^ 20 * x.cN)

/-- Target of a branch: PC + off x 4, modulo 2^64 (R119). -/
def branchTarget (cx : Ctx) : Nat := wrapInt 64 ((cx.pc.toNat : Int) + branchOffset cx.x * 4)

/-- A target that is no instruction address (R41, R120). -/
def badTarget (t : Nat) : Bool := t % 4 ≠ 0 || 2 ^ 57 ≤ t

/-- The lanes of the group move: each active lane to its target, the others past the instruction.
Reading: log entry 71, DEDUCED. -/
def State.moveLanes (s : State) (cx : Ctx) (target : Nat → Nat) : State :=
  s.modWarp cx.wk (fun w =>
    let w := w.modLanes cx.group (fun v => v.pass (BitVec.ofNat 64 (cx.pc.toNat + cx.len)))
    s.unlatched cx.pc cx.wk ((lanesOf cx.act).foldl (fun w l =>
      w.modLane l (fun v => { v with pc := BitVec.ofNat 64 (target l) })) w))

/-- A transfer (R120): the targets are checked, the return address is written, the lanes move. `link` is
the length that the return address adds. Reading: log entry 71, DEDUCED. -/
def transfer (link : Bool) (target : Ctx → State → Nat → Nat) (cx : Ctx) (s : State) : State :=
  let t := target cx s
  let bad := maskOf (fun l => cx.act.getLsbD l && badTarget (t l))
  faultIf s cx .illegal 0 bad 0 (
    let w := s.warp cx.wk
    let back := cx.pc.toNat + cx.len
    let s := if link then s.landAll ((evalLanes cx).flatMap (fun l => landings cx w cx.x.dN 2 l back false)) else s
    s.moveLanes cx t)

def execBra (x : Long) (s : State) : Out :=
  .next (issueOf (.bra x) false (transfer false (fun cx _ _ => branchTarget cx)) s)

def execBrx (x : Long) (s : State) : Out :=
  .next (issueOf (.brx x) false (transfer false (fun cx s l => s.opA cx l)) s)

def execCall (x : Long) (s : State) : Out :=
  .next (issueOf (.call x) false (transfer true (fun cx _ _ => branchTarget cx)) s)

def execCallx (x : Long) (s : State) : Out :=
  .next (issueOf (.callx x) false (transfer true (fun cx s l => s.opA cx l)) s)

def execRet (x : Long) (s : State) : Out :=
  .next (issueOf (.ret x) false (transfer false (fun cx s l => s.opA cx l)) s)

/-- EXIT (R121): the active lanes exit; a warp of which no lane is left ends. -/
def exitLanes (cx : Ctx) (s : State) : State :=
  let s := s.modWarp cx.wk (fun w => w.modLanes cx.act (fun v => { v with exited := true, released := false }))
  (s.advanceLanes cx (cx.group &&& ~~~cx.act)).reap cx.wk

def execExit (x : Long) (s : State) : Out := .next (issueOf (.exit x) false exitLanes s)

/-! ## NOP, SAFE, YIELD (R111, R118, R122) -/

def execNop (x : Long) (s : State) : Out := .next (issueOf (.nop x) false (fun cx s => s.advance cx) s)

def execSafe (x : Long) (s : State) : Out := .next (issueOf (.safe x) false (fun cx s => s.advance cx) s)

/-- YIELD (R111). -/
def yieldWarp (cx : Ctx) (s : State) : State :=
  (s.modWarp cx.wk (fun w =>
    { w with yieldPending := true, yieldPc := cx.pc, yielders := cx.group })).advance cx

def execYield (x : Long) (s : State) : Out := .next (issueOf (.yield x) false yieldWarp s)

/-! ## TRAP and BKPT (R377) -/

def trapLanes (cx : Ctx) (s : State) : State :=
  s.raise cx.wk (s.trapOf cx .trap (s.opA cx (lowestLane cx.act) % 256) cx.act 0)

def execTrap (x : Long) (s : State) : Out := .next (issueOf (.trap x) false trapLanes s)

def bkptLanes (cx : Ctx) (s : State) : State :=
  s.raise cx.wk (s.trapOf cx .breakpoint 0xFF cx.act 0)

def execBkpt (x : Long) (s : State) : Out := .next (issueOf (.bkpt x) false bkptLanes s)

/-! ## SLEEP, WAKE, TKWAIT (R123 to R125) -/

/-- A warp wakes (R123). -/
def Warp.wake (w : Warp) : Warp := { w with asleep := false, sleepTick := 0 }

/-- SLEEP (R123): a set latch is spent instead. -/
def sleepWarp (cx : Ctx) (s : State) : State :=
  let limit := BitVec.ofNat 64 (s.opA cx (lowestLane cx.act))
  (s.modWarp cx.wk (fun w =>
    if w.wakeLatch then { w with wakeLatch := false }
    else { w with asleep := true, sleepTick := limit })).advance cx

def execSleep (x : Long) (s : State) : Out := .next (issueOf (.sleep x) false sleepWarp s)

/-- A warp named by a WAKE wakes, or keeps the wake in its latch (R124). -/
def wakeOne (s : State) (k : Nat) : State :=
  s.modWarp k (fun w => if w.asleep then w.wake else { w with wakeLatch := true })

/-- WAKE (R124): the OR over the active lanes names warps of the issuing block. -/
def wakeWarps (cx : Ctx) (s : State) : State :=
  let m := (lanesOf cx.act).foldl (fun m l => m ||| s.opA cx l) 0
  let b := s.blockKey cx
  ((upTo 64).foldl (fun s' i =>
    match s.warpOf b i with
    | some k => if m.testBit i then wakeOne s' k else s'
    | none => s') s).advance cx

def execWake (x : Long) (s : State) : Out := .next (issueOf (.wake x) false wakeWarps s)

/-- Whether TICK has reached every active lane's value (R125). -/
def tickReached (cx : Ctx) (s : State) : Bool :=
  (lanesOf cx.act).all (fun l => decide (s.opA cx l ≤ s.tick.toNat))

/-- TKWAIT (R125): nothing but the wait, of which eligibility is the other half. -/
def tkwaitLanes (cx : Ctx) (s : State) : State := if tickReached cx s then s.advance cx else s

def execTkwait (x : Long) (s : State) : Out := .next (issueOf (.tkwait x) false tkwaitLanes s)

end Sys2Proof.Machine
end

