-- ==== Sys2Proof/Machine/Convert.lean ====
section
/-! DEFINITION. Conversions between number types (R101 to R104), one element or a packed stream of a warp. -/

namespace Sys2Proof.Machine

/-- A minifloat whose format register is not in its width class is an illegal encoding (R67).
Reading: log entry 32, DEDUCED. -/
def formatFault (uses : List (Nat × Nat)) (cx : Ctx) (s : State) : Option Trap :=
  let fmts := (s.warp cx.wk).fmts
  if uses.all (fun (t, n) => fmtFits t (fmtOfReg (lget fmtStart fmts n))) then none
  else some (s.trapOf cx .illegal 0 cx.group 0)

/-- The (type number, format register) of a conversion layout in field B and in field C (R50).
Reading: log entry 24, DEDUCED. -/
def useB (x : Long) : Nat × Nat := (x.dstType, x.bN / 32)
def useC (x : Long) : Nat × Nat := (x.srcType, x.cN / 32)

/-- A lanewise conversion with the check of its format registers. Reading: log entry 24, DEDUCED. -/
def computeCvt (i : Instr) (uses : List (Nat × Nat)) (draws : Nat) (f : LaneIn → LaneOut) (s : State) : State :=
  match i.info with
  | none => s
  | some n => issueWith n.x n.shape false false [formatFault uses] [] (lanewise draws f) s

/-- Whether a type number is an integer type (R49). -/
def isIntType (t : Nat) : Bool :=
  match numTypeOf t 0 with
  | .int _ => true
  | .flt _ => false

/-- CVT (R101): between integer types no random step is taken. -/
def execCvt (x : Long) (s : State) : Out :=
  .next (computeCvt (.cvt x) [useB x, useC x]
    (if isIntType x.dstType && isIntType x.srcType then 0 else drawsOf (roundMode x) 1) (laneCvt x) s)

/-- CVTS (R102, R103): field C names the narrow type, field B holds the scale. -/
def execCvts (x : Long) (s : State) : Out :=
  .next (computeCvt (.cvts x) [useC x] (drawsOf (roundMode x) 1) (fun v =>
    resOut (narrowScaled (numTypeOf x.srcType (fmtAt v (x.cN / 32))) (roundMode x) (saturates x) v.r0 v.a v.b)) s)

/-- SCENC (R104). -/
def execScenc (x : Long) (s : State) : Out :=
  .next (compute (.scenc x) (drawsOf (rmodeOf x.mN) 1)
    (fun v => resOut (scaleEncode (rmodeOf x.mN) v.r0 v.a v.b)) s)

/-- SCDEC (R104). -/
def execScdec (x : Long) (s : State) : Out :=
  .next (compute (.scdec x) (drawsOf (rmodeOf x.mN) 1)
    (fun v => resOut (scaleDecode (rmodeOf x.mN) v.r0 v.a v.b)) s)

/-- The stream of 32 elements of w bits, as one number (R63). -/
def packStream (w : Nat) (codes : List (Nat × Nat)) : Nat :=
  codes.foldl (fun acc (l, c) => acc + c % 2 ^ w * 2 ^ (l * w)) 0

/-- PACK (R103): every active lane narrows one element; active lane j receives word j of the stream. -/
def packLanes (cx : Ctx) (s : State) : State :=
  let x := cx.x
  let t := numTypeOf x.srcType (lget fmtStart (s.warp cx.wk).fmts (x.cN / 32))
  let outs := laneOuts cx s (fun v => resOut (narrowScaled t (roundMode x) (saturates x) v.r0 v.a v.b))
  let stream := packStream t.width (outs.map (fun (l, o) => (l, o.value)))
  let outs := outs.map (fun (l, o) =>
    (l, { o with value := if l < t.width then stream / 2 ^ (32 * l) % 2 ^ 32 else 0 }))
  let s := s.landAll (regLandings cx (s.warp cx.wk) outs)
  (s.modWarp cx.wk (warpAfter cx (drawsOf (roundMode x) 1) outs)).advance cx

/-- PACK (R103). -/
def execPack (x : Long) (s : State) : Out :=
  match (Instr.pack x).info with
  | none => .next s
  | some n => .next (issueWith n.x n.shape false false [formatFault [useC x]] [] packLanes s)

/-- UNPK (R103): each active lane widens its element of the stream with its own scale. -/
def unpackLanes (cx : Ctx) (s : State) : State :=
  let x := cx.x
  let w := s.warp cx.wk
  let t := numTypeOf x.srcType (lget fmtStart w.fmts (x.cN / 32))
  let stream := packStream 32 ((upTo t.width).map (fun j => (j, s.operand cx (.int 32) 1 x.aN j)))
  let outs := (evalLanes cx).map (fun l =>
    let v := laneIn cx s l
    (l, resOut (widenScaled t (roundMode x) (saturates x) v.r0 (stream / 2 ^ (l * t.width) % 2 ^ t.width) v.b)))
  let s := s.landAll (regLandings cx w outs)
  (s.modWarp cx.wk (warpAfter cx (drawsOf (roundMode x) 1) outs)).advance cx

/-- UNPK (R103). -/
def execUnpk (x : Long) (s : State) : Out :=
  match (Instr.unpk x).info with
  | none => .next s
  | some n => .next (issueWith n.x n.shape false false [formatFault [useC x]] [] unpackLanes s)

end Sys2Proof.Machine
end

