-- ==== Sys2Proof/Machine/Special.lean ====
section
/-! DEFINITION. Special registers, predicate moves, FLAGS and the random state (R95 to R97, R108, R109). -/

namespace Sys2Proof.Machine

/-- The register number that MOVS reads or SETS writes (R96, R97). Reading: log entry 4, DESIGN CHOICE. -/
def specialOf (code : Nat) : Nat := code - 0x180

/-- MOVS (R96). -/
def movsLanes (cx : Ctx) (s : State) : State :=
  let w := s.warp cx.wk
  let n := specialOf cx.x.aN
  let outs := (evalLanes cx).map (fun l => (l, valOut (s.special cx.core cx.berth w n l).toNat))
  (s.landAll (regLandings cx w outs)).advance cx

def execMovs (x : Long) (s : State) : Out := .next (issueOf (.movs x) false movsLanes s)

/-- A zero random state stores 1 (R35). -/
def seeded (v : Nat) : DWord := if v % 2 ^ 64 = 0 then 1 else BitVec.ofNat 64 v

/-- Whether R33 or R36 refuses a value for a special register. -/
def setsRefused (n : Nat) (v : Nat) : Bool :=
  if n = 5 then v % 8 = 0 || v % 8 = 6 || v % 8 = 7
  else if 0x18 ≤ n && n ≤ 0x1F then !fmtRegOk (BitVec.ofNat 32 v)
  else false

/-- A special register of the warp written, without its reserved bits (R4, R33, R34, R36). -/
def Warp.setSpecial (w : Warp) (n v : Nat) : Warp :=
  if n = 5 then { w with part := v % 8 }
  else if n = 6 then { w with flags := BitVec.ofNat 6 v }
  else { w with fmts := lupd (fun _ => BitVec.ofNat 32 v &&& fmtRegMask) w.fmts (n - 0x18) }

/-- SETS (R97): RNGS per active lane, every other register once. -/
def setsLanes (cx : Ctx) (s : State) : State :=
  let n := specialOf cx.x.dN
  if n = 0x10 then
    (s.modWarp cx.wk (fun w => (lanesOf cx.act).foldl (fun w l =>
      w.modLane l (fun v => { v with rngs := seeded (s.opA cx l) })) w)).advance cx
  else
    let v := s.opA cx 0
    if setsRefused n v then s.raise cx.wk (s.trapOf cx .illegal 0 cx.group 0)
    else (s.modWarp cx.wk (fun w => w.setSpecial n v)).advance cx

def execSets (x : Long) (s : State) : Out := .next (issueOf (.sets x) false setsLanes s)

/-- PMOV to a register (R95): p0 to p7 of the lane, or q0 to q3. -/
def pmovOut (cx : Ctx) (s : State) : State :=
  let w := s.warp cx.wk
  let bits := fun (l : Nat) =>
    if cx.uni then (upTo 4).foldl (fun a i => a + (if w.qpred i then 2 ^ i else 0)) 0
    else (upTo 8).foldl (fun a i => a + (if (w.lane l).pred i then 2 ^ i else 0)) 0
  let outs := (evalLanes cx).map (fun l => (l, valOut (bits l)))
  (s.landAll (regLandings cx w outs)).advance cx

def execPmovToRegister (x : Long) (s : State) : Out := .next (issueOf (.pmovToRegister x) false pmovOut s)

/-- PMOV to predicates (R95): bit i of a where bit i of b is 1. -/
def pmovIn (cx : Ctx) (s : State) : State :=
  let put := fun (w : Warp) (l : Nat) =>
    let a := s.opA cx l
    let b := s.opB cx l
    (upTo (if cx.uni then 3 else 7)).foldl (fun w i =>
      if b.testBit i then w.putPred (if cx.uni then 0x200 + i else i) l (a.testBit i) else w) w
  (s.modWarp cx.wk (fun w => (evalLanes cx).foldl put w)).advance cx

def execPmovToPredicates (x : Long) (s : State) : Out :=
  .next (issueOf (.pmovToPredicates x) false pmovIn s)

/-- FLGRD (R108). -/
def flgrdLanes (cx : Ctx) (s : State) : State :=
  let w := s.warp cx.wk
  let outs := (evalLanes cx).map (fun l => (l, valOut w.flags.toNat))
  (s.landAll (regLandings cx w outs)).advance cx

def execFlgrd (x : Long) (s : State) : Out := .next (issueOf (.flgrd x) false flgrdLanes s)

/-- FLGCLR (R108). -/
def flgclrWarp (cx : Ctx) (s : State) : State :=
  (s.modWarp cx.wk (fun w => { w with flags := w.flags &&& ~~~(BitVec.ofNat 6 (s.opA cx 0)) })).advance cx

def execFlgclr (x : Long) (s : State) : Out := .next (issueOf (.flgclr x) false flgclrWarp s)

/-- RNG (R109): one step per active lane. -/
def rngLanes (cx : Ctx) (s : State) : State :=
  let w := s.warp cx.wk
  let next := fun (l : Nat) => rngStep (w.lane l).rngs
  let value := fun (l : Nat) =>
    if cx.x.tN = 1 then (next l).toNat else (next l).toNat / 2 ^ 32
  let outs := (evalLanes cx).map (fun l => (l, valOut (value l)))
  let s := s.landAll (regLandings cx w outs)
  (s.modWarp cx.wk (fun w => w.modLanes cx.act (fun v => { v with rngs := rngStep v.rngs }))).advance cx

def execRng (x : Long) (s : State) : Out := .next (issueOf (.rng x) false rngLanes s)

/-- RNGSEED (R109): the seed xor the lane's start value. -/
def rngseedLanes (cx : Ctx) (s : State) : State :=
  (s.modWarp cx.wk (fun w => (lanesOf cx.act).foldl (fun w l =>
    w.modLane l (fun v => { v with rngs := seeded (s.opA cx l ^^^ v.start.toNat) })) w)).advance cx

def execRngseed (x : Long) (s : State) : Out := .next (issueOf (.rngseed x) false rngseedLanes s)

end Sys2Proof.Machine
end

