-- ==== Sys2Proof/Machine/Launches.lean ====
section
/-! DEFINITION. Command queues, launches and the dispatcher (R290 to R307), pre-emption and quantum ends
(R301, R383 to R385, R412), and the change of a dependence counter (R339). -/

namespace Sys2Proof.Machine

/-! ## Queues (R290 to R292, R309) -/

/-- A queue descriptor (R291). -/
structure QueueDesc where
  ring  : Nat
  en    : Bool
  dev   : Bool
  prio  : Nat
  slots : Nat
  tail  : Nat
  head  : Nat
  deriving DecidableEq, Repr, Inhabited

/-- The descriptor that eight words make; a malformed one is not enabled. -/
def queueDescOf (ws : List Word) : QueueDesc :=
  let w := fun (i : Nat) => (lget 0 ws i).toNat
  let c := w 2
  let log := c % 2 ^ 5
  let good := c / 2 ^ 10 % 2 ^ 20 = 0 && c / 2 ^ 5 % 2 ^ 3 = 0 && decide (1 ≤ log ∧ log ≤ 16) &&
    w 5 = 0 && w 6 = 0 && w 7 = 0
  { ring := w 0 + 2 ^ 32 * w 1, en := c.testBit 31 && good, dev := c.testBit 30, prio := c / 2 ^ 8 % 4
    slots := 2 ^ log, tail := w 3, head := w 4 }

def descriptorWords (s : State) (q : Nat) : Option (List Word) := readWords s deviceCore 0 8 (descriptorAt s q)

/-- Records that wait in a queue (R291). -/
def QueueDesc.waiting (d : QueueDesc) : Nat := (d.tail + 2 ^ 32 - d.head) % 2 ^ 32

/-- Address of record j. -/
def QueueDesc.slot (d : QueueDesc) (j : Nat) : Nat := (d.ring + 128 * (j % d.slots)) % 2 ^ 64

def State.queue (s : State) (q : Nat) : Queue := tget {} s.queues q
def State.setQueue (s : State) (q : Nat) (v : Queue) : State := { s with queues := tput s.queues q v }

/-- A queue that is not served since a failed translation: until its descriptor or CQTAB is written (R309). -/
def State.queueStopped (s : State) (q : Nat) : Bool := (s.queue q).stopped

/-- The dispatcher stops serving a queue (R309). -/
def State.stopQueue (s : State) (q va : Nat) : State :=
  (s.setQueue q { s.queue q with stopped := true }).logStructure va

/-- The head of a queue that is served: its descriptor. -/
def headOf (s : State) (q : Nat) : Option QueueDesc :=
  if s.queueStopped q then none
  else
    match descriptorWords s q with
    | some ws => let d := queueDescOf ws; if d.en && d.waiting ≠ 0 then some d else none
    | none => none

/-- Word 13 of a head's record: the counters it waits on and signals (R293). -/
def headCounters (s : State) (d : QueueDesc) : Option Nat :=
  (readWords s deviceCore 0 1 (d.slot d.head + 0x34)).map ofWords

/-- The counter that a record waits on. -/
def waitsOn (w : Nat) : Option Nat := if w.testBit 30 then some (w / 2 ^ 8 % 4 * 256 + w % 2 ^ 8) else none

/-- A transition to zero of a counter reaches the queue heads that name it (R339). -/
def wakeHeads (n : Nat) (s : State) : State :=
  (upTo 64).foldl (fun s' q =>
    match headOf s q with
    | none => s'
    | some d =>
      match headCounters s d with
      | some w => if waitsOn w = some n then s'.setQueue q { s'.queue q with seen := true } else s'
      | none => s') s

/-- DEPENDENCE_COUNTER_CHANGE (R339), from a warp (its number plus one) or from elsewhere (0): lanes that have come to a
DCWAIT of the counter have arrived before it. Reading: log entry 61, DEDUCED. -/
def changeCounter (n : Nat) (amount : Word) (sender : Nat) (s : State) : State :=
  let s := noteArrivals n sender s
  let v := s.counter n + amount
  let s := { s with counters := tput s.counters n v }
  if v = 0 then wakeHeads n (wakeWaiters n s) else s

def execDependenceCounterChange (s : State) : Out :=
  .next (match s.now with | .dependenceCounterChange n a k => changeCounter n a k s | _ => s)

/-- Whether a head is ready (R299). Reading: log entry 43, DEDUCED. -/
def headReady (s : State) (q : Nat) (d : QueueDesc) : Bool :=
  match headCounters s d with
  | none => true
  | some w =>
    match waitsOn w with
    | none => true
    | some n => (s.queue q).seen || s.counter n = 0

/-- Whether a head's record has a deadline. -/
def headDeadline (s : State) (d : QueueDesc) : Bool :=
  match readWords s deviceCore 0 2 (d.slot d.head + 0x60) with
  | some ws => ofWords ws ≠ 0
  | none => false

/-- Launches that the dispatcher holds. -/
def heldLaunches (s : State) : Nat := (s.launches.filter (fun e => e.2.mode ≠ .done)).length

/-- Effective priority of a queue whose head has been ready since a tick (R299). -/
def effective (s : State) (d : QueueDesc) (since : DWord) : Nat :=
  min 3 (d.prio + (s.tick.toNat - since.toNat) / 18000000)

/-- At each tick the dispatcher looks at the heads of all queues: how long they have been ready (R299). -/
def noteHeads (s : State) : State :=
  (upTo 64).foldl (fun s q =>
    let v := s.queue q
    let ready := match headOf s q with | some d => headReady s q d | none => false
    if ready && v.readyAt.isNone then s.setQueue q { v with readyAt := some s.tick }
    else if !ready && v.readyAt.isSome then s.setQueue q { v with readyAt := .none }
    else s) s

/-- Ready heads that may be taken, with their effective priorities, in round-robin order (R299). -/
def takeable (s : State) : List (Nat × QueueDesc × Nat) :=
  ((upTo 64).map (fun i => (s.nextQueue + i) % 64)).filterMap (fun q =>
    match headOf s q with
    | some d =>
      if headReady s q d && (decide (heldLaunches s < 32) || headDeadline s d) then
        some (q, d, effective s d ((s.queue q).readyAt.getD s.tick))
      else none
    | none => none)

/-- The head that is taken next. Reading: log entry 43, DEDUCED. -/
def nextTake (s : State) : Option (Nat × QueueDesc × Nat) :=
  let c := takeable s
  let best := c.foldl (fun m e => max m e.2.2) 0
  c.find? (fun e => e.2.2 = best)

/-! ## Checks of a record (R294) -/

/-- The variant table's words, none where they cannot be read. -/
def variantWords (s : State) (ctx : Nat) (l : Launch) : Option (List Word) :=
  readWords s deviceCore ctx (8 * (l.word 27 % 4)) (l.dword 28)

/-- The variants in a table. -/
def variantsOf (n : Nat) (ws : List Word) : List (DWord × DWord × Word × Nat) :=
  (upTo n).map (fun i =>
    let w := fun (k : Nat) => lget 0 ws (8 * i + k)
    (dwordOf (w 0) (w 1), dwordOf (w 2) (w 3), w 4, (w 5).toNat))

/-- Register word of a record or a variant: reserved bits, ranges, and CSIZE up to `cs`. -/
def regWordOk (cs w : Nat) : Bool :=
  w / 2 ^ 9 % 2 ^ 7 = 0 && decide (1 ≤ w / 2 ^ 24 ∧ w / 2 ^ 24 ≤ 16) &&
  decide (1 ≤ w / 2 ^ 16 % 2 ^ 8 ∧ w / 2 ^ 16 % 2 ^ 8 ≤ 40) && decide (w % 2 ^ 9 ≤ cs)

/-- A global address of a record: 57 bits, aligned. Reading: log entry 48, DEDUCED. -/
def addressOk (al a : Nat) : Bool := decide (a < 2 ^ 57) && a % al = 0

/-- Check 1: reserved fields, alignments, ranges and the variant table. Reading: log entry 48, DEDUCED. -/
def recordOk (s : State) (l : Launch) : Bool :=
  let n := l.word 8 / 2 ^ 27 % 8 + 1
  let raw := (upTo 8).map (fun i => l.word (16 + i))
  let varn := l.word 27 % 4
  addressOk 4 (l.dword 0) && addressOk 256 (l.dword 4) && regWordOk 256 (l.word 6) &&
  l.word 8 / 2 ^ 24 % 8 = 0 && l.word 8 / 2 ^ 12 % 2 ^ 4 = 0 && l.word 8 % 2 ^ 6 = 0 &&
  addressOk 16 (l.dword 10) && l.word 12 % 16 = 0 &&
  l.word 13 / 2 ^ 26 % 2 ^ 4 = 0 && l.word 13 / 2 ^ 10 % 2 ^ 6 = 0 && addressOk 16 (l.dword 14) &&
  raw.zipIdx.all (fun (w, i) =>
    if i < n then w / 2 ^ 30 = 0 && decide (1 ≤ w % 2 ^ 24) && (levelOf w).domain ≠ 7 && (levelOf w).scope ≠ 7
    else w = 0) &&
  decide (l.word 8 / 2 ^ 6 % 2 ^ 6 < l.warps) && (l.deadline = 0 || l.word 26 ≠ 0) &&
  l.word 27 / 4 = 0 && varn ≠ 3 && l.word 30 = 0 && l.word 31 = 0 &&
  (if varn = 0 then l.dword 28 = 0
    else addressOk 32 (l.dword 28) &&
      (match variantWords s l.ctx l with
        | none => false
        | some ws => (upTo varn).all (fun i =>
            let w := fun (k : Nat) => (lget 0 ws (8 * i + k)).toNat
            addressOk 4 (w 0 + 2 ^ 32 * w 1) && regWordOk 0 (w 4) && w 6 = 0 && w 7 = 0)))

/-- Whether a number is a power of two. -/
def isPow2 (n : Nat) : Bool := (upTo 32).any (fun i => n = 2 ^ i)

/-- Check 2: nesting, limits and scopes (R296). Reading: log entry 48, DEDUCED. -/
def hierarchyOk (l : Launch) : Bool :=
  let ls := l.levels
  let p := productAt ls
  (ls.zip (ls.drop 1)).all (fun e => decide (e.1.domain ≤ e.2.domain)) &&
  ls.all (fun v => decide (v.domain ≤ v.scope)) &&
  isPow2 (p 0) && decide (p 0 ≤ 32) && decide (p 0 * p 1 ≤ 32) && decide (p 2 ≤ 64) && decide (p 3 ≤ 16) &&
  decide (p 4 * p 5 ≤ 2 ^ 32 - 1)

/-- Check 3: the store partition request (R171). -/
def storeOk (w : Nat) : Bool :=
  let preset := w / 2 ^ 30
  let n := w / 2 ^ 24 % 2 ^ 6
  w / 2 ^ 20 % 16 = 0 && w / 2 ^ 12 % 16 = 0 && decide (w / 2 ^ 16 % 16 ≤ 8) && decide (w % 2 ^ 12 ≤ 704) &&
  (if preset = 0 then decide (4 ≤ n ∧ n ≤ 44) else n = 0)

/-- Near-cache size of a request in 64 KiB units (R171). -/
def nearUnits (w : Nat) : Nat :=
  match w / 2 ^ 30 with
  | 0 => w / 2 ^ 24 % 2 ^ 6
  | 1 => 4
  | 2 => 16
  | _ => 32

/-! ## Room in a core's store (R25, R170 to R172) -/

/-- What a block of a launch needs: warps, bytes of vector and uniform registers of a warp, scratchpad, tiles,
near-cache units. -/
structure Need4 where
  warps : Nat
  vb    : Nat
  sb    : Nat
  sp    : Nat
  tiles : Nat
  near  : Nat
  deriving DecidableEq, Repr, Inhabited

def needsOf (l : Launch) (regs : Nat) : Need4 where
  warps := l.warps
  vb := vregsIn regs * 128
  sb := sregsIn regs * 4
  sp := l.word 7 % 2 ^ 12 * 4096
  tiles := l.word 7 / 2 ^ 16 % 16
  near := nearUnits (l.word 7)

/-- The ranges of the store that a resident block occupies. -/
def Block.ranges (b : Block) : List (Nat × Nat) :=
  b.vbases.map (fun a => (a, b.vregs * 128)) ++ b.sbases.map (fun a => (a, b.sregs * 4)) ++
  [(b.spBase, b.spSize)] ++ (if b.tiles = 0 then [] else [(b.accBase, b.tiles * 0x10000)])

/-- Occupied ranges of a core's store, its near cache at the end among them. -/
def usedRanges (s : State) (core near : Nat) : List (Nat × Nat) :=
  (0x300000 - near * 0x10000, near * 0x10000) ::
  (s.blocks.filter (fun e => e.2.core = core && e.2.resident)).flatMap (fun e => e.2.ranges)

/-- Whether a range of a size fits beside the occupied ones. -/
def rangeFree (used : List (Nat × Nat)) (a n : Nat) : Bool :=
  decide (a + n ≤ 0x300000) && used.all (fun u => u.2 = 0 || n = 0 || decide (a + n ≤ u.1) || decide (u.1 + u.2 ≤ a))

/-- The lowest place for a range: at the start of the store or behind an occupied range. -/
def lowestRange (al n : Nat) (used : List (Nat × Nat)) : Option Nat :=
  let up := fun (a : Nat) => (a + al - 1) / al * al
  match (0 :: used.map (fun u => up (u.1 + u.2))).filter (fun a => rangeFree used a n) with
  | [] => none
  | c :: rest => some (rest.foldl min c)

/-- A place for a range: the wish, or the lowest one. Reading: log entry 11, DESIGN CHOICE. -/
def findRange (wish al n : Nat) (used : List (Nat × Nat)) : Option Nat :=
  let w := (wish % 0x300000 + al - 1) / al * al
  if rangeFree used w n then some w else lowestRange al n used

/-- Places for ranges of (alignment, size), one after another. -/
def findRanges (place : Nat → Nat → Nat → List (Nat × Nat) → Option Nat) :
    List (Nat × Nat) → Nat → List (Nat × Nat) → Option (List Nat)
  | [], _, _ => some []
  | (al, n) :: rest, k, used =>
    match place k al n used with
    | none => none
    | some a =>
      match findRanges place rest (k + 1) ((a, n) :: used) with
      | none => none
      | some as => some (a :: as)

/-- Places for a block packed from the start of the store: scratchpad and vector registers, whose alignment is the
coarsest (R23), then tiles, and uniform registers in the gaps. -/
def packPlaces (n : Need4) (used : List (Nat × Nat)) : Option (List Nat) :=
  (findRanges (fun _ => lowestRange) ((4096, n.sp) :: lrep (4096, n.vb) n.warps ++
      (128, n.tiles * 0x10000) :: lrep (128, n.sb) n.warps) 0 used).map (fun as =>
    (as.drop 1).take n.warps ++ (as.drop (n.warps + 2)).take n.warps ++ [lget 0 as 0, lget 0 as (n.warps + 1)])

/-- Places for a block: its vector registers, uniform registers, scratchpad and tiles, where the wishes can be met with
what the block needs, else packed. Reading: log entry 11, DESIGN CHOICE. -/
def findPlaces (n : Need4) (k : Nat) (used : List (Nat × Nat)) : Option (List Nat) :=
  match findRanges (fun k => findRange (Config.placeWish k))
      (lrep (4096, n.vb) n.warps ++ lrep (128, n.sb) n.warps ++ [(4096, n.sp), (128, n.tiles * 0x10000)]) k used with
  | some as => some as
  | none => packPlaces n used

/-- Check 4: one block fits an empty core (R25), at the alignments of R23. -/
def fitsEmpty (n : Need4) : Bool :=
  decide (n.warps * (n.vb + n.sb) + n.sp + n.tiles * 0x10000 + n.near * 0x10000 ≤ 0x300000) &&
  (packPlaces n [(0x300000 - n.near * 0x10000, n.near * 0x10000)]).isSome

/-- Present cores of a cluster (R14); a core fenced since reset stays present (R15). -/
def presentIn (s : State) (cl : Nat) : List Nat := ((upTo 16).map (fun i => cl * 16 + i)).filter s.hasCore

/-- Cores of a cluster that are present and not fenced. -/
def clusterCores (s : State) (cl : Nat) : List Nat :=
  (presentIn s cl).filter (fun c => !nmem s.fenced (agentOfCore c))

/-- Check 6 (R294): the rank of this package, none where a condition fails. -/
def fabricRank (s : State) (l : Launch) : Option Nat :=
  if l.levels.any (fun v => v.domain = 6) then
    match groupOf s (l.word 8 / 2 ^ 16 % 2 ^ 8) with
    | none => none
    | some g =>
      if g.nodes.contains Config.selfNode && decide (g.rank < g.nodes.length) &&
          productAt l.levels 6 = g.nodes.length then some g.rank else none
  else some 0

/-- The checks of R294 in order: a status code, or the rank. -/
def checkRecord (s : State) (l : Launch) : Except Nat Nat :=
  let fits := (l.word 6 :: l.variants.map (fun v => v.2.2.1.toNat)).all (fun r => fitsEmpty (needsOf l r))
  if !recordOk s l then .error 0x01
  else if !hierarchyOk l then .error 0x02
  else if !storeOk (l.word 7) then .error 0x03
  else if !fits then .error 0x04
  else if !(upTo 32).any (fun cl => decide (l.gang ≤ (presentIn s cl).length)) then .error 0x05
  else
    match fabricRank s l with
    | none => .error 0x08
    | some r => .ok r

/-- A record becomes a launch (R294, R299, R303). -/
def enterLaunch (q prio : Nat) (ready : DWord) (ws : List Word) (s : State) : State :=
  let l : Launch := { queue := q, ctx := q / 8, prio := prio, order := s.takes, words := ws, ready := ready }
  let l := { l with variants := variantsOf (l.word 27 % 4) ((variantWords s l.ctx l).getD []) }
  let s := if l.levels.any (fun v => v.domain = 6) then noteGroup (l.word 8 / 2 ^ 16 % 2 ^ 8) s else s
  let l := match checkRecord s l with
    | .error c => { l with status := [c] }
    | .ok r =>
      let n := l.gang * productAt l.levels 4 * productAt l.levels 5
      { l with blocks := n, base := r * n, mode := if l.deadline = 0 then .started else .deciding
               waiting := some s.tick }
  { s.setLaunch s.fresh l with fresh := s.fresh + 1, takes := s.takes + 1, nextQueue := (q + 1) % 64 }

/-- TAKE_RECORD (R292, R299): the head whose turn it is enters the dispatcher.
Reading: log entry 14, DEDUCED, log entry 43, DEDUCED. -/
def takeRecord (q : Nat) (s : State) : State :=
  if s.queueStopped q || !steady s deviceCore 0 (descriptorAt s q) 8 then s
  else
    match descriptorWords s q with
    | none => s.stopQueue q (descriptorAt s q)
    | some _ =>
      match nextTake s with
      | none => s
      | some (q', d, prio) =>
        if q ≠ q' || !steady s deviceCore 0 (d.slot d.head) 32 then s
        else
          match readWords s deviceCore 0 32 (d.slot d.head) with
          | none => s.stopQueue q (d.slot d.head)
          | some rec =>
            match writeVirtual deviceCore 0 deviceAgent s (descriptorAt s q + 0x10)
                [BitVec.ofNat 32 (d.head + 1)] with
            | none => s.stopQueue q (descriptorAt s q + 0x10)
            | some t => enterLaunch q prio ((s.queue q).readyAt.getD s.tick) rec (t.setQueue q {})

def execTakeRecord (s : State) : Out :=
  .next (match s.now with | .takeRecord q => takeRecord q s | _ => s)

/-! ## Placement (R298, R300 to R302) -/

/-- Resident warps of a core, and of a cluster. -/
def residentWarps (s : State) (core : Nat) : Nat := (s.warpsOn core).length
def clusterWarps (s : State) (cl : Nat) : Nat :=
  ((upTo 16).map (fun i => residentWarps s (cl * 16 + i))).foldl (fun a b => a + b) 0

/-- A cluster reserved for another launch (R301). -/
def reservedElsewhere (s : State) (k cl : Nat) : Bool :=
  s.launches.any (fun e => e.1 ≠ k && e.2.reserved = some cl && e.2.mode = .started)

/-- The die on which a block of a launch with a level bound to a die runs (R298): the units are counted by the
indices at those levels. Reading: log entry 44, DEDUCED. -/
def dieFor (l : Launch) (index : Nat) : Option Nat :=
  if l.levels.any (fun v => v.domain = 4) then
    some (index / max 1 l.gang % max 1 (productAt l.levels 4) % 4)
  else none

/-- An ordered block is resident on a core (R302). -/
def orderedHere (s : State) (core : Nat) : Bool :=
  s.blocks.any (fun e => e.2.core = core && e.2.ordered && e.2.resident)

/-- A core is kept for the rest of a gang whose blocks are being placed (R300, R301). -/
def keptForGang (s : State) (core : Nat) : Bool := s.launches.any (fun e => e.2.gangLeft.contains core)

/-- Whether a core can take one block of a launch now, the rate of its die apart. -/
def coreTakes (s : State) (k : Nat) (l : Launch) (core : Nat) : Bool :=
  let n := needsOf l l.regWord
  let near := (s.core core).ncache
  s.hasCore core && !nmem s.fenced (agentOfCore core) && (near = 0 || near = n.near) &&
  decide (n.warps ≤ (freeBerths s core).length) && !(l.ordered && orderedHere s core) && !keptForGang s core &&
  !reservedElsewhere s k (clusterOfCore core) && (match l.reserved with
    | some cl => clusterOfCore core = cl
    | none => true) &&
  (findPlaces n s.fresh (usedRanges s core n.near)).isSome

/-- A die may place a block: 16 ticks have passed since its last one (R300). -/
def dieReady (s : State) (die : Nat) : Bool :=
  let t := (tget 0 s.placed die).toNat
  t = 0 || decide (t - 1 + 16 ≤ s.tick.toNat)

/-- The first of some cores with the fewest resident warps. -/
def fewest (f : Nat → Nat) : List Nat → Option Nat
  | [] => none
  | c :: cs => some (cs.foldl (fun b x => if f x < f b then x else b) c)

/-- The cores for the next block or gang of a launch, or the one for the next block of a gang that is being placed
(R298, R300, R301); none while it cannot be placed. `rate` says that the die's rate counts: it delays a placement and does not turn it to another die.
Reading: log entry 44, DEDUCED. -/
def coresFor (s : State) (k : Nat) (l : Launch) (rate : Bool) : Option (List Nat) :=
  let ok := fun (c : Nat) =>
    (match dieFor l (l.base + l.next) with | some d => dieOfCore c = d | none => true) && coreTakes s k l c
  let chosen :=
    if l.gangLeft ≠ [] then some (l.gangLeft.take 1)
    else if l.gang ≤ 1 then (fewest (residentWarps s) ((upTo 512).filter ok)).map (fun c => [c])
    else
      let able := (upTo 32).filter (fun cl => decide (l.gang ≤ ((clusterCores s cl).filter ok).length))
      (fewest (clusterWarps s) able).map (fun cl => ((clusterCores s cl).filter ok).take l.gang)
  chosen.filter (fun cs => !rate || cs.all (fun c => dieReady s (dieOfCore c)))

/-- Berths for n warps: from a wish on, in ascending order round the core. Reading: log entry 11, DESIGN CHOICE. -/
def berthsFor (s : State) (core n : Nat) : List Nat :=
  let free := freeBerths s core
  let wish := Config.placeWish s.fresh % 64
  ((free.filter (fun b => decide (wish ≤ b))) ++ free.filter (fun b => decide (b < wish))).take n

/-- A block comes to a core (R21, R35, R202, R300): `gang` is the first block of its gang. -/
def placeBlock (k core gang : Nat) (s : State) : State :=
  let l := s.launch k
  let n := needsOf l l.regWord
  match findPlaces n s.fresh (usedRanges s core n.near) with
  | none => s
  | some places =>
    let id := s.fresh
    let index := l.base + l.next
    let b : Block := {
      launch := k, core := core, index := index, gang := gang, ctx := l.ctx
      warps := n.warps, berths := berthsFor s core n.warps
      vregs := vregsIn l.regWord, sregs := sregsIn l.regWord
      vbases := places.take n.warps, sbases := (places.drop n.warps).take n.warps
      spBase := lget 0 places (2 * n.warps), spSize := n.sp
      accBase := if n.tiles = 0 then 0x3FFFFF else lget 0 places (2 * n.warps + 1), tiles := n.tiles
      ordered := l.ordered, nopre := l.nopre, prodw := l.word 8 / 2 ^ 6 % 2 ^ 6, wdog := l.word 9
      arena := l.dword 10, arenaN := l.word 12
      bump := ⟨l.dword 10 + index * l.word 12, 0⟩
      cbase := l.dword 4, csize := l.word 6 % 2 ^ 9 * 256, prio := l.prio }
    let s := { s.setBlock id b with fresh := s.fresh + 1 }
    let s := s.modCore core (fun c => { c with ncache := n.near })
    let s := s.clearWords (storeKey core b.accBase) (b.tiles * 2 ^ 14)
    let s := (upTo n.warps).foldl (fun s i =>
      let w := startWarp l id b i
      startRegs core w l.param (s.setWarp (warpKey core (lget 0 b.berths i)) w)) s
    s.setLaunch k { s.launch k with next := (s.launch k).next + 1 }

/-- Blocks of a gang, or a block, placed at once. -/
def placeOn (k gang : Nat) (cores : List Nat) (s : State) : State :=
  let s := cores.foldl (fun s c => placeBlock k c gang s) s
  s.setLaunch k { s.launch k with waiting := some s.tick, reserved := .none, preempted := false }

/-- The block that a launch places next goes to a core, at most one on a die in 16 ticks (R300); the cores of the rest of
its gang are kept for it. A block whose core has been fenced meanwhile is lost (R15). -/
def placeNext (k : Nat) (cores : List Nat) (s : State) : State :=
  let l := s.launch k
  let core := cores.headD 0
  let gang := if l.gangLeft = [] then l.base + l.next else l.gangOf
  let rest := if l.gangLeft = [] then cores.drop 1 else l.gangLeft.drop 1
  let s :=
    if nmem s.fenced (agentOfCore core) then
      s.setLaunch k { l with next := l.next + 1, ended := l.ended + 1, status := l.status ++ [0x09] }
    else placeOn k gang [core] s
  let s := s.setLaunch k { s.launch k with gangLeft := rest, gangOf := gang }
  { s with placed := tput s.placed (dieOfCore core) (BitVec.ofNat 64 (s.tick.toNat + 1)) }

/-- Whether a saved block can come back to its core now (R301). Reading: log entry 45, DEDUCED. -/
def canResume (s : State) (b : Nat) : Bool :=
  let v := s.block b
  let l := s.launch v.launch
  let near := nearUnits (l.word 7)
  let c := s.core v.core
  v.mode = .saved && !nmem s.fenced (agentOfCore v.core) && (c.ncache = 0 || c.ncache = near) &&
  decide (v.warps ≤ (freeBerths s v.core).length) && !(v.ordered && orderedHere s v.core) &&
  !keptForGang s v.core && !s.launches.any (fun e => e.2.reserved = some (clusterOfCore v.core) && e.2.mode = .started) &&
  dieReady s (dieOfCore v.core) &&
  v.ranges.all (fun r => rangeFree (usedRanges s v.core near) r.1 r.2)

/-- A launch ahead of another: by effective priority at take, then by take order (R300). -/
def Launch.ahead (a b : Launch) : Bool := decide (b.prio < a.prio) || (a.prio = b.prio && decide (a.order < b.order))

/-- A started variant (R303). -/
def Launch.isVariant (l : Launch) : Bool := l.ran ≠ 0

/-- A launch above another, whenever each was taken. -/
def Launch.above (a b : Launch) : Bool := decide (b.prio < a.prio) || (a.isVariant && b.deadline = 0)

/-- A launch has a saved block that can come back. -/
def hasResume (s : State) (k : Nat) : Bool := s.blocks.any (fun e => e.2.launch = k && canResume s e.1)

/-- A launch has a block or gang that is placed next. -/
def placesNow (s : State) (k : Nat) (l : Launch) : Bool :=
  l.mode = .started && decide (l.next < l.blocks) && (coresFor s k l true).isSome && !hasResume s k

/-- A launch without a deadline waits while a started variant has a block that goes to a core (R303). -/
def barred (s : State) (l : Launch) : Bool :=
  l.deadline = 0 && s.launches.any (fun e => e.2.isVariant && (placesNow s e.1 e.2 || hasResume s e.1))

/-- The blocks of a launch are placed after those of another launch (R300), saved blocks of a higher one
among them. Reading: log entry 45, DEDUCED. -/
def yields (s : State) (l : Launch) : Bool :=
  barred s l || s.launches.any (fun e => !barred s e.2 &&
    ((e.2.ahead l && placesNow s e.1 e.2) || (e.2.above l && hasResume s e.1)))

/-- A saved block comes back now: it can, and no launch ahead of its own has a block that goes to a core.
Reading: log entry 45, DEDUCED. -/
def mayResume (s : State) (b : Nat) : Bool :=
  let l := s.launch (s.block b).launch
  canResume s b && !barred s l && !s.launches.any (fun e =>
    !barred s e.2 && e.2.ahead l && (placesNow s e.1 e.2 || hasResume s e.1))

/-- BLOCK_PLACEMENT (R300 to R302): a gang that is being placed goes on. Reading: log entry 14, DEDUCED. -/
def blockPlacement (k : Nat) (s : State) : State :=
  let l := s.launch k
  if placesNow s k l && (l.gangLeft ≠ [] || !yields s l) then
    match coresFor s k l true with
    | none => s
    | some cores => placeNext k cores s
  else s

def execBlockPlacement (s : State) : Out :=
  .next (match s.now with | .blockPlacement k => blockPlacement k s | _ => s)

/-! ## Saving and resuming (R301, R383 to R385) -/

/-- Images that lie in a core's save area: offset and bytes. -/
def imagesOf (s : State) (core : Nat) : List (Nat × Nat) :=
  (s.blocks.filter (fun e => e.2.core = core && (e.2.mode = .saved || e.2.mode = .held))).map
    (fun e => (e.2.image, e.2.imageN))

/-- The lowest offset at which an image fits (R385). -/
def imageSpace (s : State) (core n : Nat) : Option Nat :=
  let held := imagesOf s core
  let free := fun (a : Nat) => decide (a + n ≤ 0x310000) &&
    held.all (fun u => decide (a + n ≤ u.1) || decide (u.1 + u.2 ≤ a))
  let cs := ((0 :: held.map (fun u => u.1 + u.2)).filter free)
  match cs with
  | [] => none
  | c :: rest => some (rest.foldl min c)

/-- Address of a core's save area (R383). -/
def saveArea (s : State) (core : Nat) : Nat := bitsOf (s.sysreg 0x1B9) 16 41 * 2 ^ 16 + core * 0x310000

/-- Room for the image of a block as it stands. -/
def roomForImage (s : State) (b : Nat) : Option Nat :=
  let v := s.block b
  imageSpace s v.core (4 * imageWords v v.entries.length)

/-- A running block is asked to stop at its warps' safe points (R383). -/
def beginSave (b : Nat) (hold : Bool) (s : State) : State :=
  s.modBlock b (fun v => { v with mode := .saving, hold := hold })

/-- A block runs on: a switch has been abandoned, or a count restarts. -/
def abandonSave (b : Nat) (s : State) : State :=
  let s := (s.warpsOf b).foldl (fun s k => s.modWarp k (fun w => { w with parked := false })) s
  s.modBlock b (fun v => { v with mode := .running, hold := false, clocks := 0 })

/-- Words of an image written at a virtual address of a context by the device; none where one of them does
not translate. Reading: log entry 12, DEDUCED. -/
def writeImage (core ctx agent : Nat) : State → Nat → List ImageWord → Except Nat State
  | s, _, [] => .ok s
  | s, va, (w, bad) :: ws =>
    match translate s core ctx true needStore va with
    | .error _ => .error va
    | .ok p => writeImage core ctx agent (storeThrough agent p w bad s) (va + 4) ws

/-- Words of an image read back. Reading: log entry 12, DEDUCED. -/
def readImage (s : State) (core ctx : Nat) : Nat → Nat → Except Nat (List ImageWord)
  | 0, _ => .ok []
  | n + 1, va =>
    match translate s core ctx true needLoad va with
    | .error _ => .error va
    | .ok p =>
      match s.latest (p.pa / 4), readImage s core ctx n (va + 4) with
      | none, _ => .error va
      | _, .error e => .error e
      | some w, .ok ws => .ok (w :: ws)

/-- A block leaves its core: its warps' berths are free, its image lies in the save area. -/
def switchOut (b image n : Nat) (s : State) : State :=
  let v := s.block b
  let ws := s.warpsOf b
  let counts := countsOf s b
  let waits := waitsOf (ws.foldl noteWaits s) b
  let aheads := aheadsOf s b
  let s := ws.foldl (fun s k => s.setWarp k {}) s
  (s.setBlock b { v with mode := if v.hold then .held else .saved, image := image, imageN := n, clocks := 0
                         counts := counts, waits := waits, aheads := aheads }).leaveCore v.core

/-- Every warp of a block stands at a safe point with nothing outstanding (R29, R278, R383, R384). -/
def savable (s : State) (b : Nat) : Bool :=
  (s.warpsOf b).all (fun k => atSafePoint s none false k && (s.warp k).fault.isNone) && noProducers s b &&
  !scratchBusy s b

/-- PREEMPTION_SAVE (R383). Reading: log entry 45, DEDUCED. -/
def preemptionSave (b : Nat) (s : State) : State :=
  let v := s.block b
  if v.mode ≠ .saving || !savable s b then s
  else
    match roomForImage s b with
    | none => abandonSave b s
    | some o =>
      let s1 := stopMatrix b s
      let ws := imageOf s1 b
      match writeImage deviceCore 0 deviceAgent s1 (saveArea s v.core + o) ws with
      | .error va => (abandonSave b s).logStructure va
      | .ok s2 => switchOut b o (4 * ws.length) s2

def execPreemptionSave (s : State) : Out :=
  .next (match s.now with | .preemptionSave b => preemptionSave b s | _ => s)

/-- A saved block's warps come back (R301, R384). -/
def switchIn (b : Nat) (ws : List ImageWord) (s : State) : State :=
  let v := s.block b
  let l := s.launch v.launch
  let berths := berthsFor s v.core v.warps
  let s := s.setBlock b { v with mode := .running, berths := berths, hold := false, clocks := 0 }
  let s := s.modCore v.core (fun c => { c with ncache := nearUnits (l.word 7) })
  let s := restoreStore b ws s
  let s := (upTo v.warps).foldl (fun s i => restoreInto b ws i (lget 0 berths i) s) s
  let s := s.modBlock b (fun v => { v with waits := [], aheads := [] })
  (upTo v.warps).foldl (fun s i => s.reap (warpKey v.core (lget 0 berths i))) s

/-- BLOCK_RESUME (R301): on the same core, at the same bases. An image that cannot be read back loses the
block (log entry 12). Reading: log entry 45, DEDUCED. -/
def blockResume (b : Nat) (s : State) : State :=
  let v := s.block b
  if !mayResume s b || !steady s deviceCore 0 (saveArea s v.core + v.image) (v.imageN / 4) then s
  else
    let die := dieOfCore v.core
    match readImage s deviceCore 0 (v.imageN / 4) (saveArea s v.core + v.image) with
    | .error va => (s.discard b).logStructure va
    | .ok ws =>
      { switchIn b ws s with placed := tput s.placed die (BitVec.ofNat 64 (s.tick.toNat + 1)) }

def execBlockResume (s : State) : Out :=
  .next (match s.now with | .blockResume b => blockResume b s | _ => s)

/-- A launch has a block that waits for room on a core (R383). -/
def waitsFor (s : State) (core prio : Nat) : Bool :=
  s.launches.any (fun e =>
    e.2.mode = .started && decide (prio ≤ e.2.prio) && decide (e.2.next < e.2.blocks) &&
    (coresFor s e.1 e.2 false).isNone &&
    (match dieFor e.2 (e.2.base + e.2.next) with | some d => dieOfCore core = d | none => true)) ||
  s.blocks.any (fun e => e.2.mode = .saved && e.2.core = core && decide (prio ≤ e.2.prio))

/-- QUANTUM_END (R383, R385). -/
def quantumEnd (b : Nat) (s : State) : State :=
  let v := s.block b
  let q := bitsOf (s.sysreg 0x1B8) 0 32
  if v.mode ≠ .running || q = 0 || v.nopre || decide (v.clocks < q * 1024) then s
  else if waitsFor s v.core v.prio && (roomForImage s b).isSome then beginSave b false s
  else s.modBlock b (fun v => { v with clocks := 0 })

def execQuantumEnd (s : State) : Out :=
  .next (match s.now with | .quantumEnd b => quantumEnd b s | _ => s)

/-- PREEMPT_REQUEST (R412): a block of a launch with NOPRE is refused, and so is one whose image has no room.
Reading: log entry 64, DEDUCED. -/
def preemptRequest (b : Nat) (hold : Bool) (s : State) : State :=
  let v := s.block b
  if v.nopre then s
  else if v.mode = .running && (roomForImage s b).isSome then beginSave b hold s
  else s

def execPreemptRequest (s : State) : Out :=
  .next (match s.now with | .preemptRequest b hold => preemptRequest b hold s | _ => s)

/-- RESUME_REQUEST (R412). -/
def resumeRequest (b : Nat) (s : State) : State :=
  s.modBlock b (fun v =>
    if v.mode = .held then { v with mode := .saved, hold := false }
    else if v.mode = .saving then { v with hold := false } else v)

def execResumeRequest (s : State) : Out :=
  .next (match s.now with | .resumeRequest b => resumeRequest b s | _ => s)

/-! ## Gang reservation (R301) -/

/-- A launch's gang waits: it cannot be placed now. -/
def gangWaits (s : State) (k : Nat) (l : Launch) : Bool :=
  l.mode = .started && decide (1 < l.gang) && decide (l.next < l.blocks) && (coresFor s k l false).isNone

/-- 200 microseconds have passed since a tick. Reading: log entry 44, DEDUCED. -/
def gangTime (s : State) (t : Option DWord) : Bool :=
  match t with
  | some t => decide (t.toNat + 360000 ≤ s.tick.toNat)
  | none => false

/-- GANG_RESERVATION. Reading: log entry 44, DEDUCED. -/
def gangReservation (k : Nat) (s : State) : State :=
  let l := s.launch k
  if gangWaits s k l && l.reserved.isNone && gangTime s l.waiting then
    let ok := fun (cl : Nat) => decide (l.gang ≤ (clusterCores s cl).length) && !reservedElsewhere s k cl &&
      (match dieFor l (l.base + l.next) with | some d => cl / 8 = d | none => true)
    match fewest (clusterWarps s) ((upTo 32).filter ok) with
    | none => s
    | some cl => s.setLaunch k { l with reserved := some cl, waiting := some s.tick, preempted := false }
  else s

def execGangReservation (s : State) : Out :=
  .next (match s.now with | .gangReservation k => gangReservation k s | _ => s)

/-- Blocks resident in a cluster. -/
def blocksIn (s : State) (cl : Nat) : List (Nat × Block) :=
  s.blocks.filter (fun e => clusterOfCore e.2.core = cl && e.2.resident)

/-- GANG_RESERVATION_PREEMPT. -/
def gangPreempt (k : Nat) (s : State) : State :=
  let l := s.launch k
  match l.reserved with
  | none => s
  | some cl =>
    if !gangWaits s k l || l.preempted || !gangTime s l.waiting then s
    else if (blocksIn s cl).any (fun e => e.2.nopre) then
      s.setLaunch k { l with reserved := .none, blocks := l.next, status := l.status ++ [0x05] }
    else
      let s := (blocksIn s cl).foldl (fun s e =>
        if e.2.mode = .running && decide (e.2.prio ≤ l.prio) && (roomForImage s e.1).isSome then
          beginSave e.1 false s else s) s
      s.setLaunch k { l with preempted := true }

def execGangReservationPreempt (s : State) : Out :=
  .next (match s.now with | .gangReservationPreempt k => gangPreempt k s | _ => s)

/-! ## Deadlines (R303) -/

/-- Every block of a launch can be placed at once. Reading: log entry 44, DEDUCED. -/
def placeEvery (k : Nat) : Nat → State → Bool
  | 0, s => decide ((s.launch k).blocks ≤ (s.launch k).next)
  | fuel + 1, s =>
    let l := s.launch k
    if l.blocks ≤ l.next then true
    else
      match coresFor s k l false with
      | none => false
      | some cores => placeEvery k fuel (placeOn k (l.base + l.next) cores s)

/-- Whether the primary can be started now; a core has 64 berths. Reading: log entry 44, DEDUCED. -/
def primaryFits (k : Nat) (s : State) : Bool :=
  decide ((s.launch k).blocks ≤ 32768) && placeEvery k ((s.launch k).blocks + 1) s

/-- What is started at the decision tick, and whether MISS is set. -/
def choose (l : Launch) (now : Nat) : Nat × Bool :=
  let d := l.deadline
  let wc := fun (i : Nat) => (lget (0, 0, 0, 0) l.variants i).2.2.2
  let n := l.variants.length
  if 1 ≤ n && decide (now + wc 0 ≤ d) then (1, false)
  else if 2 ≤ n && decide (now + wc 1 ≤ d) then (2, false)
  else (n, true)

/-- DEADLINE_DECISION (R303): the primary is started where it fits; at the later of the decision tick and the tick at
which the launch became ready what the rule says then is. -/
def deadlineDecision (k : Nat) (s : State) : State :=
  let l := s.launch k
  if l.mode ≠ .deciding then s
  else if primaryFits k s then s.setLaunch k { l with mode := .started, waiting := some s.tick }
  else
    let now := max (l.deadline - l.word 26) l.ready.toNat
    if s.tick.toNat < now then s
    else
      let (r, m) := choose l now
      s.setLaunch k { l with mode := .started, ran := r, miss := m, waiting := some s.tick }

/-- The decision is made at each tick, so that it is made at the tick that the rule names (R303). -/
def decideLaunches (s : State) : State :=
  s.launches.foldl (fun s e => if e.2.mode = .deciding then deadlineDecision e.1 s else s) s

def execDeadlineDecision (s : State) : Out :=
  .next (match s.now with | .deadlineDecision k => deadlineDecision k s | _ => s)

/-! ## Completion (R304, R305) -/

/-- A Reg or a Wb of a launch's blocks is not acknowledged. -/
def launchUnacked (s : State) (k : Nat) : Bool :=
  let of_ := fun (b : Nat) => b ≠ 0 && (s.block b).launch = k
  s.near.any (fun e => (e.2.reqPend && of_ e.2.reqBlock) || (e.2.kept && of_ e.2.keptBlock))

/-- Every block is over. -/
def launchEnded (s : State) (k : Nat) (l : Launch) : Bool :=
  l.mode = .started && decide (l.blocks ≤ l.next) && decide (l.next ≤ l.ended) && !launchUnacked s k

/-- The status that is written: the lowest code (R305). -/
def statusOf (l : Launch) : Nat :=
  match l.status with
  | [] => 0
  | c :: cs => cs.foldl min c

/-- The completion record's words (R305). -/
def completionWords (s : State) (l : Launch) (late : Bool) : List Word :=
  [BitVec.ofNat 32 (statusOf l),
    BitVec.ofNat 32 (l.ran + (if l.miss then 2 ^ 8 else 0) + (if late then 2 ^ 9 else 0))] ++ wordsOfD s.tick

/-- LAUNCH_COMPLETION (R304); a record whose CREC is misaligned has its completion record at the multiple of 16 below.
Reading: log entry 79, DESIGN CHOICE. -/
def launchCompletion (k : Nat) (s : State) : State :=
  let l := s.launch k
  if !launchEnded s k l then s
  else
    let late := l.deadline ≠ 0 && l.blocks ≠ 0 && decide (l.deadline < s.tick.toNat)
    let crec := l.dword 14 / 16 * 16
    let s := if l.dword 14 = 0 then s
      else
        match writeVirtual deviceCore l.ctx deviceAgent s crec (completionWords s l late) with
        | some s => s
        | none => s.logStructure crec
    let c := l.word 13
    let s := if c.testBit 31 then
        s.send (.dependenceCounterChange (c / 2 ^ 24 % 4 * 256 + c / 2 ^ 16 % 2 ^ 8) (-1) 0)
      else s
    s.setLaunch k { l with mode := .done, late := late }

def execLaunchCompletion (s : State) : Out :=
  .next (match s.now with | .launchCompletion k => launchCompletion k s | _ => s)

/-! ## LAUNCH (R306, R307) -/

/-- The record is appended, or the queue is full; the result. -/
def appendRecord (q : Nat) (rec : List Word) (s : State) : Nat × State :=
  match descriptorWords s q with
  | none => (2 ^ 32 - 1, s.stopQueue q (descriptorAt s q))
  | some ws =>
    let d := queueDescOf ws
    if d.slots ≤ d.waiting then (2 ^ 32 - 1, s)
    else
      match writeVirtual deviceCore 0 deviceAgent s (d.slot d.tail) rec with
      | none => (2 ^ 32 - 1, s.stopQueue q (d.slot d.tail))
      | some s =>
        match writeVirtual deviceCore 0 deviceAgent s (descriptorAt s q + 0xC) [BitVec.ofNat 32 (d.tail + 1)] with
        | none => (2 ^ 32 - 1, s.stopQueue q (descriptorAt s q + 0xC))
        | some s => (d.tail, s)

/-- A queue that takes records from LAUNCH; of one whose descriptor does not translate no warp takes a fault (R309). -/
def launchable (s : State) (q : Nat) : Bool :=
  decide (q ≤ 63) && (match descriptorWords s q with
    | some ws => (queueDescOf ws).en && (queueDescOf ws).dev
    | none => true)

/-- LAUNCH (R307): the release is eligibility; the record's words are read when their values exist. -/
def launchGroup (cx : Ctx) (s : State) : State :=
  let a := s.opA cx 0
  let q := s.opB cx 0
  let refuse := fun (qual : Nat) => s.raise cx.wk (s.trapOf cx .permission qual cx.act (BitVec.ofNat 64 a))
  if q ≤ 63 && !steady s deviceCore 0 (descriptorAt s q) 8 then s
  else if !launchable s q then refuse 7
  else if a % 128 ≠ 0 then
    (if 2 ^ 57 ≤ a then s.raise cx.wk (pageTrap s cx ⟨0, 2⟩ a) else refuse 1)
  else
    match pagesOf s cx needLoad a 128 with
    | .error (m, va) => s.raise cx.wk (pageTrap s cx m va)
    | .ok ps =>
      let pw := (ps.map (fun e => e.2.1)).headD 0 / 4
      let words := (upTo 32).map (fun i => pw + i)
      if regionOf (4 * pw) = .fabric then
        let (rec, s) := words.foldl (fun (acc : List Word × State) p =>
          let (v, s) := acc.2.takeFree
          (acc.1 ++ [v.setWidth 32], s.sendOut 0 (4 * p) 0 0)) ([], s)
        let (r, s) := appendRecord q rec s
        (s.putUniform cx 1 r).advance cx
      else if words.any (fun p => !s.quiet p) then s
      else
        match words.find? (fun p => (s.latest p).isNone), words.find? (fun p => (s.latest p).any Prod.snd) with
        | some p, _ =>
          let log := tget (0, 0) s.lostLog p
          s.raise cx.wk { s.trapOf cx .ownerLost 0 cx.act (BitVec.ofNat 64 a) with
            own := BitVec.ofNat 64 (4 * 2 ^ 32 + bitsOf log.1 0 16), ownTick := log.2 }
        | none, some p => s.raise cx.wk (s.trapOf cx .poison 1 cx.act (BitVec.ofNat 64 (a + 4 * (p - pw))))
        | none, none =>
          let (r, s) := appendRecord q (words.map (fun p => ((s.latest p).getD (0, false)).1)) s
          (s.putUniform cx 1 r).advance cx

def execLaunch (x : Long) (s : State) : Out := .next (issueOf (.launch x) false launchGroup s)

end Sys2Proof.Machine
end

