-- ==== Sys2Proof/Machine/Sysregs.lean ====
section
/-! DEFINITION. System registers (R386 and the rules that assign them): which numbers there are, what a read
gives and what a write does, SYSRD and SYSWR, and the writes that are events of their own. -/

namespace Sys2Proof.Machine

/-! ## Numbers and fields -/

/-- Whether a chapter assigns a number. -/
def assigned (n : Nat) : Bool :=
  decide (0x100 ≤ n ∧ n ≤ 0x104) || decide (0x110 ≤ n ∧ n ≤ 0x13B) || decide (0x140 ≤ n ∧ n ≤ 0x141) ||
  decide (0x150 ≤ n ∧ n ≤ 0x153) || decide (0x160 ≤ n ∧ n ≤ 0x162) || decide (0x168 ≤ n ∧ n ≤ 0x169) ||
  n = 0x170 || decide (0x178 ≤ n ∧ n ≤ 0x17F) || decide (0x188 ≤ n ∧ n ≤ 0x189) ||
  decide (0x190 ≤ n ∧ n ≤ 0x191) || decide (0x198 ≤ n ∧ n ≤ 0x199) || decide (0x1A0 ≤ n ∧ n ≤ 0x1A1) ||
  decide (0x1A8 ≤ n ∧ n ≤ 0x1A9) || decide (0x1B0 ≤ n ∧ n ≤ 0x1B9) || decide (0x1C0 ≤ n ∧ n ≤ 0x1CB) ||
  decide (0x1D0 ≤ n ∧ n ≤ 0x1D1) || decide (0x1E0 ≤ n ∧ n ≤ 0x1FF) || decide (0x200 ≤ n ∧ n ≤ 0x211) ||
  decide (0x218 ≤ n ∧ n ≤ 0x219)

/-- Numbers that all code may read (R386). -/
def openNumber (n : Nat) : Bool := decide (0x100 ≤ n ∧ n ≤ 0x147)

/-- A mask of bits lo to lo + n - 1. -/
def bitsMask (lo n : Nat) : Nat := (2 ^ n - 1) * 2 ^ lo

/-- RW fields of the registers whose writes only set them. Reading: log entry 62, DEDUCED. -/
def plainMask (n : Nat) : Nat :=
  if n = 0x168 then bitsMask 12 45
  else if n = 0x169 then bitsMask 0 32
  else if 0x1B0 ≤ n && n ≤ 0x1B7 then 2 ^ 63 + bitsMask 2 55
  else if n = 0x1B8 then bitsMask 0 32
  else if n = 0x1B9 then bitsMask 16 41
  else if 0x1C0 ≤ n && n ≤ 0x1C3 then bitsMask 0 64
  else if 0x1C4 ≤ n && n ≤ 0x1C7 then 2 ^ 63 + bitsMask 57 4 + bitsMask 2 55
  else if n = 0x1C8 then bitsMask 0 9
  else if n = 0x1D1 then bitsMask 0 64
  else if 0x1E0 ≤ n && n ≤ 0x1EF then bitsMask 61 3 + bitsMask 46 10 + bitsMask 0 16
  else if 0x1F0 ≤ n && n ≤ 0x1FF then bitsMask 61 3 + bitsMask 0 16
  else 0

/-- The bits of a mask taken from a new value, the others kept. -/
def mergeMask (m : Nat) (old new : DWord) : DWord :=
  let k := BitVec.ofNat 64 m
  (old &&& ~~~k) ||| (new &&& k)

/-! ## Reads -/

/-- A read by a core (R386); OWNID, OWNTK and XLSTAT are the core's (R217, R317). -/
def sysRead (s : State) (core n : Nat) : DWord :=
  if n = 0x161 then (s.core core).ownid
  else if n = 0x162 then (s.core core).owntk
  else if n = 0x189 then (s.core core).xlstat
  else s.sysreg n

/-! ## Writes with effects of their own -/

/-- MTKCFG (R156). -/
def writeMtkcfg (die : Nat) (v : DWord) (s : State) : State :=
  let preset := bitsOf v 4 2
  let t := bitsOf v 0 4
  let t := match preset with | 0 => t | 1 => 3 | 2 => 6 | _ => 8
  if t = 0 || 8 < t then s else s.setSysreg (0x150 + die % 4) (BitVec.ofNat 64 (preset * 16 + t))

/-- Registry lines of a page with a registered word, and their owners' slots. -/
def pageSlots (s : State) (base size : Nat) : List (Nat × Nat) :=
  (s.registry.filter (fun e => decide (base ≤ 128 * e.1 ∧ 128 * e.1 < base + size))).flatMap (fun e =>
    e.2.slots.filterMap (fun sl => match sl with
      | some sl => some (e.1, sl.agent)
      | none => none))

/-- Every registration of a page is recalled (R177). -/
def recallPage (base size : Nat) (s : State) : State :=
  (pageSlots s base size).foldl (fun s (n, a) =>
    if agentKind a = 0 then (s.startTimer (n * 32) a 3 0).send (.recall n a) else s) s

/-- Size of a flip's page (R176). -/
def flipSize (v : DWord) : Nat := match bitsOf v 0 2 with | 0 => 2 ^ 16 | 1 => 2 ^ 21 | _ => 2 ^ 30

/-- BIASCMD (R176, R177): a flip starts. -/
def writeBias (v : DWord) (s : State) : State :=
  let old := s.sysreg 0x160
  if old.getLsbD 63 || bitsOf v 0 2 = 3 then s
  else
    let size := flipSize v
    let base := bitsOf v 16 36 * 2 ^ 16 / size * size
    let toHost := v.getLsbD 62
    let s := s.setSysreg 0x160
      (BitVec.ofNat 64 (2 ^ 63 + bitsOf v 62 1 * 2 ^ 62 + bitsOf v 16 36 * 2 ^ 16 + bitsOf v 0 2))
    let s := { s with flip := some ⟨toHost, base, size, s.tick + 180000⟩ }
    if toHost then recallPage base size s
    else s.answer Config.hostNode 11 base (BitVec.ofNat 64 size) 0

/-- A flip has ended with a status. -/
def endFlip (status : Nat) (s : State) : State :=
  let v := s.sysreg 0x160
  { s.setSysreg 0x160 (BitVec.ofNat 64 (bitsOf v 62 1 * 2 ^ 62 + status * 2 ^ 60 + bitsOf v 0 52)) with flip := .none }

/-- A message about a word of a page is under way. -/
def pageMessage (base size : Nat) (e : Event) : Bool :=
  let inside := fun (pw : Nat) => decide (base ≤ 4 * pw ∧ 4 * pw < base + size)
  match e with
  | .wb p _ _ _ => inside p
  | .fwd p _ _ => inside p
  | .xfer p _ _ _ _ => inside p
  | .recall n _ => inside (32 * n)
  | .homeAtomic _ _ => false
  | _ => false

/-- A flip to host bias is recorded once no word of the page is registered and no message about one is under
way; lines of a page in host bias keep clock 0 (R177, R355). -/
def flipStep (s : State) : State :=
  match s.flip with
  | none => s
  | some f =>
    if !f.toHost then s
    else
      let busy := s.registry.any (fun e => decide (f.base ≤ 128 * e.1 ∧ 128 * e.1 < f.base + f.size) &&
        e.2.codes.any (fun c => decide (4 ≤ c.toNat)))
      if busy || s.inFlight.any (pageMessage f.base f.size) then s
      else
        let pages := (upTo (f.size / 2 ^ 16)).map (fun i => f.base / 2 ^ 16 + i)
        endFlip 0 { s with
          hostBias := pages.foldl nput s.hostBias
          registry := s.registry.map (fun ((n, v) : Nat × Line) =>
            if f.base ≤ 128 * n && 128 * n < f.base + f.size then (n, { v with clock := 0 }) else (n, v))
          timers := s.timers.filter (fun t =>
            !(t.2.kind = 3 && decide (f.base ≤ 4 * t.2.word ∧ 4 * t.2.word < f.base + f.size))) }

/-- CQTAB (R290): ignored while a queue is enabled; stopped queues are served again (R309). -/
def writeCqtab (v : DWord) (s : State) : State :=
  let on := (upTo 64).any (fun q => match descriptorWords s q with
    | some ws => (queueDescOf ws).en
    | none => false)
  if on then s
  else
    { s.setSysreg 0x170 (mergeMask (bitsMask 12 45) 0 v) with
      queues := s.queues.map (fun (k, q) => (k, { q with stopped := false })) }

/-- XLROOT (R308). Reading: log entry 73, DEDUCED. -/
def writeXlroot (ctx : Nat) (v : DWord) (s : State) : State :=
  let f := fun (c : Cached) => decide (c.ctx = ctx % 8)
  (releasePins ∘ markPins f ∘ removeCached f) (s.setSysreg (0x178 + ctx % 8) (mergeMask (bitsMask 17 35 + 1) 0 v))

/-- The translations that an XLINV names (R315). -/
def xlinvNames (v : DWord) (c : Cached) : Bool :=
  match bitsOf v 61 2 with
  | 0 => c.ctx = bitsOf v 58 3 && decide (c.base ≤ bitsOf v 16 41 * 2 ^ 16 ∧ bitsOf v 16 41 * 2 ^ 16 < c.base + c.size)
  | 1 => c.ctx = bitsOf v 58 3
  | _ => true

/-- XLINV (R315, R316): the entries are removed, and BUSY stands until their users are done.
Reading: log entry 73, DEDUCED. -/
def writeXlinv (v : DWord) (s : State) : State :=
  if (s.sysreg 0x188).getLsbD 63 || bitsOf v 61 2 = 3 then s
  else
    let waits := s.near.filter (fun e => e.2.reqPend || e.2.kept || e.2.pref.isSome)
    let s := { s with xlSince := s.fresh, xlWords := waits.map Prod.fst }
    (markPins (xlinvNames v) ∘ removeCached (xlinvNames v))
      (s.setSysreg 0x188 (BitVec.ofNat 64 (2 ^ 63) ||| mergeMask (bitsMask 58 5 + bitsMask 16 41) 0 v))

/-- Copies, collectives and context saves of a context whose translations an XLINV names: they hold theirs
(R273, R316, R381). -/
def xlinvHeld (s : State) (v : DWord) : Bool :=
  let named := fun (ctx : Nat) => bitsOf v 61 2 = 2 || ctx = bitsOf v 58 3
  s.copies.any (fun e => named (s.block e.2.block).ctx) || s.colls.any (fun e => named (s.block e.2.block).ctx) ||
  s.cores.any (fun e => e.2.pieces.any (fun p => named p.ctx))

/-- An XLINV is over: every access that was in flight has been performed and every store of them acknowledged, and pins
without a translation are released (R169, R316). Reading: log entry 73, DEDUCED. -/
def finishXlinv (s : State) : State :=
  let v := s.sysreg 0x188
  let waits := s.xlWords.any (fun k => match tfind s.near k with
    | some n => n.reqPend || n.kept || n.pref.isSome
    | none => false)
  if v.getLsbD 63 && !s.txns.any (fun e => e.1 < s.xlSince) && !waits && !xlinvHeld s v then
    releasePins { s.setSysreg 0x188 (v &&& ~~~(BitVec.ofNat 64 (2 ^ 63))) with xlWords := [] }
  else s

/-- TKCTL (R350): STEP asks for a forward step while the discipline is on, any write clears STEPPED, and a write that
turns the discipline off ends what it was doing. Reading: log entry 50, DEDUCED. -/
def writeTkctl (v : DWord) (s : State) : State :=
  let s := s.setSysreg 0x190 (mergeMask (2 ^ 63 + 2 ^ 61) 0 v)
  let s := s.setSysreg 0x191 (s.sysreg 0x191 &&& ~~~(BitVec.ofNat 64 (2 ^ 62)))
  if !v.getLsbD 63 then { s with servo := { s.servo with left := 0, step := false } }
  else if v.getLsbD 62 then { s with servo := { s.servo with step := true } }
  else s

/-- A log's control register (R361): a size or a rate out of range leaves its field alone, and a new BASE or
LOG2SIZE restarts HEAD. -/
def writeLog (ctl stat mask : Nat) (v : DWord) (s : State) : State :=
  let old := s.sysreg ctl
  let size := bitsOf v 0 5
  let rate := bitsOf v 7 5
  let mask := if 12 ≤ size && size ≤ 30 then mask else mask - bitsMask 0 5
  let mask := if rate ≤ 20 || mask / 2 ^ 7 % 2 = 0 then mask else mask - bitsMask 7 5
  let new := mergeMask mask old v
  let s := s.setSysreg ctl new
  if bitsOf new 12 45 = bitsOf old 12 45 && bitsOf new 0 5 = bitsOf old 0 5 then s
  else s.setSysreg stat (s.sysreg stat &&& BitVec.ofNat 64 (bitsMask 32 32))

/-- RPCTL, ELCTL. -/
def logMask : Nat := 2 ^ 63 + bitsMask 12 45 + bitsMask 0 5

/-- TRCTL (R359, R361). -/
def writeTrctl (v : DWord) (s : State) : State :=
  let s := writeLog 0x1A0 0x1A1 (bitsMask 61 3 + bitsMask 12 45 + bitsMask 7 5 + bitsMask 0 5) v s
  { s with cores := s.cores.map (fun (k, c) => (k, { c with requests := 0 })) }

/-- The package starts again (R372, R389): the warp that a debug halt recorded passes the matched instruction
once, or its handler starts. -/
def resume (s : State) : State :=
  if !s.stopped || s.halted then s
  else
    let ctl := s.sysreg 0x1D0
    let dbg := s.sysreg 0x1C9
    let reason := bitsOf dbg 61 2
    let s := s.setSysreg 0x1D0 (ctl &&& BitVec.ofNat 64 (2 ^ 62))
    let s := s.setSysreg 0x1C9 (dbg &&& ~~~(BitVec.ofNat 64 (2 ^ 63)))
    let wk := s.haltWarp
    let s := tellStop false { s with stopped := false, haltWarp := .none }
    match wk with
    | none => s
    | some wk =>
      if reason = 3 then s.tryEntry (wk / 128) true
      else s.modWarp wk (fun w => { w with latch := some (s.sysreg 0x1CA) })

/-- SHUTCTL (R387 to R389, R397): only the host resumes; a locked device ignores SCAN. -/
def writeShutctl (host : Bool) (v : DWord) (s : State) : State :=
  let old := s.sysreg 0x1D0
  let arm := v.getLsbD 63
  let scan := v.getLsbD 62 && s.mailbox.unlocked
  let s := s.setSysreg 0x1D0 (BitVec.ofNat 64 ((if arm then 2 ^ 63 else 0) + (if scan then 2 ^ 62 else 0) +
    bitsOf old 60 1 * 2 ^ 60))
  let s := if arm && !old.getLsbD 63 then tellStop true s else s
  if v.getLsbD 61 && host then resume s else s

/-- PWRCAP (R402). -/
def writePwrcap (v : DWord) (s : State) : State :=
  let w := bitsOf v 0 16
  if bitsOf v 62 2 = 0 && (w < 1500 || 3900 < w) then s
  else s.setSysreg 0x218 (mergeMask (bitsMask 62 2 + bitsMask 0 16) 0 v)

/-- A privileged write of a system register (R386), by a core or by the host. Reading: log entry 62, DEDUCED. -/
def sysWrite (host : Bool) (n : Nat) (v : DWord) (s : State) : State :=
  if 0x150 ≤ n && n ≤ 0x153 then writeMtkcfg (n - 0x150) v s
  else if n = 0x160 then writeBias v s
  else if n = 0x170 then writeCqtab v s
  else if 0x178 ≤ n && n ≤ 0x17F then writeXlroot (n - 0x178) v s
  else if n = 0x188 then writeXlinv v s
  else if n = 0x190 then writeTkctl v s
  else if n = 0x198 then writeLog 0x198 0x199 logMask v s
  else if n = 0x1A0 then writeTrctl v s
  else if n = 0x1A8 then writeLog 0x1A8 0x1A9 logMask v s
  else if n = 0x1D0 then writeShutctl host v s
  else if n = 0x218 then writePwrcap v s
  else
    let m := plainMask n
    if m = 0 then s else s.setSysreg n (mergeMask m (s.sysreg n) v)

/-! ## SYSRD and SYSWR -/

/-- The register number of an access. -/
def sysNumber (cx : Ctx) (s : State) : Nat := s.opA cx 0

/-- R59 row 6: all code reads 0x100 to 0x147, and every other access is the handler's; an unassigned number is
illegal. -/
def sysRights (write : Bool) (cx : Ctx) (s : State) : Option Trap :=
  let n := sysNumber cx s
  if !cx.handler && (write || !openNumber n) then some (s.trapOf cx .privileged 0 cx.group 0)
  else if !assigned n then some (s.trapOf cx .illegal 0 cx.group 0)
  else none

/-- An access to a system register. -/
def sysIssue (i : Instr) (write : Bool) (act : Ctx → State → State) (s : State) : State :=
  match i.info with
  | none => s
  | some f => issueWith f.x f.shape write false [sysRights write] [] act s

/-- SYSRD. -/
def sysrdGroup (cx : Ctx) (s : State) : State :=
  (s.putUniform cx 2 (sysRead s cx.core (sysNumber cx s)).toNat).advance cx

def execSysrd (x : Long) (s : State) : Out := .next (sysIssue (.sysrd x) false sysrdGroup s)

/-- SYSWR: one to XLINV waits while BUSY is 1, and performs a release at `.sys` first (R315, R316).
Reading: log entry 47, DEDUCED. -/
def syswrGroup (cx : Ctx) (s : State) : State :=
  let n := sysNumber cx s
  if n = 0x188 && ((s.sysreg 0x188).getLsbD 63 || s.unacked cx.core || s.engineBusy cx.core) then s
  else (sysWrite false n (BitVec.ofNat 64 (s.opB cx 0)) s).advance cx

def execSyswr (x : Long) (s : State) : Out := .next (sysIssue (.syswr x) true syswrGroup s)

/-! ## Writes by the host that are events of their own -/

/-- An inbound access-control entry that admits a node to the management window, for a write or a read (R391). -/
def manages (s : State) (write : Bool) (node : Nat) : Bool :=
  (upTo 16).any (fun i =>
    let e := s.sysreg (0x1F0 + i)
    e.getLsbD 63 && e.getLsbD 61 && (!write || e.getLsbD 62) && bitsOf e 0 16 = node)

/-- Some node can write the management window. Reading: log entry 62, DEDUCED. -/
def managed (s : State) : Bool := (upTo 16).any (fun i => manages s true (bitsOf (s.sysreg (0x1F0 + i)) 0 16))

/-- A register written through the management window by a node that may. Reading: log entry 62, DEDUCED. -/
def hostWrite (n : Nat) (v : DWord) (s : State) : State := if managed s then sysWrite true n v s else s

def execMtkcfgWrite (s : State) : Out :=
  .next (match s.now with | .mtkcfgWrite die v => hostWrite (0x150 + die % 4) v s | _ => s)

def execXlrootWrite (s : State) : Out :=
  .next (match s.now with | .xlrootWrite ctx v => hostWrite (0x178 + ctx % 8) v s | _ => s)

/-- A value with XLINV's KIND set. -/
def withKind (k : Nat) (v : DWord) : DWord := mergeMask (bitsMask 61 2) v (BitVec.ofNat 64 (k * 2 ^ 61))

def execXlinvPage (s : State) : Out :=
  .next (match s.now with | .xlinvPage v => hostWrite 0x188 (withKind 0 v) s | _ => s)

def execXlinvContext (s : State) : Out :=
  .next (match s.now with | .xlinvContext v => hostWrite 0x188 (withKind 1 v) s | _ => s)

def execXlinvAll (s : State) : Out :=
  .next (match s.now with | .xlinvAll v => hostWrite 0x188 (withKind 2 v) s | _ => s)

def execRpctlWrite (s : State) : Out :=
  .next (match s.now with | .rpctlWrite v => hostWrite 0x198 v s | _ => s)

def execTrctlWrite (s : State) : Out :=
  .next (match s.now with | .trctlWrite v => hostWrite 0x1A0 v s | _ => s)

def execElctlWrite (s : State) : Out :=
  .next (match s.now with | .elctlWrite v => hostWrite 0x1A8 v s | _ => s)

/-- A write of TKCTL with STEP set. -/
def execTkctlStep (s : State) : Out :=
  .next (match s.now with | .tkctlStep v => hostWrite 0x190 (v ||| BitVec.ofNat 64 (2 ^ 62)) s | _ => s)

/-- BIASCMD with DIR set or clear. -/
def withDir (d : Bool) (v : DWord) : DWord :=
  mergeMask (bitsMask 62 1) v (BitVec.ofNat 64 (if d then 2 ^ 62 else 0))

def execBiasFlipToHost (s : State) : Out :=
  .next (match s.now with | .biasFlipToHost v => hostWrite 0x160 (withDir true v) s | _ => s)

def execBiasFlipToDevice (s : State) : Out :=
  .next (match s.now with | .biasFlipToDevice v => hostWrite 0x160 (withDir false v) s | _ => s)

/-- The host acknowledges a flip to device bias, within 100 microseconds (R177). -/
def biasAcknowledge (s : State) : State :=
  match s.flip with
  | none => s
  | some f =>
    if f.toHost || decide (f.limit.toNat ≤ s.tick.toNat) then s
    else endFlip 0 { s with hostBias := s.hostBias.filter (fun p =>
      !decide (f.base / 2 ^ 16 ≤ p ∧ p < (f.base + f.size) / 2 ^ 16)) }

def execBiasHostAcknowledge (s : State) : Out := .next (biasAcknowledge s)

/-- No acknowledgement within 100 microseconds (R177). -/
def biasTimeout (s : State) : State :=
  match s.flip with
  | none => s
  | some f => if f.toHost || decide (s.tick.toNat < f.limit.toNat) then s else endFlip 1 s

def execBiasAckTimeout (s : State) : Out := .next (biasTimeout s)

/-- Any register, as the rule that assigns it says. -/
def execSystemRegisterWrite (s : State) : Out :=
  .next (match s.now with
    | .systemRegisterWrite n v => hostWrite n v s
    | _ => s)

/-- SHUTTER_ARM: SHUTCTL written with ARM (R388). -/
def execShutterArm (s : State) : Out :=
  .next (match s.now with | .shutterArm v => hostWrite 0x1D0 (v ||| BitVec.ofNat 64 (2 ^ 63)) s | _ => s)

/-- SHUTTER_STOP: TICK has reached SHUTTK (R388). -/
def shutterStop (s : State) : State :=
  let c := s.sysreg 0x1D0
  if c.getLsbD 63 && !s.stopped && decide ((s.sysreg 0x1D1).toNat ≤ s.tick.toNat) then
    { s.setSysreg 0x1D0 (c ||| BitVec.ofNat 64 (2 ^ 60)) with stopped := true }
  else s

def execShutterStop (s : State) : Out := .next (shutterStop s)

/-- SHUTTER_RESUME: SHUTCTL written with RESUME (R389). -/
def execShutterResume (s : State) : Out :=
  .next (match s.now with | .shutterResume v => hostWrite 0x1D0 (v ||| BitVec.ofNat 64 (2 ^ 61)) s | _ => s)

end Sys2Proof.Machine
end

