-- ==== Sys2Proof/Machine/Handler.lean ====
section
/-! DEFINITION. The handler's instructions (R368, R376 to R382), the debug access port (R373), the watchdog
(R374), trap entry, debug halts and the end of sleep. -/

namespace Sys2Proof.Machine

/-! ## TRET (R368) -/

/-- The handler run ends. -/
def tretGroup (mode : Nat) (cx : Ctx) (s : State) : State := s.leaveHandler cx.core mode

def execTretRetry (x : Long) (s : State) : Out := .next (issueOf (.tretRetry x) true (tretGroup 0) s)
def execTretSkip (x : Long) (s : State) : Out := .next (issueOf (.tretSkip x) true (tretGroup 1) s)
def execTretHold (x : Long) (s : State) : Out := .next (issueOf (.tretHold x) true (tretGroup 2) s)
def execTretDiscard (x : Long) (s : State) : Out := .next (issueOf (.tretDiscard x) true (tretGroup 3) s)

/-! ## Warp state and operations on a warp (R373, R378) -/

/-- Cause of a fault that waits or is served. -/
def faultCause (w : Warp) : Nat := match w.fault with | some t => t.cause.code | none => 0

/-- The state word of a warp (R378). -/
def stateWord (s : State) (wk : Nat) : Word :=
  let w := s.warp wk
  let served := (s.core (wk / 128)).serving = some (wk % 128)
  BitVec.ofNat 32 ((if w.stopped then 1 else 0) + (if w.asleep then 2 else 0) +
    (if !w.live || w.ended then 4 else 0) + (if w.fault.isSome && !served then 8 else 0) +
    (if served then 16 else 0) + faultCause w * 2 ^ 8)

/-- Some lanes exit (R121). -/
def exitThese (wk : Nat) (m : LaneMask) (s : State) : State :=
  (s.modWarp wk (fun w => w.modLanes m (fun v =>
    if v.exited then v
    else { v with exited := true, released := false, ahead := [], bar := .none, dcwait := .none, dcready := false }))).reap wk

/-- An operation on a warp (R378); 0 queries. -/
def warpOperation (wk op : Nat) (m : LaneMask) (s : State) : State :=
  let w := s.warp wk
  let served := (s.core (wk / 128)).serving = some (wk % 128)
  if !w.live || w.ended then s
  else
    match op with
    | 1 => s.setWarp wk { w with stopped := true, stepping := false }
    | 2 =>
      if served || !(w.stopped || w.asleep) then s
      else s.setWarp wk { w.wake with stopped := false, stepping := false, idle := 0 }
    | 3 => s.setWarp wk { w with stopped := false, stepping := true, idle := 0 }
    | 4 => exitThese wk m s
    | _ => s

/-- Warp w of the served block; its key where it has not ended, and whether it names a warp at all. -/
def targetOf (cx : Ctx) (s : State) (w : Nat) : Option (Option Nat) :=
  let b := s.blockKey cx
  if w < (s.block b).warps then some (s.warpOf b w) else none

/-- GRPCTL: the control word's operation must be the instruction's own. Reading: log entry 46, DEDUCED. -/
def grpctlGroup (op : Nat) (cx : Ctx) (s : State) : State :=
  let c := s.opA cx 0
  if c / 2 ^ 8 % 8 ≠ op then s.raise cx.wk (s.trapOf cx .illegal 0 cx.group 0)
  else
    match targetOf cx s (c % 64) with
    | none => s.raise cx.wk (s.trapOf cx .permission 8 cx.act 0)
    | some none => (s.putUniform cx 1 4).advance cx
    | some (some wk) =>
      let s := warpOperation wk op (BitVec.ofNat 32 (s.opB cx 0)) s
      (s.putUniform cx 1 (stateWord s wk).toNat).advance cx

def execGrpctlQuery (x : Long) (s : State) : Out := .next (issueOf (.grpctlQuery x) true (grpctlGroup 0) s)
def execGrpctlStop (s : State) : Out := .next (issueOf (.grpctlQuery s.cur.x) true (grpctlGroup 1) s)
def execGrpctlResume (s : State) : Out := .next (issueOf (.grpctlQuery s.cur.x) true (grpctlGroup 2) s)
def execGrpctlStep (s : State) : Out := .next (issueOf (.grpctlQuery s.cur.x) true (grpctlGroup 3) s)
def execGrpctlExit (s : State) : Out := .next (issueOf (.grpctlQuery s.cur.x) true (grpctlGroup 4) s)

/-! ## Items of a warp (R373, R379) -/

/-- A selector's item: kind and index. -/
structure Item where
  kind  : Nat
  index : Nat
  deriving DecidableEq, Repr, Inhabited

def itemOf (sel : Nat) : Item := ⟨sel / 2 ^ 20 % 16, sel / 2 ^ 8 % 2 ^ 10⟩

/-- Whether an item exists in a warp (R20, R32, R379). -/
def Item.exists_ (i : Item) (w : Warp) : Bool :=
  match i.kind with
  | 0 =>
    match codeOf i.index with
    | .v r => decide (r < w.vregs)
    | .s r => decide (r < w.sregs)
    | _ => false
  | 1 => i.index = 0
  | 2 => decide (i.index < 64) && !reservedSpecial i.index
  | 7 => decide (i.index < 64) && !reservedSpecial i.index
  | 3 => i.index = 0
  | 4 => i.index = 0
  | 5 => i.index = 0
  | _ => false

/-- Whether an item is held per lane, and so has a vector destination. -/
def Item.perLane (i : Item) : Bool :=
  match i.kind with
  | 0 => match codeOf i.index with | .v _ => true | _ => false
  | 2 => laneSpecial i.index
  | 7 => laneSpecial i.index
  | _ => true

/-- The store word of a register item. -/
def Item.key (i : Item) (core : Nat) (w : Warp) (l : Nat) : Option Nat :=
  if i.kind = 0 then
    match codeOf i.index with
    | .v r => some (vkey core w r l)
    | .s r => some (skey core w r)
    | _ => none
  else none

/-- An item's value for a lane, apart from its full/empty state. -/
def Item.value (i : Item) (s : State) (wk l : Nat) : Word :=
  let w := s.warp wk
  let v := w.lane l
  let sp := s.special (wk / 128) (wk % 128) w i.index l
  match i.kind with
  | 0 => match i.key (wk / 128) w l with | some k => s.word k | none => 0
  | 1 => BitVec.ofNat 32 (v.preds.toNat + 2 ^ 8 * w.qpreds.toNat)
  | 2 => sp.setWidth 32
  | 7 => (sp >>> 32).setWidth 32
  | 3 => v.pc.setWidth 32
  | 4 => BitVec.ofNat 32 (v.pc.toNat / 2 ^ 32 % 2 ^ 25)
  | _ => if v.exited then 1 else 0

/-- Whether an item's word is full, and poisoned. -/
def Item.full (i : Item) (s : State) (wk l : Nat) : Bool :=
  match i.key (wk / 128) (s.warp wk) l with | some k => !s.isEmpty k | none => true
def Item.poisoned (i : Item) (s : State) (wk l : Nat) : Bool :=
  match i.key (wk / 128) (s.warp wk) l with | some k => s.isPoison k | none => false

/-- A 64-bit register with its low or its high word replaced. -/
def halfPut (high : Bool) (old : DWord) (v : Word) : DWord :=
  if high then BitVec.ofNat 64 (old.toNat % 2 ^ 32 + v.toNat * 2 ^ 32)
  else BitVec.ofNat 64 (old.toNat / 2 ^ 32 * 2 ^ 32 + v.toNat)

/-- A program counter with a half replaced; none where R120 refuses it. -/
def pcPut (high : Bool) (old : DWord) (v : Word) : Option DWord :=
  let n := if high then old.toNat % 2 ^ 32 + v.toNat * 2 ^ 32 else old.toNat / 2 ^ 32 * 2 ^ 32 + v.toNat
  if n % 4 ≠ 0 || 2 ^ 57 ≤ n then none else some (BitVec.ofNat 64 n)

/-- Whether a write of an item is allowed for a lane: a special register only where `SETS` may write it, a
program counter only under R120's tests (R379). -/
def Item.allows (i : Item) (s : State) (wk l : Nat) (v : Word) : Bool :=
  let w := s.warp wk
  match i.kind with
  | 0 => i.exists_ w
  | 1 => i.index = 0
  | 2 => settableSpecial i.index && !(i.index ≠ 0x10 && setsRefused i.index v.toNat)
  | 7 => settableSpecial i.index
  | 3 => i.index = 0 && (pcPut false (w.lane l).pc v).isSome
  | 4 => i.index = 0 && (pcPut true (w.lane l).pc v).isSome
  | 5 => i.index = 0
  | _ => false

/-- A lane at another instruction stands at no barrier, no counter and no rejoin point it was released from, and has
nothing ahead of it. -/
def Lane.moved (v : Lane) (pc : DWord) : Lane :=
  { v with pc := pc, released := false, ahead := [], bar := .none, dcwait := .none, dcready := false }

/-- An item written for a lane (R373, R379); `q` says that this lane writes uniform parts. -/
def Item.put (i : Item) (wk l : Nat) (v : Word) (q : Bool) (s : State) : State :=
  let w := s.warp wk
  match i.kind with
  | 0 =>
    match i.key (wk / 128) w l with
    | some k => if i.perLane || q then s.land ⟨k, v, false⟩ else s
    | none => s
  | 1 =>
    let w := w.modLane l (fun x => { x with preds := v.setWidth 7 })
    s.setWarp wk (if q then { w with qpreds := (v >>> 8).setWidth 3 } else w)
  | 5 => if v.getLsbD 0 then exitThese wk (maskOf (fun j => j = l)) s else s
  | 3 => s.setWarp wk (w.modLane l (fun x => match pcPut false x.pc v with | some p => x.moved p | none => x))
  | 4 => s.setWarp wk (w.modLane l (fun x => match pcPut true x.pc v with | some p => x.moved p | none => x))
  | k =>
    if i.index = 0x10 then
      s.setWarp wk (w.modLane l (fun x => { x with rngs := seeded (halfPut (k = 7) x.rngs v).toNat }))
    else if k = 2 && q then s.setWarp wk (w.setSpecial i.index v.toNat)
    else s

/-! ## GRPRD and GRPWR (R379) -/

/-- Whether a destination code fits an item (R379). -/
def fitsDst (i : Item) (code : Nat) : Bool :=
  match codeOf code with
  | .v _ => i.perLane
  | .s _ => !i.perLane
  | _ => false

/-- The words that a GRPRD writes, with the lane each one comes from. -/
def grprdWords (cx : Ctx) (s : State) : List (Nat × Landing) :=
  (evalLanes cx).flatMap (fun l => (landings cx (s.warp cx.wk) cx.x.dN 1 l 0 false).map (fun x => (l, x)))

/-- GRPRD: the result lands when the target's words are full; a warp that has ended gives an open value.
Reading: log entry 46, DEDUCED. -/
def grprdLanes (cx : Ctx) (s : State) : State :=
  let sel := s.opA cx (groupLane cx)
  let i := itemOf sel
  match targetOf cx s (sel % 64) with
  | none => s.raise cx.wk (s.trapOf cx .permission 8 cx.act 0)
  | some t =>
    let bad := s.raise cx.wk (s.trapOf cx .illegal 0 cx.group 0)
    match t with
    | none =>
      let (v, s) := s.takeFree
      ((s.landAll ((grprdWords cx s).map (fun e => { e.2 with value := v.setWidth 32 })))).advance cx
    | some wk =>
      if !i.exists_ (s.warp wk) || !fitsDst i cx.x.dN then bad
      else
        (s.produce cx .grprd 0 ((grprdWords cx s).map Prod.snd) 0 sel wk).advance cx

def execGrprd (x : Long) (s : State) : Out := .next (issueOf (.grprd x) true grprdLanes s)

/-- A GRPRD's result lands (R379): every word it reads is full. -/
def answerGrprd (k : Nat) (p : Prod) (s : State) : State :=
  let i := itemOf p.arg
  let ls := if i.perLane then lanesOf p.lanes else [0]
  if !ls.all (fun l => i.full s p.arg2 l) then s
  else
    let xs := (p.words.zip ls).map (fun (x, l) =>
      { x with value := i.value s p.arg2 l, poison := i.poisoned s p.arg2 l })
    State.landProd { s with prods := tput s.prods k { p with words := xs } } k

/-- Lanes of a target whose program counter a write waits for: those that an `STT.aon` holds between its two issues
of the version (R193). Reading: log entry 46, DEDUCED. -/
def awaiting (s : State) (wk : Nat) (m : LaneMask) : Bool := (lanesOf m).any (fun l => s.tileHeld wk l)

/-- GRPWR. Reading: log entry 46, DEDUCED. -/
def grpwrLanes (cx : Ctx) (s : State) : State :=
  let low := lowestLane cx.act
  let sel := s.opA cx low
  let i := itemOf sel
  match targetOf cx s (sel % 64) with
  | none => s.raise cx.wk (s.trapOf cx .permission 8 cx.act 0)
  | some none => s.advance cx
  | some (some wk) =>
    let ls := if i.perLane then lanesOf cx.act else [low]
    let value := fun (l : Nat) => BitVec.ofNat 32 (s.opB cx l)
    if !i.exists_ (s.warp wk) || !ls.all (fun l => i.allows s wk l (value l)) then
      s.raise cx.wk (s.trapOf cx .illegal 0 cx.group 0)
    else if !ls.all (fun l => i.full s wk l) || ((i.kind = 3 || i.kind = 4) && awaiting s wk cx.act) then s
    else (ls.foldl (fun s' l => i.put wk l (value l) (l = low) s') s).advance cx

def execGrpwr (x : Long) (s : State) : Out := .next (issueOf (.grpwr x) true grpwrLanes s)

/-! ## CTXSV and CTXLD (R381, R382) -/

/-- Bytes of the largest image a block can have (R381). -/
def largestImage (v : Block) : Nat := 4 * imageWords v (if v.ordered then 512 else 0)

/-- The pieces of an image at an address, translated and checked. -/
def imagePieces (cx : Ctx) (s : State) (a : Nat) : Except (Miss × Nat) (List SavePiece) :=
  let b := s.blockOf cx
  (pagesOf s cx needStore a (largestImage b)).map (fun ps =>
    ps.map (fun (p, pa, k) => ⟨b.ctx, pa, k, leafHome p.leaf = 3⟩))

/-- Words of an image written to pieces in order; the bias of a page is the one it has then (R176). -/
def fillPieces (agent : Nat) : List SavePiece → List ImageWord → State → State
  | [], _, s => s
  | p :: ps, ws, s =>
    let n := p.len / 4
    let s := ((ws.take n).zipIdx).foldl (fun s ((w, bad), i) =>
      let pw := p.pa / 4 + i
      let s := s.wrote pw
      if regionOf p.pa = .fabric then s.sendOut 1 (4 * pw) (w.setWidth 64) 15
      else if p.direct || nmem s.hostBias (p.pa / 2 ^ 16) then s.homePut pw w bad
      else s.putThrough agent pw w bad) s
    fillPieces agent ps (ws.drop n) s

/-- The served warp of a core. -/
def servedWarp (s : State) (core : Nat) : Option Nat := (s.core core).serving.map (warpKey core)

/-- The image is written and the block's warps stay stopped. -/
def finishSave (cx : Ctx) (pieces : List SavePiece) (s : State) : State :=
  let b := s.blockKey cx
  let s := stopMatrix b s
  let s := fillPieces (agentOfCore cx.core) pieces (imageOf s b) s
  let s := (s.warpsOf b).foldl (fun s k => s.modWarp k (fun w => { w with parked := false, stopped := true })) s
  let s := s.modBlock b (fun v => { v with halting := false })
  (s.modCore cx.core (fun c => { c with pieces := [] })).advance cx

/-- CTXSV: its checks and the request at its first issue; the image once every warp is at a safe point and
nothing of the block is outstanding. Reading: log entry 47, DEDUCED. -/
def ctxsvGroup (cx : Ctx) (s : State) : State :=
  let a := s.opA cx 0
  let b := s.blockKey cx
  if !(s.block b).halting then
    if a % 256 ≠ 0 then s.raise cx.wk (s.trapOf cx .permission 1 cx.act (BitVec.ofNat 64 a))
    else
      match imagePieces cx s a with
      | .error (m, va) => s.raise cx.wk (pageTrap s cx m va)
      | .ok ps =>
        (s.modBlock b (fun v => { v with halting := true })).modCore cx.core (fun c => { c with pieces := ps })
  else if (s.warpsOf b).all (atSafePoint s (servedWarp s cx.core) true) && noProducers s b && !scratchBusy s b then
    finishSave cx (s.core cx.core).pieces s
  else s

def execCtxsv (x : Long) (s : State) : Out := .next (issueOf (.ctxsv x) true ctxsvGroup s)

/-- Words of an image at an address as CTXLD loads them: it waits, it fails, or they are there. -/
def loadImage (cx : Ctx) (s : State) : Nat → Nat → Except (Option Trap) (List ImageWord)
  | 0, _ => .ok []
  | n + 1, va =>
    match translate s cx.core (s.blockOf cx).ctx cx.handler needLoad va with
    | .error m => .error (some (pageTrap s cx m va))
    | .ok p =>
      if !s.quiet (p.pa / 4) || (s.near_ cx.core (p.pa / 4)).reqPend then .error none
      else
        match placeWord s (.glob p va) 0, loadImage cx s n (va + 4) with
        | none, _ =>
          let log := tget (0, 0) s.lostLog (p.pa / 4)
          .error (some { s.trapOf cx .ownerLost 0 cx.act (BitVec.ofNat 64 va) with own := log.1, ownTick := log.2 })
        | _, .error e => .error e
        | some w, .ok ws => .ok (w :: ws)

/-- Berths of a block's warps as an image restores them: a warp that has ended takes a free berth where the
image has live lanes for it. Reading: log entry 47, DEDUCED. -/
def reviveBerths (s : State) (b : Nat) (ws : List ImageWord) : List (Nat × Nat) :=
  let v := s.block b
  let dead := (upTo v.warps).filter (fun i => (s.warpOf b i).isNone && imageLive ws i)
  ((upTo v.warps).filterMap (fun i => (s.warpOf b i).map (fun k => (i, k % 128)))) ++
    dead.zip (freeBerths s v.core)

/-- The block's state is replaced; its warps are left stopped, and the served one keeps its fault. -/
def replaceBlock (b : Nat) (ws : List ImageWord) (s : State) : State :=
  let v := s.block b
  let places := reviveBerths s b ws
  let counts := countsOf s b
  let berths := (upTo v.warps).map (fun i =>
    match places.find? (fun e => e.1 = i) with | some e => e.2 | none => lget 127 v.berths i)
  let s := s.setBlock b { v with counts := counts, berths := berths, waits := [], aheads := [] }
  let s := restoreStore b ws s
  places.foldl (fun s (i, berth) =>
    let old := s.warp (warpKey v.core berth)
    let s := restoreInto b ws i berth s
    (s.modWarp (warpKey v.core berth) (fun w => { w with stopped := true, fault := if old.live then old.fault else .none }))) s

/-- CTXLD. Reading: log entry 47, DEDUCED. -/
def ctxldGroup (cx : Ctx) (s : State) : State :=
  let a := s.opA cx 0
  let b := s.blockKey cx
  let v := s.block b
  let refuse := fun (q : Nat) => s.raise cx.wk (s.trapOf cx .permission q cx.act (BitVec.ofNat 64 a))
  if a % 256 ≠ 0 then refuse 1
  else
    match loadImage cx s 64 a with
    | .error none => s
    | .error (some t) => s.raise cx.wk t
    | .ok head =>
      if !imageFits v head then refuse 8
      else
        match loadImage cx s (imageWords v (imageNum head 8 1)) a with
        | .error none => s
        | .error (some t) => s.raise cx.wk t
        | .ok ws => if noProducers s b then (replaceBlock b ws (stopMatrix b s)).advance cx else s

def execCtxld (x : Long) (s : State) : Out := .next (issueOf (.ctxld x) true ctxldGroup s)

/-! ## The debug access port (R373, R392) -/

/-- The warp that DACSEL selects; none for an absent core or an empty berth. Reading: log entry 72, DEDUCED. -/
def dacWarp (s : State) : Option Nat :=
  let core := bitsOf s.dacsel 55 9
  let wk := warpKey core (bitsOf s.dacsel 49 6)
  if (s.warp wk).live then some wk else none

def dacLane (s : State) : Nat := bitsOf s.dacsel 44 5
def dacItem (s : State) : Item := ⟨bitsOf s.dacsel 20 4, bitsOf s.dacsel 8 10⟩

/-- Key of the local word at DACADR of the selected core (KIND 6). -/
def dacWordKey (s : State) : Nat := storeKey (bitsOf s.dacsel 55 9) (bitsOf s.dacadr 0 22)

/-- A request from another node is refused (R391): an error answer, and a record of kind 11. -/
def refuseNode (node : Nat) (addr tag : Nat) (s : State) : State :=
  (s.answer node 18 addr 0 tag).logError 11 (node % 256) deviceAgent addr false 0 0 0

/-- Offset of DACDATA in the management window. -/
def dacdataAt : Nat := 0xF000000000000 + 0x30008

/-- DACDATA read (R373). -/
def dacRead (node tag : Nat) (s : State) : State :=
  let i := dacItem s
  let data := fun (v : Word) (bad : Bool) => BitVec.ofNat 64 (v.toNat + if bad then 2 ^ 63 else 0)
  if !manages s false node || !s.stopped then refuseNode node dacdataAt tag s
  else
    match dacWarp s with
    | none => s.answer node 16 dacdataAt 0 tag
    | some wk =>
      if i.kind = 6 then
        (if bitsOf s.dacadr 0 22 % 4 ≠ 0 || 0x300000 ≤ bitsOf s.dacadr 0 22 then refuseNode node dacdataAt tag s
          else s.answer node 16 dacdataAt (data (s.word (dacWordKey s)) (s.isPoison (dacWordKey s))) tag)
      else if !i.exists_ (s.warp wk) then refuseNode node dacdataAt tag s
      else s.answer node 16 dacdataAt (data (i.value s wk (dacLane s)) (i.poisoned s wk (dacLane s))) tag

def execDacdataRead (s : State) : Out :=
  .next (match s.now with | .dacdataRead node tag => dacRead node tag s | _ => s)

/-- DACDATA write (R373): the selected lane alone; the word becomes full and loses its poison. -/
def dacWrite (node : Nat) (v : Word) (s : State) : State :=
  let i := dacItem s
  if !manages s true node || !s.stopped then refuseNode node dacdataAt 0 s
  else
    match dacWarp s with
    | none => s.answer node 17 dacdataAt 0 0
    | some wk =>
      if i.kind = 6 then
        (if bitsOf s.dacadr 0 22 % 4 ≠ 0 || 0x300000 ≤ bitsOf s.dacadr 0 22 then refuseNode node dacdataAt 0 s
          else (s.land ⟨dacWordKey s, v, false⟩).answer node 17 dacdataAt 0 0)
      else if !i.exists_ (s.warp wk) || !i.allows s wk (dacLane s) v then refuseNode node dacdataAt 0 s
      else (i.put wk (dacLane s) v true s).answer node 17 dacdataAt 0 0

def execDacdataWrite (s : State) : Out :=
  .next (match s.now with | .dacdataWrite node v => dacWrite node v s | _ => s)

/-- DACCTL written with an operation (R373, R378). Reading: log entry 72, DEDUCED. -/
def dacControl (op node : Nat) (v : DWord) (s : State) : State :=
  let at_ := 0xF000000000000 + 0x30010
  if !manages s true node then refuseNode node at_ 0 s
  else
    let s := match dacWarp s with
      | none => s
      | some wk => warpOperation wk op ((v >>> 32).setWidth 32) s
    s.answer node 17 at_ 0 0

def execDacctlQuery (s : State) : Out :=
  .next (match s.now with | .dacctlQuery node v => dacControl 0 node v s | _ => s)
def execDacctlStop (s : State) : Out :=
  .next (match s.now with | .dacctlStop node v => dacControl 1 node v s | _ => s)
def execDacctlResume (s : State) : Out :=
  .next (match s.now with | .dacctlResume node v => dacControl 2 node v s | _ => s)
def execDacctlStep (s : State) : Out :=
  .next (match s.now with | .dacctlStep node v => dacControl 3 node v s | _ => s)
def execDacctlExit (s : State) : Out :=
  .next (match s.now with | .dacctlExit node v => dacControl 4 node v s | _ => s)

/-! ## Trap entry, watchdog, debug halt, sleep limit -/

/-- TRAP_ENTRY (R367): an idle window takes the next waiting fault. Reading: log entry 69, DEDUCED. -/
def execTrapEntry (s : State) : Out :=
  .next (match s.now with | .trapEntry core => s.tryEntry core | _ => s)

/-- An `STT.aon` of a warp has made its first version step: nothing interrupts it before its last (R193). -/
def State.tileOpen (s : State) (wk : Nat) : Bool :=
  s.txns.any (fun e => e.2.warp = wk && e.2.kind = .stt && e.2.phase ≠ 0)

/-- WATCHDOG (R374). -/
def watchdog (wk : Nat) (s : State) : State :=
  let w := s.warp wk
  let b := s.block w.block
  let lanes := maskOf (fun l => !(w.lane l).exited)
  if !w.live || w.ended || w.stopped || w.fault.isSome || b.wdog = 0 || decide (w.idle < b.wdog * 1024) ||
      wk % 128 = handlerBerth || s.tileOpen wk then s
  else
    let pc := (lanesOf lanes).foldl (fun m l => min m (w.lane l).pc.toNat) (w.lane (lowestLane lanes)).pc.toNat
    s.raise wk { cause := .watchdog, lanes := lanes, low := lowestLane lanes, pc := BitVec.ofNat 64 pc, apart := true }

def execWatchdog (s : State) : Out :=
  .next (match s.now with | .watchdog wk => watchdog wk s | _ => s)

/-- Whether a breakpoint register matches an instruction address in a context (R370). -/
def breakHits (bpt : DWord) (ctx : Nat) (pc : DWord) : Bool :=
  bpt.getLsbD 63 && (bpt.getLsbD 57 || bitsOf bpt 58 3 = ctx) && bitsOf bpt 2 55 * 4 = pc.toNat

/-- The lowest breakpoint register that matches an issue, its report latch apart (R369, R371).
Reading: log entry 63, DEDUCED. -/
def breakpointAt (s : State) (wk : Nat) (pc : DWord) : Option Nat :=
  if (s.warp wk).latch = some pc then none
  else (upTo 4).find? (fun n => breakHits (s.sysreg (0x1C4 + n)) (s.ctxOf wk) pc)

/-- DEBUG_HALT (R372): the issue group that is about to issue matches a breakpoint routed to the debug halt.
Reading: log entry 63, DEDUCED. -/
def debugHalt (wk : Nat) (s : State) : State :=
  let c := s.cur
  if warpKey c.core c.berth ≠ wk then s
  else
    match breakpointAt s wk c.pc with
    | none => s
    | some n =>
      if (s.sysreg 0x1C8).getLsbD (4 + n) then
        s.halt 1 n c.core (s.warp wk).index c.lanes c.pc wk
      else s

def execDebugHalt (s : State) : Out :=
  .next (match s.now with | .debugHalt wk => debugHalt wk s | _ => s)

/-- SLEEP_LIMIT_EXPIRY (R123). -/
def sleepLimit (wk : Nat) (s : State) : State :=
  let w := s.warp wk
  if w.live && w.asleep && w.sleepTick ≠ 0 && decide (w.sleepTick.toNat ≤ s.tick.toNat) then s.setWarp wk w.wake
  else s

def execSleepLimitExpiry (s : State) : Out :=
  .next (match s.now with | .sleepLimitExpiry wk => sleepLimit wk s | _ => s)

end Sys2Proof.Machine
end

