-- ==== Sys2Proof/Machine/Edge.lean ====
section
/-! DEFINITION. The package's edges (R390 to R403): requests of other nodes and the management window, the
mailbox of the security processor, tampering, degraded links, time, throttling, the link debug port and reset. -/

namespace Sys2Proof.Machine

/-! ## Requests of other nodes (R391, R392, R428) -/

/-- An inbound access-control entry that admits a node's load, or its store or atomic (R391). -/
def admits (s : State) (write : Bool) (node : Nat) : Bool :=
  (upTo 16).any (fun i =>
    let e := s.sysreg (0x1F0 + i)
    e.getLsbD 63 && (!write || e.getLsbD 62) && bitsOf e 0 16 = node)

/-- Memory that another node can name: present memory (R14), an aligned access of z bytes.
Reading: log entry 49, DEDUCED. -/
def inboundPlace (s : State) (a z : Nat) : Bool :=
  (z = 1 || z = 2 || z = 4 || z = 8) && decide (a % max z 1 = 0) && s.backed a && s.backed (a + z - 1)

/-- Words of an access. -/
def inboundWords (a z : Nat) : List Nat := (upTo ((a % 4 + z + 3) / 4)).map (fun i => a / 4 + i)

/-- Whether an access waits: the package is stopped (R388), a flip refuses registrations (R177), or messages
about one of its words are under way. Reading: log entry 49, DEDUCED. -/
def inboundWaits (s : State) (ws : List Nat) : Bool :=
  s.stopped || ws.any (fun p => s.flipping p || !s.quiet p)

/-- Whether a word has host bias, so that no registration is used (R176). -/
def hostWord (s : State) (pw : Nat) : Bool := nmem s.hostBias (pw / 2 ^ 14)

/-- Value and poison of a word for a physical-address agent; none for a Lost word. -/
def inboundWord (s : State) (pw : Nat) : Option (Word × Bool) :=
  if hostWord s pw then some (s.homeCopy pw, nmem s.memPoison pw) else s.latest pw

/-- The agent that performs an inbound access: the atomic assist of the receiving I/O die, whose port it comes in by
(R8, R392). -/
def receiver (port : Nat) : Nat := assistOf (port / 8 % 2)

/-- A port that has no lanes in use brings nothing in (R12, R399). -/
def portDown (s : State) (port : Nat) : Bool := 16 ≤ port || bitsOf (s.sysreg (0x200 + port)) 6 2 = 0

def inboundPut (port pw : Nat) (v : Word) (bad : Bool) (s : State) : State :=
  let s := s.wrote pw
  if hostWord s pw then s.homePut pw v bad else s.putThrough (receiver port) pw v bad

/-- INBOUND_READ: the word at an address. Reading: log entry 49, DEDUCED. -/
def inboundRead (node port a tag : Nat) (s : State) : State :=
  if portDown s port then s
  else if !admits s false node || !inboundPlace s a 4 then refuseNode node a tag s
  else if inboundWaits s [a / 4] then s
  else
    match inboundWord s (a / 4) with
    | some (v, false) => s.answer node 16 a (v.setWidth 64) tag
    | _ => s.answer node 18 a 0 tag

def execInboundRead (s : State) : Out :=
  .next (match s.now with | .inboundRead node port a tag => inboundRead node port a tag s | _ => s)

/-- A part of a word is written; of a Lost word the bytes are discarded (R216). Reading: log entry 49, DEDUCED. -/
def inboundPart (port a z : Nat) (v : DWord) (s : State) : State :=
  match inboundWord s (a / 4) with
  | none => s.logError 5 0 (receiver port) a false 0 0 0
  | some (old, bad) =>
    inboundPut port (a / 4) (mergeBytes (storeMask z a) old (BitVec.ofNat 32 (storeShift z a v.toNat))) bad s

/-- INBOUND_WRITE: a tenure of its own, completed when its Wb is acknowledged. -/
def inboundWrite (node port a z : Nat) (v : DWord) (s : State) : State :=
  let ws := inboundWords a z
  if portDown s port then s
  else if !admits s true node || !inboundPlace s a z then refuseNode node a 0 s
  else if inboundWaits s ws then s
  else
    let s := if z < 4 then inboundPart port a z v s
      else (ws.zip (wordsOf ws.length v.toNat)).foldl (fun s (p, w) => inboundPut port p w false s) s
    s.answer node 17 a 0 0

def execInboundWrite (s : State) : Out :=
  .next (match s.now with | .inboundWrite node port a z v => inboundWrite node port a z v s | _ => s)

/-- The new value of a native atomic (R194, R284): operations 0 to 8, and 12 for compare-and-swap. -/
def inboundNew (op z old v cmp : Nat) : Nat :=
  if op = 12 then (if old = cmp % 2 ^ (8 * z) then v % 2 ^ (8 * z) else old)
  else atomicNew op (if z = 8 then 1 else 0) old v

/-- INBOUND_ATOMIC: performed at the home; a locked line makes it wait (R284). -/
def inboundAtomic (node port a z op : Nat) (v cmp : DWord) (tag : Nat) (s : State) : State :=
  let ws := inboundWords a z
  if portDown s port then s
  else if !admits s true node || !inboundPlace s a z || z < 4 || !(decide (op ≤ 8) || op = 12) then refuseNode node a tag s
  else if inboundWaits s ws || s.lineLocked (a / 128) then s
  else
    let vs := ws.map (inboundWord s)
    if vs.any (fun o => match o with | some (_, false) => false | _ => true) then s.answer node 18 a 0 tag
    else
      let old := ofWords (vs.map (fun o => (o.getD (0, false)).1))
      let new := wordsOf ws.length (inboundNew op z old v.toNat cmp.toNat)
      let s := (ws.zip new).foldl (fun s (p, w) =>
        let s := s.wrote p
        if hostWord s p then s.homePut p w false else (s.takeHome p false).homePut p w false) s
      s.answer node 16 a (BitVec.ofNat 64 old) tag

def execInboundAtomic (s : State) : Out :=
  .next (match s.now with
    | .inboundAtomic node port a z op v cmp tag => inboundAtomic node port a z op v cmp tag s
    | _ => s)

/-- LINE_LOCK_REQUEST (R284): requests queue in arrival order. Reading: log entry 41, DEDUCED. -/
def lockRequest (node line : Nat) (s : State) : State :=
  if !admits s true node then refuseNode node (128 * line) 0 s
  else serveLocks { s with lockQueue := s.lockQueue ++ [(node, line)] }

def execLineLockRequest (s : State) : Out :=
  .next (match s.now with | .lineLockRequest node line => lockRequest node line s | _ => s)

/-- LINE_UNLOCK. -/
def lockEnd (node line : Nat) (s : State) : State :=
  serveLocks { s with locks := s.locks.filter (fun k => !(k.node = node && k.line = line)) }

def execLineUnlock (s : State) : Out :=
  .next (match s.now with | .lineUnlock node line => lockEnd node line s | _ => s)

/-! ## The security processor's mailbox (R395 to R397) -/

/-- The key store has been erased (R398). -/
def erased (s : State) : Bool := (s.sysreg 0x210).getLsbD 61

/-- CMD is written; while a command runs the write is refused. Reading: log entry 50, DEDUCED. -/
def mailboxCommand (node cmd tag : Nat) (s : State) : State :=
  let at_ := 0xF000000020000
  if !manages s true node || s.mailbox.status = 1 || !(cmd = 1 || cmd = 2) then refuseNode node at_ tag s
  else ({ s with mailbox := { s.mailbox with status := 1, command := cmd } }).answer node 17 at_ 0 tag

def execMailboxAttest (s : State) : Out :=
  .next (match s.now with | .mailboxAttest node => mailboxCommand node 1 0 s | _ => s)
def execMailboxUnlock (s : State) : Out :=
  .next (match s.now with | .mailboxUnlock node => mailboxCommand node 2 0 s | _ => s)

/-- n open words. -/
def freeWords : Nat → State → List Word × State
  | 0, s => ([], s)
  | n + 1, s =>
    let (v, s) := s.takeFree
    let (vs, s) := freeWords n s
    (v.setWidth 32 :: vs, s)

/-- Digests of the boot image and of the running image, 12 words each. -/
def measurements (s : State) : List Word :=
  (upTo 12).map (Config.imageDigest 0) ++
  (match s.mailbox.measured.getLast? with
    | some d => wordsOf 12 d
    | none => (upTo 12).map (Config.imageDigest 1))

/-- The signed part of an attestation report (R396). -/
def reportWords (s : State) : List Word :=
  wordsOfD Config.serial ++ (upTo 8).map (tget 0 s.mailbox.input) ++ wordsOfD (s.sysreg 0x100) ++
  wordsOfD s.tick ++ measurements s ++ wordsOfD (s.sysreg 0x210)

/-- An attestation ends: STATUS 4 without keys, else the report with its two signatures, whose words are open.
Reading: log entry 50, DEDUCED. -/
def attest (s : State) : State :=
  if erased s then { s with mailbox := { s.mailbox with status := 4, command := 0 } }
  else
    let (sig, s) := freeWords 844 s
    let ws := reportWords s ++ sig
    { s with mailbox := { s.mailbox with status := 2, command := 0, used := false, output := (upTo ws.length).zip ws } }

/-- An alarm is recorded in TAMPSTAT, and the response follows (R398). Reading: log entry 50, DEDUCED. -/
def tamper (cause : Nat) (s : State) : State :=
  let t := s.sysreg 0x210
  let t := BitVec.ofNat 64 (t.toNat / 2 ^ 16 * 2 ^ 16 + min 0xFFFF (bitsOf t 0 16 + 1)) ||| BitVec.ofNat 64 (2 ^ (16 + cause % 5))
  let s := s.setSysreg 0x210 t
  let stop := fun (s : State) =>
    { (tellStop true s).setSysreg 0x1D0 (s.sysreg 0x1D0 ||| BitVec.ofNat 64 (2 ^ 60)) with stopped := true, halted := true }
  match bitsOf t 62 2 with
  | 0 => s.logError 12 (cause % 5) deviceAgent 0 false 0 0 0
  | 1 => stop s
  | _ =>
    let s := s.setSysreg 0x210 (t ||| BitVec.ofNat 64 (2 ^ 61))
    let s := if s.mailbox.command = 1 then { s with mailbox := { s.mailbox with status := 4, command := 0 } } else s
    stop s

def execTamperAlarm (s : State) : Out :=
  .next (match s.now with | .tamperAlarm c => tamper c s | _ => s)

/-- An unlock ends: whether its token verifies is open, and a token whose nonce has been used, or that names no
report's nonce, does not. Reading: log entry 50, DEDUCED. -/
def unlock (s : State) : State :=
  let (v, s) := s.takeFree
  let m := s.mailbox
  if v.getLsbD 0 && !m.used then
    { s with mailbox := { m with status := 2, command := 0, used := true, unlocked := true, failed := 0 } }
  else if m.failed = 2 then tamper 4 { s with mailbox := { m with status := 3, command := 0, failed := 0 } }
  else { s with mailbox := { m with status := 3, command := 0, failed := m.failed + 1 } }

/-- The security processor goes on with the command that runs; when it is done is open.
Reading: log entry 50, DEDUCED. -/
def mailboxStep (s : State) : State :=
  if s.mailbox.command = 0 || s.halted then s
  else
    let (v, s) := s.takeFree
    if v.getLsbD 0 then (if s.mailbox.command = 1 then attest s else unlock s) else s

/-- RECOVERY_IMAGE_LOAD (R395): `accepted` says that key digests, signatures and body hash check out. -/
def recoveryLoad (node : Nat) (accepted : Bool) (svn digest : Nat) (s : State) : State :=
  let at_ := 0xF000000020100
  if !manages s true node || !s.mailbox.recovery || !accepted || decide (svn < Config.minimumVersion) then
    refuseNode node at_ 0 s
  else
    ({ s.setSysreg 0x211 7 with
      mailbox := { s.mailbox with recovery := false, measured := s.mailbox.measured ++ [digest] } }).answer node 17 at_ 0 0

def execRecoveryImageLoad (s : State) : Out :=
  .next (match s.now with
    | .recoveryImageLoad node ok svn digest => recoveryLoad node ok svn digest s
    | _ => s)

/-! ## The management window (R392) -/

/-- First address of the window. -/
def windowBase : Nat := 0xF000000000000

/-- A read of a system register by a node: of the registers that each core has its own of, the value is open. -/
def windowSysread (node n tag : Nat) (s : State) : State :=
  if n = 0x161 || n = 0x162 || n = 0x189 then
    let (v, s) := s.takeFree
    s.answer node 16 (windowBase + 8 * n) v tag
  else s.answer node 16 (windowBase + 8 * n) (s.sysreg n) tag

/-- A read of the rest of the window, by offset; none where nothing is. -/
def windowRead (s : State) (o : Nat) : Option DWord :=
  if o % 4 ≠ 0 then none
  else if 0x10000 ≤ o && o < 0x11000 then some ((s.counter ((o - 0x10000) / 4)).setWidth 64)
  else if o = 0x20000 then some (BitVec.ofNat 64 s.mailbox.command)
  else if o = 0x20004 then some (BitVec.ofNat 64 s.mailbox.status)
  else if 0x20100 ≤ o && o < 0x22000 then some ((tget 0 s.mailbox.input ((o - 0x20100) / 4)).setWidth 64)
  else if 0x22000 ≤ o && o < 0x30000 then some ((tget 0 s.mailbox.output ((o - 0x22000) / 4)).setWidth 64)
  else if o = 0x30000 then some s.dacsel
  else if o = 0x30010 then some (match dacWarp s with | some wk => (stateWord s wk).setWidth 64 | none => 4)
  else if o = 0x30018 then some s.dacadr
  else none

/-- DACSEL's and DACADR's fields (R373). -/
def dacselMask : Nat := bitsMask 55 9 + bitsMask 49 6 + bitsMask 44 5 + bitsMask 20 4 + bitsMask 8 10
def dacadrMask : Nat := bitsMask 0 22

/-- A dependence counter set through the window: a change (R339, R392). -/
def counterWrite (n : Nat) (v : Word) (s : State) : State := changeCounter n (v - s.counter n) 0 s

/-- A write of the rest of the window, by offset; none where nothing is. -/
def windowWrite (node o tag : Nat) (v : DWord) (s : State) : Option State :=
  let done := fun (s : State) => some (s.answer node 17 (windowBase + o) 0 tag)
  if o % 4 ≠ 0 then none
  else if 0x10000 ≤ o && o < 0x11000 then done (counterWrite ((o - 0x10000) / 4) (v.setWidth 32) s)
  else if o = 0x20000 then some (mailboxCommand node v.toNat tag s)
  else if 0x20100 ≤ o && o < 0x22000 then
    done { s with mailbox := { s.mailbox with input := tset 0 s.mailbox.input ((o - 0x20100) / 4) (v.setWidth 32) } }
  else if o = 0x30000 then done { s with dacsel := mergeMask dacselMask 0 v }
  else if o = 0x30018 then done { s with dacadr := mergeMask dacadrMask 0 v }
  else none

/-- MGMT_REGISTER_ACCESS: a system register by its number, or anything else of the window by its offset. Before
reset's last step only the mailbox is there (R395, R400), and a read of a capability register stalls until reset is
over (R16). Reading: log entry 50, DEDUCED. -/
def windowAccess (node n : Nat) (write : Bool) (v : DWord) (tag : Nat) (s : State) : State :=
  let at_ := windowBase + (if n < 0x400 then 8 * n else n)
  let closed := s.mailbox.recovery && !(decide (0x20000 ≤ n ∧ n < 0x30000))
  let refuse := refuseNode node at_ tag s
  if !manages s write node then refuse
  else if closed && openNumber n && !write then s.send (.mgmtRegisterAccess node n write v tag)
  else if closed then refuse
  else if n < 0x400 then
    if !assigned n then refuse
    else if write then (sysWrite true n v s).answer node 17 at_ 0 tag
    else windowSysread node n tag s
  else if write then (windowWrite node n tag v s).getD refuse
  else
    match windowRead s n with
    | some d => s.answer node 16 at_ d tag
    | none => refuse

def execMgmtRegisterAccess (s : State) : Out :=
  .next (match s.now with
    | .mgmtRegisterAccess node n write v tag => windowAccess node n write v tag s
    | _ => s)

/-- MGMT_COUNTER_WRITE: counter die x 256 + number. -/
def execMgmtCounterWrite (s : State) : Out :=
  .next (match s.now with
    | .mgmtCounterWrite node c v => windowAccess node (0x10000 + 4 * (c % 1024)) true (v.setWidth 64) 0 s
    | _ => s)

/-! ## Time (R349, R350, R393) -/

/-- PTP_EVENT_MESSAGE: stamped with the tick. -/
def execPtpEventMessage (s : State) : Out :=
  .next (match s.now with
    | .ptpEventMessage port kind => { s with servo := { s.servo with stamp := (port, kind, s.tick) } }
    | _ => s)

/-- PTP_GENERAL_MESSAGE: firmware handles it, or it is discarded; nothing of the machine changes. -/
def execPtpGeneralMessage (s : State) : Out := .next s

/-- An offset as OFS holds it. -/
def saturatedOfs (d : Int) : Nat := ((max (-(2 ^ 31)) (min (2 ^ 31 - 1) d)) % 2 ^ 32).toNat

/-- PTP_MEASUREMENT: OFS and LOCK; a step that was asked for is made or dropped. Reading: log entry 51, DEDUCED. -/
def measure (time : Nat) (s : State) : State :=
  let target := time * 9 / 5
  let d : Int := (s.tick.toNat : Int) - target
  let on := (s.sysreg 0x190).getLsbD 63
  let v := s.servo
  let good := if -18 ≤ d ∧ d ≤ 18 then min 8 (v.good + 1) else 0
  let step := on && v.step && decide (d < 0)
  let old := s.sysreg 0x191
  let stat := (if good = 8 then 2 ^ 63 else 0) + (if step || old.getLsbD 62 then 2 ^ 62 else 0) + saturatedOfs d
  let s := s.setSysreg 0x191 (BitVec.ofNat 64 stat)
  let s := { s with servo := { v with good := good, step := v.step && !on, left := if on && !step then d else 0 } }
  if step then { s with tick := BitVec.ofNat 64 target } else s

def execPtpMeasurement (s : State) : Out :=
  .next (match s.now with | .ptpMeasurement t => measure t s | _ => s)

/-- MEASUREMENTS_MISSED: the tick runs on at its reference rate until measurements return. -/
def execMeasurementsMissed (s : State) : Out :=
  .next ({ s.setSysreg 0x191 (s.sysreg 0x191 &&& ~~~(BitVec.ofNat 64 (2 ^ 63))) with
    servo := { s.servo with good := 0, left := 0 } })

/-- Counts of one clock of TICK: withheld or added while an offset is left (R349). The choice when is open. -/
def tickStep (s : State) : State :=
  if s.servo.left = 0 then { s with tick := s.tick + 1 }
  else
    let (f, s) := s.takeFree
    let v := s.servo
    if !f.getLsbD 0 then { s with tick := s.tick + 1 }
    else if 0 < v.left then { s with servo := { v with left := v.left - 1 } }
    else if s.tick.toNat < v.lastAdd.toNat + 1024 then { s with tick := s.tick + 1 }
    else { s with tick := s.tick + 2, servo := { v with left := v.left + 1, lastAdd := s.tick } }

/-! ## Throttling (R402, R403) -/

/-- The package's limit in watts. -/
def powerLimit (s : State) : Nat :=
  let p := s.sysreg 0x218
  match bitsOf p 62 2 with
  | 0 => bitsOf p 0 16
  | 1 => 3900
  | 2 => 3300
  | _ => 2600

/-- Whether the cause of a step is there. Reading: log entry 51, DEDUCED. -/
def stepCause (s : State) (step junction inlet power : Nat) : Bool :=
  let one := decide (powerLimit s < power) || decide (95 ≤ junction) || decide (40 < inlet)
  match step with
  | 1 => one
  | 2 => decide (100 ≤ junction) || (one && s.power.step ≠ 0 && decide (s.power.since.toNat + 18000000 ≤ s.tick.toNat))
  | 3 => decide (105 ≤ junction) || decide (45 < inlet)
  | _ => false

/-- PWRSTAT for a step and what the sensors say; the codes of CAUSE are open. -/
def setPwrstat (step cause junction inlet power : Nat) (s : State) : State :=
  s.setSysreg 0x219 (BitVec.ofNat 64 (step * 2 ^ 61 + cause % 32 * 2 ^ 56 + junction % 256 * 2 ^ 48 +
    inlet % 256 * 2 ^ 40 + power % 2 ^ 16))

/-- What the sensors say is noted: since when step 1's cause lasts, and since when the present step's is absent. -/
def noteSensors (junction inlet power : Nat) (s : State) : State :=
  let v := s.power
  let v := if stepCause s 1 junction inlet power && v.step ≠ 0 then v else { v with since := s.tick }
  let v := if stepCause s v.step junction inlet power then { v with absent := 0 }
    else if v.absent = 0 then { v with absent := s.tick + 1 } else v
  setPwrstat v.step (bitsOf (s.sysreg 0x219) 56 5) junction inlet power { s with power := v }

/-- A step is entered. -/
def enterStep (step junction inlet power : Nat) (s : State) : State :=
  let (f, s) := s.takeFree
  let v := s.power
  setPwrstat step (if step = 0 then 0 else f.toNat) junction inlet power
    { s with power := { v with step := step, since := if v.step = 0 then s.tick else v.since, absent := 0 } }

/-- THROTTLE_STEP_UP: the highest step whose cause is there. Reading: log entry 51, DEDUCED. -/
def throttleUp (junction inlet power : Nat) (s : State) : State :=
  let s := noteSensors junction inlet power s
  match [3, 2, 1].find? (fun n => decide (s.power.step < n) && stepCause s n junction inlet power) with
  | some n => enterStep n junction inlet power s
  | none => s

def execThrottleStepUp (s : State) : Out :=
  .next (match s.now with | .throttleStepUp j i p => throttleUp j i p s | _ => s)

/-- THROTTLE_STEP_DOWN: the cause has been absent for 100 milliseconds. Reading: log entry 51, DEDUCED. -/
def throttleDown (junction inlet power : Nat) (s : State) : State :=
  let s := noteSensors junction inlet power s
  let v := s.power
  if v.step = 0 || v.absent = 0 || decide (s.tick.toNat + 1 < v.absent.toNat + 180000000) then s
  else enterStep (v.step - 1) junction inlet power s

def execThrottleStepDown (s : State) : Out :=
  .next (match s.now with | .throttleStepDown j i p => throttleDown j i p s | _ => s)

/-- THERMAL_TRIP: the package halts, and power is removed. -/
def thermalTrip (junction : Nat) (s : State) : State :=
  if junction < 115 then s
  else
    let s := tellStop true s
    { s.setSysreg 0x1D0 (s.sysreg 0x1D0 ||| BitVec.ofNat 64 (2 ^ 60)) with
      stopped := true, halted := true, powerOff := true }

def execThermalTrip (s : State) : Out :=
  .next (match s.now with | .thermalTrip j => thermalTrip j s | _ => s)

/-- LOW_INLET_TEMPERATURE: logged; the record's kind and detail are open. Reading: log entry 51, DEDUCED. -/
def lowInlet (inlet : Nat) (s : State) : State :=
  if 15 ≤ inlet then s
  else
    let (f, s) := s.takeFree
    s.logError (f.toNat % 256) (f.toNat / 256 % 256) deviceAgent 0 false 0 0 0

def execLowInletTemperature (s : State) : Out :=
  .next (match s.now with | .lowInletTemperature i => lowInlet i s | _ => s)

/-! ## Degraded links (R399) -/

/-- LANE_RETRAIN: a port falls to its next lower width, 8 to 4 to 2 lanes, and below that it is down. -/
def laneRetrain (port : Nat) (s : State) : State :=
  let r := 0x200 + port % 16
  let q := s.sysreg r
  let live := bitsOf q 6 2
  if live = 0 then s
  else
    let s := s.setSysreg r (BitVec.ofNat 64 ((live - 1) * 2 ^ 6 + min 63 (bitsOf q 0 6 + 1)))
    s.setSysreg 0x100 (s.sysreg 0x100 ||| BitVec.ofNat 64 (2 ^ 63))

def execLaneRetrain (s : State) : Out :=
  .next (match s.now with | .laneRetrain p => laneRetrain p s | _ => s)

/-! ## The link debug port (R407) -/

/-- Die of an agent, and of a home. -/
def dieOfAgent (a : Nat) : Nat := a / 512 % 8
def dieOfHome (s : State) (pw : Nat) : Nat :=
  let h := s.homeOf pw
  if 1024 ≤ h then dieOfCore (h - 1024) else (h - 1) / 16

/-- Sender, sender's die, destination die, a number for its kind and physical address of a message. -/
def linkEnds (s : State) (e : Event) : Option (Nat × Nat × Nat × Nat × Nat) :=
  let home := fun (pw : Nat) => 0x10000 + s.homeOf pw
  match e with
  | .read p a => some (readerAgent a, dieOfAgent a, dieOfHome s p, 1, 4 * p)
  | .reg p a _ _ => some (a, dieOfAgent a, dieOfHome s p, 2, 4 * p)
  | .wb p a _ _ => some (a, dieOfAgent a, dieOfHome s p, 3, 4 * p)
  | .drop p a _ => some (a, dieOfAgent a, dieOfHome s p, 4, 4 * p)
  | .ack p a _ => some (home p, dieOfHome s p, dieOfAgent a, 5, 4 * p)
  | .wbAck p a => some (home p, dieOfHome s p, dieOfAgent a, 6, 4 * p)
  | .fwd p a _ => some (home p, dieOfHome s p, dieOfAgent a, 7, 4 * p)
  | .xfer p a _ _ _ => some (home p, dieOfHome s p, dieOfAgent a, 8, 4 * p)
  | .recall n a => some (home (32 * n), dieOfHome s (32 * n), dieOfAgent a, 9, 128 * n)
  | .fillData p a _ _ _ _ src =>
    let dest := if a = homeSource then dieOfHome s p else dieOfAgent a
    if answerAgent src = homeSource then some (home p, dieOfHome s p, dest, 10, 4 * p)
    else some (answerAgent src, dieOfAgent (answerAgent src), dest, 10, 4 * p)
  | .homeAtomic t l =>
    match tfind s.txns t with
    | some x =>
      let a := agentOfCore (x.warp / 128)
      some (a, dieOfAgent a, dieOfHome s (x.addr l / 4), 11, x.addr l)
    | none => none
  | _ => none

/-- The first die-to-die link on the route from one compute die to another: horizontal first (R9).
Reading: log entry 64, DEDUCED. -/
def firstHop (a b : Nat) : Option Nat :=
  if a = b || 3 < a || 3 < b then none
  else if a % 2 ≠ b % 2 then some (a ^^^ 1) else some (a ^^^ 2)

/-- The hold that catches a message. Reading: log entry 64, DEDUCED. -/
def caughtBy (s : State) (e : Event) : Option (Nat × Nat × Nat) :=
  match linkEnds s e with
  | some (_, a, b, _, _) =>
    match firstHop a b with
    | some h => s.heldLinks.find? (fun k => k.1 = a && k.2.1 = h && k.2.2 = a)
    | none => none
  | none => none

/-- LINK_HOLD: the messages of a die's own agents on one of its links. -/
def linkHold (src dst origin : Nat) (s : State) : State :=
  let k := (src, dst, origin)
  let link := decide (src ≤ 3 ∧ dst ≤ 3) && (dst = src ^^^ 1 || dst = src ^^^ 2)
  if link && origin = src && !s.heldLinks.contains k then { s with heldLinks := s.heldLinks ++ [k] } else s

def execLinkHold (s : State) : Out :=
  .next (match s.now with | .linkHold a b o => linkHold a b o s | _ => s)

/-- LINK_RELEASE: the held messages go on in the order they were held. -/
def linkRelease (src dst origin : Nat) (s : State) : State :=
  let k := (src, dst, origin)
  { s with
    heldLinks := s.heldLinks.filter (fun h => h ≠ k)
    agenda := (s.heldMsgs.filter (fun m => m.1 = k)).map (fun m => m.2.1) ++ s.agenda
    heldMsgs := s.heldMsgs.filter (fun m => m.1 ≠ k) }

def execLinkRelease (s : State) : Out :=
  .next (match s.now with | .linkRelease a b o => linkRelease a b o s | _ => s)

/-- LINK_STATUS: one answer per hold of the link, and one per message held there: kind and sender, physical
address, and the tick at which it was held. Reading: log entry 64, DEDUCED. -/
def linkStatus (src dst tag : Nat) (s : State) : State :=
  let s := (s.heldLinks.filter (fun k => k.1 = src && k.2.1 = dst)).foldl (fun s k =>
    s.answer Config.hostNode 20 (src * 16 + dst) (BitVec.ofNat 64 k.2.2) tag) s
  (s.heldMsgs.filter (fun m => m.1.1 = src && m.1.2.1 = dst)).foldl (fun s m =>
    match linkEnds s m.2.1 with
    | some (a, _, _, kind, pa) => s.answer Config.hostNode 21 pa m.2.2 (kind * 2 ^ 32 + a)
    | none => s) s

def execLinkStatus (s : State) : Out :=
  .next (match s.now with | .linkStatus a b t => linkStatus a b t s | _ => s)

/-! ## Reset (R400) -/

/-- A bit of a system register cleared. -/
def clearBit (n bit : Nat) (s : State) : State := s.setSysreg n (s.sysreg n &&& ~~~(BitVec.ofNat 64 (2 ^ bit)))

/-- A unit that R12 lets be absent leaves its mask (R18): a cluster, a pseudo-channel, a die-cache slice or a core. -/
def dropUnit (unit : Nat) (s : State) : State :=
  if clusterUnit 0 ≤ unit then s.setSysreg (0x110 + (unit - clusterUnit 0) % 32) 0
  else if channelUnit 0 ≤ unit then clearBit (0x130 + (unit - channelUnit 0) / 64 % 12) ((unit - channelUnit 0) % 64) s
  else if sliceUnit 0 ≤ unit then clearBit (0x101 + (unit - sliceUnit 0) / 16 % 4) (11 + (unit - sliceUnit 0) % 16) s
  else if agentKind unit = 0 then clearBit (0x110 + coreOfAgent unit / 16 % 32) (coreOfAgent unit % 16) s
  else s

/-- The masks of a die and CAPSUM's counts follow the masks of its clusters and stacks (R18). -/
def settleCaps (s : State) : State :=
  let s := (upTo 4).foldl (fun s d =>
    let s := (upTo 8).foldl (fun s c => if s.sysreg (0x110 + 8 * d + c) = 0 then clearBit (0x101 + d) c s else s) s
    (upTo 3).foldl (fun s k => if s.sysreg (0x130 + 3 * d + k) = 0 then clearBit (0x101 + d) (8 + k) s else s) s) s
  let total := fun (lo n : Nat) (f : DWord → DWord) => ((upTo n).map (fun i => onesIn (f (s.sysreg (lo + i))))).foldl (· + ·) 0
  let field := fun (lo n : Nat) => total 0x101 4 (fun v => BitVec.ofNat 64 (bitsOf v lo n))
  let old := s.sysreg 0x100
  s.setSysreg 0x100 (BitVec.ofNat 64 (bitsOf old 40 13 * 2 ^ 40 + field 8 3 * 2 ^ 36 + field 0 8 * 2 ^ 26 +
    total 0x110 32 id * 2 ^ 16 + bitsOf old 0 16))

/-- A die keeps at least one cluster, 12 die-cache slices and one stack (R12). -/
def dieKept (s : State) (d : Nat) : Bool :=
  let v := s.sysreg (0x101 + d)
  bitsOf v 0 8 ≠ 0 && bitsOf v 8 3 ≠ 0 && decide (12 ≤ onesIn (BitVec.ofNat 64 (bitsOf v 11 16)))

/-- The firmware may record a fenced unit as absent (R15): whether it does is open, and it does not where the part
would fall below R12's minimum. Reading: log entry 51, DEDUCED. -/
def recordAbsent (s : State) (unit : Nat) : State :=
  let (v, s) := s.takeFree
  let t := settleCaps (dropUnit unit s)
  if v.getLsbD 0 && (upTo 4).all (dieKept t) then t else s

/-- RESET: everything but the fuses and the record of fenced units starts again, and the capability registers are
loaded from them (R15, R16); a device whose keys are erased boots only a RECOVERY image (R398), so reset stands after
its first step until one is loaded. Reading: log entry 3, DESIGN CHOICE, log entry 51, DEDUCED. -/
def resetAll (s : State) : State :=
  let fuses := BitVec.ofNat 64 (bitsOf (s.sysreg 0x210) 61 3 * 2 ^ 61 + bitsOf (s.sysreg 0x210) 0 16)
  let s := s.fenced.foldl recordAbsent (clearBit 0x100 63 s)
  let r := (State.resetOf (s.sysregs.filter (fun e => openNumber e.1))).setSysreg 0x210 fuses
  let r := { r with turn := s.turn, now := s.now, steps := s.steps, freeNo := s.freeNo, fabricOut := s.fabricOut }
  if erased s then { r.setSysreg 0x211 1 with mailbox := { r.mailbox with recovery := true } } else r

def execReset (s : State) : Out :=
  .next (match s.now with | .reset => resetAll s | _ => s)

end Sys2Proof.Machine
end

