-- ==== Sys2Proof/Machine/Float.lean ====
section
/-! DEFINITION. Float arithmetic (R92, R98 to R100). One definition per instruction. -/

namespace Sys2Proof.Machine

/-- FADD (R98). -/
def execFadd (x : Long) (s : State) : Out :=
  .next (compute (.fadd x) (drawsOf (roundMode x) (elementsOf x.tN)) (laneFloat x (fun f r a b _ => floatAdd false f (roundMode x) (saturates x) r a b)) s)

/-- FSUB (R98). -/
def execFsub (x : Long) (s : State) : Out :=
  .next (compute (.fsub x) (drawsOf (roundMode x) (elementsOf x.tN)) (laneFloat x (fun f r a b _ => floatAdd true f (roundMode x) (saturates x) r a b)) s)

/-- FMUL (R98). -/
def execFmul (x : Long) (s : State) : Out :=
  .next (compute (.fmul x) (drawsOf (roundMode x) (elementsOf x.tN)) (laneFloat x (fun f r a b _ => floatMul f (roundMode x) (saturates x) r a b)) s)

/-- FFMA (R98). -/
def execFfma (x : Long) (s : State) : Out :=
  .next (compute (.ffma x) (drawsOf (roundMode x) (elementsOf x.tN)) (laneFloat x (fun f r a b c => floatFma f (roundMode x) (saturates x) r a b c)) s)

/-- FMIN (R99). -/
def execFmin (x : Long) (s : State) : Out :=
  .next (compute (.fmin x) 0 (laneFloat x (fun f _ a b _ => floatMinMax false f a b)) s)

/-- FMAX (R99). -/
def execFmax (x : Long) (s : State) : Out :=
  .next (compute (.fmax x) 0 (laneFloat x (fun f _ a b _ => floatMinMax true f a b)) s)

/-- FCLAMP (R99). -/
def execFclamp (x : Long) (s : State) : Out :=
  .next (compute (.fclamp x) 0 (laneFloat x (fun f _ a b c => floatClamp f a b c)) s)

/-- FRND (R98). -/
def execFrnd (x : Long) (s : State) : Out :=
  .next (compute (.frnd x) (drawsOf (roundMode x) (elementsOf x.tN)) (laneFloat x (fun f r a _ _ => floatRnd f (roundMode x) r a)) s)

/-- FFRAC (R98). -/
def execFfrac (x : Long) (s : State) : Out :=
  .next (compute (.ffrac x) (drawsOf (roundMode x) (elementsOf x.tN)) (laneFloat x (fun f r a _ _ => floatFrac f (roundMode x) (saturates x) r a)) s)

/-- FSCALE (R98). -/
def execFscale (x : Long) (s : State) : Out :=
  .next (compute (.fscale x) (drawsOf (roundMode x) (elementsOf x.tN)) (laneScale x) s)

/-- FEXPO (R100). -/
def execFexpo (x : Long) (s : State) : Out :=
  .next (compute (.fexpo x) 0 (laneExpo x) s)

/-- FNEG (R98). -/
def execFneg (x : Long) (s : State) : Out :=
  .next (compute (.fneg x) 0 (laneFloat x (fun f _ a _ _ => (floatNeg f a, 0))) s)

/-- FCMP (R92). -/
def execFcmp (x : Long) (s : State) : Out :=
  .next (compute (.fcmp x) 0 (fun v =>
    let r := floatCompare (fmtOfFloat x.tN) x.mN v.a v.b
    { pred := r.1 && v.pc, flags := r.2 }) s)

/-- FCLASS (R100). -/
def execFclass (x : Long) (s : State) : Out :=
  .next (compute (.fclass x) 0 (fun v => predOut (v.b.testBit (floatClassBit (fmtOfFloat x.tN) v.a))) s)

end Sys2Proof.Machine
end

