-- ==== Sys2Proof/Machine/Forms.lean ====
section
/-! DEFINITION. The short and the pair form (R53 to R56). Each short instruction is the long-form
instruction of its table entry; a pair is two of them that read before either writes. -/

namespace Sys2Proof.Machine

/-- A long-form instruction with the operation of its lanes. -/
def entry (i : Long → Instr) (x : Long) (f : Long → LaneIn → LaneOut) : Instr × (LaneIn → LaneOut) := (i x, f x)

/-- R56's table: the long-form instruction of a short operation number. `mk` makes its fields from the type
code, the modifier bits, whether it takes one source, and field C; `mkCvt` those of a conversion from the
destination's and the source's type number. None for NOP and the reserved numbers. -/
def sopEntry (sop : Nat) (mk : Nat → Nat → Bool → Nat → Long) (mkCvt : Nat → Nat → Long) :
    Option (Instr × (LaneIn → LaneOut)) :=
  match sop with
  | 0x00 => some (entry (.iadd ·) (mk 0 0 false 0) (laneInt .add))
  | 0x01 => some (entry (.isub ·) (mk 0 0 false 0) (laneInt .sub))
  | 0x02 => some (entry (.imul ·) (mk 0 0 false 0) (laneInt .mul))
  | 0x03 => some (entry (.imulh ·) (mk 0 0 false 0) (laneMulHigh))
  | 0x04 => some (entry (.imulh ·) (mk 1 0 false 0) (laneMulHigh))
  | 0x05 => some (entry (.imin ·) (mk 0 0 false 0) (laneInt .min))
  | 0x06 => some (entry (.imax ·) (mk 0 0 false 0) (laneInt .max))
  | 0x07 => some (entry (.imin ·) (mk 1 0 false 0) (laneInt .min))
  | 0x08 => some (entry (.imax ·) (mk 1 0 false 0) (laneInt .max))
  | 0x09 => some (entry (.iadd ·) (mk 0 8 false 0) (laneInt .add))
  | 0x0A => some (entry (.isub ·) (mk 0 8 false 0) (laneInt .sub))
  | 0x0B => some (entry (.iabs ·) (mk 0 0 true 0) (laneInt .abs))
  | 0x0C => some (entry (.ineg ·) (mk 0 0 true 0) (laneInt .neg))
  | 0x0D => some (entry (.iadd ·) (mk 1 8 false 0) (laneInt .add))
  | 0x0E => some (entry (.isub ·) (mk 1 8 false 0) (laneInt .sub))
  | 0x0F => some (entry (.mov ·) (mk 0 0 true 0) (fun _ v => valOut v.a))
  | 0x10 => some (entry (.and ·) (mk 0 0 false 0) (fun x => laneBits x (fun _ a b _ => a &&& b)))
  | 0x11 => some (entry (.or ·) (mk 0 0 false 0) (fun x => laneBits x (fun _ a b _ => a ||| b)))
  | 0x12 => some (entry (.xor ·) (mk 0 0 false 0) (fun x => laneBits x (fun _ a b _ => a ^^^ b)))
  | 0x13 => some (entry (.not ·) (mk 0 0 true 0) (fun x => laneBits x (fun w a _ _ => notBits w a)))
  | 0x14 => some (entry (.shl ·) (mk 0 0 false 0) (fun x => laneBits x (fun w a b _ => shiftLeft w a b)))
  | 0x15 => some (entry (.shrl ·) (mk 0 0 false 0) (fun x => laneBits x (fun w a b _ => shiftRightLogical w a b)))
  | 0x16 => some (entry (.shra ·) (mk 0 0 false 0) (fun x => laneBits x (fun w a b _ => shiftRightArith w a b)))
  | 0x17 => some (entry (.rotl ·) (mk 0 0 false 0) (fun x => laneBits x (fun w a b _ => rotateLeft w a b)))
  | 0x18 => some (entry (.popc ·) (mk 0 0 true 0) (fun x => laneBits x (fun w a _ _ => popCount w a)))
  | 0x19 => some (entry (.clz ·) (mk 0 0 true 0) (fun x => laneBits x (fun w a _ _ => leadingZeros w a)))
  | 0x1A => some (entry (.ctz ·) (mk 0 0 true 0) (fun x => laneBits x (fun w a _ _ => trailingZeros w a)))
  | 0x1B => some (entry (.brev ·) (mk 0 0 true 0) (fun x => laneBits x (fun w a _ _ => reverseBits w a)))
  | 0x1C => some (entry (.frnd ·) (mk 0 0 true 0) (fun x => laneFloat x (fun f r a _ _ => floatRnd f (roundMode x) r a)))
  | 0x1D => some (entry (.ffrac ·) (mk 0 0 true 0) (fun x => laneFloat x (fun f r a _ _ => floatFrac f (roundMode x) (saturates x) r a)))
  | 0x1E => some (entry (.fexpo ·) (mk 0 0 true 0) (laneExpo))
  | 0x1F => some (entry (.fscale ·) (mk 0 0 false 0) (laneScale))
  | 0x20 => some (entry (.fadd ·) (mk 0 0 false 0) (fun x => laneFloat x (fun f r a b _ => floatAdd false f (roundMode x) (saturates x) r a b)))
  | 0x21 => some (entry (.fsub ·) (mk 0 0 false 0) (fun x => laneFloat x (fun f r a b _ => floatAdd true f (roundMode x) (saturates x) r a b)))
  | 0x22 => some (entry (.fmul ·) (mk 0 0 false 0) (fun x => laneFloat x (fun f r a b _ => floatMul f (roundMode x) (saturates x) r a b)))
  | 0x23 => some (entry (.fmin ·) (mk 0 0 false 0) (fun x => laneFloat x (fun f _ a b _ => floatMinMax false f a b)))
  | 0x24 => some (entry (.fmax ·) (mk 0 0 false 0) (fun x => laneFloat x (fun f _ a b _ => floatMinMax true f a b)))
  | 0x25 => some (entry (.fneg ·) (mk 0 0 true 0) (fun x => laneFloat x (fun f _ a _ _ => (floatNeg f a, 0))))
  | 0x26 => some (entry (.fadd ·) (mk 0 1 false 0) (fun x => laneFloat x (fun f r a b _ => floatAdd false f (roundMode x) (saturates x) r a b)))
  | 0x27 => some (entry (.fmul ·) (mk 0 1 false 0) (fun x => laneFloat x (fun f r a b _ => floatMul f (roundMode x) (saturates x) r a b)))
  | 0x28 => some (entry (.fadd ·) (mk 4 0 false 0) (fun x => laneFloat x (fun f r a b _ => floatAdd false f (roundMode x) (saturates x) r a b)))
  | 0x29 => some (entry (.fsub ·) (mk 4 0 false 0) (fun x => laneFloat x (fun f r a b _ => floatAdd true f (roundMode x) (saturates x) r a b)))
  | 0x2A => some (entry (.fmul ·) (mk 4 0 false 0) (fun x => laneFloat x (fun f r a b _ => floatMul f (roundMode x) (saturates x) r a b)))
  | 0x2B => some (entry (.fmin ·) (mk 4 0 false 0) (fun x => laneFloat x (fun f _ a b _ => floatMinMax false f a b)))
  | 0x2C => some (entry (.fmax ·) (mk 4 0 false 0) (fun x => laneFloat x (fun f _ a b _ => floatMinMax true f a b)))
  | 0x2D => some (entry (.fadd ·) (mk 5 0 false 0) (fun x => laneFloat x (fun f r a b _ => floatAdd false f (roundMode x) (saturates x) r a b)))
  | 0x2E => some (entry (.fmul ·) (mk 5 0 false 0) (fun x => laneFloat x (fun f r a b _ => floatMul f (roundMode x) (saturates x) r a b)))
  | 0x2F => some (entry (.fneg ·) (mk 4 0 true 0) (fun x => laneFloat x (fun f _ a _ _ => (floatNeg f a, 0))))
  | 0x30 => some (entry (.cvt ·) (mkCvt 12 2) laneCvt)
  | 0x31 => some (entry (.cvt ·) (mkCvt 2 12) laneCvt)
  | 0x32 => some (entry (.cvt ·) (mkCvt 12 6) laneCvt)
  | 0x33 => some (entry (.cvt ·) (mkCvt 6 12) laneCvt)
  | 0x34 => some (entry (.cvt ·) (mkCvt 12 10) laneCvt)
  | 0x35 => some (entry (.cvt ·) (mkCvt 10 12) laneCvt)
  | 0x36 => some (entry (.cvt ·) (mkCvt 12 11) laneCvt)
  | 0x37 => some (entry (.cvt ·) (mkCvt 11 12) laneCvt)
  | 0x38 => some (entry (.lea ·) (mk 0 1 false 0) laneLea)
  | 0x39 => some (entry (.lea ·) (mk 0 2 false 0) laneLea)
  | 0x3A => some (entry (.lea ·) (mk 0 3 false 0) laneLea)
  | 0x3B => some (entry (.lea ·) (mk 0 4 false 0) laneLea)
  | _ => none

/-- A short-form instruction (R53). -/
def computeShort (sop : Nat) (x : Short) (s : State) : State :=
  match sopEntry sop (fun t m o c => x.toLong t m o c) x.toCvt with
  | some (i, f) => compute i 0 f s
  | none => s

/-- The lone word form of NOP (R56). -/
def execNopShort (s : State) : Out :=
  .next (issueWith { (default : Long) with form := .short, guard := 7 } ⟨.vec, .none, [], .none, .zero, .zero, .zero, .zero⟩ false false [] []
    (fun cx s => s.advance cx) s)

/-- The operand code of a half's b field (R54). -/
def halfCode (b : Nat) : BitVec 10 := BitVec.ofNat 10 (if b < 0x100 then b else b + 0x40)

/-- The long-form fields of a half (R54): d is both the first source and the destination. -/
def halfLong (h : Half) (safe : Bool) (ty mods : Nat) (one : Bool) (c : Nat) : Long where
  form := .half
  ty := BitVec.ofNat 3 ty
  et := 0
  c := BitVec.ofNat 10 c
  b := if one then 0 else halfCode h.b.toNat
  a := if one then halfCode h.b.toNat else h.d.setWidth 10
  dst := h.d.setWidth 10
  safe := safe
  neg := false
  guard := BitVec.ofNat 3 (if h.guard = 3 then 7 else h.guard.toNat)
  mods := BitVec.ofNat 4 mods

/-- A half as an issue: its context and its operation; none for NOP. -/
def halfIssue (h : Half) (safe : Bool) (s : State) : Option (Ctx × (LaneIn → LaneOut)) :=
  match sopEntry h.op.toNat (halfLong h safe)
      (fun d t => { halfLong h safe 0 0 true t with b := BitVec.ofNat 10 d }) with
  | none => none
  | some (i, f) => i.info.map (fun n => (Ctx.of n.x n.shape s, f))

/-- The fault of a half, if it has one (R55, R59, R365). -/
def halfFault (h : Option (Ctx × (LaneIn → LaneOut))) (s : State) : Option Trap :=
  match h with
  | none => none
  | some (cx, _) =>
    firstFault cx s [decodeFault false false,
      fun cx s => if cx.act = 0 then none else poisonFault false cx s]

/-- What a half writes, computed from the state before either half writes (R55). -/
def halfWrites (h : Option (Ctx × (LaneIn → LaneOut))) (s : State) : List Landing × (Warp → Warp) :=
  match h with
  | none => ([], id)
  | some (cx, f) =>
    let outs := laneOuts cx s f
    (regLandings cx (s.warp cx.wk) outs, warpAfter cx 0 outs)

/-- A pair-form instruction (R54, R55). Reading: log entry 26, DEDUCED. -/
def execPair (p : Pair) (s : State) : Out :=
  let h0 := halfIssue p.h0 p.safe s
  let h1 := halfIssue p.h1 p.safe s
  let cx : Ctx := { core := s.cur.core, berth := s.cur.berth, wk := warpKey s.cur.core s.cur.berth
                    group := s.cur.lanes, act := s.cur.lanes, pc := s.cur.pc, len := s.cur.len
                    x := s.cur.x, sh := default, uni := false }
  match halfFault h0 s, halfFault h1 s with
  | some t, _ => .next (s.raise cx.wk t)
  | none, some t => .next (s.raise cx.wk t)
  | none, none =>
    let w0 := halfWrites h0 s
    let w1 := halfWrites h1 s
    .next (((s.landAll (w0.1 ++ w1.1)).modWarp cx.wk (fun w => w1.2 (w0.2 w))).advance cx)

/-! ## One definition per short instruction -/

/-- Short operation 0x00 (R56). -/
def execIaddShort (x : Short) (s : State) : Out := .next (computeShort 0x00 x s)
/-- Short operation 0x01 (R56). -/
def execIsubShort (x : Short) (s : State) : Out := .next (computeShort 0x01 x s)
/-- Short operation 0x02 (R56). -/
def execImulShort (x : Short) (s : State) : Out := .next (computeShort 0x02 x s)
/-- Short operation 0x03 (R56). -/
def execImulhI32Short (x : Short) (s : State) : Out := .next (computeShort 0x03 x s)
/-- Short operation 0x04 (R56). -/
def execImulhN32Short (x : Short) (s : State) : Out := .next (computeShort 0x04 x s)
/-- Short operation 0x05 (R56). -/
def execIminI32Short (x : Short) (s : State) : Out := .next (computeShort 0x05 x s)
/-- Short operation 0x06 (R56). -/
def execImaxI32Short (x : Short) (s : State) : Out := .next (computeShort 0x06 x s)
/-- Short operation 0x07 (R56). -/
def execIminN32Short (x : Short) (s : State) : Out := .next (computeShort 0x07 x s)
/-- Short operation 0x08 (R56). -/
def execImaxN32Short (x : Short) (s : State) : Out := .next (computeShort 0x08 x s)
/-- Short operation 0x09 (R56). -/
def execIaddSatI32Short (x : Short) (s : State) : Out := .next (computeShort 0x09 x s)
/-- Short operation 0x0A (R56). -/
def execIsubSatI32Short (x : Short) (s : State) : Out := .next (computeShort 0x0A x s)
/-- Short operation 0x0B (R56). -/
def execIabsShort (x : Short) (s : State) : Out := .next (computeShort 0x0B x s)
/-- Short operation 0x0C (R56). -/
def execInegShort (x : Short) (s : State) : Out := .next (computeShort 0x0C x s)
/-- Short operation 0x0D (R56). -/
def execIaddSatN32Short (x : Short) (s : State) : Out := .next (computeShort 0x0D x s)
/-- Short operation 0x0E (R56). -/
def execIsubSatN32Short (x : Short) (s : State) : Out := .next (computeShort 0x0E x s)
/-- Short operation 0x0F (R56). -/
def execMovShort (x : Short) (s : State) : Out := .next (computeShort 0x0F x s)
/-- Short operation 0x10 (R56). -/
def execAndShort (x : Short) (s : State) : Out := .next (computeShort 0x10 x s)
/-- Short operation 0x11 (R56). -/
def execOrShort (x : Short) (s : State) : Out := .next (computeShort 0x11 x s)
/-- Short operation 0x12 (R56). -/
def execXorShort (x : Short) (s : State) : Out := .next (computeShort 0x12 x s)
/-- Short operation 0x13 (R56). -/
def execNotShort (x : Short) (s : State) : Out := .next (computeShort 0x13 x s)
/-- Short operation 0x14 (R56). -/
def execShlShort (x : Short) (s : State) : Out := .next (computeShort 0x14 x s)
/-- Short operation 0x15 (R56). -/
def execShrlShort (x : Short) (s : State) : Out := .next (computeShort 0x15 x s)
/-- Short operation 0x16 (R56). -/
def execShraShort (x : Short) (s : State) : Out := .next (computeShort 0x16 x s)
/-- Short operation 0x17 (R56). -/
def execRotlShort (x : Short) (s : State) : Out := .next (computeShort 0x17 x s)
/-- Short operation 0x18 (R56). -/
def execPopcShort (x : Short) (s : State) : Out := .next (computeShort 0x18 x s)
/-- Short operation 0x19 (R56). -/
def execClzShort (x : Short) (s : State) : Out := .next (computeShort 0x19 x s)
/-- Short operation 0x1A (R56). -/
def execCtzShort (x : Short) (s : State) : Out := .next (computeShort 0x1A x s)
/-- Short operation 0x1B (R56). -/
def execBrevShort (x : Short) (s : State) : Out := .next (computeShort 0x1B x s)
/-- Short operation 0x1C (R56). -/
def execFrndShort (x : Short) (s : State) : Out := .next (computeShort 0x1C x s)
/-- Short operation 0x1D (R56). -/
def execFfracShort (x : Short) (s : State) : Out := .next (computeShort 0x1D x s)
/-- Short operation 0x1E (R56). -/
def execFexpoShort (x : Short) (s : State) : Out := .next (computeShort 0x1E x s)
/-- Short operation 0x1F (R56). -/
def execFscaleShort (x : Short) (s : State) : Out := .next (computeShort 0x1F x s)
/-- Short operation 0x20 (R56). -/
def execFaddShort (x : Short) (s : State) : Out := .next (computeShort 0x20 x s)
/-- Short operation 0x21 (R56). -/
def execFsubShort (x : Short) (s : State) : Out := .next (computeShort 0x21 x s)
/-- Short operation 0x22 (R56). -/
def execFmulShort (x : Short) (s : State) : Out := .next (computeShort 0x22 x s)
/-- Short operation 0x23 (R56). -/
def execFminShort (x : Short) (s : State) : Out := .next (computeShort 0x23 x s)
/-- Short operation 0x24 (R56). -/
def execFmaxShort (x : Short) (s : State) : Out := .next (computeShort 0x24 x s)
/-- Short operation 0x25 (R56). -/
def execFnegShort (x : Short) (s : State) : Out := .next (computeShort 0x25 x s)
/-- Short operation 0x26 (R56). -/
def execFaddRzShort (x : Short) (s : State) : Out := .next (computeShort 0x26 x s)
/-- Short operation 0x27 (R56). -/
def execFmulRzShort (x : Short) (s : State) : Out := .next (computeShort 0x27 x s)
/-- Short operation 0x28 (R56). -/
def execFaddH2Short (x : Short) (s : State) : Out := .next (computeShort 0x28 x s)
/-- Short operation 0x29 (R56). -/
def execFsubH2Short (x : Short) (s : State) : Out := .next (computeShort 0x29 x s)
/-- Short operation 0x2A (R56). -/
def execFmulH2Short (x : Short) (s : State) : Out := .next (computeShort 0x2A x s)
/-- Short operation 0x2B (R56). -/
def execFminH2Short (x : Short) (s : State) : Out := .next (computeShort 0x2B x s)
/-- Short operation 0x2C (R56). -/
def execFmaxH2Short (x : Short) (s : State) : Out := .next (computeShort 0x2C x s)
/-- Short operation 0x2D (R56). -/
def execFaddG2Short (x : Short) (s : State) : Out := .next (computeShort 0x2D x s)
/-- Short operation 0x2E (R56). -/
def execFmulG2Short (x : Short) (s : State) : Out := .next (computeShort 0x2E x s)
/-- Short operation 0x2F (R56). -/
def execFnegH2Short (x : Short) (s : State) : Out := .next (computeShort 0x2F x s)
/-- Short operation 0x30 (R56). -/
def execCvtF32I32Short (x : Short) (s : State) : Out := .next (computeShort 0x30 x s)
/-- Short operation 0x31 (R56). -/
def execCvtI32F32Short (x : Short) (s : State) : Out := .next (computeShort 0x31 x s)
/-- Short operation 0x32 (R56). -/
def execCvtF32N32Short (x : Short) (s : State) : Out := .next (computeShort 0x32 x s)
/-- Short operation 0x33 (R56). -/
def execCvtN32F32Short (x : Short) (s : State) : Out := .next (computeShort 0x33 x s)
/-- Short operation 0x34 (R56). -/
def execCvtF32F16Short (x : Short) (s : State) : Out := .next (computeShort 0x34 x s)
/-- Short operation 0x35 (R56). -/
def execCvtF16F32Short (x : Short) (s : State) : Out := .next (computeShort 0x35 x s)
/-- Short operation 0x36 (R56). -/
def execCvtF32Bf16Short (x : Short) (s : State) : Out := .next (computeShort 0x36 x s)
/-- Short operation 0x37 (R56). -/
def execCvtBf16F32Short (x : Short) (s : State) : Out := .next (computeShort 0x37 x s)
/-- Short operation 0x38 (R56). -/
def execLeaS1Short (x : Short) (s : State) : Out := .next (computeShort 0x38 x s)
/-- Short operation 0x39 (R56). -/
def execLeaS2Short (x : Short) (s : State) : Out := .next (computeShort 0x39 x s)
/-- Short operation 0x3A (R56). -/
def execLeaS3Short (x : Short) (s : State) : Out := .next (computeShort 0x3A x s)
/-- Short operation 0x3B (R56). -/
def execLeaS4Short (x : Short) (s : State) : Out := .next (computeShort 0x3B x s)

end Sys2Proof.Machine
end

