-- ==== Sys2Proof/Machine/Lanes.lean ====
section
/-! DEFINITION. Lane and tile instructions (R126 to R132): values are combined over the members of a tile. -/

namespace Sys2Proof.Machine

/-- Tile size of PART (R33). -/
def tileSize (w : Warp) : Nat := 2 ^ w.part

/-- First lane of a lane's tile (R126). -/
def tileBase (w : Warp) (l : Nat) : Nat := l - l % tileSize w

/-- The members of a lane's tile, ascending (R126). Reading: log entry 70, DEDUCED. -/
def members (cx : Ctx) (w : Warp) (l : Nat) : List Nat :=
  (lanesOf cx.act).filter (fun j => tileBase w j = tileBase w l)

/-- The tile-relative mask of the members that satisfy f (R126). -/
def tileMask (cx : Ctx) (w : Warp) (l : Nat) (f : Nat → Bool) : Nat :=
  (members cx w l).foldl (fun m j => if f j then m + 2 ^ (j - tileBase w l) else m) 0

/-- A lane instruction that writes at issue: every lane's result from the state before any is written.
Reading: log entry 70, DEDUCED. -/
def laneOp (out : Ctx → State → Warp → Nat → LaneOut) (cx : Ctx) (s : State) : State :=
  let w := s.warp cx.wk
  let outs := (lanesOf cx.act).map (fun l => (l, out cx s w l))
  let s := s.landAll (regLandings cx w outs)
  (s.modWarp cx.wk (warpAfter cx 0 outs)).advance cx

/-- VOTE (R128): `.all`, `.any` and `.eq` write a predicate, `.bal` a register. -/
def voteLane (cx : Ctx) (s : State) (w : Warp) (l : Nat) : LaneOut :=
  let _ := s
  let p := fun (j : Nat) => w.predOf cx.x.aN j
  let m := members cx w l
  match cx.x.mN with
  | 0 => predOut (m.all p)
  | 1 => predOut (m.any p)
  | 2 => valOut (tileMask cx w l p)
  | _ => predOut (m.all p || m.all (fun j => !p j))

/-- VOTE's predicate destination stands in a field of its own (R127). -/
def voteLanes (cx : Ctx) (s : State) : State :=
  let w := s.warp cx.wk
  let outs := (lanesOf cx.act).map (fun l => (l, voteLane cx s w l))
  if cx.x.mN = 2 then (s.landAll (regLandings cx w outs)).advance cx
  else (s.modWarp cx.wk (fun w => outs.foldl (fun w (l, o) => w.putPred cx.x.dN l o.pred) w)).advance cx

def execVote (x : Long) (s : State) : Out := .next (issueOf (.vote x) false voteLanes s)

/-- Source lane of SHFL (R129), none when it lies outside 0 to 31. -/
def shflSource (w : Warp) (mode d l : Nat) : Option Nat :=
  let t := tileSize w
  let b := tileBase w l
  match mode with
  | 0 => some (b + d % t)
  | 1 => if d ≤ l then some (l - d) else none
  | 2 => some (l + d)
  | _ => some (b + ((l - b) ^^^ (d % t)))

/-- SHFL (R127, R129): a producer that lands no sooner than 4 clocks after issue. -/
def shflLanes (cx : Ctx) (s : State) : State :=
  let w := s.warp cx.wk
  let value := fun (l : Nat) =>
    match shflSource w cx.x.mN (s.opB cx l % 32) l with
    | some j => if (members cx w l).contains j then s.opA cx j else s.opC cx l
    | none => s.opC cx l
  let outs := (lanesOf cx.act).map (fun l => (l, valOut (value l)))
  (s.produce cx .shfl 4 (regLandings cx w outs) 0).advance cx

def execShfl (x : Long) (s : State) : Out := .next (issueOf (.shfl x) false shflLanes s)

/-- R130's combinations of two values of an integer type. -/
def combine (op : Nat) (t : IntType) (a b : Nat) : Nat :=
  let w := regBits t.width
  match op with
  | 0 => t.write w (t.read a + t.read b)
  | 1 => t.write w (min (t.read a) (t.read b))
  | 2 => t.write w (max (t.read a) (t.read b))
  | 3 => t.write w (t.read (a &&& b))
  | 4 => t.write w (t.read (a ||| b))
  | _ => t.write w (t.read (a ^^^ b))

/-- R130's identities. -/
def identityOf (op : Nat) (t : IntType) : Nat :=
  let w := regBits t.width
  match op with
  | 1 => t.write w t.max
  | 2 => t.write w t.min
  | 3 => t.write w (-1)
  | _ => 0

/-- The combination of the A values of some lanes (R130). Reading: log entry 70, DEDUCED. -/
def combineLanes (op : Nat) (cx : Ctx) (s : State) (ls : List Nat) : Nat :=
  let t := typeOf cx.x
  ls.foldl (fun v j => combine op t v (s.opA cx j)) (identityOf op t)

/-- REDUX (R130). -/
def reduxLane (cx : Ctx) (s : State) (w : Warp) (l : Nat) : LaneOut :=
  valOut (combineLanes cx.x.mN cx s (members cx w l))

def execRedux (x : Long) (s : State) : Out := .next (issueOf (.redux x) false (laneOp reduxLane) s)

/-- SCAN (R130): bit 12 excludes the lane itself. -/
def scanLane (cx : Ctx) (s : State) (w : Warp) (l : Nat) : LaneOut :=
  let last := if cx.x.mN / 8 = 1 then l else l + 1
  valOut (combineLanes (cx.x.mN % 8) cx s ((members cx w l).filter (fun j => decide (j < last))))

def execScan (x : Long) (s : State) : Out := .next (issueOf (.scan x) false (laneOp scanLane) s)

/-- MATCH (R131). -/
def matchLane (cx : Ctx) (s : State) (w : Warp) (l : Nat) : LaneOut :=
  let same := fun (j : Nat) => s.opA cx j = s.opA cx l
  if cx.x.mN = 0 then valOut (tileMask cx w l (fun j => same j))
  else valOut (if (members cx w l).all (fun j => same j) then tileMask cx w l (fun _ => true) else 0)

def execMatchLanes (x : Long) (s : State) : Out := .next (issueOf (.matchLanes x) false (laneOp matchLane) s)

/-- ELECT (R132). -/
def electLane (cx : Ctx) (_s : State) (w : Warp) (l : Nat) : LaneOut :=
  predOut ((members cx w l).head? = some l)

def execElect (x : Long) (s : State) : Out := .next (issueOf (.elect x) false (laneOp electLane) s)

/-- LMASK (R132). -/
def lmaskLane (cx : Ctx) (_s : State) (w : Warp) (l : Nat) : LaneOut :=
  let f : Nat → Bool := match cx.x.aN - 0x140 with
    | 0 => fun _ => true
    | 1 => fun j => decide (j < l)
    | 2 => fun j => decide (j ≤ l)
    | 3 => fun j => decide (l < j)
    | _ => fun j => decide (l ≤ j)
  valOut (if cx.x.aN = 0x145 then 2 ^ tileSize w - 1 else tileMask cx w l f)

def execLmask (x : Long) (s : State) : Out := .next (issueOf (.lmask x) false (laneOp lmaskLane) s)

/-- PARTSET (R33, R132). -/
def partsetWarp (cx : Ctx) (s : State) : State :=
  let v := s.opA cx 0 % 8
  if v = 0 || v = 6 || v = 7 then s.raise cx.wk (s.trapOf cx .illegal 0 cx.group 0)
  else (s.modWarp cx.wk (fun w => { w with part := v })).advance cx

def execPartset (x : Long) (s : State) : Out := .next (issueOf (.partset x) false partsetWarp s)

end Sys2Proof.Machine
end

