-- ==== Sys2Proof/Machine/Matrix.lean ====
section
/-! DEFINITION. The matrix unit (R133 to R164, R427): the parameter block and its checks, operands, scales,
bitmaps and the four-of-eight form, the arithmetic of a step (R80 to R82), and pilot tokens. -/

namespace Sys2Proof.Machine

/-! ## The parameter block (R141) -/

/-- Word i of a parameter block as a number. -/
def pbWord (pb : List Word) (i : Nat) : Nat := (lget 0 pb i).toNat

def pbK (pb : List Word) : Nat := pbWord pb 0 / 2 ^ 16
def pbN (pb : List Word) : Nat := pbWord pb 0 / 2 ^ 8 % 2 ^ 8
def pbM (pb : List Word) : Nat := pbWord pb 0 % 2 ^ 8
def pbFmtB (pb : List Word) : Nat := pbWord pb 1 / 2 ^ 21 % 8
def pbFmtA (pb : List Word) : Nat := pbWord pb 1 / 2 ^ 18 % 8
def pbSat (pb : List Word) : Bool := (pbWord pb 1).testBit 17
def pbZero (pb : List Word) : Bool := (pbWord pb 1).testBit 16
def pbAcc (pb : List Word) : Nat := pbWord pb 1 / 2 ^ 13 % 8
def pbScl (pb : List Word) : Nat := pbWord pb 1 / 2 ^ 11 % 4
def pbType (pb : List Word) : Nat := pbWord pb 1 % 2 ^ 5
def pbA (pb : List Word) : Record := recordOf (pbWord pb 2) (pbWord pb 3) (pbWord pb 4)
def pbB (pb : List Word) : Record := recordOf (pbWord pb 5) (pbWord pb 6) (pbWord pb 7)
def pbMapA (pb : List Word) : Nat := pbWord pb 8
def pbMapB (pb : List Word) : Nat := pbWord pb 9
def pbBar (pb : List Word) : Option Nat :=
  if (pbWord pb 11).testBit 31 then some (pbWord pb 11 % 2 ^ 22) else none
def pbDc (pb : List Word) : Option Nat := if (pbWord pb 11).testBit 30 then some (pbWord pb 12 % 2 ^ 8) else none

/-- Minifloat and integer types of operands. -/
def isMini (t : Nat) : Bool := t = 16 || t = 17 || t = 18
def isIntOperand (t : Nat) : Bool := t = 0 || t = 20

/-- Clocks of a full-size step (R148), 0 for a type that is not listed. -/
def fullClocks (t : Nat) : Nat :=
  match t with
  | 0 => 8
  | 16 => 8
  | 17 => 8
  | 20 => 4
  | 18 => 4
  | 10 => 16
  | 11 => 16
  | _ => 0

/-- Clocks of a step (R148); form 2 is `MMAS`. -/
def stepClocks (form : Nat) (pb : List Word) : Nat :=
  let c := fullClocks (pbType pb)
  let c := if form = 2 then (c + 1) / 2 else c
  max 1 ((pbM pb * pbN pb * c + 16383) / 16384)

/-- What an element of an operand is, with its format register (R49, R67). -/
def operandType (pb : List Word) (fmt : Word) : NumType := numTypeOf (pbType pb) fmt

/-- Elements of a row of A or a column of B that lie in the operand (R144, R151). -/
def rowElements (form : Nat) (isA : Bool) (pb : List Word) : Nat :=
  if form = 2 && isA then pbK pb / 2 else pbK pb

/-- Local address of word t of row y (R143, R145). -/
def rowWord (r : Record) (w y t : Nat) : Nat := r.addr + permute r.mode y (y * r.s1 * w / 8 + 4 * t)

/-- Words that hold the elements of an operand's rows. -/
def operandWords (r : Record) (w rows n : Nat) : List Nat :=
  (upTo rows).flatMap (fun y => (upTo ((n * w + 31) / 32)).map (fun t => rowWord r w y t))

/-- Whether a record is valid for the unit (R144). -/
def recordValid (r : Record) (w : Nat) : Bool :=
  let (p, q, _) := modePqh r.mode
  r.clean && r.s0 = 1 && decide (r.addr % 16 = 0) && decide (r.s1 * w % 32 = 0) &&
  (r.mode = 0 || (decide (r.addr % 2 ^ (p + q) = 0) && decide (r.s1 * w / 8 % 2 ^ (p + q) = 0)))

/-- Words of a bitmap's rows: row i starts at word i x ceil(K / 32) (R150). -/
def mapWords (a rows k : Nat) : List (List Nat) :=
  (upTo rows).map (fun i => (upTo ((k + 31) / 32)).map (fun t => a + 4 * (i * ((k + 31) / 32) + t)))

/-- Whether a block of a block's gang on a core has a local address in its scratchpad. -/
def gangHas (s : State) (b core a : Nat) : Bool :=
  (s.gangOf b).any (fun e => e.2.core = core && e.2.inScratch a)

/-! ## The checks of R142 -/

/-- A failed check: cause and address. -/
abbrev Failed := Cause × Nat

/-- Check 1. Reading: log entry 55, DEDUCED. -/
def checkBlock (v : Block) (pba : Nat) (pb : List Word) : Option Failed :=
  if pba % 64 ≠ 0 || !v.inScratch pba || !v.inScratch (pba + 63) then some (.permission, pba)
  else
    match pbBar pb with
    | none => none
    | some a => if a % 16 ≠ 0 || !v.inScratch a || !v.inScratch (a + 15) then some (.permission, a) else none

/-- Checks 2 to 4, all of which raise the matrix-format fault; `bare` says that fields B and C hold zero. -/
def badFormat (v : Block) (fmts : List Word) (form : Nat) (bare : Bool) (pb : List Word) : Bool :=
  let t := pbType pb
  let bytes := !(t = 10 || t = 11)
  let mini := isMini t
  let fa := lget fmtStart fmts (pbFmtA pb)
  let size := fun (n : Nat) => decide (16 ≤ n ∧ n ≤ 128 ∧ n % 16 = 0)
  pbWord pb 1 / 2 ^ 24 ≠ 0 || pbWord pb 1 / 2 ^ 5 % 2 ^ 6 ≠ 0 || decide (2 ≤ pbScl pb) ||
  pbWord pb 8 / 2 ^ 22 ≠ 0 || pbWord pb 9 / 2 ^ 22 ≠ 0 || pbWord pb 11 / 2 ^ 22 % 2 ^ 8 ≠ 0 ||
  pbWord pb 12 / 2 ^ 8 ≠ 0 || pbWord pb 13 ≠ 0 || pbWord pb 14 ≠ 0 || pbWord pb 15 ≠ 0 ||
  fullClocks t = 0 || !size (pbM pb) || !size (pbN pb) || decide (pbK pb < 16) || decide (4096 < pbK pb) ||
  pbK pb % (if bytes then 32 else 16) ≠ 0 ||
  decide (v.tiles ≤ pbAcc pb) || (pbSat pb && !isIntOperand t) || (pbScl pb = 1 && !mini) ||
  (form ≠ 1 && (pbMapA pb ≠ 0 || pbMapB pb ≠ 0)) || (!mini && (pbFmtA pb ≠ 0 || pbFmtB pb ≠ 0)) ||
  (pbScl pb = 0 && !bare) ||
  (mini && (fa ≠ lget fmtStart fmts (pbFmtB pb) || !fmtFits t (fmtOfReg fa)))

/-- Check 5 of one operand: its record, then where its words lie. -/
def checkOperand (s : State) (b core w rows n : Nat) (r : Record) : Option Failed :=
  if !recordValid r w then some (.permission, r.addr)
  else (operandWords r w rows n).findSome? (fun a =>
    if gangHas s b (r.home core) a then none else some (.permission, a))

/-- Check 5 of one bitmap. -/
def checkMap (v : Block) (a rows k : Nat) : Option Failed :=
  if a % 4 ≠ 0 then some (.permission, a)
  else (mapWords a rows k).flatten.findSome? (fun p => if v.inScratch p then none else some (.permission, p))

/-- Check 5. Reading: log entry 55, DEDUCED. -/
def checkOperands (s : State) (b core form w : Nat) (pb : List Word) : Option Failed :=
  let v := s.block b
  (checkOperand s b core w (pbM pb) (rowElements form true pb) (pbA pb)).orElse (fun _ =>
  (checkOperand s b core w (pbN pb) (rowElements form false pb) (pbB pb)).orElse (fun _ =>
    if form = 1 then
      (checkMap v (pbMapA pb) (pbM pb) (pbK pb)).orElse (fun _ => checkMap v (pbMapB pb) (pbN pb) (pbK pb))
    else none))

/-- Scale registers of A and of B, and metadata registers, as (first, how many) (R147, R152). -/
def scaleRegs (m : Nat) : Nat := (m + 31) / 32
def metaRegs (pb : List Word) : Nat := scaleRegs (pbM pb) * (pbK pb / 16)

/-- Check 6. -/
def badRegisters (w : Warp) (form kb rb rc rd : Nat) (pb : List Word) : Bool :=
  (pbScl pb = 1 && (decide (4 < kb + pbK pb / 32) || decide (w.vregs < rb + scaleRegs (pbM pb)) ||
    decide (w.vregs < rc + scaleRegs (pbN pb)))) ||
  (form = 2 && (decide (128 < pbK pb) || decide (w.vregs < rd + metaRegs pb)))

/-- Words of n vector registers in all lanes. -/
def allLanes (core : Nat) (w : Warp) (r n : Nat) : List Nat := (upTo (32 * n)).map (fun i => vkey core w r 0 + i)

/-- Words that check 7 looks at, with the empty-trap bit of each. -/
def registerWords (core : Nat) (w : Warp) (form rb rc rd : Nat) (et : BitVec 3) (pb : List Word) :
    List (Nat × Bool) :=
  (if pbScl pb = 1 then
    (allLanes core w rb (scaleRegs (pbM pb))).map (fun k => (k, et.getLsbD 1)) ++
    (allLanes core w rc (scaleRegs (pbN pb))).map (fun k => (k, et.getLsbD 2))
   else []) ++
  (if form = 2 then (allLanes core w rd (metaRegs pb)).map (fun k => (k, false)) else [])

/-! ## Issue and continuation (R133, R134, R149) -/

/-- What an issue or a restart comes to. -/
inductive Begun where
  /-- a word or a scoreboard entry is awaited (R134) -/
  | wait
  | fail (cause : Cause) (addr : Nat)
  | ok (op : MatOp) (holds : List Hold)

/-- MSTAT's value (R37). -/
def mstatOf (step steps : Nat) (busy resume : Bool) (acc code : Nat) : DWord :=
  BitVec.ofNat 64 (step * 2 ^ 32 + steps * 2 ^ 16 + (if busy then 2 ^ 15 else 0) + (if resume then 2 ^ 14 else 0) +
    acc * 2 ^ 11 + code)

/-- MSTAT's fields. -/
def mStep (m : DWord) : Nat := bitsOf m 32 16
def mSteps (m : DWord) : Nat := bitsOf m 16 16
def mBusy (m : DWord) : Bool := m.getLsbD 15
def mResume (m : DWord) : Bool := m.getLsbD 14
def mAcc (m : DWord) : Nat := bitsOf m 11 3
def mCode (m : DWord) : Nat := bitsOf m 0 8

/-- Local words as one number. -/
def localNumber (s : State) (core : Nat) (as : List Nat) : Nat :=
  ofWords (as.map (fun a => s.word (storeKey core a)))

/-- Rows of a bitmap, one number each. -/
def mapRows (s : State) (core a rows k : Nat) : List Nat := (mapWords a rows k).map (localNumber s core)

/-- The k-groups that an operation applies (R150). -/
def liveGroups (form k : Nat) (maskA maskB : List Nat) : List Nat :=
  (upTo (k / 8)).filter (fun g =>
    form ≠ 1 || (maskA.any (fun x => x / 2 ^ (8 * g) % 2 ^ 8 ≠ 0) && maskB.any (fun x => x / 2 ^ (8 * g) % 2 ^ 8 ≠ 0)))

/-- The range of a list of word addresses of a core. -/
def rangeOf (core : Nat) (as : List Nat) (own : Nat) : Hold :=
  ⟨core, as.foldl min (as.headD 0), as.foldl max 0 + 4, false, 1, own⟩

/-- Ranges of the issuing core that are held from stores (R136). -/
def operandHolds (core form w own : Nat) (pb : List Word) : List Hold :=
  let side := fun (isA : Bool) =>
    let r := if isA then pbA pb else pbB pb
    let rows := if isA then pbM pb else pbN pb
    if r.home core = core then [rangeOf core (operandWords r w rows (rowElements form isA pb)) own] else []
  side true ++ side false ++
  (if form = 1 then
    [rangeOf core (mapWords (pbMapA pb) (pbM pb) (pbK pb)).flatten own,
      rangeOf core (mapWords (pbMapB pb) (pbN pb) (pbK pb)).flatten own]
   else [])

/-- The scale or metadata word of row i: lane i mod 32 of register r + i / 32 x per + h. -/
def rowRegister (s : State) (core : Nat) (w : Warp) (r per h i : Nat) : Word :=
  s.word (vkey core w (r + i / 32 * per + h) (i % 32))

/-- An operation from what the checks have let pass. Reading: log entry 55, DEDUCED. -/
def newOp (s : State) (wk form kb lane rb rc rd : Nat) (pb : List Word) (start : Nat) (zero : Bool) : MatOp :=
  let core := wk / 128
  let w := s.warp wk
  let b := w.block
  let ma := if form = 1 then mapRows s core (pbMapA pb) (pbM pb) (pbK pb) else []
  let mb := if form = 1 then mapRows s core (pbMapB pb) (pbN pb) (pbK pb) else []
  let mw := if form = 1 then (mapWords (pbMapA pb) (pbM pb) (pbK pb) ++ mapWords (pbMapB pb) (pbN pb) (pbK pb)).flatten
    else []
  let per := pbK pb / 16
  { warp := wk, order := s.fresh, block := b, form := form, kb := kb, lane := lane, pb := pb
    fmt := lget fmtStart w.fmts (pbFmtA pb), groups := liveGroups form (pbK pb) ma mb, step := start, zero := zero
    maskA := ma, maskB := mb, badMask := mw.find? (fun a => s.isPoison (storeKey core a))
    scaleA := if pbScl pb = 1 then (upTo (pbM pb)).map (rowRegister s core w rb 1 0) else []
    scaleB := if pbScl pb = 1 then (upTo (pbN pb)).map (rowRegister s core w rc 1 0) else []
    metadata := if form = 2 then
      (upTo (pbM pb)).flatMap (fun i => (upTo per).map (fun h => rowRegister s core w rd per h i)) else [] }

/-- The checks of R142 and R149 for a warp, in their order, and the operation. -/
def begin_ (s : State) (wk form kb pba lane rb rc rd : Nat) (et : BitVec 3) (cont bare : Bool) : Begun :=
  let core := wk / 128
  let w := s.warp wk
  let b := w.block
  let v := s.block b
  let pb := (upTo 16).map (fun i => s.word (storeKey core (pba + 4 * i)))
  match checkBlock v pba pb with
  | some (c, a) => .fail c a
  | none =>
    if badFormat v w.fmts form bare pb then .fail .matrixFormat pba
    else
      let fmt := lget fmtStart w.fmts (pbFmtA pb)
      let width := (operandType pb fmt).width
      match checkOperands s b core form width pb with
      | some (c, a) => .fail c a
      | none =>
        if badRegisters w form kb rb rc rd pb then .fail .matrixFormat pba
        else
          let ks := registerWords core w form rb rc rd et pb
          if ks.any (fun e => s.isEmpty e.1 && !e.2) then .wait
          else if ks.any (fun e => s.isEmpty e.1) then .fail .emptyRegister 0
          else
            match ks.find? (fun e => s.isPoison e.1) with
            | some e => .fail .poison (e.1 % 0x200000 * 4)
            | none =>
              let start := if cont then mStep w.mstat else 0
              let op := newOp s wk form kb lane rb rc rd pb start (pbZero pb && start = 0)
              let hs := operandHolds core form width wk pb
              if cont && (pbAcc pb ≠ mAcc w.mstat || op.groups.length ≠ mSteps w.mstat) then .fail .matrixFormat pba
              else if 32 < (s.core core).holds.length + hs.length then .wait
              else .ok op hs

/-- Whether a warp's operation stands in the queue, or is still to be restarted. -/
def Warp.matrixBusy (w : Warp) : Bool := mBusy w.mstat || w.rerun

/-- The queue has room (R134). -/
def queueFull (s : State) (core : Nat) : Bool := decide (8 ≤ (s.core core).matrix.length)

/-- An operation enters the queue (R133, R136, R149). -/
def enqueue (wk : Nat) (cont : Bool) (op : MatOp) (hs : List Hold) (s : State) : State :=
  let core := wk / 128
  let s := s.modCore core (fun c => { c with matrix := c.matrix ++ [op], holds := c.holds ++ hs })
  { s.modWarp wk (fun w => { w with
      mstat := mstatOf op.step op.groups.length true false (pbAcc op.pb) 0
      rerun := false
      tokenWait := if cont then w.tokenWait else 0 }) with fresh := s.fresh + 1 }

/-- An issue by the lowest active lane (R133). -/
def mmaGroup (form : Nat) (cx : Ctx) (s : State) : State :=
  let l0 := lowestLane cx.act
  let m0 := maskOf (fun l => l = l0)
  let one := { cx with act := m0 }
  let w := s.warp cx.wk
  let x := cx.x
  if w.matrixBusy || queueFull s cx.core then s
  else
    match firstFault one s [emptyFault false, poisonFault false] with
    | some t => s.raise cx.wk t
    | none =>
      let pba := s.opA cx l0
      let cont := mResume w.mstat
      match begin_ s cx.wk form (x.mN / 4) pba l0 x.bN x.cN x.dN x.et cont (x.bN = 0 && x.cN = 0) with
      | .wait => s
      | .fail c a => s.raise cx.wk (s.trapOf cx c 0 m0 (BitVec.ofNat 64 a))
      | .ok op hs =>
        let rec_ : Restart :=
          { valid := true, form := form, kb := x.mN / 4, addr := pba % 2 ^ 22, lane := l0, b := x.bN, c := x.cN
            dst := x.dN }
        ((enqueue cx.wk cont op hs s).modWarp cx.wk (fun w => { w with restart := rec_ })).advance cx

/-- The issue of a matrix operation. Every register that it names must be allocated (R20); the scale and metadata
registers are the unit's to read (R142), so that field A alone is checked as an operand, for the lowest active lane. -/
def mmaIssue (i : Instr) (form : Nat) (s : State) : State :=
  match i.info with
  | none => s
  | some f =>
    let bare := { f.shape with dst := .zero, b := .zero, c := .zero }
    let only := fun (cx : Ctx) => { cx with sh := bare }
    issueWith f.x { bare with a := .zero } false false [fun cx s => decodeFault false false { cx with sh := f.shape } s] []
      (fun cx s => mmaGroup form (only cx) s) s

def execMma (x : Long) (s : State) : Out := .next (mmaIssue (.mma x) 0 s)
def execMmaBmp (x : Long) (s : State) : Out := .next (mmaIssue (.mmaBmp x) 1 s)
def execMmas (x : Long) (s : State) : Out := .next (mmaIssue (.mmas x) 2 s)

/-- A restart of a warp's operation from its restart record, as a continuation (R427). -/
def restartOp (wk : Nat) (s : State) : Begun :=
  let r := (s.warp wk).restart
  if !r.valid then .fail .matrixFormat 0
  else if queueFull s (wk / 128) then .wait
  else begin_ s wk r.form r.kb r.addr r.lane r.b r.c r.dst 0 true (r.b = 0 && r.c = 0)

/-! ## A step (R80 to R82, R147 to R152) -/

/-- A factor of a product: an element with its scale. -/
def scaled (v sc : Val) : Val :=
  match sc with
  | .nan n s p => .nan n s p
  | .inf n => .inf n
  | .fin z =>
    match v with
    | .fin x => if z.isZero then .fin ⟨x.neg, 0, 1, 0⟩ else .fin (x.mul z)
    | v => v

/-- The scale of a row for a k-group: byte `.kb` + K-block of its word (R147); 1 without scales. -/
def scaleOf (scales : List Word) (kb g i : Nat) : Val :=
  if scales.isEmpty then .fin ⟨false, 1, 1, 0⟩
  else fmtE5m3.decode ((lget 0 scales i).toNat / 2 ^ (8 * (kb + g / 4)) % 2 ^ 8)

/-- A code of w bits at bit position `bit` of row y. -/
def elementCode (s : State) (core : Nat) (r : Record) (w y bit : Nat) : Nat :=
  let word := fun (t : Nat) => (s.word (storeKey core (rowWord r w y t))).toNat
  let lo := word (bit / 32)
  let hi := if bit % 32 + w ≤ 32 then 0 else word (bit / 32 + 1)
  (lo + 2 ^ 32 * hi) / 2 ^ (bit % 32) % 2 ^ w

/-- The words that elements first to first + n - 1 of row y lie in. -/
def elementWordsOf (r : Record) (w y first n : Nat) : List Nat :=
  (upTo ((first * w % 32 + n * w + 31) / 32)).map (fun t => rowWord r w y (first * w / 32 + t))

/-- The value of a code. -/
def codeValue (t : NumType) (code : Nat) : Val :=
  match t with
  | .int i => .fin (Exact.ofInt (i.read code))
  | .flt f => f.decode code

/-- Where in a row the eight elements of a k-group lie, none for an absent one (R150, R151): `sel` are the four
indices of the four-of-eight form, `mask` the row of a bitmap. -/
def groupPlaces (sel : Option (List Nat)) (mask : Option Nat) (g : Nat) : List (Option Nat) :=
  match sel with
  | some idx => (upTo 8).map (fun t => (idx.findIdx? (fun x => x = t)).map (fun p => 4 * g + p))
  | none => (upTo 8).map (fun t =>
      match mask with
      | some m => if m.testBit (8 * g + t) then some (8 * g + t) else none
      | none => some (8 * g + t))

/-- The four indices of a group in a metadata word (R152). -/
def metaIndices (word g : Nat) : List Nat := (upTo 4).map (fun p => word / 2 ^ (12 * (g % 2) + 3 * p) % 8)

/-- Metadata word of row i for a k-group. -/
def MatOp.metaWord (o : MatOp) (i g : Nat) : Nat := (lget 0 o.metadata (i * (pbK o.pb / 16) + g / 2)).toNat

/-- Whether a metadata word serves a group: its indices rise, and its reserved bits are zero at its even group. -/
def metaOk (word g : Nat) : Bool :=
  let x := metaIndices word g
  decide (lget 0 x 0 < lget 0 x 1 ∧ lget 0 x 1 < lget 0 x 2 ∧ lget 0 x 2 < lget 0 x 3) &&
  (g % 2 = 1 || word / 2 ^ 24 = 0)

/-- Bits of an element. -/
def MatOp.width (o : MatOp) : Nat := (operandType o.pb o.fmt).width

/-- The places of a row of A or a column of B for a k-group. -/
def MatOp.places (o : MatOp) (isA : Bool) (y g : Nat) : List (Option Nat) :=
  groupPlaces (if o.form = 2 && isA then some (metaIndices (o.metaWord y g) g) else none)
    (if o.form = 1 then some (lget 0 (if isA then o.maskA else o.maskB) y) else none) g

/-- The eight factors of a row of A or a column of B for a k-group, none for an absent element. -/
def MatOp.factors (o : MatOp) (s : State) (isA : Bool) (y g : Nat) : List (Option Val) :=
  let r := if isA then pbA o.pb else pbB o.pb
  let core := r.home (o.warp / 128)
  let w := o.width
  let sc := scaleOf (if isA then o.scaleA else o.scaleB) o.kb g y
  (o.places isA y g).map (fun p => p.map (fun e =>
    scaled (codeValue (operandType o.pb o.fmt) (elementCode s core r w y (e * w))) sc))

/-- The first poisoned word that a row's present elements lie in. Reading: log entry 55, DEDUCED. -/
def MatOp.badWord (o : MatOp) (s : State) (isA : Bool) (y g : Nat) : Option Nat :=
  let r := if isA then pbA o.pb else pbB o.pb
  let core := r.home (o.warp / 128)
  ((o.places isA y g).flatMap (fun p =>
    match p with
    | none => []
    | some e => elementWordsOf r o.width y e 1)).find? (fun a => s.isPoison (storeKey core a))

/-- The products of a group: one with an absent element is an exact zero, whatever the other factor and its scale are
(R81, R150, R151). Reading: log entry 55, DEDUCED. -/
def groupProducts (as bs : List (Option Val)) : List (Val × Val) :=
  (as.zip bs).filterMap (fun (a, b) =>
    match a, b with
    | some x, some y => some (x, y)
    | _, _ => none)

/-- The sum of a group of products (R78, R80). Reading: log entry 55, DEDUCED. -/
def groupSum (as bs : List (Option Val)) : Val :=
  let ps := groupProducts as bs
  let nan := ps.any (fun (a, b) => a.isNaN || b.isNaN || (a.isInf && b.isZero) || (a.isZero && b.isInf))
  let infs := (ps.filter (fun (a, b) => a.isInf || b.isInf)).map (fun (a, b) => a.neg != b.neg)
  if nan || (infs.contains true && infs.contains false) then .nan false false 0
  else
    match infs with
    | n :: _ => .inf n
    | [] => .fin (ps.foldl (fun acc (a, b) =>
        match a, b with
        | .fin x, .fin y => acc.add (x.mul y) false
        | _, _ => acc) ⟨false, 0, 1, 0⟩)

/-- The canonical NaN of FP32 (R78). -/
def canonF32 : Nat := fmtF32.nan false

/-- An accumulator element of FP32 with a group's sum added (R78, R80). -/
def accumulate (c : Nat) (sum : Val) : Nat :=
  match sum, fmtF32.decode c with
  | .nan _ _ _, _ => canonF32
  | .inf _, .nan _ _ _ => canonF32
  | .inf n, .inf m => if n = m then c else canonF32
  | .inf n, .fin _ => fmtF32.inf n
  | .fin x, v =>
    if x.isZero then c
    else
      match v with
      | .nan _ _ _ => canonF32
      | .inf _ => c
      | .fin y => (fmtF32.round .rn false 0 (y.add x false)).1

/-- An accumulator element of `.i32` with a group's sum added (R82). -/
def accumulateInt (sat : Bool) (c : Nat) (sum : Val) : Nat :=
  match sum with
  | .fin x =>
    let y := sextNat 32 c + x.numAt 0
    wrapInt 32 (if sat then clampInt y (-2 ^ 31) (2 ^ 31 - 1) else y)
  | _ => c

/-- Local address of element (i, j) of a tile (R23). -/
def elementAt (v : Block) (acc i j : Nat) : Nat := v.accBase + acc * 0x10000 + (i * 128 + j) * 4

/-- The elements that an operation covers. -/
def MatOp.elements (o : MatOp) : List (Nat × Nat) :=
  (upTo (pbM o.pb)).flatMap (fun i => (upTo (pbN o.pb)).map (fun j => (i, j)))

/-- The tile is zeroed where the operation covers it (R149). -/
def zeroTile (o : MatOp) (s : State) : State :=
  let v := s.block o.block
  o.elements.foldl (fun s (i, j) => s.localStore (o.warp / 128) (elementAt v (pbAcc o.pb) i j) 15 0) s

/-- A step's result: every covered element with the k-group's products added. Reading: log entry 55, DEDUCED. -/
def applyGroup (o : MatOp) (g : Nat) (s : State) : State :=
  let v := s.block o.block
  let core := o.warp / 128
  let as := (upTo (pbM o.pb)).map (fun i => o.factors s true i g)
  let bs := (upTo (pbN o.pb)).map (fun j => o.factors s false j g)
  o.elements.foldl (fun s (i, j) =>
    let a := elementAt v (pbAcc o.pb) i j
    let c := (s.word (storeKey core a)).toNat
    let sum := groupSum (lget [] as i) (lget [] bs j)
    let x := if isIntOperand (pbType o.pb) then accumulateInt (pbSat o.pb) c sum else accumulate c sum
    s.localStore core a 15 (BitVec.ofNat 32 x)) s

/-- The fault of a step: cause, CODE and address (R157); of several, the metadata come first, then the poison of A,
of B and of the accumulator. Reading: log entry 55, DEDUCED. -/
def stepFault (o : MatOp) (g : Nat) (s : State) : Option (Cause × Nat × Nat) :=
  let v := s.block o.block
  let rows := upTo (pbM o.pb)
  let cols := upTo (pbN o.pb)
  if o.form = 2 && rows.any (fun i => !metaOk (o.metaWord i g) g) then some (.matrixMetadata, 2, 0)
  else
    let bad := (rows.findSome? (fun i => o.badWord s true i g)).orElse (fun _ =>
      (cols.findSome? (fun j => o.badWord s false j g)).orElse (fun _ =>
        (o.elements.map (fun (i, j) => elementAt v (pbAcc o.pb) i j)).find? (fun a =>
          s.isPoison (storeKey (o.warp / 128) a))))
    bad.map (fun a => (.poison, 3, a))

/-! ## The life of an operation (R135, R148, R157, R158) -/

/-- An operation leaves the queue. -/
def dequeue (o : MatOp) (s : State) : State :=
  s.modCore (o.warp / 128) (fun c => { c with
    matrix := c.matrix.filter (fun m => m.order ≠ o.order)
    holds := c.holds.filter (fun h => !(h.kind = 1 && h.own = o.warp)) })

/-- The fault of an operation that stops, reported apart from any issue (R157). -/
def apartTrap (s : State) (wk lane : Nat) (cause : Cause) (addr : Nat) : Trap :=
  { cause := cause, lanes := maskOf (fun l => l = lane), low := lane, addr := BitVec.ofNat 64 addr
    pc := ((s.warp wk).lane lane).pc, apart := true }

/-- An operation stops at a faulting step; its fault waits behind one that its warp has already. -/
def suspend (o : MatOp) (cause : Cause) (code addr : Nat) (s : State) : State :=
  let s := (dequeue o s).modWarp o.warp (fun w => { w with
    mstat := mstatOf o.step o.groups.length false true (pbAcc o.pb) code })
  s.raiseLater o.warp (apartTrap s o.warp o.lane cause addr)

/-- The running operation of a core is replaced. -/
def setRunning (core : Nat) (o : MatOp) (s : State) : State :=
  s.modCore core (fun c => { c with matrix := c.matrix.map (fun m => if m.order = o.order then o else m) })

/-- The running operation of a core has a step left. -/
def stepReady (s : State) (core : Nat) : Option (MatOp × Nat) :=
  match (s.core core).matrix with
  | [] => none
  | o :: _ => (o.groups[o.step]?).map (fun g => (o, g))

/-- A cluster's burst has room for a step (R154). -/
def burstFits (s : State) (cl clocks : Nat) : Bool :=
  decide (s.clk + clocks ≤ (s.cluster cl).since + 4096)

/-- MATRIX_STEP (R148, R149, R150): with a pilot token, the running operation zeroes its tile when that is due and
applies its next k-group, or stops at a fault: a poisoned bitmap word first. -/
def matrixStep (core : Nat) (s : State) : State :=
  match stepReady s core with
  | none => s
  | some (o, g) =>
    let cl := clusterOfCore core
    if !(s.cluster cl).token || !burstFits s cl (stepClocks o.form o.pb) then s
    else
      match o.badMask with
      | some a => suspend o .poison 3 a s
      | none =>
        let s' := if o.zero then zeroTile o s else s
        match stepFault o g s' with
        | some (cause, code, a) => suspend o cause code a s'
        | none =>
          let s := applyGroup o g s'
          let s := setRunning core { o with step := o.step + 1, zero := false } s
          let s := s.modWarp o.warp (fun w => { w with
            mstat := mstatOf (o.step + 1) o.groups.length true false (pbAcc o.pb) 0 })
          s.count core 0x06 1

def execMatrixStep (s : State) : Out :=
  .next (match s.now with | .matrixStep core => matrixStep core s | _ => s)

/-- MATRIX_COMPLETION (R135): MSTAT, then the arrival on the barrier object, then the dependence counter. -/
def matrixCompletion (core : Nat) (s : State) : State :=
  match (s.core core).matrix with
  | [] => s
  | o :: _ =>
    if o.step < o.groups.length then s
    else
      let s := if o.zero then zeroTile o s else s
      let s := (dequeue o s).modWarp o.warp (fun w => { w with
        mstat := mstatOf o.step o.groups.length false false (pbAcc o.pb) 0 })
      let s := match pbBar o.pb with | some a => boUpdate core a true 0 s | none => s
      let s := match pbDc o.pb with
        | some n => s.send (.dependenceCounterChange (dieOfCore core * 256 + n) (-1) 0)
        | none => s
      s.reap o.warp

def execMatrixCompletion (s : State) : Out :=
  .next (match s.now with | .matrixCompletion core => matrixCompletion core s | _ => s)

/-- MATRIX_AUTO_RESTART (R158): a restored operation that a quantum end stopped goes on by itself; of a warp that is
stopped, once it is resumed (R382). A restart that fails a check of R142, whichever, takes the matrix-format fault
with the parameter block's address (R157). Reading: log entry 55, DEDUCED. -/
def autoRestart (wk : Nat) (s : State) : State :=
  let w := s.warp wk
  if !w.live || !w.rerun || w.fault.isSome || w.stopped then s
  else
    match restartOp wk s with
    | .wait => s
    | .ok op hs => enqueue wk true op hs s
    | .fail _ _ =>
      let s := s.modWarp wk (fun w => { w with
        rerun := false, mstat := mstatOf (mStep w.mstat) (mSteps w.mstat) false true (mAcc w.mstat) 1 })
      s.raise wk (apartTrap s wk w.restart.lane .matrixFormat w.restart.addr)

def execMatrixAutoRestart (s : State) : Out :=
  .next (match s.now with | .matrixAutoRestart wk => autoRestart wk s | _ => s)

/-! ## Pilot tokens (R154 to R156, R402) -/

/-- Tokens in force on a die: MTKCFG's count under the throttle step. -/
def tokenCount (s : State) (die : Nat) : Nat :=
  let t := bitsOf (s.sysreg (0x150 + die)) 0 4
  if s.power.step = 3 then 1 else if s.power.step = 0 then t else min 3 t

/-- Cores of a cluster with a step ready. -/
def clusterReady (s : State) (cl : Nat) : List Nat :=
  ((upTo 16).map (fun i => cl * 16 + i)).filter (fun c => (stepReady s c).isSome)

/-- Tokens held on a die. -/
def tokensHeld (s : State) (die : Nat) : Nat :=
  ((upTo 8).filter (fun i => (s.cluster (die * 8 + i)).token)).length

/-- Tokens on the ring of a die. -/
def State.onRing (s : State) (die : Nat) : List (Nat × Nat) := tget [] s.ring die
def State.setRing (s : State) (die : Nat) (ts : List (Nat × Nat)) : State := { s with ring := tput s.ring die ts }

/-- The next stop of a die's ring: absent clusters are skipped (R154). -/
def nextStop (s : State) (cl : Nat) : Nat :=
  (((upTo 8).map (fun i => cl / 8 * 8 + (cl + 1 + i) % 8)).find? s.hasCluster).getD cl

/-- PILOT_TOKEN_CAPTURE: a requesting cluster that holds none takes a token that is at its stop. -/
def captureToken (cl : Nat) (s : State) : State :=
  let ts := s.onRing (cl / 8)
  match ts.find? (fun t => t.1 = cl && decide (t.2 ≤ s.clk)) with
  | none => s
  | some t =>
    if (s.cluster cl).token || (clusterReady s cl).isEmpty then s
    else (s.setRing (cl / 8) (ts.erase t)).modCluster cl (fun c => { c with token := true, since := s.clk })

def execPilotTokenCapture (s : State) : Out :=
  .next (match s.now with | .pilotTokenCapture cl => captureToken cl s | _ => s)

/-- A token leaves a stop: to the next one, 8 clocks away, or away where the die has more than it should (R156). -/
def passOn (cl : Nat) (s : State) : State :=
  let die := cl / 8
  if tokenCount s die ≤ tokensHeld s die + (s.onRing die).length then s
  else s.setRing die (s.onRing die ++ [(nextStop s cl, s.clk + 8)])

/-- PILOT_TOKEN_RELEASE: no unit has a step ready, or a step that is ready would pass the limit. -/
def releaseToken (cl : Nat) (s : State) : State :=
  let fits := fun (c : Nat) =>
    match stepReady s c with
    | some (o, _) => burstFits s cl (stepClocks o.form o.pb)
    | none => false
  if (s.cluster cl).token && !(clusterReady s cl).any fits then
    passOn cl (s.modCluster cl (fun c => { c with token := false }))
  else s

def execPilotTokenRelease (s : State) : Out :=
  .next (match s.now with | .pilotTokenRelease cl => releaseToken cl s | _ => s)

/-- A token that is at a stop is taken there, or passes on (R154). -/
def tokenTurn (die : Nat) (s : State) (t : Nat × Nat) : State :=
  if s.clk < t.2 then s
  else
    let u := captureToken t.1 s
    if (u.cluster t.1).token && !(s.cluster t.1).token then u
    else passOn t.1 (s.setRing die ((s.onRing die).erase t))

/-- The tokens of a die follow the count in force (R156, R402): new ones start at the stop of the lowest present
cluster, and free ones that are too many are retired. At reset no token is out. Reading: log entry 55, DEDUCED. -/
def balanceRing (die : Nat) (s : State) : State :=
  let ts := s.onRing die
  let want := tokenCount s die - tokensHeld s die
  let first := ((upTo 8).map (fun i => die * 8 + i)).find? s.hasCluster
  if ts.length = want then s
  else
    match first with
    | none => s
    | some cl => s.setRing die (ts.take want ++ lrep (cl, s.clk) (want - ts.length))

/-- One clock of a die's ring: bursts that are over end, tokens pass, and their count is kept (R154 to R156). -/
def ringStep (die : Nat) (s : State) : State :=
  let s := (upTo 8).foldl (fun s i => releaseToken (die * 8 + i) s) s
  let s := balanceRing die s
  (s.onRing die).foldl (tokenTurn die) s

/-- MULTICAST_TIMEOUT (R146): the network serves a member alone; only timing and traffic change. -/
def execMulticastTimeout (s : State) : Out := .next s

/-! ## MCMP and MBMP (R153, R160) -/

/-- The order of magnitudes: a NaN above an infinity above the finite ones. -/
def magnitudeBelow (a b : Val) : Bool :=
  match a, b with
  | .nan _ _ _, _ => false
  | _, .nan _ _ _ => true
  | .inf _, _ => false
  | .fin _, .inf _ => true
  | .fin x, .fin y => Exact.lt { x with neg := false } { y with neg := false }

/-- The four indices of largest magnitude, ascending; among equals the lower index. -/
def keepFour (vs : List Val) : List Nat :=
  (upTo 8).filter (fun i =>
    decide (((upTo 8).filter (fun j =>
      magnitudeBelow (lget default vs i) (lget default vs j) ||
      (decide (j < i) && !magnitudeBelow (lget default vs j) (lget default vs i)))).length < 4))

/-- The eight codes of a group of registers and their values. -/
def eightCodes (t : NumType) (a : Nat) : List Nat := (upTo 8).map (fun i => a / 2 ^ (t.width * i) % 2 ^ t.width)
def eightValues (t : NumType) (a : Nat) : List Val := (eightCodes t a).map (codeValue t)

/-- MCMP of one lane. -/
def compressLane (t : NumType) (a : Nat) : Nat :=
  let keep := keepFour (eightValues t a)
  let codes := eightCodes t a
  let stream := keep.zipIdx.foldl (fun acc (i, p) => acc + lget 0 codes i * 2 ^ (t.width * p)) 0
  let idx := keep.zipIdx.foldl (fun acc (i, p) => acc + i * 8 ^ p) 0
  stream + idx * (if t.width = 16 then 2 ^ 64 else 2 ^ 32)

/-- MBMP of one lane. -/
def bitmapLane (t : NumType) (a : Nat) : Nat :=
  (eightValues t a).zipIdx.foldl (fun acc (v, i) => if v.isZero then acc else acc + 2 ^ i) 0

/-- The type of an MCMP or MBMP for a lane. -/
def compressType (x : Long) (v : LaneIn) : NumType := numTypeOf x.dstType (fmtAt v (x.bN / 32))

def execMcmp (x : Long) (s : State) : Out :=
  .next (computeCvt (.mcmp x) [useB x] 0 (fun v => valOut (compressLane (compressType x v) v.a)) s)
def execMbmp (x : Long) (s : State) : Out :=
  .next (computeCvt (.mbmp x) [useB x] 0 (fun v => valOut (bitmapLane (compressType x v) v.a)) s)

/-! ## MACC and MCLR (R161, R162) -/

/-- The tile that field A names. -/
def tileOf (cx : Ctx) : Nat := cx.x.aN - 0x140

/-- A tile that is not allocated to the block is an illegal instruction. -/
def tileFault (cx : Ctx) (s : State) : Option Trap :=
  if tileOf cx < (s.blockOf cx).tiles then none else some (s.trapOf cx .illegal 0 cx.group 0)

/-- Operations of a block on a tile that are queued or running, by their order. -/
def tileOps (s : State) (core b acc : Nat) : List Nat :=
  ((s.core core).matrix.filter (fun m => m.block = b && pbAcc m.pb = acc)).map MatOp.order

/-- An element as MACC delivers it. -/
def maccValue (t c : Nat) : Nat :=
  if t = 0 then c
  else
    let f := fmtOfFloat t
    match fmtF32.decode c with
    | .nan _ _ _ => f.nan false
    | v => (f.convert fmtF32 .rn false 0 v).1

/-- Local address of a lane's element. -/
def maccAddr (cx : Ctx) (s : State) (l : Nat) : Nat :=
  elementAt (s.blockOf cx) (tileOf cx) (s.opB cx l % 128) (s.opC cx l % 128)

/-- MACC's elements are read: poison is a fault of the whole instruction, else every lane lands. -/
def readTile (cx : Ctx) (addrs : List (Nat × Nat)) (s : State) : Except Trap State :=
  let bad := addrs.filter (fun e => s.isPoison (storeKey cx.core e.2))
  match bad with
  | (_, a) :: _ =>
    .error (s.trapOf cx .poison 0 (maskOf (fun l => bad.any (fun e => e.1 = l))) (BitVec.ofNat 64 a))
  | [] =>
    let w := s.warp cx.wk
    .ok (s.landAll (addrs.flatMap (fun (l, a) =>
      landings cx w cx.x.dN 1 l (maccValue cx.x.tN (s.word (storeKey cx.core a)).toNat) false)))

/-- MACC: at once where no operation on the tile is ahead of it, else its words land late (R162). -/
def maccLanes (cx : Ctx) (s : State) : State :=
  let addrs := (lanesOf cx.act).map (fun l => (l, maccAddr cx s l))
  let ahead := tileOps s cx.core (s.blockKey cx) (tileOf cx)
  if ahead.isEmpty then
    match readTile cx addrs s with
    | .error t => s.raise cx.wk t
    | .ok s => s.advance cx
  else
    let (_, s) := s.openTxn { kind := .macc, warp := cx.wk, pc := cx.pc, len := cx.len, x := cx.x, lanes := cx.act
                              words := [], todo := ahead, addrs := addrs }
    (s.markEmpty (dstKeys cx (s.warp cx.wk))).advance cx

/-- MACC. Reading: log entry 56, DEDUCED. -/
def maccIssue (x : Long) (s : State) : State :=
  match (Instr.macc x).info with
  | none => s
  | some f => issueWith f.x f.shape false false [] [tileFault] maccLanes s

def execMacc (x : Long) (s : State) : Out := .next (maccIssue x s)

/-- A MACC that waited lands once the operations ahead of it have completed or been suspended. -/
def arriveMacc (id : Nat) (t : Txn) (s : State) : State :=
  let core := t.warp / 128
  if t.todo.any (fun o => (s.core core).matrix.any (fun m => m.order = o)) then s
  else
    let cx := t.cx
    match readTile cx t.addrs s with
    | .error tr => if t.waits s then s else failWhole id t tr s
    | .ok s => (s.closeTxn id).reap t.warp

/-- MCLR: a suspended operation on the tile is abandoned, and the tile is zero. -/
def mclrGroup (cx : Ctx) (s : State) : State :=
  let b := s.blockKey cx
  let acc := tileOf cx
  if !(tileOps s cx.core b acc).isEmpty then s
  else
    let hit := (s.warpsOf b).filter (fun k => mResume (s.warp k).mstat && mAcc (s.warp k).mstat = acc)
    let s := hit.foldl (fun s k => s.modWarp k (fun w => { w with
      rerun := false, mstat := mstatOf (mStep w.mstat) (mSteps w.mstat) false false (mAcc w.mstat) 0 })) s
    let s := s.clearWords (storeKey cx.core (elementAt (s.blockOf cx) acc 0 0)) 0x4000
    hit.foldl State.reap (s.advance cx)

/-- MCLR. -/
def mclrIssue (x : Long) (s : State) : State :=
  match (Instr.mclr x).info with
  | none => s
  | some f => issueWith f.x f.shape false false [] [tileFault] mclrGroup s

def execMclr (x : Long) (s : State) : Out := .next (mclrIssue x s)

/-! ## MSTEP and MTOK (R163, R164) -/

/-- MSTEP: MSTAT, once no operation is in flight. -/
def mstepGroup (cx : Ctx) (s : State) : State :=
  let w := s.warp cx.wk
  if w.matrixBusy then s else (s.putUniform cx 2 w.mstat.toNat).advance cx

def execMstep (x : Long) (s : State) : Out := .next (issueOf (.mstep x) false mstepGroup s)

/-- MTOK. Reading: log entry 56, DEDUCED. -/
def mtokGroup (cx : Ctx) (s : State) : State :=
  let cl := clusterOfCore cx.core
  let t := bitsOf (s.sysreg (0x150 + dieOfCore cx.core)) 0 4
  let v := (if (s.cluster cl).token then 2 ^ 31 else 0) + t * 2 ^ 24 +
    min (2 ^ 32 - 1) (s.warp cx.wk).tokenWait * 2 ^ 32
  (s.putUniform cx 2 v).advance cx

def execMtok (x : Long) (s : State) : Out := .next (issueOf (.mtok x) false mtokGroup s)

/-- MSTEP.set's step on a target warp. -/
def setStep (cx : Ctx) (step : Nat) (go : Bool) (wk : Nat) (s : State) : State :=
  let w := s.warp wk
  let m := w.mstat
  let fail := fun (c : Cause) (a : Nat) => s.raise cx.wk (s.trapOf cx c 0 cx.act (BitVec.ofNat 64 a))
  if mBusy m || !mResume m || decide (mSteps m < step) then fail .matrixFormat 0
  else
    let s' := s.modWarp wk (fun w => { w with mstat := mstatOf step (mSteps m) false true (mAcc m) (mCode m) })
    if !go then s'.advance cx
    else
      match restartOp wk s' with
      | .wait => s
      | .fail c a => fail c a
      | .ok op hs => (enqueue wk true op hs s').advance cx

/-- MSTEP.set. Reading: log entry 56, DEDUCED. -/
def mstepSetGroup (cx : Ctx) (s : State) : State :=
  let ctl := s.opB cx 0
  let step := s.opA cx 0 % 2 ^ 16
  let other := ctl.testBit 7
  if ctl / 2 % 2 ^ 6 ≠ 0 || ctl / 2 ^ 14 % 2 ^ 18 ≠ 0 || (!other && ctl / 2 ^ 8 % 2 ^ 6 ≠ 0) then
    s.raise cx.wk (s.trapOf cx .illegal 0 cx.group 0)
  else if !other then setStep cx step (ctl.testBit 0) cx.wk s
  else if !cx.handler then s.raise cx.wk (s.trapOf cx .privileged 0 cx.group 0)
  else
    match targetOf cx s (ctl / 2 ^ 8 % 2 ^ 6) with
    | none => s.raise cx.wk (s.trapOf cx .permission 8 cx.act 0)
    | some none => s.raise cx.wk (s.trapOf cx .matrixFormat 0 cx.act 0)
    | some (some wk) => setStep cx step (ctl.testBit 0) wk s

def execMstepSet (x : Long) (s : State) : Out := .next (issueOf (.mstepSet x) false mstepSetGroup s)

end Sys2Proof.Machine
end

