-- ==== Sys2Proof/Machine/Manifest.lean ====
section
/-! DEFINITION. Manifests (R241 to R262): elements, plates and the gap code, bindings, the landing queue,
develops and cursors; and the survivor queue (R263 to R267). -/

namespace Sys2Proof.Machine

/-! ## Elements and plates (R241, R246, R247) -/

/-- An element: key, offset, payload. -/
abbrev Elem := Nat × Nat × Nat

/-- Canonical order as the order of one number. -/
def elemOrder (e : Elem) : Nat := e.1 * 2 ^ 48 + e.2.1 * 2 ^ 32 + e.2.2

/-- An element among others in canonical order. -/
def insertElem (e : Elem) : List Elem → List Elem
  | [] => [e]
  | x :: xs => if elemOrder e ≤ elemOrder x then e :: x :: xs else x :: insertElem e xs

/-- The three widths of a manifest, from word 0 of its descriptor (R242). -/
def widthK (w0 : Word) : Nat := w0.toNat % 2 ^ 6
def widthQ (w0 : Word) : Nat := w0.toNat / 2 ^ 8 % 2 ^ 5
def widthP (w0 : Word) : Nat := w0.toNat / 2 ^ 16 % 2 ^ 6

/-- Whether word 0 obeys R242. -/
def widthsOk (w0 : Word) : Bool :=
  decide (1 ≤ widthK w0 ∧ widthK w0 ≤ 32 ∧ widthQ w0 ≤ 16 ∧ widthP w0 ≤ 32) &&
  w0.toNat / 2 ^ 6 % 4 = 0 && w0.toNat / 2 ^ 13 % 8 = 0 && w0.toNat / 2 ^ 22 = 0

/-- The gap code of R246 as a number of so many bits, its first bit the least significant. -/
def gapCode (kw gap key : Nat) : Nat × Nat :=
  if gap < 8 then (2 * gap, 4)
  else if gap < 72 then (1 + 4 * (gap - 8), 8)
  else if gap < 584 then (3 + 8 * (gap - 72), 12)
  else (7 + 8 * key, 3 + kw)

/-- An entry after one with key `prev`. -/
def entryCode (w0 : Word) (prev : Nat) (e : Elem) : Nat × Nat :=
  let (c, n) := gapCode (widthK w0) (e.1 - prev) e.1
  (c + e.2.1 * 2 ^ n + e.2.2 * 2 ^ (n + widthQ w0), n + widthQ w0 + widthP w0)

/-- A plate being packed: its base, its entries, the bits used, its image, and the last key. -/
structure Plate where
  base  : Nat
  n     : Nat
  used  : Nat
  image : Nat
  last  : Nat
  deriving DecidableEq, Repr, Inhabited

/-- A plate with an entry appended. -/
def Plate.add (w0 : Word) (p : Plate) (e : Elem) : Plate :=
  let (c, n) := entryCode w0 p.last e
  { p with n := p.n + 1, used := p.used + n, image := p.image + c * 2 ^ p.used, last := e.1 }

/-- A plate that an element starts. -/
def Plate.start (w0 : Word) (e : Elem) : Plate := Plate.add w0 ⟨e.1, 0, 48, 0, e.1⟩ e

/-- Its 512 bits. -/
def Plate.bits (p : Plate) : Nat := p.image + p.base + p.n * 2 ^ 32

/-- The greedy packing of elements in canonical order (R247). -/
def packPlates (w0 : Word) : List Elem → Option Plate → List Plate
  | [], .none => []
  | [], .some p => [p]
  | e :: es, .none => packPlates w0 es (some (Plate.start w0 e))
  | e :: es, .some p =>
    if p.used + (entryCode w0 p.last e).2 ≤ 512 then packPlates w0 es (some (p.add w0 e))
    else p :: packPlates w0 es (some (Plate.start w0 e))

/-- A gap code read at a bit of an image: the key after `prev`, and the code's length. -/
def readGap (kw image at_ prev : Nat) : Nat × Nat :=
  let v := image / 2 ^ at_
  if v % 2 = 0 then (prev + v / 2 % 8, 4)
  else if v / 2 % 2 = 0 then (prev + v / 4 % 64 + 8, 8)
  else if v / 4 % 2 = 0 then (prev + v / 8 % 512 + 72, 12)
  else (v / 8 % 2 ^ kw, 3 + kw)

/-- n entries of an image from a bit on. -/
def readEntries (w0 : Word) (image : Nat) : Nat → Nat → Nat → List Elem
  | 0, _, _ => []
  | n + 1, at_, prev =>
    let (k, len) := readGap (widthK w0) image at_ prev
    let q := image / 2 ^ (at_ + len) % 2 ^ widthQ w0
    let p := image / 2 ^ (at_ + len + widthQ w0) % 2 ^ widthP w0
    (k, q, p) :: readEntries w0 image n (at_ + len + widthQ w0 + widthP w0) k

/-- The elements of a plate's 16 words. -/
def plateElems (w0 : Word) (ws : List Word) : List Elem :=
  let image := ofWords ws
  readEntries w0 image (image / 2 ^ 32 % 2 ^ 10) 48 (image % 2 ^ 32)

/-! ## The unit's reads and writes (R214, R249) -/

/-- What a read of the unit finds: a word whose value is under way, the address of a word it cannot use, or
the value. -/
inductive Fetched (β : Type) where
  | wait
  | bad (va : Nat)
  | ok (v : β)

/-- A word read by an engine. -/
def engineRead (s : State) (core ctx : Nat) (priv : Bool) (va : Nat) : Fetched Word :=
  match translate s core ctx priv needLoad va with
  | .error m => if m.pend then .wait else .bad va
  | .ok p =>
    if regionOf p.pa = .fabric then .ok (s.farWord p.pa)
    else if !s.quiet (p.pa / 4) then .wait
    else match s.latest (p.pa / 4) with
      | some (w, false) => .ok w
      | _ => .bad va

/-- Words read at a list of addresses. -/
def engineReads (s : State) (core ctx : Nat) (priv : Bool) : List Nat → Fetched (List Word)
  | [] => .ok []
  | va :: vas =>
    match engineRead s core ctx priv va with
    | .wait => .wait
    | .bad a => .bad a
    | .ok w =>
      match engineReads s core ctx priv vas with
      | .ok ws => .ok (w :: ws)
      | .wait => .wait
      | .bad a => .bad a

/-- Addresses of n words. -/
def wordAddrs (va n : Nat) : List Nat := (upTo n).map (fun i => va + 4 * i)

/-- One of n possibilities, by an open value. Reading: log entry 57, DEDUCED. -/
def State.pick (s : State) (n : Nat) : Nat × State :=
  if n ≤ 1 then (0, s) else (s.takeFree.1.toNat % n, s.takeFree.2)

/-! ## Pools (R243, R250) -/

def Bound.poolBase (b : Bound) : Nat := bitsOf b.pool 16 48 * 2 ^ 16
def Bound.poolSize (b : Bound) : Nat := bitsOf b.pool 0 16
/-- Plates of the pool, and those that hold the bitmap. -/
def Bound.plateCount (b : Bound) : Nat := 1024 * b.poolSize
def Bound.plateAddr (b : Bound) (j : Nat) : Nat := b.poolBase + 64 * j

/-- The core under whose caches a cluster's unit looks translations up. -/
def unitCore (cl : Nat) : Nat := cl * 16

/-! ## Jobs of the unit (R214, R251) -/

/-- A word to write: its virtual address, the bits set and those cleared. -/
abbrev Wanted := Nat × Word × Word

/-- Whole words to write. -/
def wholeWords (ws : List (Nat × Word)) : List Wanted := ws.map (fun e => (e.1, e.2, BitVec.allOnes 32))

/-- The bitmap's bits of some plates set or cleared, word by word. -/
def markWords (b : Bound) (set : Bool) (js : List Nat) : List Wanted :=
  ((js.map (fun j => j / 32)).dedup).map (fun i =>
    let bits := (js.filter (fun j => j / 32 = i)).foldl (fun w j => setBit w (j % 32) true) (0 : Word)
    (b.poolBase + 4 * i, if set then bits else 0, if set then 0 else bits))

/-- The words of a job where they lie, their pages pinned in order; the first address that the unit cannot use. -/
def unitWords (core ctx : Nat) (priv : Bool) (n : Need) : List Wanted → State → Fetched (List UnitWord × State)
  | [], s => .ok ([], s)
  | (va, set, clear) :: rest, s =>
    match translate s core ctx priv n va with
    | .error m => if m.pend then .wait else .bad va
    | .ok p =>
      match unitWords core ctx priv n rest (s.takePin p) with
      | .ok (ws, s) => .ok (⟨spaceOf p, p.pa, set, clear⟩ :: ws, s)
      | .wait => .wait
      | .bad a => .bad a

/-- Words in ascending order of addresses. -/
def insertWord (x : UnitWord) : List UnitWord → List UnitWord
  | [] => [x]
  | y :: ys => if x.pa ≤ y.pa then x :: y :: ys else y :: insertWord x ys

/-- A job's word is registered at its home (R214): the old value is wanted where a part of it stays. -/
def unitClaim (cl id : Nat) (s : State) (x : UnitWord) : State :=
  engineClaim (manifestOf cl) id [] s ⟨x.sp, x.pa, lrep (0, 0, 0) (if x.clear = BitVec.allOnes 32 then 4 else 1)⟩

/-- A job starts: every word that it writes is registered, in ascending order (R214). -/
def startJob (cl : Nat) (j : UnitJob) (s : State) : State :=
  let ws := j.words.foldr insertWord []
  ws.foldl (unitClaim cl j.id) (s.modCluster cl (fun c => { c with jobs := c.jobs ++ [{ j with words := ws }] }))

/-- A job is over: its words are written and acknowledged. -/
def jobOver (s : State) (j : UnitJob) : Bool := j.words.isEmpty && !s.engineOpen j.id

/-- Jobs of a binding that are not over. -/
def jobsOf (s : State) (cl h : Nat) : List UnitJob :=
  (s.cluster cl).jobs.filter (fun j => j.handle = h && !jobOver s j)

/-- A word of a job is written, if it can be: what stays of it is its old value (R214). -/
def writeUnit (cl id : Nat) (x : UnitWord) (s : State) : Option State :=
  let agent := manifestOf cl
  let pw := x.pa / 4
  let e := s.engine agent pw
  let part := x.clear ≠ BitVec.allOnes 32
  let new := fun (old : Word) => (old &&& ~~~x.clear) ||| x.set
  match x.sp with
  | 1 => if !e.turn id || (part && !e.filled) then none else some (engineWrite agent id pw 15 (new e.value) (part && e.poison) s)
  | 2 => if e.used then none else some (farWrite agent id pw 15 (new (s.farWord x.pa)) false s)
  | _ => some ((s.wrote pw).homePut pw (new (s.homeCopy pw)) (part && nmem s.memPoison pw))

/-- A word of a unit's job is written; which one is open. -/
def unitStep (id : Nat) (s : State) : State :=
  match s.clusters.find? (fun e => e.2.jobs.any (fun j => j.id = id && !j.words.isEmpty)) with
  | none => s
  | some (cl, c) =>
    let ws := (c.jobs.filter (fun j => j.id = id)).flatMap UnitJob.words
    let (f, s) := s.takeFree
    let k := f.toNat % max 1 ws.length
    match writeUnit cl id (lget default ws k) s with
    | none => s
    | some s => s.modCluster cl (fun c => { c with
        jobs := c.jobs.map (fun j => if j.id = id then { j with words := j.words.eraseIdx k } else j) })

/-- ENGINE_WRITEBACK: a word of a copy that needs no port, or of a job of a manifest unit.
Reading: log entry 7, DESIGN CHOICE. -/
def execEngineWriteback (s : State) : Out :=
  .next (match s.now with
    | .engineWriteback id => if (tfind s.copies id).isSome then engineStep id s else unitStep id s
    | _ => s)

/-- An address that an engine of a cluster could not use, logged (R249, R317). -/
def logUnit (cl kind va : Nat) (s : State) : State := s.logError kind 0 (manifestOf cl) va true 0 0 0

def State.bound (s : State) (cl h : Nat) : Bound := tget {} (s.cluster cl).bound h
def State.modBound (s : State) (cl h : Nat) (f : Bound → Bound) : State :=
  s.modCluster cl (fun c => { c with bound := tput c.bound h (f (tget {} c.bound h)) })

/-- The current version. -/
def Bound.current (b : Bound) : Version := b.live.headD default

/-- Versions of a handle on which a cursor is open. -/
def openVersions (c : Cluster) (h : Nat) : List Nat :=
  ((c.cursors.filter (fun e => e.2.handle = h)).map (fun e => e.2.version)).dedup

/-- Plates and directory of a version. -/
def Version.uses (v : Version) : List Nat := v.plates ++ v.dirPlates

/-- Versions that are no longer live give up the plates that no live version uses (R250): the bitmap's bits are
cleared by a job of the unit. Reading: log entry 57, DEDUCED. -/
def sweepHandle (cl h : Nat) (s : State) : State :=
  let c := s.cluster cl
  let b := s.bound cl h
  let opened := openVersions c h
  let keep := match b.live with
    | [] => []
    | v :: vs => v :: vs.filter (fun x => opened.contains x.number)
  if keep.length = b.live.length then s
  else
    let coming := (c.develops.filter (fun d => d.handle = h && d.started)).flatMap (fun d =>
      match d.version with | some v => v.uses | none => [])
    let held := keep.flatMap Version.uses ++ coming
    let free := ((b.live.flatMap Version.uses).filter (fun j => !held.contains j)).dedup
    let swept := fun (s : State) => s.modBound cl h (fun b => { b with live := keep })
    match unitWords (unitCore cl) b.ctx true needBoth (markWords b false free) s with
    | .wait => s
    | .bad va => logUnit cl 6 va (swept s)
    | .ok (ws, s) => startJob cl ⟨s.fresh, h, .none, ws⟩ (swept { s with fresh := s.fresh + 1 })

/-- Every handle of a cluster; jobs that are over are forgotten. -/
def sweepCluster (cl : Nat) (s : State) : State :=
  let s := (s.cluster cl).bound.foldl (fun s e => sweepHandle cl e.1 s) s
  if (s.cluster cl).jobs.isEmpty then s
  else s.modCluster cl (fun c => { c with jobs := c.jobs.filter (fun j => !jobOver s j) })

/-! ## Bindings (R245, R256) -/

/-- What the checks of R256 come to: a wait for a word, a fault, a binding of the cluster's unit, or an unbound
descriptor with its word 0 and its pool. -/
inductive Named where
  | wait
  | fail (t : Trap)
  | bound (h : Nat)
  | free (w0 : Word) (pool : DWord) (p : Phys)

/-- The permission fault with the manifest qualifier. -/
def manifestTrap (s : State) (cx : Ctx) (a : Nat) : Trap := s.trapOf cx .permission 3 cx.act (BitVec.ofNat 64 a)

/-- A word that an instruction's unit reads at issue, at a physical address: wait, fault (R216, R375), or value. -/
def issueRead (s : State) (cx : Ctx) (va pa : Nat) : Fetched Word ⊕ Trap :=
  if !s.quiet (pa / 4) then .inl .wait
  else
    match s.latest (pa / 4) with
    | some (w, false) => .inl (.ok w)
    | some (_, true) => .inr (s.trapOf cx .poison 1 cx.act (BitVec.ofNat 64 va))
    | none =>
      let log := tget (0, 0) s.lostLog (pa / 4)
      .inr { s.trapOf cx .ownerLost 0 cx.act (BitVec.ofNat 64 va) with
        own := BitVec.ofNat 64 (4 * 2 ^ 32 + bitsOf log.1 0 16), ownTick := log.2 }

/-- A handle that no binding of a unit uses. -/
def freeHandles (c : Cluster) : List Nat := (upTo 64).filter (fun h => !(tget {} c.bound h).used)

/-- R256, in its order. Reading: log entry 57, DEDUCED. -/
def nameDesc (cx : Ctx) (s : State) : Named :=
  let va := s.opA cx 0
  let cl := clusterOfCore cx.core
  if va % 32 ≠ 0 then .fail (s.trapOf cx .permission 1 cx.act (BitVec.ofNat 64 va))
  else
    match translate s cx.core (s.blockOf cx).ctx cx.handler needBoth va with
    | .error m => .fail (pageTrap s cx m va)
    | .ok p =>
      match tfind s.bindings (p.pa / 32) with
      | some b => if b.cluster = cl then .bound b.handle else .fail (manifestTrap s cx va)
      | none =>
        if regionOf p.pa = .fabric then .fail (manifestTrap s cx va)
        else
          match issueRead s cx va p.pa, issueRead s cx (va + 24) (p.pa + 24), issueRead s cx (va + 28) (p.pa + 28) with
          | .inr t, _, _ => .fail t
          | _, .inr t, _ => .fail t
          | _, _, .inr t => .fail t
          | .inl (.ok w0), .inl (.ok w6), .inl (.ok w7) =>
            if !widthsOk w0 || w6.toNat % 2 ^ 16 = 0 || (freeHandles (s.cluster cl)).isEmpty then
              .fail (manifestTrap s cx va)
            else .free w0 (dwordOf w6 w7) p
          | _, _, _ => .wait

/-- A descriptor is bound (R245): the record at its home with word 5, in one step, and then the bitmap's own plates are
marked by a job of the unit; none while a translation is awaited. Reading: log entry 57, DEDUCED. -/
def bindDesc (cx : Ctx) (w0 : Word) (pool : DWord) (p : Phys) (s : State) : Option (Nat × State) :=
  let cl := clusterOfCore cx.core
  let hs := freeHandles (s.cluster cl)
  let (i, s) := s.pick hs.length
  let h := lget 0 hs i
  let b : Bound :=
    { used := true, desc := p.pa, va := s.opA cx 0, ctx := (s.blockOf cx).ctx, word0 := w0, pool := pool
      live := [⟨0, 0, 0, 0, [], []⟩] }
  let s := { s with bindings := tput s.bindings (p.pa / 32) ⟨cl, h⟩ }
  let s := storeThrough (manifestOf cl) { p with pa := p.pa + 20 }
    (BitVec.ofNat 32 (2 ^ 31 + cl / 8 * 2 ^ 11 + cl % 8 * 2 ^ 8 + h)) false s
  let s := s.modCluster cl (fun c => { c with bound := tput c.bound h b })
  match unitWords (unitCore cl) b.ctx cx.handler needBoth (markWords b true (upTo (2 * b.poolSize))) s with
  | .wait => none
  | .bad va => some (h, logUnit cl 6 va s)
  | .ok (ws, s) => some (h, startJob cl ⟨s.fresh, h, some cx.core, ws⟩ { s with fresh := s.fresh + 1 })

/-- A manifest instruction: R256, then the instruction's own checks, then its binding and its effect (R61).
`own` sees word 0 of the descriptor. -/
def withDesc (own : Word → Ctx → State → Option Trap) (act : Nat → Ctx → State → State) (cx : Ctx) (s : State) : State :=
  match nameDesc cx s with
  | .wait => s
  | .fail t => s.raise cx.wk t
  | .bound h =>
    match own (s.bound (clusterOfCore cx.core) h).word0 cx s with
    | some t => s.raise cx.wk t
    | none => act h cx s
  | .free w0 pool p =>
    match own w0 cx s with
    | some t => s.raise cx.wk t
    | none =>
      match bindDesc cx w0 pool p s with
      | none => s
      | some (h, t) => act h cx t

/-! ## MINS and MREM (R248, R257) -/

/-- Fields B and C of MINS and MREM where their widths are 0 are not read. -/
def landShape (w0 : Word) (sh : Shape) : Shape :=
  { sh with b := if widthQ w0 = 0 then .zero else sh.b, c := if widthP w0 = 0 then .zero else sh.c }

/-- The elements of the active lanes, in order. -/
def landed (h : Nat) (remove : Bool) (w0 : Word) (cx : Ctx) (s : State) : List Landed :=
  (lanesOf cx.act).map (fun l =>
    ⟨h, remove, s.opD cx l % 2 ^ widthK w0, if widthQ w0 = 0 then 0 else s.opB cx l % 2 ^ widthQ w0,
      if widthP w0 = 0 then 0 else s.opC cx l % 2 ^ widthP w0⟩)

/-- The landing queue has room for every active lane (R257). -/
def landingRoom (s : State) (cx : Ctx) : Bool :=
  decide ((s.cluster (clusterOfCore cx.core)).landing.length + (lanesOf cx.act).length ≤ 4096)

/-- MINS and MREM with their fields `sh`: B and C count as operands where the widths say so. -/
def landGroup (remove : Bool) (sh : Shape) (cx : Ctx) (s : State) : State :=
  let cl := clusterOfCore cx.core
  if !landingRoom s cx then s
  else
    withDesc
      (fun w0 cx s => firstFault { cx with sh := landShape w0 sh } s [emptyFault false, poisonFault false])
      (fun h cx s =>
        let xs := landed h remove (s.bound cl h).word0 { cx with sh := sh } s
        (s.modCluster cl (fun c => { c with landing := c.landing ++ xs })).advance cx) cx s

/-- MINS and MREM. -/
def landIssue (i : Instr) (remove : Bool) (s : State) : State :=
  match i.info with
  | none => s
  | some f =>
    issueWith f.x { f.shape with b := .zero, c := .zero } false false
      [fun cx s => decodeFault false false { cx with sh := f.shape } s] []
      (landGroup remove f.shape) s

def execMins (x : Long) (s : State) : Out := .next (landIssue (.mins x) false s)
def execMrem (x : Long) (s : State) : Out := .next (landIssue (.mrem x) true s)

/-! ## MDEV and MCNT (R251, R258, R259) -/

/-- Entries of a handle in a landing queue. -/
def landedOf (c : Cluster) (h : Nat) : List Landed := c.landing.filter (fun e => e.handle = h)

/-- Develops of a handle. -/
def developsOf (c : Cluster) (h : Nat) : List Develop := c.develops.filter (fun d => d.handle = h)

/-- MDEV: the develop takes what earlier develops leave. -/
def mdevGroup (h : Nat) (cx : Ctx) (s : State) : State :=
  let cl := clusterOfCore cx.core
  let c := s.cluster cl
  let ahead := ((developsOf c h).filter (fun d => !d.started)).foldl (fun n d => n + d.take) 0
  let d : Develop :=
    { id := s.fresh, handle := h, unbind := cx.x.cN % 2 = 1, take := (landedOf c h).length - ahead, core := cx.core
      comp := BitVec.ofNat 32 (s.opB cx 0), priv := cx.handler }
  ({ s.setCluster cl { c with develops := c.develops ++ [d] } with fresh := s.fresh + 1 }).advance cx

/-- MDEV, for which the develop queue must have room (R251). -/
def mdevIssue (x : Long) (s : State) : State :=
  issueOf (.mdev x) false (fun cx s =>
    if 8 ≤ (s.cluster (clusterOfCore cx.core)).develops.length then s
    else withDesc (fun _ cx s => compFault cx s (BitVec.ofNat 32 (s.opB cx 0))) mdevGroup cx s) s

def execMdev (x : Long) (s : State) : Out := .next (mdevIssue x s)

/-- MCNT. -/
def mcntGroup (h : Nat) (cx : Ctx) (s : State) : State :=
  let c := s.cluster (clusterOfCore cx.core)
  let b := tget {} c.bound h
  let v := b.current
  let w3 := (landedOf c h).length * 2 ^ 16 + b.live.length * 2 ^ 8 + (developsOf c h).length * 2 ^ 4 + b.status
  (s.putUniform cx 4 (v.elems % 2 ^ 32 + 2 ^ 32 * (v.count % 2 ^ 32) + 2 ^ 64 * (b.result % 2 ^ 32) + 2 ^ 96 * w3)).advance cx

def execMcnt (x : Long) (s : State) : Out :=
  .next (issueOf (.mcnt x) false (withDesc (fun _ _ _ => none) mcntGroup) s)

/-! ## Develops (R249 to R252) -/

/-- The elements of a version, read from its plates. -/
def versionElems (s : State) (cl : Nat) (priv : Bool) (b : Bound) : List Nat → Fetched (List (List Word))
  | [] => .ok []
  | j :: js =>
    match engineReads s (unitCore cl) b.ctx priv (wordAddrs (b.plateAddr j) 16) with
    | .wait => .wait
    | .bad a => .bad a
    | .ok ws =>
      match versionElems s cl priv b js with
      | .ok rest => .ok (ws :: rest)
      | .wait => .wait
      | .bad a => .bad a

/-- Elements with the removals applied, and the removals that found nothing. -/
def removeAll : List Elem → List Elem → List Elem × Nat
  | es, [] => (es, 0)
  | es, r :: rs =>
    if es.contains r then removeAll (es.erase r) rs
    else let (es, n) := removeAll es rs; (es, n + 1)

/-- Plates of a pool in use, from the words of its bitmap. -/
def inUse (bitmap : List Word) (j : Nat) : Bool := (lget 0 bitmap (j / 32)).getLsbD (j % 32)

/-- Images find plates (R250): one of the current version with the same image, or the lowest free one; `old`
are the images of the current version that have not been reused, `free` the free plates. The result says of
each plate whether it is written. -/
def placePlates : List Nat → List (Nat × Nat) → List Nat → Option (List (Nat × Bool))
  | [], _, _ => some []
  | v :: vs, old, free =>
    match old.find? (fun o => o.2 = v) with
    | some o => (placePlates vs (old.erase o) free).map (fun r => (o.1, false) :: r)
    | none =>
      match free with
      | [] => none
      | j :: js => (placePlates vs old js).map (fun r => (j, true) :: r)

/-- The lowest run of n free plates. -/
def freeRun (n total : Nat) (used : Nat → Bool) : Option Nat :=
  (upTo (total + 1 - n)).find? (fun j => (upTo n).all (fun i => !used (j + i)))

/-- Words of a directory entry (R244). -/
def directoryEntry (b : Bound) (p : Plate) (j : Nat) : List Word :=
  [BitVec.ofNat 32 p.base, BitVec.ofNat 32 (p.n % 2 ^ 10)] ++ wordsOf 2 (b.plateAddr j)

/-- How a develop can go on. -/
inductive DevelopPlan where
  | wait
  | done (status : Nat) (bad : Option Nat)
  | write (v : Version) (absent : Nat) (writes : List (Nat × Word)) (fresh : List Nat)

/-- A develop's result (R249, R250); it waits for the unit's earlier jobs on the binding. -/
def planDevelop (cl : Nat) (d : Develop) (s : State) : DevelopPlan :=
  let c := s.cluster cl
  let b := tget {} c.bound d.handle
  let cur := b.current
  if !(jobsOf s cl d.handle).isEmpty then .wait
  else
  match versionElems s cl d.priv b cur.plates with
  | .wait => .wait
  | .bad a => .done 4 (some a)
  | .ok images =>
    let taken := (landedOf c d.handle).take d.take
    let ins := (taken.filter (fun e => !e.remove)).map (fun e => (e.key, e.off, e.pay))
    let rem := (taken.filter (fun e => e.remove)).map (fun e => (e.key, e.off, e.pay))
    let (new, absent) := removeAll (ins.foldl (fun es e => insertElem e es) (images.flatMap (plateElems b.word0))) rem
    if 2 ^ 32 - 1 < new.length then .done 3 none
    else if 4 ≤ (openVersions c d.handle).length then .wait
    else
      let plates := packPlates b.word0 new none
      match engineReads s (unitCore cl) b.ctx d.priv (wordAddrs b.poolBase (32 * b.poolSize)) with
      | .wait => .wait
      | .bad a => .done 4 (some a)
      | .ok bitmap =>
        let old := cur.plates.zip (images.map ofWords)
        let free := (upTo b.plateCount).filter (fun j => !inUse bitmap j)
        let n := (plates.length + 3) / 4
        let lacks : DevelopPlan := if 1 < b.live.length then .wait else .done 1 none
        match placePlates (plates.map Plate.bits) old free with
        | none => lacks
        | some js =>
          let fresh := (js.filter (fun e => e.2)).map Prod.fst
          match (if n = 0 then some 0 else freeRun n b.plateCount (fun j => inUse bitmap j || fresh.contains j)) with
          | none => lacks
          | some dj =>
            let dir := if n = 0 then 0 else b.plateAddr dj
            let body := (plates.zip js).flatMap (fun (p, j, write) =>
              if write then (wordAddrs (b.plateAddr j) 16).zip (wordsOf 16 p.bits) else [])
            let entries := (plates.zip js).flatMap (fun (p, j, _) => directoryEntry b p j)
            let dirWords := (wordAddrs dir (16 * n)).zip (entries ++ lrep 0 (16 * n - entries.length))
            .write ⟨(cur.number + 1) % 2 ^ 32, dir, plates.length, new.length, js.map Prod.fst,
                (upTo n).map (fun i => dj + i)⟩ absent (body ++ dirWords) (fresh ++ (upTo n).map (fun i => dj + i))

/-- Words 1 to 4 of a descriptor (R242). -/
def versionWords (v : Version) : List Word :=
  [BitVec.ofNat 32 v.number] ++ wordsOf 2 v.dir ++ [BitVec.ofNat 32 v.count]

/-- The first entries of a handle leave the landing queue. -/
def dropLanded (h : Nat) : Nat → List Landed → List Landed
  | _, [] => []
  | 0, es => es
  | n + 1, e :: es => if e.handle = h then dropLanded h n es else e :: dropLanded h (n + 1) es

/-- A develop has been performed: its entries are discarded in every case (R249). Reading: log entry 57, DEDUCED. -/
def recordDevelop (cl k : Nat) (d : Develop) (status result : Nat) (v : Option Version) (s : State) : State :=
  s.modCluster cl (fun c => { c with
    landing := dropLanded d.handle d.take c.landing
    develops := lupd (fun d => { d with started := true, status := status, result := result, version := v }) c.develops k })

/-- A develop stops at a word it cannot use (R249). Reading: log entry 57, DEDUCED. -/
def failDevelop (cl k : Nat) (d : Develop) (va : Nat) (s : State) : State :=
  recordDevelop cl k d 4 d.take none (logUnit cl 14 va s)

/-- The words that a develop writes, where they lie: plates and directory, the bitmap's, the descriptor's 1 to 4. -/
def developWords (cl : Nat) (b : Bound) (priv : Bool) (v : Version) (writes : List (Nat × Word)) (fresh : List Nat)
    (s : State) : Fetched (List UnitWord × State) :=
  match unitWords (unitCore cl) b.ctx priv needStore (wholeWords writes) s with
  | .wait => .wait
  | .bad a => .bad a
  | .ok (xs, s) =>
    match unitWords (unitCore cl) b.ctx priv needBoth (markWords b true fresh) s with
    | .wait => .wait
    | .bad a => .bad a
    | .ok (ys, s) =>
      match unitWords (unitCore cl) b.ctx priv needStore (wholeWords ((wordAddrs (b.va + 4) 4).zip (versionWords v))) s with
      | .wait => .wait
      | .bad a => .bad a
      | .ok (zs, s) => .ok (xs ++ ys ++ zs, s)

/-- A develop is taken up, or waits: its result is decided, and every word that it writes is registered (R214), which
the unit cannot name before. Reading: log entry 57, DEDUCED. -/
def performDevelop (cl k : Nat) (d : Develop) (s : State) : State :=
  match planDevelop cl d s with
  | .wait => s
  | .done _ (some va) => failDevelop cl k d va s
  | .done status none => recordDevelop cl k d status d.take none s
  | .write v absent writes fresh =>
    match developWords cl (s.bound cl d.handle) d.priv v writes fresh s with
    | .wait => s
    | .bad va => failDevelop cl k d va s
    | .ok (ws, s) => startJob cl ⟨d.id, d.handle, some d.core, ws⟩ (recordDevelop cl k d 0 absent (some v) s)

/-- Develops that may be performed: the first of their binding, not performed yet. -/
def developHeads (c : Cluster) : List (Nat × Develop) :=
  (c.develops.zipIdx.map (fun (d, k) => (k, d))).filter (fun (k, d) =>
    !d.started && (c.develops.take k).all (fun e => e.handle ≠ d.handle))

/-- DEVELOP: the sorter takes up a develop; which binding's is open (R251). -/
def develop (cl : Nat) (s : State) : State :=
  let hs := developHeads (s.cluster cl)
  if hs.isEmpty then s
  else
    let (i, s) := s.pick hs.length
    let (k, d) := lget default hs i
    performDevelop cl k d (sweepHandle cl d.handle s)

def execDevelop (s : State) : Out := .next (match s.now with | .develop cl => develop cl s | _ => s)

/-- Whether an `.unbind` may end its binding (R258). -/
def mayUnbind (c : Cluster) (h : Nat) : Bool :=
  (openVersions c h).isEmpty && (landedOf c h).isEmpty && decide ((developsOf c h).length ≤ 1)

/-- A binding ends (R258): its record at the home and word 5 go in one step, as they came (R245); none while a
translation is awaited. Reading: log entry 57, DEDUCED. -/
def endBinding (cl h : Nat) (d : Develop) (s : State) : Option State :=
  let b := s.bound cl h
  let ended := { s with bindings := tdel s.bindings (b.desc / 32) }.modCluster cl (fun c => { c with bound := tdel c.bound h })
  match translate s (unitCore cl) b.ctx d.priv needStore (b.va + 20) with
  | .ok p => some (storeThrough (manifestOf cl) p 0 false ended)
  | .error m => if m.pend then none else some (logUnit cl 6 (b.va + 20) ended)

/-- The same once the plates that only older versions used are given up (R250). -/
def lastSweep (cl h : Nat) (d : Develop) (s : State) : Option State :=
  let s := sweepHandle cl h s
  if 1 < (s.bound cl h).live.length then none else endBinding cl h d s

/-- A develop whose words have all been written and acknowledged, and whose version makes no fifth live one (R250,
R251). Reading: log entry 57, DEDUCED. -/
def developDone (s : State) (cl : Nat) (d : Develop) : Bool :=
  d.started && (s.cluster cl).jobs.all (fun j => j.id ≠ d.id || jobOver s j) &&
  (d.version.isNone || decide ((openVersions (s.cluster cl) d.handle).length < 4))

/-- DEVELOP_COMPLETION in the order of R251. -/
def developCompletion (cl : Nat) (s : State) : State :=
  let c := s.cluster cl
  match c.develops.zipIdx.find? (fun e => developDone s cl e.1) with
  | none => s
  | some (d, k) =>
    let h := d.handle
    let ends := d.unbind && d.status = 0 && mayUnbind c h
    let installed := match d.version with
      | some v => s.modBound cl h (fun b => { b with live := v :: b.live })
      | none => s
    match (if ends then lastSweep cl h d installed else some installed) with
    | none => s
    | some s =>
      let status := if d.unbind && d.status = 0 && !ends then 2 else d.status
      let s := s.modCluster cl (fun c => { c with develops := c.develops.eraseIdx k })
      let s := if ends then s
        else sweepHandle cl h (s.modBound cl h (fun b => { b with status := status, result := d.result }))
      let s := if compBar d.comp then boUpdate d.core (compObj d.comp) true 0 s else s
      signalDc d.core d.comp s

def execDevelopCompletion (s : State) : Out :=
  .next (match s.now with | .developCompletion cl => developCompletion cl s | _ => s)

/-! ## Cursors (R253, R254, R260 to R262) -/

/-- Word of a position. -/
def positionWord (plate entry : Nat) : Nat := plate % 2 ^ 22 * 2 ^ 10 + entry

/-- Where the walk of a version stands: beyond its end, at an element, or at a word that cannot be used. -/
inductive At where
  | wait
  | bad
  | over
  | elem (plate entry : Nat) (e : Elem)

/-- The elements of plate i of a version, found through its directory. -/
def plateAt (s : State) (cl : Nat) (priv : Bool) (b : Bound) (v : Version) (i : Nat) : Fetched (List Elem) :=
  match engineReads s (unitCore cl) b.ctx priv (wordAddrs (v.dir + 16 * i + 8) 2) with
  | .wait => .wait
  | .bad a => .bad a
  | .ok ws =>
    match engineReads s (unitCore cl) b.ctx priv (wordAddrs (ofWords ws) 16) with
    | .wait => .wait
    | .bad a => .bad a
    | .ok ws => .ok (plateElems b.word0 ws)

/-- Entry 0 of a plate. -/
def plateHead (s : State) (cl : Nat) (priv : Bool) (b : Bound) (v : Version) (plate : Nat) : At :=
  if v.count ≤ plate then .over
  else
    match plateAt s cl priv b v plate with
    | .wait => .wait
    | .bad _ => .bad
    | .ok es => match es.head? with | some e => .elem plate 0 e | none => .over

/-- The element at a position (R254): an entry beyond its plate names entry 0 of the next. -/
def elementFrom (s : State) (cl : Nat) (priv : Bool) (b : Bound) (v : Version) (plate entry : Nat) : At :=
  if v.count ≤ plate then .over
  else
    match plateAt s cl priv b v plate with
    | .wait => .wait
    | .bad _ => .bad
    | .ok es =>
      match es[entry]? with
      | some e => .elem plate entry e
      | none => plateHead s cl priv b v (plate + 1)

/-- The plate in which the search for a key begins: the last one whose base lies below it. -/
def searchPlate (bases : List Nat) (lo : Nat) : Nat := (bases.filter (fun x => decide (x < lo))).length - 1

/-- The first element of a version with a key from `lo` on, by its directory (R260). -/
def firstFrom (s : State) (cl : Nat) (priv : Bool) (b : Bound) (v : Version) (lo : Nat) : At :=
  match engineReads s (unitCore cl) b.ctx priv ((upTo v.count).map (fun i => v.dir + 16 * i)) with
  | .wait => .wait
  | .bad _ => .bad
  | .ok ws =>
    let plate := searchPlate (ws.map BitVec.toNat) lo
    if v.count ≤ plate then .over
    else
      match plateAt s cl priv b v plate with
      | .wait => .wait
      | .bad _ => .bad
      | .ok es =>
        match es.findIdx? (fun e => decide (lo ≤ e.1)) with
        | some i => .elem plate i (lget default es i)
        | none => plateHead s cl priv b v (plate + 1)

/-- A cursor's first word (R253). -/
def cursorWord (open_ end_ : Bool) (h num cid : Nat) : Nat :=
  (if open_ then 2 ^ 31 else 0) + (if end_ then 2 ^ 30 else 0) + h * 2 ^ 24 + num * 2 ^ 8 + cid

/-- The four registers of a cursor with their poison. -/
def State.putCursor (s : State) (cx : Ctx) (ws : List (Nat × Bool)) : State :=
  let w := s.warp cx.wk
  s.landAll (((codeKeys cx.core w cx.x.dN 4 0).zip ws).map (fun (k, v, bad) => ⟨k, BitVec.ofNat 32 v, bad⟩))

/-- Entries of a cursor table that are free. -/
def freeCursors (c : Cluster) : List Nat := (upTo 256).filter (fun i => (tfind c.cursors i).isNone)

/-- MOPEN. Reading: log entry 57, DEDUCED. -/
def mopenGroup (h : Nat) (cx : Ctx) (s : State) : State :=
  let cl := clusterOfCore cx.core
  let b := s.bound cl h
  let v := b.current
  let ids := freeCursors (s.cluster cl)
  if ids.isEmpty then (s.putCursor cx [(0, false), (0, false), (0, false), (0, false)]).advance cx
  else
    let lo := s.opB cx 0 % 2 ^ widthK b.word0
    let hi := s.opC cx 0 % 2 ^ widthK b.word0
    let finish := fun (end_ bad : Bool) (pos : Nat) =>
      let (i, s) := s.pick ids.length
      let cid := lget 0 ids i
      let s := s.modCluster cl (fun c => { c with cursors := tput c.cursors cid ⟨h, v.number, s.blockKey cx⟩ })
      (s.putCursor cx [(cursorWord true end_ h 0 cid, bad), (v.number, false), (pos, bad), (hi, false)]).advance cx
    match firstFrom s cl cx.handler b v lo with
    | .wait => s
    | .bad => finish false true 0
    | .over => finish true false (positionWord v.count 0)
    | .elem p i e => finish (decide (hi < e.1)) false (positionWord p i)

def execMopen (x : Long) (s : State) : Out :=
  .next (issueOf (.mopen x) false (withDesc (fun _ _ _ => none) mopenGroup) s)

/-- The four words of a cursor operand. -/
def cursorOf (cx : Ctx) (s : State) (i : Nat) : Nat := s.opA cx 0 / 2 ^ (32 * i) % 2 ^ 32

/-- The local address of a cursor's first register (R23, R254). -/
def cursorAddr (cx : Ctx) (s : State) : Nat := (s.warp cx.wk).sbase + 4 * (cx.x.aN - 0x200)

/-- The checks of R254. -/
def cursorOk (cx : Ctx) (s : State) : Bool :=
  let c0 := cursorOf cx s 0
  c0.testBit 31 &&
  (match tfind (s.cluster (clusterOfCore cx.core)).cursors (c0 % 2 ^ 8) with
    | some e => e.handle = c0 / 2 ^ 24 % 2 ^ 6 && e.version = cursorOf cx s 1 && e.block = s.blockKey cx
    | none => false)

/-- MNEXT's walk over its active lanes: the element of each lane, how many were found, whether the end has been
met, the position, and whether a word could not be used. -/
structure Walk where
  elems : List (Nat × Elem) := []
  found : Nat := 0
  ended : Bool
  plate : Nat
  entry : Nat
  bad   : Bool := false

/-- A lane gets nothing. -/
def Walk.skip (w : Walk) (l : Nat) : Walk := { w with elems := w.elems ++ [(l, (0, 0, 0))] }

/-- The walk of one lane; none when a word is awaited. -/
def walkLane (s : State) (cl : Nat) (priv : Bool) (b : Bound) (v : Version) (hi : Nat) (w : Option Walk) (l : Nat) :
    Option Walk :=
  match w with
  | none => none
  | some w =>
    if w.ended || w.bad then some (w.skip l)
    else
      match elementFrom s cl priv b v w.plate w.entry with
      | .wait => none
      | .bad => some { w.skip l with bad := true }
      | .over => some { w.skip l with ended := true }
      | .elem p i e =>
        if hi < e.1 then some { w.skip l with ended := true }
        else
          let next := match elementFrom s cl priv b v p (i + 1) with
            | .elem q j _ => (q, j)
            | .over => (v.count, 0)
            | _ => (p, i + 1)
          some { w with elems := w.elems ++ [(l, e)], found := w.found + 1, plate := next.1, entry := next.2 }

/-- MNEXT (R261): its registers land together; a plate that cannot be read poisons all of them.
Reading: log entry 57, DEDUCED. -/
def mnextGroup (cx : Ctx) (s : State) : State :=
  let cl := clusterOfCore cx.core
  let trap := s.trapOf cx .permission 3 cx.act (BitVec.ofNat 64 (cursorAddr cx s))
  let c0 := cursorOf cx s 0
  let c2 := cursorOf cx s 2
  let h := c0 / 2 ^ 24 % 2 ^ 6
  let b := s.bound cl h
  match cursorOk cx s, b.live.find? (fun v => v.number = cursorOf cx s 1) with
  | true, some v =>
    let start : Walk := { ended := c0.testBit 30, plate := c2 / 2 ^ 10, entry := c2 % 2 ^ 10 }
    match (lanesOf cx.act).foldl (walkLane s cl cx.handler b v (cursorOf cx s 3)) (some start) with
    | none => s
    | some k =>
      let w := s.warp cx.wk
      let words := k.elems.flatMap (fun (l, e) =>
        landings cx w cx.x.dN 3 l (e.1 + 2 ^ 32 * e.2.1 + 2 ^ 64 * e.2.2) k.bad)
      let pos := if k.found = 0 then c2 else positionWord k.plate k.entry
      let regs := [cursorWord true k.ended h k.found (c0 % 2 ^ 8), cursorOf cx s 1, pos, cursorOf cx s 3]
      let cur := ((codeKeys cx.core w cx.x.aN 4 0).zip regs).map (fun (i, x) =>
        (⟨i, BitVec.ofNat 32 x, k.bad⟩ : Landing))
      (s.produce cx .mnext 0 (words ++ cur) 0).advance cx
  | _, _ => s.raise cx.wk trap

def execMnext (x : Long) (s : State) : Out := .next (issueOf (.mnext x) false mnextGroup s)

/-- MCLOSE (R254, R262). -/
def mcloseGroup (cx : Ctx) (s : State) : State :=
  let cl := clusterOfCore cx.core
  let c0 := cursorOf cx s 0
  if !c0.testBit 31 then s.advance cx
  else if !cursorOk cx s then s.raise cx.wk (manifestTrap s cx (cursorAddr cx s))
  else
    let s := s.modCluster cl (fun c => { c with cursors := tdel c.cursors (c0 % 2 ^ 8) })
    let keys := codeKeys cx.core (s.warp cx.wk) cx.x.aN 1 0
    let s := s.landAll (keys.map (fun k => ⟨k, BitVec.ofNat 32 (c0 % 2 ^ 31), false⟩))
    (sweepHandle cl (c0 / 2 ^ 24 % 2 ^ 6) s).advance cx

def execMclose (x : Long) (s : State) : Out := .next (issueOf (.mclose x) false mcloseGroup s)

/-! ## The survivor queue (R263 to R267) -/

/-- Fields of a channel's word 1 (R263). -/
def Channel.slots (c : Channel) : Nat := c.shape.toNat / 2 ^ 20 % 2 ^ 4 + 1
def Channel.height (c : Channel) : Nat := if c.shape.getLsbD 16 then 32 else 16
def Channel.rowb (c : Channel) : Nat := c.shape.toNat % 2 ^ 14

/-- Whether a record obeys R263, its ring in the block's scratchpad. Reading: log entry 58, DEDUCED. -/
def channelOk (v : Block) (ws : List Word) : Bool :=
  let w := fun (i : Nat) => (lget 0 ws i).toNat
  let c : Channel := { shape := lget 0 ws 1 }
  let ring := w 0 % 2 ^ 22
  w 0 / 2 ^ 22 = 0 && ring % 128 = 0 && w 1 / 2 ^ 24 = 0 && w 1 / 2 ^ 17 % 8 = 0 && w 1 / 2 ^ 14 % 4 = 0 &&
  c.rowb % 16 = 0 && decide (16 ≤ c.rowb ∧ c.rowb ≤ 8192) && w 2 / 8 = 0 && w 3 = 0 &&
  !localBad v ring (c.slots * c.height * c.rowb)

/-- The channel that a record names, with its number (R264): the one bound under this record, or that of the
record's CHAN; none where the fault of R264 is due. Reading: log entry 58, DEDUCED. -/
def namedChannel (s : State) (cx : Ctx) (a : Nat) : Option (Nat × Channel) :=
  let b := s.blockKey cx
  let cl := s.cluster (clusterOfCore cx.core)
  match cl.channels.find? (fun e => e.2.bound && e.2.block = b && e.2.recd = a) with
  | some e => some e
  | none =>
    let ws := (upTo 4).map (fun i => s.word (storeKey cx.core (a + 4 * i)))
    if a % 16 ≠ 0 || localBad (s.blockOf cx) a 16 || !channelOk (s.blockOf cx) ws then none
    else
      let n := (lget 0 ws 2).toNat % 8
      let c := tget {} cl.channels n
      if c.bound then (if c.block = b then some (n, c) else none)
      else some (n, { block := b, recd := a, ring := (lget 0 ws 0).toNat % 2 ^ 22, shape := lget 0 ws 1 })

/-- A poisoned word of a record that is read. -/
def recordPoison (s : State) (cx : Ctx) (a : Nat) : Option Trap :=
  match (upTo 4).find? (fun i => s.isPoison (storeKey cx.core (a + 4 * i))) with
  | some i => some (s.trapOf cx .poison 0 cx.act (BitVec.ofNat 64 (a + 4 * i)))
  | none => none

/-- Address of row r of tile w of a channel. -/
def Channel.rowAddr (c : Channel) (w r : Nat) : Nat :=
  c.ring + w % c.slots * (c.height * c.rowb) + r * c.rowb

/-- A row with its map word goes into the tile being filled. -/
def Channel.addRow (c : Channel) (token : Word) : Channel :=
  let maps := if c.rows = 0 then c.maps ++ [[token]]
    else lupd (fun m => m ++ [token]) c.maps (c.maps.length - 1)
  if c.rows + 1 = c.height then { c with maps := maps, rows := 0, filled := c.filled + 1 }
  else { c with maps := maps, rows := c.rows + 1 }

/-- The tiles that k more rows start have free slots (R265). -/
def Channel.room (c : Channel) (k : Nat) : Bool :=
  k = 0 || decide (c.filled + (c.rows + k - 1) / c.height + 1 ≤ c.popped + c.slots)

/-- The rows that a mask keeps, placed (R265). -/
def Channel.push (c : Channel) (src mask : Nat) : Channel × List (Nat × Nat × Nat) :=
  (laneNumbers.filter (fun i => mask.testBit i)).foldl (fun (c, rows) i =>
    (c.addRow (BitVec.ofNat 32 (c.token + i)), rows ++ [(src + i * c.rowb, c.rowAddr c.filled c.rows, c.filled)])) (c, [])

/-- A flushed channel all of whose completed tiles have been popped is free (R264). -/
def Channel.settle (c : Channel) : Channel := if c.flushed && c.popped = c.filled then {} else c

def State.setChannel (s : State) (cl n : Nat) (c : Channel) : State :=
  s.modCluster cl (fun v => { v with channels := tput v.channels n c })

/-- Rows to be written are queued. -/
def State.addPush (s : State) (cl : Nat) (p : Push) : State :=
  { s.modCluster cl (fun v => { v with pushes := v.pushes ++ [p] }) with fresh := s.fresh + 1 }

/-- The source of a zero row. -/
def zeroRow : Nat := 2 ^ 22

/-- SQPUSH. -/
def sqpushGroup (cx : Ctx) (s : State) : State :=
  let a := s.opA cx 0
  let src := s.opB cx 0
  let mask := s.opC cx 0
  let cl := clusterOfCore cx.core
  match namedChannel s cx a with
  | none => s.raise cx.wk (manifestTrap s cx a)
  | some (n, c) =>
    match (if c.bound then none else recordPoison s cx a) with
    | some t => s.raise cx.wk t
    | none =>
      if src % 16 ≠ 0 || localBad (s.blockOf cx) src (32 * c.rowb) then s.raise cx.wk (manifestTrap s cx a)
      else
        let k := (laneNumbers.filter (fun i => mask.testBit i)).length
        if !c.room k || decide (32 ≤ (s.core cx.core).holds.length) then s
        else
          let (c', rows) := { c with bound := true }.push src mask
          let s := s.setChannel cl n { c' with token := c.token + 32 }
          if rows.isEmpty then s.advance cx
          else
            let id := s.fresh
            let s := s.addHolds cx.core [⟨cx.core, src, src + 32 * c.rowb, false, 2, id⟩]
            (s.addPush cl ⟨id, n, cx.core, s.blockKey cx, c.rowb, rows⟩).advance cx

def execSqpush (x : Long) (s : State) : Out := .next (issueOf (.sqpush x) false sqpushGroup s)

/-- A bound channel for SQPOP and SQFLUSH, or the fault (R264). -/
def overChannel (act : Nat → Channel → Ctx → State → State) (cx : Ctx) (s : State) : State :=
  let a := s.opA cx (groupLane cx)
  match namedChannel s cx a with
  | none => s.raise cx.wk (manifestTrap s cx a)
  | some (n, c) => if c.bound then act n c cx s else s.raise cx.wk (manifestTrap s cx a)

/-- SQPOP (R266). -/
def sqpopGroup (n : Nat) (c : Channel) (cx : Ctx) (s : State) : State :=
  let cl := clusterOfCore cx.core
  let w := s.warp cx.wk
  let words := fun (m : List Word) => (lanesOf cx.act).flatMap (fun l =>
    landings cx w cx.x.dN 1 l (lget 0xFFFFFFFF m l).toNat false)
  if c.popped = c.filled then (s.landAll (words [])).advance cx
  else
    let s := s.produce cx .sqpop 0 (words (c.maps.headD [])) 0 (cl * 8 + n) c.popped
    (s.setChannel cl n ({ c with popped := c.popped + 1, maps := c.maps.drop 1 }).settle).advance cx

def execSqpop (x : Long) (s : State) : Out := .next (issueOf (.sqpop x) false (overChannel sqpopGroup) s)

/-- The map words of a tile's padding. -/
def Channel.pad (c : Channel) : Channel := (upTo (c.height - c.rows)).foldl (fun c _ => c.addRow 0xFFFFFFFF) c

/-- SQFLUSH (R267). -/
def sqflushGroup (n : Nat) (c : Channel) (cx : Ctx) (s : State) : State :=
  let cl := clusterOfCore cx.core
  if c.rows = 0 then
    ((s.setChannel cl n ({ c with flushed := true }).settle).putUniform cx 1 0).advance cx
  else if !c.room (c.height - c.rows) then s
  else
    let rows := (upTo (c.height - c.rows)).map (fun i => (zeroRow, c.rowAddr c.filled (c.rows + i), c.filled))
    let s := s.setChannel cl n { c.pad with flushed := true }
    let s := s.addPush cl ⟨s.fresh, n, cx.core, s.blockKey cx, c.rowb, rows⟩
    (s.putUniform cx 1 c.rows).advance cx

def execSqflush (x : Long) (s : State) : Out := .next (issueOf (.sqflush x) false (overChannel sqflushGroup) s)

/-- A word of the store copied with its poison, or a zero. -/
def copyStoreWord (core src dst : Nat) (s : State) : State :=
  if zeroRow ≤ src then s.localStore core dst 15 0
  else
    let k := storeKey core src
    let bad := s.isPoison k
    let s := s.localStore core dst 15 (s.word k)
    if bad then { s with poison := nput s.poison (storeKey core dst) } else s

/-- A row is written. Reading: log entry 58, DEDUCED. -/
def copyRow (core rowb src dst : Nat) (s : State) : State :=
  (upTo (rowb / 4)).foldl (fun s i =>
    copyStoreWord core (if zeroRow ≤ src then src else src + 4 * i) (dst + 4 * i) s) s

/-- SQPUSH_ROWS_WRITTEN: the next row of the first push of one of the channels is written; which is open. The
push leaves the scoreboard with its last row. Reading: log entry 58, DEDUCED. -/
def rowsWritten (cl : Nat) (s : State) : State :=
  let ps := (s.cluster cl).pushes
  let heads := ps.zipIdx.filter (fun (p, k) => (ps.take k).all (fun q => q.chan ≠ p.chan))
  if heads.isEmpty then s
  else
    let (i, s) := s.pick heads.length
    let p := (lget (default, 0) heads i).1
    match p.rows with
    | [] => s
    | (src, dst, _) :: rest =>
      let s := copyRow p.core p.rowb src dst s
      if rest.isEmpty then
        let s := s.modCluster cl (fun v => { v with pushes := v.pushes.filter (fun q => q.id ≠ p.id) })
        s.modCore p.core (fun c => { c with holds := c.holds.filter (fun h => !(h.kind = 2 && h.own = p.id)) })
      else s.modCluster cl (fun v => { v with
        pushes := v.pushes.map (fun q => if q.id = p.id then { q with rows := rest } else q) })

def execSqpushRowsWritten (s : State) : Out :=
  .next (match s.now with | .sqpushRowsWritten cl => rowsWritten cl s | _ => s)

/-- Whether every row of a popped tile has been written (R266). -/
def tileWritten (s : State) (p : Prod) : Bool :=
  !(s.cluster (p.arg / 8)).pushes.any (fun q =>
    q.chan = p.arg % 8 && decide (q.id < p.order) && q.rows.any (fun r => r.2.2 = p.arg2))

end Sys2Proof.Machine
end

