-- ==== Sys2Proof/Machine/Rays.lean ====
section
/-! DEFINITION. Rays (R318 to R336): exact geometry, the traversal of a hierarchy, the sounding table, and the
ray instructions. -/

namespace Sys2Proof.Machine

/-! ## Exact numbers with one square root -/

/-- -1, 0 or 1. -/
def Exact.sign (x : Exact) : Int := if x.isZero then 0 else if x.neg then -1 else 1

def Exact.sub (x y : Exact) : Exact := x.add y.negate false
def Exact.zero : Exact := ⟨false, 0, 1, 0⟩
def Exact.one : Exact := ⟨false, 1, 1, 0⟩
def Exact.le (x y : Exact) : Bool := !y.lt x
def Exact.abs (x : Exact) : Exact := { x with neg := false }
def Exact.maxOf (x y : Exact) : Exact := if x.lt y then y else x
def Exact.minOf (x y : Exact) : Exact := if y.lt x then y else x

/-- Sign of a + b sqrt q. -/
def signRoot (a b q : Exact) : Int :=
  let sa := a.sign
  let sb := if q.isZero then 0 else b.sign
  if sb = 0 then sa
  else if sa = 0 then sb
  else if sa = sb then sa
  else sa * ((a.mul a).sub ((b.mul b).mul q)).sign

/-- Sign of a + b sqrt q + c sqrt r, where c is 1 or -1. -/
def signRoots (a b q c r : Exact) : Int :=
  let sx := signRoot a b q
  let sy := if r.isZero then 0 else c.sign
  if sy = 0 then sx
  else if sx = 0 then sy
  else if sx = sy then sx
  else
    -- (a + b sqrt q)^2 - r
    sx * signRoot (((a.mul a).add ((b.mul b).mul q) false).sub r) ((Exact.ofInt 2).mul (a.mul b)) q

/-- An exact number as a surd. -/
def Surd.ofExact (x : Exact) : Surd := { base := x }

/-- The factor of a surd's root. -/
def Surd.unit (x : Surd) : Exact := ⟨x.minus, 1, 1, 0⟩

/-- Sign of x - y. -/
def Surd.cmp (x y : Surd) : Int :=
  signRoots (x.base.sub y.base) x.unit x.rad y.unit.negate y.rad

/-- A number rounded to f32 to nearest, ties to even (R322): the largest magnitude not above it is found bit by
bit, and then its neighbour is compared; zero is +0. -/
def Surd.round (x : Surd) : Word :=
  let sg := x.cmp (Surd.ofExact Exact.zero)
  if sg = 0 then 0
  else
    let y : Surd := if sg < 0 then { base := x.base.negate, rad := x.rad, minus := !x.minus } else x
    let value := fun (m : Nat) => match fmtF32.decode m with | .fin v => v | _ => Exact.zero
    let low := (upTo 31).foldl (fun m i =>
      let n := m + 2 ^ (30 - i)
      if n < 0x7F800000 && decide ((Surd.ofExact (value n)).cmp y ≤ 0) then n else m) 0
    -- the midpoint above the code `low`
    let step := if low / 2 ^ 23 = 0 then (1 : Nat) else low / 2 ^ 23
    let mid := (value low).add ⟨false, 1, 1, (step : Int) - 151⟩ false
    let c := y.cmp (Surd.ofExact mid)
    let m := if 0 < c || (c = 0 && low % 2 = 1) then low + 1 else low
    BitVec.ofNat 32 (m + (if sg < 0 then 2 ^ 31 else 0))

/-- An exact number rounded to f32. -/
def Exact.toF32 (x : Exact) : Word := (Surd.ofExact x).round

/-! ## Vectors -/

/-- A point or a direction. -/
structure Vec3 where
  x : Exact
  y : Exact
  z : Exact
  deriving DecidableEq, Repr, Inhabited

def Vec3.sub (a b : Vec3) : Vec3 := ⟨a.x.sub b.x, a.y.sub b.y, a.z.sub b.z⟩
def Vec3.dot (a b : Vec3) : Exact := ((a.x.mul b.x).add (a.y.mul b.y) false).add (a.z.mul b.z) false
def Vec3.cross (a b : Vec3) : Vec3 :=
  ⟨(a.y.mul b.z).sub (a.z.mul b.y), (a.z.mul b.x).sub (a.x.mul b.z), (a.x.mul b.y).sub (a.y.mul b.x)⟩
def Vec3.isZero (a : Vec3) : Bool := a.x.isZero && a.y.isZero && a.z.isZero
/-- Component of an axis. -/
def Vec3.at (a : Vec3) (i : Nat) : Exact := match i with | 0 => a.x | 1 => a.y | _ => a.z

/-- The finite value of an f32 word. -/
def f32Exact (w : Word) : Option Exact :=
  match fmtF32.decode w.toNat with | .fin v => some v | _ => none

/-- The finite values of words. -/
def f32All : List Word → Option (List Exact)
  | [] => some []
  | w :: ws =>
    match f32Exact w, f32All ws with
    | some v, some vs => some (v :: vs)
    | _, _ => none

/-- Three of a list of values. -/
def vecFrom (vs : List Exact) (i : Nat) : Vec3 :=
  ⟨lget Exact.zero vs i, lget Exact.zero vs (i + 1), lget Exact.zero vs (i + 2)⟩

/-- A ray: origin, direction, interval (R322). -/
structure Beam where
  o  : Vec3
  d  : Vec3
  lo : Exact
  hi : Exact
  deriving DecidableEq, Repr, Inhabited

/-- The ray of eight words; none for a value that is not finite, or a zero direction (R332). -/
def beamOf (ws : List Word) : Option Beam :=
  match f32All ws with
  | none => none
  | some vs =>
    let d := vecFrom vs 3
    if d.isZero then none
    else some ⟨vecFrom vs 0, d, lget Exact.zero vs 6, lget Exact.zero vs 7⟩

/-! ## Hits (R321, R322) -/

/-- What a primitive yields: t, u, v and front. -/
abbrev RawHit := Surd × Exact × Exact × Bool

/-- A hit at an exact t inside the interval. -/
def hitAt (r : Beam) (t u v : Exact) (front : Bool) : Option RawHit :=
  if r.lo.le t && t.le r.hi then some (Surd.ofExact t, u, v, front) else none

/-- Barycentrics of the plane's point at t, by the two axes on which the normal's component is not zero. -/
def baryAt (axis : Nat) (e1 e2 w : Vec3) : Exact × Exact :=
  let i := (axis + 1) % 3
  let j := (axis + 2) % 3
  let c := fun (a b : Vec3) => ((a.at i).mul (b.at j)).sub ((a.at j).mul (b.at i))
  let n := c e1 e2
  ((c w e2).div n, (c e1 w).div n)

/-- The point of a ray at t relative to v0. -/
def Beam.from (r : Beam) (v0 : Vec3) (t : Exact) : Vec3 :=
  let o := r.o.sub v0
  ⟨o.x.add (r.d.x.mul t) false, o.y.add (r.d.y.mul t) false, o.z.add (r.d.z.mul t) false⟩

/-- An interval clipped to where a + b t is not below zero; none where it is empty. -/
def clipTo (seg : Option (Option Exact × Option Exact)) (a b : Exact) : Option (Option Exact × Option Exact) :=
  match seg with
  | none => none
  | some (lo, hi) =>
    if b.isZero then (if a.sign < 0 then none else some (lo, hi))
    else
      let t := a.negate.div b
      if b.neg then
        some (lo, some (match hi with | none => t | some h => Exact.minOf h t))
      else some (some (match lo with | none => t | some l => Exact.maxOf l t), hi)

/-- A ray in the plane of a triangle: the part of it inside the triangle, of which one point is the hit; which
is open unless there is only one. `seed` is the number that the open value depends on.
Reading: log entry 19, DESIGN CHOICE. -/
def hitCoplanar (r : Beam) (axis : Nat) (v0 e1 e2 : Vec3) (seed : Nat) : Option RawHit :=
  let (a1, a2) := baryAt axis e1 e2 (r.from v0 Exact.zero)
  let (c1, c2) := baryAt axis e1 e2 (r.from v0 Exact.one)
  let b1 := c1.sub a1
  let b2 := c2.sub a2
  let a3 := (Exact.one.sub a1).sub a2
  let b3 := (b1.add b2 false).negate
  match clipTo (clipTo (clipTo (some (none, none)) a1 b1) a2 b2) a3 b3 with
  | some (some lo, some hi) =>
    if hi.lt lo then none
    else
      let f : Exact := ⟨false, (Config.coplanarPoint seed).toNat, 1, -64⟩
      let t := lo.add ((hi.sub lo).mul f) false
      hitAt r t (a1.add (b1.mul t) false) (a2.add (b2.mul t) false) true
  | _ => none

/-- A triangle's hit. Reading: log entry 59, DEDUCED. -/
def hitTriangle (r : Beam) (cull : Bool) (vs : List Exact) (seed : Nat) : Option RawHit :=
  let v0 := vecFrom vs 0
  let e1 := (vecFrom vs 3).sub v0
  let e2 := (vecFrom vs 6).sub v0
  let n := e1.cross e2
  let dn := r.d.dot n
  if n.isZero || (cull && decide (0 < dn.sign)) then none
  else
    let axis := if !n.z.isZero then 2 else if !n.y.isZero then 1 else 0
    let on := (v0.sub r.o).dot n
    if dn.isZero then (if on.isZero then hitCoplanar r axis v0 e1 e2 seed else none)
    else
      let t := on.div dn
      let (b1, b2) := baryAt axis e1 e2 (r.from v0 t)
      if b1.sign < 0 || b2.sign < 0 || Exact.one.lt (b1.add b2 false) then none
      else hitAt r t b1 b2 (decide (dn.sign ≤ 0))

/-- A sphere's hit: the smaller root at or above tmin, else the larger. Reading: log entry 59, DEDUCED. -/
def hitSphere (r : Beam) (vs : List Exact) : Option RawHit :=
  let radius := lget Exact.zero vs 3
  if radius.sign ≤ 0 then none
  else
    let oc := r.o.sub (vecFrom vs 0)
    let a := r.d.dot r.d
    let b := oc.dot r.d
    let c := (oc.dot oc).sub (radius.mul radius)
    let disc := (b.mul b).sub (a.mul c)
    if disc.sign < 0 then none
    else
      let mid := b.negate.div a
      let rad := disc.div (a.mul a)
      let small : Surd := ⟨mid, { rad with neg := false }, true⟩
      let large : Surd := { small with minus := false }
      let first := decide (0 ≤ small.cmp (Surd.ofExact r.lo))
      let t := if first then small else large
      if 0 ≤ t.cmp (Surd.ofExact r.lo) && decide (t.cmp (Surd.ofExact r.hi) ≤ 0) then
        some (t, Exact.zero, Exact.zero, first)
      else none

/-- The columns of |q|^2 R for a quaternion (w, x, y, z). -/
def rotation (w x y z : Exact) : Vec3 × Vec3 × Vec3 :=
  let sq := fun (a : Exact) => a.mul a
  let two := fun (a b c d : Exact) (plus : Bool) =>
    let p := a.mul b
    let q := c.mul d
    (Exact.ofInt 2).mul (if plus then p.add q false else p.sub q)
  let sum4 := fun (a b c d : Exact) => ((a.add b false).sub c).sub d
  (⟨sum4 (sq w) (sq x) (sq y) (sq z), two x y w z true, two x z w y false⟩,
   ⟨two x y w z false, sum4 (sq w) (sq y) (sq x) (sq z), two y z w x true⟩,
   ⟨two x z w y true, two y z w x false, sum4 (sq w) (sq z) (sq x) (sq y)⟩)

/-- A splat's hit: the ray's point nearest the centre in the splat's frame. Reading: log entry 59, DEDUCED. -/
def hitSplat (r : Beam) (vs qs : List Exact) : Option RawHit :=
  let c := vecFrom vs 0
  let sc := vecFrom vs 3
  let q := fun (i : Nat) => lget Exact.zero qs i
  let n := (((q 0).mul (q 0)).add ((q 1).mul (q 1)) false).add (((q 2).mul (q 2)).add ((q 3).mul (q 3)) false) false
  if n.isZero || sc.x.sign ≤ 0 || sc.y.sign ≤ 0 || sc.z.sign ≤ 0 then none
  else
    let (cx, cy, cz) := rotation (q 0) (q 1) (q 2) (q 3)
    let frame := fun (v : Vec3) => (⟨((v.dot cx).div n).div sc.x, ((v.dot cy).div n).div sc.y,
      ((v.dot cz).div n).div sc.z⟩ : Vec3)
    let o := frame (r.o.sub c)
    let d := frame r.d
    let t := (o.dot d).negate.div (d.dot d)
    let p : Vec3 := ⟨o.x.add (d.x.mul t) false, o.y.add (d.y.mul t) false, o.z.add (d.z.mul t) false⟩
    let m := p.dot p
    if Exact.one.lt m then none else hitAt r t m Exact.zero true

/-- The four f16 values of a splat's quaternion. -/
def quaternion (w6 w7 : Word) : Option (List Exact) :=
  let part := fun (v : Nat) => match fmtF16.decode v with | .fin x => some x | _ => none
  match part (w6.toNat % 2 ^ 16), part (w6.toNat / 2 ^ 16), part (w7.toNat % 2 ^ 16), part (w7.toNat / 2 ^ 16) with
  | some a, some b, some c, some d => some [a, b, c, d]
  | _, _, _, _ => none

/-- Words of a primitive that its hit depends on, by its kind, beside its flags word. -/
def primitiveWords (kind : Nat) : Nat :=
  match kind with
  | 0 => 9
  | 1 => 4
  | 2 => 8
  | _ => 0

/-- A primitive's hit from its flags word and its words. A value that is not finite gives no exact t, and so
no hit. -/
def primitiveHit (r : Beam) (flags : Word) (ws : List Word) (seed : Nat) : Option RawHit :=
  match flags.toNat % 4 with
  | 0 => (f32All ws).bind (fun vs => hitTriangle r (flags.getLsbD 3) vs seed)
  | 1 => (f32All ws).bind (fun vs => hitSphere r vs)
  | 2 =>
    match f32All (ws.take 6), quaternion (lget 0 ws 6) (lget 0 ws 7) with
    | some vs, some qs => hitSplat r vs qs
    | _, _ => none
  | _ => none

/-- A hit of primitive p found in a leaf. -/
def mkHit (p leaf : Nat) (flags : Word) (solid : Bool) (h : RawHit) : Hit where
  t := h.1
  prim := p
  tWord := h.1.round
  u := h.2.1.toF32
  v := h.2.2.1.toF32
  front := h.2.2.2
  kind := flags.toNat % 4
  opaque_ := solid
  leaf := leaf

/-- (t, p) of one hit below that of another (R323). -/
def Hit.below (a b : Hit) : Bool :=
  let c := a.t.cmp b.t
  decide (c < 0) || (c = 0 && decide (a.prim < b.prim))

/-! ## The root record (R318) -/

/-- Fields of a root record's words. -/
def rootWord (ws : List Word) (i : Nat) : Nat := (lget 0 ws i).toNat
def rootNodes (ws : List Word) : Nat := rootWord ws 1
def rootPrims (ws : List Word) : Nat := rootWord ws 2
def rootTop (ws : List Word) : Nat := rootWord ws 3
def rootNodeBase (ws : List Word) : Nat := rootWord ws 4 + 2 ^ 32 * rootWord ws 5
def rootPrimBase (ws : List Word) : Nat := rootWord ws 6 + 2 ^ 32 * rootWord ws 7

/-- The scene box: minimum and maximum; none when a value is not finite. -/
def rootBox (ws : List Word) : Option (Vec3 × Vec3) :=
  (f32All ((ws.drop 8).take 6)).map (fun vs => (vecFrom vs 0, vecFrom vs 3))

/-- Whether a root record obeys R318 as R332 asks. Reading: log entry 59, DEDUCED. -/
def rootOk (ws : List Word) : Bool :=
  rootWord ws 14 = 0 && rootWord ws 15 = 0 && rootNodeBase ws % 64 = 0 && rootPrimBase ws % 16 = 0 &&
  decide (rootTop ws < rootNodes ws) &&
  (match rootBox ws with
    | some (lo, hi) => lo.x.le hi.x && lo.y.le hi.y && lo.z.le hi.z
    | none => false)

/-! ## Traversal (R319, R320, R324) -/

/-- A box on three axes. -/
abbrev Box := Vec3 × Vec3

/-- Box of child c of a node's words (R319). -/
def childBox (lo hi : Vec3) (ws : List Word) (c : Nat) : Box :=
  let w := fun (i : Nat) => (lget 0 ws i).toNat
  let q := fun (a : Nat) => match a with | 0 => w 0 % 2 ^ 16 | 1 => w 0 / 2 ^ 16 | _ => w 1 % 2 ^ 16
  let e := fun (a : Nat) => w 1 / 2 ^ (16 + 4 * a) % 16
  let byte := fun (i : Nat) => w (4 + i / 4) / 2 ^ (8 * (i % 4)) % 2 ^ 8
  let g := fun (a : Nat) => { (hi.at a).sub (lo.at a) with exp := ((hi.at a).sub (lo.at a)).exp - 16 }
  let at_ := fun (a n : Nat) => (lo.at a).add ((Exact.ofInt (q a + n * 2 ^ e a)).mul (g a)) false
  (⟨at_ 0 (byte (6 * c)), at_ 1 (byte (6 * c + 1)), at_ 2 (byte (6 * c + 2))⟩,
   ⟨at_ 0 (byte (6 * c + 3) + 1), at_ 1 (byte (6 * c + 4) + 1), at_ 2 (byte (6 * c + 5) + 1)⟩)

/-- The closed slab test of a box against [tmin, tb] (R324). -/
def boxMeets (r : Beam) (tb : Surd) (b : Box) : Bool :=
  let axis := fun (acc : Option (Exact × Exact)) (a : Nat) =>
    match acc with
    | none => none
    | some (near, far) =>
      let d := r.d.at a
      let o := r.o.at a
      if d.isZero then (if (b.1.at a).le o && o.le (b.2.at a) then some (near, far) else none)
      else
        let t1 := ((b.1.at a).sub o).div d
        let t2 := ((b.2.at a).sub o).div d
        some (Exact.maxOf near (Exact.minOf t1 t2), Exact.minOf far (Exact.maxOf t1 t2))
  match [0, 1, 2].foldl axis (some (r.lo, r.hi)) with
  | none => false
  | some (near, far) => near.le far && decide ((Surd.ofExact near).cmp tb ≤ 0)

/-- A record that waits to be visited: its index, whether it is a leaf, and its box; the top record has none. -/
structure Visit where
  index : Nat
  leaf  : Bool
  box   : Option Box

/-- A traversal: records that wait, words read of nodes, records visited, primitives tested, hits, and the opaque hit
that bounds it. -/
structure Trav where
  wait  : List Visit
  words : List Word := []
  seen  : List (Nat × Bool) := []
  prims : List Nat := []
  hits  : List Hit := []
  bound : Option Hit := .none

/-- What a part of a traversal comes to: a wait for a word, a status with the address of a failure, or a
result. -/
inductive Traced (β : Type) where
  | wait
  | fail (status : Nat) (va : Option Nat)
  | ok (v : β)

/-- What a ray reads its memory as. -/
structure Env where
  read   : List Nat → Fetched (List Word)
  beam   : Beam
  data   : List Word
  root   : List Word
  solid  : Bool
  noAny  : Bool

/-- The least of a bound and an opaque hit. -/
def boundWith (b : Option Hit) (h : Hit) : Option Hit :=
  match b with
  | some x => if h.below x then some h else some x
  | none => some h

/-- A primitive is read and tested (R321 to R323): its hit, if it yields one. -/
def testPrimitive (e : Env) (leaf p : Nat) : Traced (Option Hit) :=
  let a := rootPrimBase e.root + 48 * p
  match e.read [a + 0x24] with
  | .wait => .wait
  | .bad va => .fail 4 (some va)
  | .ok fs =>
    let flags := lget 0 fs 0
    match e.read (wordAddrs a (primitiveWords (flags.toNat % 4))) with
    | .wait => .wait
    | .bad va => .fail 4 (some va)
    | .ok ws =>
      let solid := flags.getLsbD 2 || e.solid
      if !solid && e.noAny then .ok none
      else .ok ((primitiveHit e.beam flags ws (ofWords (e.data ++ flags :: ws))).map (mkHit p leaf flags solid))

/-- The primitives of a leaf, one after the other. -/
def testAll (e : Env) (leaf : Nat) : List Nat → Trav → Traced Trav
  | [], t => .ok t
  | p :: ps, t =>
    if t.prims.contains p then testAll e leaf ps t
    else
      match testPrimitive e leaf p with
      | .wait => .wait
      | .fail s va => .fail s va
      | .ok none => testAll e leaf ps { t with prims := p :: t.prims }
      | .ok (some h) =>
        testAll e leaf ps { t with prims := p :: t.prims, hits := h :: t.hits
                                   bound := if h.opaque_ then boundWith t.bound h else t.bound }

/-- The primitive indices of a leaf record; none when it breaks R320. -/
def leafPrims (e : Env) (i : Nat) : Traced (Option (List Nat)) :=
  let a := rootNodeBase e.root + 64 * i
  match e.read [a] with
  | .wait => .wait
  | .bad va => .fail 4 (some va)
  | .ok w0 =>
    let n := (lget 0 w0 0).toNat
    if n = 0 || decide (15 < n) then .ok none
    else
      match e.read (wordAddrs (a + 4) n) with
      | .wait => .wait
      | .bad va => .fail 4 (some va)
      | .ok ws => .ok (some (ws.map BitVec.toNat))

/-- A leaf is visited. Reading: log entry 59, DEDUCED. -/
def visitLeaf (e : Env) (i : Nat) (t : Trav) : Traced Trav :=
  match leafPrims e i with
  | .wait => .wait
  | .fail s va => .fail s va
  | .ok none => .fail 6 none
  | .ok (some ps) =>
    if ps.any (fun p => decide (rootPrims e.root ≤ p)) then .fail 6 none else testAll e i ps t

/-- A node is visited: its children wait (R319). -/
def visitNode (e : Env) (i : Nat) (t : Trav) : Traced Trav :=
  let a := rootNodeBase e.root + 64 * i
  match e.read (wordAddrs a 4) with
  | .wait => .wait
  | .bad va => .fail 4 (some va)
  | .ok hd =>
    let n := (lget 0 hd 1).toNat / 2 ^ 28 % 8 + 1
    let first := (lget 0 hd 2).toNat
    if (lget 0 hd 1).getLsbD 31 || (lget 0 hd 3).toNat / 2 ^ 8 ≠ 0 || decide (rootNodes e.root < first + n) then .fail 6 none
    else
      match e.read (wordAddrs (a + 16) ((6 * n + 3) / 4)) with
      | .wait => .wait
      | .bad va => .fail 4 (some va)
      | .ok boxes =>
        match rootBox e.root with
        | none => .fail 6 none
        | some (lo, hi) =>
          .ok { t with
            words := t.words ++ hd ++ boxes
            wait := t.wait ++ (upTo n).map (fun c =>
              ⟨first + c, (lget 0 hd 3).getLsbD c, some (childBox lo hi (hd ++ boxes) c)⟩) }

/-- The t of the bound in force. -/
def Trav.limit (t : Trav) (r : Beam) : Surd := match t.bound with | some h => h.t | none => Surd.ofExact r.hi

/-- A record whose box passes and that has not been visited is visited. -/
def visit (e : Env) (v : Visit) (t : Trav) : Traced Trav :=
  let meets := match v.box with | some b => boxMeets e.beam (t.limit e.beam) b | none => true
  if !meets || t.seen.contains (v.index, v.leaf) then .ok t
  else
    let t := { t with seen := (v.index, v.leaf) :: t.seen }
    if v.leaf then visitLeaf e v.index t else visitNode e v.index t

/-- What the choice of the next record depends on. -/
def Trav.seenWords (e : Env) (t : Trav) : List Word :=
  e.data ++ e.root ++ t.words ++ (match t.bound with | some h => [h.tWord, BitVec.ofNat 32 h.prim] | none => [])

/-- The traversal: which record comes next is the unit's own rule. Reading: log entry 59, DEDUCED. -/
def traverse (e : Env) : Nat → Trav → Traced Trav
  | 0, t => .ok t
  | fuel + 1, t =>
    let i := Config.traversalPick (t.seenWords e) % max 1 t.wait.length
    match t.wait[i]? with
    | none => .ok t
    | some v =>
      match visit e v { t with wait := t.wait.eraseIdx i } with
      | .ok t => traverse e fuel t
      | .wait => .wait
      | .fail st va => .fail st va

/-- Steps that suffice: every visited record brings at most eight. -/
def travFuel (root : List Word) : Nat := 16 * rootNodes root + 2

/-- Whether a leaf record is reachable from ROOT (R323); box tests play no part, and a record that cannot be read has
no children. -/
def leafReached (e : Env) (leaf : Nat) : Nat → List (Nat × Bool) → List Nat → Bool
  | 0, _, _ => false
  | _ + 1, [], _ => false
  | fuel + 1, (i, isLeaf) :: rest, seen =>
    if isLeaf then i = leaf || leafReached e leaf fuel rest seen
    else if seen.contains i then leafReached e leaf fuel rest seen
    else
      match e.read (wordAddrs (rootNodeBase e.root + 64 * i) 4) with
      | .ok hd =>
        let n := (lget 0 hd 1).toNat / 2 ^ 28 % 8 + 1
        let first := (lget 0 hd 2).toNat
        if rootNodes e.root < first + n then leafReached e leaf fuel rest (i :: seen)
        else leafReached e leaf fuel (rest ++ (upTo n).map (fun c => (first + c, (lget 0 hd 3).getLsbD c))) (i :: seen)
      | _ => leafReached e leaf fuel rest (i :: seen)

/-! ## The sounding table (R325 to R327, R335) -/

/-- floor(x), within 0 and hi. -/
def cellOf (x : Exact) (hi : Int) : Nat := (clampInt x.floor 0 hi).toNat

/-- -1 below zero, else 1. -/
def sgnOf (x : Exact) : Exact := if x.sign < 0 then Exact.one.negate else Exact.one

/-- The key of a ray (R325). -/
def rayKey (r : Beam) (lo hi : Vec3) : Nat :=
  let q := fun (a : Nat) =>
    let ext := (hi.at a).sub (lo.at a)
    if ext.isZero then 0 else cellOf ((((r.o.at a).sub (lo.at a)).div ext).mul (Exact.ofInt 64)) 63
  let l := (r.d.x.abs.add r.d.y.abs false).add r.d.z.abs false
  let u := r.d.x.div l
  let v := r.d.y.div l
  let (u, v) := if r.d.z.sign < 0 then
      ((Exact.one.sub v.abs).mul (sgnOf u), (Exact.one.sub u.abs).mul (sgnOf v))
    else (u, v)
  let c := fun (x : Exact) => cellOf ((x.add Exact.one false).mul (Exact.ofInt 4)) 7
  q 0 + 64 * q 1 + 4096 * q 2 + 262144 * (c u + 8 * c v)

/-- Set and tag of a key. -/
def keySet (k : Nat) : Nat := (k % 2 ^ 12) ^^^ (k / 2 ^ 12 % 2 ^ 12)
def keyTag (k : Nat) : Nat := k / 2 ^ 12 % 2 ^ 12

/-- HID of a root record's address. -/
def hidOf (root : DWord) : Nat := bitsOf root 6 16

/-- Ways that a context may use now (R326). -/
def contextWays (s : State) (ctx : Nat) : Nat := tget 0 s.ways ctx
def predicts (s : State) (ctx : Nat) : Bool := contextWays s ctx ≠ 0 && nmem s.predict ctx
def waysOf (mask : Nat) : List Nat := [0, 1, 2, 3].filter (fun w => mask.testBit w)

def soundingKey (die set way : Nat) : Nat := die * 2 ^ 14 + set * 4 + way

/-- The lookup of a ray at its start (R327): the leaf of a way that hits. -/
def soundingLookup (s : State) (die ctx key : Nat) (root : DWord) (version : Word) (nodes : Nat) : Option Nat :=
  ((waysOf (contextWays s ctx)).map (fun w => tget {} s.sounding (soundingKey die (keySet key) w))).findSome? (fun e =>
    if e.valid && e.tag = keyTag key && e.hid = hidOf root && e.version = version && decide (e.leaf < nodes) then some e.leaf
    else none)

/-- The way that the next entry of a set goes to (R327). -/
def victimWay (s : State) (die ctx set : Nat) : Option Nat :=
  let ws := waysOf (contextWays s ctx)
  match ws.find? (fun w => !(tget {} s.sounding (soundingKey die set w)).valid) with
  | some w => some w
  | none =>
    let last := tget 0 s.lastWay (die * 4096 + set)
    (ws.find? (fun w => decide (last < w))).orElse (fun _ => ws.head?)

/-- NOPRED, OPAQUEALL, NOANY (R332). -/
def Ray.predicted (r : Ray) : Bool := !r.flags.getLsbD 0

/-- A ray that ends with a closest hit writes its entry in its context's way of the set, whether or not it looked one
up (R327). -/
def writeSounding (r : Ray) (h : Hit) (s : State) : State :=
  let die := dieOfCore r.core
  let set := keySet r.key
  match victimWay s die r.ctx set with
  | none => s
  | some w =>
    { s with
      sounding := tput s.sounding (soundingKey die set w)
        ⟨true, keyTag r.key, hidOf r.root, lget 0 r.rootWords 0, h.leaf⟩
      lastWay := tput s.lastWay (die * 4096 + set) w }

/-- Ways of every die are invalidated. -/
def invalidateWays (mask : Nat) (s : State) : State :=
  { s with sounding := s.sounding.filter (fun e => !mask.testBit (e.1 % 4)) }

/-- A context's setting as RSND reports it. -/
def soundingSetting (s : State) (ctx : Nat) : Nat :=
  contextWays s ctx + (if nmem s.predict ctx then 16 else 0)

/-- A context is enabled or not. -/
def enableContext (ctx : Nat) (on : Bool) (s : State) : State :=
  { s with predict := if on then nput s.predict ctx else ndel s.predict ctx }

/-- Operation 2 (R335). -/
def giveWays (ctx mask : Nat) (on : Bool) (s : State) : State :=
  let before := contextWays s ctx
  let s := invalidateWays (mask ||| before) s
  let others := s.ways.map (fun (c, m) => (c, if c = ctx then m else m &&& (15 - mask)))
  enableContext ctx on { s with ways := tput others ctx mask }

/-- The presets of operation 3: the ways of contexts 0 to 3. Reading: log entry 59, DEDUCED. -/
def presetWays (p : Nat) : List Nat :=
  match p with
  | 0 => []
  | 1 => [15]
  | 2 => [3, 12]
  | _ => [1, 2, 4, 8]

/-- Operation 3. -/
def applyPreset (p : Nat) (s : State) : State :=
  let ws := presetWays p
  let s := { s with ways := ws.zipIdx.map (fun (m, c) => (c, m)) }
  (upTo ws.length).foldl (fun s c => enableContext c true s) s

/-- Fields of the control word that an operation uses beside OP. -/
def controlMask (op : Nat) : Nat :=
  match op with
  | 2 => 2 ^ 8 * 7 + 2 ^ 12 * 15 + 2 ^ 16
  | 3 => 2 ^ 4 * 3
  | 4 => 2 ^ 16
  | _ => 0

/-- Operations that are privileged. -/
def controlPrivileged (op : Nat) : Bool := op = 1 || op = 2 || op = 3

/-- RSND (R335): the control word's operation must be the instruction's own. -/
def rsndGroup (op : Nat) (act : Nat → Nat → State → State) (cx : Ctx) (s : State) : State :=
  let c := s.opA cx 0
  let ctx := (s.blockOf cx).ctx
  if c % 16 ≠ op || (c / 16 * 16) &&& controlMask op ≠ c / 16 * 16 then s.raise cx.wk (s.trapOf cx .illegal 0 cx.group 0)
  else if controlPrivileged op && !cx.handler then s.raise cx.wk (s.trapOf cx .privileged 0 cx.group 0)
  else
    let s := act ctx c s
    (s.putUniform cx 1 (soundingSetting s ctx)).advance cx

def execRsndInvalidateContext (x : Long) (s : State) : Out :=
  .next (issueOf (.rsndInvalidateContext x) false
    (rsndGroup 0 (fun ctx _ s => invalidateWays (contextWays s ctx) s)) s)
def execRsndInvalidateAll (s : State) : Out :=
  .next (issueOf (.rsndInvalidateContext s.cur.x) false (rsndGroup 1 (fun _ _ s => invalidateWays 15 s)) s)
def execRsndGiveWays (s : State) : Out :=
  .next (issueOf (.rsndInvalidateContext s.cur.x) false
    (rsndGroup 2 (fun _ c s => giveWays (c / 2 ^ 8 % 8) (c / 2 ^ 12 % 16) (c.testBit 16) s)) s)
def execRsndPreset (s : State) : Out :=
  .next (issueOf (.rsndInvalidateContext s.cur.x) false (rsndGroup 3 (fun _ c s => applyPreset (c / 16 % 4) s)) s)
def execRsndEnable (s : State) : Out :=
  .next (issueOf (.rsndInvalidateContext s.cur.x) false
    (rsndGroup 4 (fun ctx c s => enableContext ctx (c.testBit 16) s)) s)

/-! ## RTRC (R329, R330, R332) -/

/-- The index by which a ray names its warp: the block's warp, or the handler window. -/
def rayWarp (cx : Ctx) (s : State) : Nat := if cx.handler then handlerBerth else (s.warp cx.wk).index

/-- The ray in a slot. -/
def rayIn (s : State) (b w l slot : Nat) : Option (Nat × Ray) :=
  s.rays.find? (fun e => e.2.block = b && e.2.warp = w && e.2.lane = l && e.2.slot = slot)

/-- Rays that a core's unit holds. -/
def raysHeld (s : State) (core : Nat) : Nat := (s.rays.filter (fun e => e.2.core = core)).length

/-- RTRC can issue for its active lanes (R329). Reading: log entry 59, DEDUCED. -/
def rayRoom (s : State) (cx : Ctx) (slot : Nat) : Bool :=
  (lanesOf cx.act).all (fun l => (rayIn s (s.blockKey cx) (rayWarp cx s) l slot).isNone) &&
  decide (raysHeld s cx.core + (lanesOf cx.act).length ≤ 1024)

/-- RTRC. -/
def rtrcLanes (cx : Ctx) (s : State) : State :=
  let slot := cx.x.dN - 0x140
  if !rayRoom s cx slot then s
  else
    let root := s.opB cx 0
    let accs : List LaneAcc := (lanesOf cx.act).map (fun l => ⟨l, (root : Int), checkLane s cx 0 64 wantLoad root⟩)
    match accessFault s cx accs with
    | some t => s.raise cx.wk t
    | none =>
      let flags := BitVec.ofNat 32 (s.opC cx 0)
      let pinned := (placesOf accs).foldl (fun s' e => s'.pinPlace e.2) s
      let s1 := (lanesOf cx.act).foldl (fun s' l =>
        let r : Ray :=
          { mode := .waiting, core := cx.core, block := s.blockKey cx, warp := rayWarp cx s, lane := l, slot := slot
            root := BitVec.ofNat 64 root, flags := flags, data := wordsOf 8 (s.opA cx l)
            ctx := (s.blockOf cx).ctx, priv := cx.handler }
        { s' with rays := tput s'.rays s'.fresh r, fresh := s'.fresh + 1 }) pinned
      s1.advance cx

def execRtrc (x : Long) (s : State) : Out := .next (issueOf (.rtrc x) false rtrcLanes s)

/-- A ray is over with a status and a result (R333). -/
def finishRay (id : Nat) (r : Ray) (status : Nat) (h : Option Hit) (s : State) : State :=
  { s with rays := tput s.rays id { r with mode := .final, status := status, result := h, cands := [] } }

/-- A memory failure of a ray is logged (R332). -/
def failRay (id : Nat) (r : Ray) (status : Nat) (va : Option Nat) (s : State) : State :=
  let s := match va with
    | some a =>
      let b := s.block r.block
      s.logError 10 0 (traversalOf r.core) a true b.index r.ctx (if r.warp = handlerBerth then 0 else r.warp)
    | none => s
  finishRay id r status none s

/-- RAY_START (R327, R330, R332): the ray's own values, the root record with its VERSION, and the sounding
table. -/
def startRay (id : Nat) (s : State) : State :=
  match tfind s.rays id with
  | none => s
  | some r =>
    if r.mode ≠ .waiting || s.unacked r.core then s
    else
      match beamOf r.data, decide (r.flags.toNat < 8) with
      | some beam, true =>
        match engineReads s r.core r.ctx r.priv (wordAddrs r.root.toNat 16) with
        | .wait => s
        | .bad va => failRay id r 4 (some va) s
        | .ok ws =>
          match rootOk ws, rootBox ws with
          | true, some (lo, hi) =>
            let key := rayKey beam lo hi
            let look := r.predicted && predicts s r.ctx
            let leaf := if look then
                soundingLookup s (dieOfCore r.core) r.ctx key r.root (lget 0 ws 0) (rootNodes ws)
              else none
            let s := if look then s.count r.core 0x0F 1 else s
            let s := if leaf.isSome then s.count r.core 0x10 1 else s
            { s with rays := tput s.rays id { r with mode := .started, rootWords := ws, key := key, leaf := leaf } }
          | _, _ => finishRay id r 6 none s
      | _, _ => finishRay id r 5 none s

def execRayStart (s : State) : Out := .next (match s.now with | .rayStart id => startRay id s | _ => s)

/-! ## RAY_TRAVERSAL (R323, R324, R327) -/

/-- The predicted leaf's opaque primitives (R327); whatever is wrong with it ends the prediction, and so does a record
that is no leaf of the hierarchy, whose hits would be none of H (R328). Reading: log entry 59, DEDUCED. -/
def predictedHits (e : Env) (leaf : Nat) : Traced (List Hit) :=
  if !leafReached e leaf (travFuel e.root) [(rootTop e.root, false)] [] then .ok []
  else
  match leafPrims e leaf with
  | .wait => .wait
  | .ok (some ps) =>
    let one := fun (acc : Traced (List Hit)) (p : Nat) =>
      match acc with
      | .ok hs =>
        if rootPrims e.root ≤ p then .ok hs
        else
          match testPrimitive e leaf p with
          | .wait => .wait
          | .fail _ _ => .ok hs
          | .ok (some h) => .ok (if h.opaque_ then h :: hs else hs)
          | .ok none => .ok hs
      | a => a
    ps.foldl one (.ok [])
  | _ => .ok []

/-- What a ray reads. -/
def rayEnv (s : State) (r : Ray) (beam : Beam) : Env where
  read := engineReads s r.core r.ctx r.priv
  beam := beam
  data := r.data
  root := r.rootWords
  solid := r.flags.getLsbD 1
  noAny := r.flags.getLsbD 2

/-- Candidates in ascending order. -/
def insertHit (h : Hit) : List Hit → List Hit
  | [] => [h]
  | x :: xs => if h.below x then h :: x :: xs else x :: insertHit h xs

/-- A ray with no candidate left ends (R323), and its closest hit is remembered (R327). -/
def endRay (id : Nat) (r : Ray) (s : State) : State :=
  match r.closest with
  | some h => writeSounding r h (finishRay id r 1 (some h) s)
  | none => finishRay id r 0 none s

/-- The results of a traversal (R323). -/
def settleRay (id : Nat) (r : Ray) (t : Trav) (s : State) : State :=
  let cands := (t.hits.filter (fun h => !h.opaque_ &&
    (match t.bound with | some b => h.below b | none => true))).foldl (fun acc h => insertHit h acc) []
  let r := { r with closest := t.bound, cands := cands, mode := .candidate }
  if cands.isEmpty then endRay id r s else { s with rays := tput s.rays id r }

/-- RAY_TRAVERSAL. -/
def traverseRay (id : Nat) (s : State) : State :=
  match tfind s.rays id with
  | none => s
  | some r =>
    match r.mode, beamOf r.data with
    | .started, some beam =>
      let e := rayEnv s r beam
      let start := match r.leaf with | some l => predictedHits e l | none => .ok []
      match start with
      | .wait => s
      | .fail _ _ => s
      | .ok hs =>
        let t : Trav := { wait := [⟨rootTop r.rootWords, false, .none⟩], bound := hs.foldl boundWith .none }
        match traverse e (travFuel r.rootWords) t with
        | .wait => s
        | .fail status va => failRay id r status va s
        | .ok t => settleRay id r t s
    | _, _ => s

def execRayTraversal (s : State) : Out := .next (match s.now with | .rayTraversal id => traverseRay id s | _ => s)

/-! ## RRES, RAHC and RBVER (R333, R334, R336) -/

/-- The five words of a result. -/
def resultWords (status count : Nat) (h : Option Hit) : List Word :=
  match h with
  | some h =>
    [h.tWord, BitVec.ofNat 32 h.prim, h.u, h.v,
      BitVec.ofNat 32 (min count 0xFFFF * 2 ^ 16 + (if h.front then 2 ^ 6 else 0) + h.kind * 2 ^ 4 + status)]
  | none => [0, 0xFFFFFFFF, 0, 0, BitVec.ofNat 32 (min count 0xFFFF * 2 ^ 16 + status)]

/-- RRES: each lane's words land when its slot has something to say, an idle slot's at once. -/
def rresLanes (cx : Ctx) (s : State) : State :=
  let slot := cx.x.aN - 0x140
  let w := s.warp cx.wk
  let words := fun (l : Nat) => landings cx w cx.x.dN 5 l (ofWords (resultWords 15 0 none)) false
  let s1 := (lanesOf cx.act).foldl (fun s' l =>
    if (rayIn s (s.blockKey cx) (rayWarp cx s) l slot).isSome then
      s'.produce { cx with act := maskOf (fun j => j = l) } .rres 0 (words l) 0 slot
    else s'.landAll (words l)) s
  s1.advance cx

def execRres (x : Long) (s : State) : Out := .next (issueOf (.rres x) false rresLanes s)

/-- The words of a pending RRES land (R333): a candidate is handed over, a final status frees the slot. -/
def answerRres (k : Nat) (p : Prod) (s : State) : State :=
  let w := s.warp p.warp
  let index := if p.warp % 128 = handlerBerth then handlerBerth else w.index
  let land := fun (ws : List Word) (s : State) =>
    State.landProd { s with prods := tput s.prods k { p with
      words := (p.words.zip ws).map (fun e => { e.1 with value := e.2 }) } } k
  match rayIn s w.block index (lowestLane p.lanes) p.arg with
  | none => land (resultWords 15 0 none) s
  | some (id, r) =>
    match r.mode with
    | .candidate =>
      let n := if r.handed then r.count else r.count + 1
      let s := if r.handed then s else s.count r.core 0x11 1
      land (resultWords 2 n r.cands.head?) { s with rays := tput s.rays id { r with count := n, handed := true } }
    | .final => land (resultWords r.status r.count r.result) { s with rays := tdel s.rays id }
    | _ => s

/-- RAHC's decision on a ray that holds a candidate. -/
def decideRay (id : Nat) (r : Ray) (commit : Bool) (s : State) : State :=
  if commit then finishRay id r 3 r.cands.head? s
  else
    let r := { r with cands := r.cands.drop 1, handed := false }
    if r.cands.isEmpty then endRay id r s else { s with rays := tput s.rays id r }

/-- RAHC. -/
def rahcLanes (cx : Ctx) (s : State) : State :=
  let slot := cx.x.aN - 0x140
  let held := fun (l : Nat) => (rayIn s (s.blockKey cx) (rayWarp cx s) l slot).filter (fun e => e.2.mode = .candidate)
  let bad := maskOf (fun l => cx.act.getLsbD l && (held l).isNone)
  if bad ≠ 0 then s.raise cx.wk (s.trapOf cx .permission 6 bad 0)
  else
    ((lanesOf cx.act).foldl (fun s' l =>
      match held l with
      | some (id, r) => decideRay id r ((s.opB cx l).testBit 0) s'
      | none => s') s).advance cx

def execRahc (x : Long) (s : State) : Out := .next (issueOf (.rahc x) false rahcLanes s)

/-- The increment of a VERSION at its home; through a window the value, or the failure, is the other package's (log
entry 7). -/
def raiseVersion (cx : Ctx) (p : Phys) (va : Nat) (s : State) : State :=
  let s := s.takePin p
  let pw := p.pa / 4
  let finish := fun (v : Word) (s : State) => (s.putUniform cx 1 v.toNat).advance cx
  if regionOf p.pa = .fabric then
    let (old, t) := (s.sendNative p.pa 0 4 0 1).farOld 4
    let (r, t) := t.takeFree
    match r.toNat % 4 with
    | 2 => t.raise cx.wk (t.trapOf cx .poison 1 cx.act (BitVec.ofNat 64 va))
    | 3 => t.raise cx.wk { t.trapOf cx .ownerLost 0 cx.act (BitVec.ofNat 64 va) with own := r, ownTick := t.tick }
    | _ => finish (BitVec.ofNat 32 (old + 1)) t
  else if s.lineLocked (pw / 32) || (s.near_ cx.core pw).reqPend then s
  else
    match issueRead s cx va p.pa with
    | .inr t => s.raise cx.wk t
    | .inl (.ok v) =>
      finish (v + 1) (if s.direct p then s.homePut pw (v + 1) false else s.writeHome cx.core pw (v + 1))
    | .inl _ => s

/-- RBVER: the release is eligibility. -/
def rbverGroup (cx : Ctx) (s : State) : State :=
  let a := s.opA cx 0
  let cx0 := { cx with x := { cx.x with mods := 0 } }
  access cx0 s true true 64 none [⟨0, (a : Int), checkLane s cx 0 64 wantAtomic a⟩] (fun ps =>
    match ps with
    | (_, .glob p va) :: _ => raiseVersion cx p va s
    | _ => s)

def execRbver (x : Long) (s : State) : Out := .next (issueOf (.rbver x) false rbverGroup s)

/-! ## PRODUCER_RESULT_ARRIVAL (R26) -/

/-- A pending result of a producer with no event of its own arrives: of MNEXT at any time, of RRES, SQPOP and
LCLK when what they wait for is there. A MACC whose words are still to come lands by the same event. -/
def resultArrival (k : Nat) (s : State) : State :=
  match tfind s.prods k, tfind s.txns k with
  | some p, _ =>
    match p.kind with
    | .mnext => s.landProd k
    | .grprd => answerGrprd k p s
    | .lclk => answerLclk k p s
    | .rres => answerRres k p s
    | .sqpop => if tileWritten s p then s.landProd k else s
    | .sfu => s
    | .shfl => s
    | .pcrd => s
  | none, some t => if t.kind = .macc then arriveMacc k t s else s
  | none, none => s

def execProducerResultArrival (s : State) : Out :=
  .next (match s.now with | .producerResultArrival k => resultArrival k s | _ => s)

end Sys2Proof.Machine
end

