-- ==== Sys2Proof/Machine/Sfu.lean ====
section
/-! DEFINITION. The special-function unit (R105 to R107): results land later. One definition per instruction. -/

namespace Sys2Proof.Machine

/-- RCP (R105): the rounding code stands in field C. -/
def execRcp (x : Long) (s : State) : Out :=
  .next (computeLate (.rcp x) (drawsOf (rmodeOf x.cN) 1) (fun v => resOut (sfuFloat .rcp (fmtOfFloat x.tN) (rmodeOf x.cN) v.r0 v.a)) s)

/-- RSQ (R105): the rounding code stands in field C. -/
def execRsq (x : Long) (s : State) : Out :=
  .next (computeLate (.rsq x) (drawsOf (rmodeOf x.cN) 1) (fun v => resOut (sfuFloat .rsq (fmtOfFloat x.tN) (rmodeOf x.cN) v.r0 v.a)) s)

/-- SQRT (R105): the rounding code stands in field C. -/
def execSqrt (x : Long) (s : State) : Out :=
  .next (computeLate (.sqrt x) (drawsOf (rmodeOf x.cN) 1) (fun v => resOut (sfuFloat .sqrt (fmtOfFloat x.tN) (rmodeOf x.cN) v.r0 v.a)) s)

/-- EXP2 (R105): the rounding code stands in field C. -/
def execExp2 (x : Long) (s : State) : Out :=
  .next (computeLate (.exp2 x) (drawsOf (rmodeOf x.cN) 1) (fun v => resOut (sfuFloat .exp2 (fmtOfFloat x.tN) (rmodeOf x.cN) v.r0 v.a)) s)

/-- LOG2 (R105): the rounding code stands in field C. -/
def execLog2 (x : Long) (s : State) : Out :=
  .next (computeLate (.log2 x) (drawsOf (rmodeOf x.cN) 1) (fun v => resOut (sfuFloat .log2 (fmtOfFloat x.tN) (rmodeOf x.cN) v.r0 v.a)) s)

/-- SIN (R105): the rounding code stands in field C. -/
def execSin (x : Long) (s : State) : Out :=
  .next (computeLate (.sin x) (drawsOf (rmodeOf x.cN) 1) (fun v => resOut (sfuFloat .sin (fmtOfFloat x.tN) (rmodeOf x.cN) v.r0 v.a)) s)

/-- COS (R105): the rounding code stands in field C. -/
def execCos (x : Long) (s : State) : Out :=
  .next (computeLate (.cos x) (drawsOf (rmodeOf x.cN) 1) (fun v => resOut (sfuFloat .cos (fmtOfFloat x.tN) (rmodeOf x.cN) v.r0 v.a)) s)

/-- TANH (R105): the rounding code stands in field C. -/
def execTanh (x : Long) (s : State) : Out :=
  .next (computeLate (.tanh x) (drawsOf (rmodeOf x.cN) 1) (fun v => resOut (sfuFloat .tanh (fmtOfFloat x.tN) (rmodeOf x.cN) v.r0 v.a)) s)

/-- IDIV (R106). -/
def execIdiv (x : Long) (s : State) : Out :=
  .next (computeLate (.idiv x) 0 (fun v => resOut (intDiv false (typeOf x) v.a v.b)) s)

/-- IREM (R106). -/
def execIrem (x : Long) (s : State) : Out :=
  .next (computeLate (.irem x) 0 (fun v => resOut (intDiv true (typeOf x) v.a v.b)) s)

end Sys2Proof.Machine
end

