-- ==== Sys2Proof/Machine/Dispatch.lean ====
section
/-! DEFINITION. The meaning of every row of the opcode table: one arm per constructor. -/

namespace Sys2Proof.Machine

def exec (i : Instr) (s : State) : Host.Outcome State Fault Refusal :=
  match i with
  | .pair x => Sys2Proof.Machine.execPair x s
  | .iadd x => Sys2Proof.Machine.execIadd x s
  | .isub x => Sys2Proof.Machine.execIsub x s
  | .imul x => Sys2Proof.Machine.execImul x s
  | .imulh x => Sys2Proof.Machine.execImulh x s
  | .imad x => Sys2Proof.Machine.execImad x s
  | .imadw x => Sys2Proof.Machine.execImadw x s
  | .isad x => Sys2Proof.Machine.execIsad x s
  | .iabs x => Sys2Proof.Machine.execIabs x s
  | .ineg x => Sys2Proof.Machine.execIneg x s
  | .imin x => Sys2Proof.Machine.execImin x s
  | .imax x => Sys2Proof.Machine.execImax x s
  | .iclamp x => Sys2Proof.Machine.execIclamp x s
  | .iaddc x => Sys2Proof.Machine.execIaddc x s
  | .isubb x => Sys2Proof.Machine.execIsubb x s
  | .and x => Sys2Proof.Machine.execAnd x s
  | .or x => Sys2Proof.Machine.execOr x s
  | .xor x => Sys2Proof.Machine.execXor x s
  | .not x => Sys2Proof.Machine.execNot x s
  | .shl x => Sys2Proof.Machine.execShl x s
  | .shrl x => Sys2Proof.Machine.execShrl x s
  | .shra x => Sys2Proof.Machine.execShra x s
  | .rotl x => Sys2Proof.Machine.execRotl x s
  | .lop hi x => Sys2Proof.Machine.execLop hi x s
  | .funnel x => Sys2Proof.Machine.execFunnel x s
  | .popc x => Sys2Proof.Machine.execPopc x s
  | .clz x => Sys2Proof.Machine.execClz x s
  | .ctz x => Sys2Proof.Machine.execCtz x s
  | .brev x => Sys2Proof.Machine.execBrev x s
  | .bfx x => Sys2Proof.Machine.execBfx x s
  | .bfi x => Sys2Proof.Machine.execBfi x s
  | .bfm x => Sys2Proof.Machine.execBfm x s
  | .prmb x => Sys2Proof.Machine.execPrmb x s
  | .icmp x => Sys2Proof.Machine.execIcmp x s
  | .fcmp x => Sys2Proof.Machine.execFcmp x s
  | .sel x => Sys2Proof.Machine.execSel x s
  | .cset x => Sys2Proof.Machine.execCset x s
  | .pset x => Sys2Proof.Machine.execPset x s
  | .lea x => Sys2Proof.Machine.execLea x s
  | .leaw x => Sys2Proof.Machine.execLeaw x s
  | .mov x => Sys2Proof.Machine.execMov x s
  | .movl x => Sys2Proof.Machine.execMovl x s
  | .movs x => Sys2Proof.Machine.execMovs x s
  | .sets x => Sys2Proof.Machine.execSets x s
  | .pmovToRegister x => Sys2Proof.Machine.execPmovToRegister x s
  | .pmovToPredicates x => Sys2Proof.Machine.execPmovToPredicates x s
  | .flgrd x => Sys2Proof.Machine.execFlgrd x s
  | .flgclr x => Sys2Proof.Machine.execFlgclr x s
  | .rng x => Sys2Proof.Machine.execRng x s
  | .rngseed x => Sys2Proof.Machine.execRngseed x s
  | .fadd x => Sys2Proof.Machine.execFadd x s
  | .fsub x => Sys2Proof.Machine.execFsub x s
  | .fmul x => Sys2Proof.Machine.execFmul x s
  | .ffma x => Sys2Proof.Machine.execFfma x s
  | .fmin x => Sys2Proof.Machine.execFmin x s
  | .fmax x => Sys2Proof.Machine.execFmax x s
  | .fclamp x => Sys2Proof.Machine.execFclamp x s
  | .frnd x => Sys2Proof.Machine.execFrnd x s
  | .ffrac x => Sys2Proof.Machine.execFfrac x s
  | .fscale x => Sys2Proof.Machine.execFscale x s
  | .fexpo x => Sys2Proof.Machine.execFexpo x s
  | .fclass x => Sys2Proof.Machine.execFclass x s
  | .fneg x => Sys2Proof.Machine.execFneg x s
  | .cvt x => Sys2Proof.Machine.execCvt x s
  | .cvts x => Sys2Proof.Machine.execCvts x s
  | .pack x => Sys2Proof.Machine.execPack x s
  | .unpk x => Sys2Proof.Machine.execUnpk x s
  | .scenc x => Sys2Proof.Machine.execScenc x s
  | .scdec x => Sys2Proof.Machine.execScdec x s
  | .rcp x => Sys2Proof.Machine.execRcp x s
  | .rsq x => Sys2Proof.Machine.execRsq x s
  | .sqrt x => Sys2Proof.Machine.execSqrt x s
  | .exp2 x => Sys2Proof.Machine.execExp2 x s
  | .log2 x => Sys2Proof.Machine.execLog2 x s
  | .sin x => Sys2Proof.Machine.execSin x s
  | .cos x => Sys2Proof.Machine.execCos x s
  | .tanh x => Sys2Proof.Machine.execTanh x s
  | .idiv x => Sys2Proof.Machine.execIdiv x s
  | .irem x => Sys2Proof.Machine.execIrem x s
  | .bra x => Sys2Proof.Machine.execBra x s
  | .brx x => Sys2Proof.Machine.execBrx x s
  | .call x => Sys2Proof.Machine.execCall x s
  | .callx x => Sys2Proof.Machine.execCallx x s
  | .ret x => Sys2Proof.Machine.execRet x s
  | .exit x => Sys2Proof.Machine.execExit x s
  | .nop x => Sys2Proof.Machine.execNop x s
  | .yield x => Sys2Proof.Machine.execYield x s
  | .safe x => Sys2Proof.Machine.execSafe x s
  | .trap x => Sys2Proof.Machine.execTrap x s
  | .bkpt x => Sys2Proof.Machine.execBkpt x s
  | .sleep x => Sys2Proof.Machine.execSleep x s
  | .wake x => Sys2Proof.Machine.execWake x s
  | .tkwait x => Sys2Proof.Machine.execTkwait x s
  | .vote x => Sys2Proof.Machine.execVote x s
  | .shfl x => Sys2Proof.Machine.execShfl x s
  | .redux x => Sys2Proof.Machine.execRedux x s
  | .scan x => Sys2Proof.Machine.execScan x s
  | .matchLanes x => Sys2Proof.Machine.execMatchLanes x s
  | .partset x => Sys2Proof.Machine.execPartset x s
  | .elect x => Sys2Proof.Machine.execElect x s
  | .lmask x => Sys2Proof.Machine.execLmask x s
  | .ld x => Sys2Proof.Machine.execLd x s
  | .ldu x => Sys2Proof.Machine.execLdu x s
  | .ldt x => Sys2Proof.Machine.execLdt x s
  | .st x => Sys2Proof.Machine.execSt x s
  | .stt x => Sys2Proof.Machine.execStt x s
  | .gath x => Sys2Proof.Machine.execGath x s
  | .scat x => Sys2Proof.Machine.execScat x s
  | .atom x => Sys2Proof.Machine.execAtom x s
  | .red x => Sys2Proof.Machine.execRed x s
  | .cas x => Sys2Proof.Machine.execCas x s
  | .fence x => Sys2Proof.Machine.execFence x s
  | .invr x => Sys2Proof.Machine.execInvr x s
  | .inva x => Sys2Proof.Machine.execInva x s
  | .wbr x => Sys2Proof.Machine.execWbr x s
  | .regr x => Sys2Proof.Machine.execRegr x s
  | .pref x => Sys2Proof.Machine.execPref x s
  | .dalloc x => Sys2Proof.Machine.execDalloc x s
  | .dfree x => Sys2Proof.Machine.execDfree x s
  | .copy x => Sys2Proof.Machine.execCopy x s
  | .copyt x => Sys2Proof.Machine.execCopyt x s
  | .copyl x => Sys2Proof.Machine.execCopyl x s
  | .collAllReduce x => Sys2Proof.Machine.execCollAllReduce x s
  | .collReduceScatter x => Sys2Proof.Machine.execCollReduceScatter x s
  | .collAllGather x => Sys2Proof.Machine.execCollAllGather x s
  | .collAllToAll x => Sys2Proof.Machine.execCollAllToAll x s
  | .fput x => Sys2Proof.Machine.execFput x s
  | .fget x => Sys2Proof.Machine.execFget x s
  | .fatom x => Sys2Proof.Machine.execFatom x s
  | .mma x => Sys2Proof.Machine.execMma x s
  | .mmaBmp x => Sys2Proof.Machine.execMmaBmp x s
  | .mmas x => Sys2Proof.Machine.execMmas x s
  | .mcmp x => Sys2Proof.Machine.execMcmp x s
  | .mbmp x => Sys2Proof.Machine.execMbmp x s
  | .macc x => Sys2Proof.Machine.execMacc x s
  | .mclr x => Sys2Proof.Machine.execMclr x s
  | .mstep x => Sys2Proof.Machine.execMstep x s
  | .mstepSet x => Sys2Proof.Machine.execMstepSet x s
  | .mtok x => Sys2Proof.Machine.execMtok x s
  | .mins x => Sys2Proof.Machine.execMins x s
  | .mrem x => Sys2Proof.Machine.execMrem x s
  | .mdev x => Sys2Proof.Machine.execMdev x s
  | .mcnt x => Sys2Proof.Machine.execMcnt x s
  | .mopen x => Sys2Proof.Machine.execMopen x s
  | .mnext x => Sys2Proof.Machine.execMnext x s
  | .mclose x => Sys2Proof.Machine.execMclose x s
  | .sqpush x => Sys2Proof.Machine.execSqpush x s
  | .sqpop x => Sys2Proof.Machine.execSqpop x s
  | .sqflush x => Sys2Proof.Machine.execSqflush x s
  | .rtrc x => Sys2Proof.Machine.execRtrc x s
  | .rres x => Sys2Proof.Machine.execRres x s
  | .rahc x => Sys2Proof.Machine.execRahc x s
  | .rsndInvalidateContext x => Sys2Proof.Machine.execRsndInvalidateContext x s
  | .rbver x => Sys2Proof.Machine.execRbver x s
  | .bar x => Sys2Proof.Machine.execBar x s
  | .dcinc x => Sys2Proof.Machine.execDcinc x s
  | .dcdec x => Sys2Proof.Machine.execDcdec x s
  | .dcwait x => Sys2Proof.Machine.execDcwait x s
  | .boinit x => Sys2Proof.Machine.execBoinit x s
  | .boarrv x => Sys2Proof.Machine.execBoarrv x s
  | .bowait x => Sys2Proof.Machine.execBowait x s
  | .botest x => Sys2Proof.Machine.execBotest x s
  | .fix x => Sys2Proof.Machine.execFix x s
  | .tickrd x => Sys2Proof.Machine.execTickrd x s
  | .lclk x => Sys2Proof.Machine.execLclk x s
  | .pcsel x => Sys2Proof.Machine.execPcsel x s
  | .pcrd x => Sys2Proof.Machine.execPcrd x s
  | .tretRetry x => Sys2Proof.Machine.execTretRetry x s
  | .tretSkip x => Sys2Proof.Machine.execTretSkip x s
  | .tretHold x => Sys2Proof.Machine.execTretHold x s
  | .tretDiscard x => Sys2Proof.Machine.execTretDiscard x s
  | .grpctlQuery x => Sys2Proof.Machine.execGrpctlQuery x s
  | .grprd x => Sys2Proof.Machine.execGrprd x s
  | .grpwr x => Sys2Proof.Machine.execGrpwr x s
  | .ctxsv x => Sys2Proof.Machine.execCtxsv x s
  | .ctxld x => Sys2Proof.Machine.execCtxld x s
  | .sysrd x => Sys2Proof.Machine.execSysrd x s
  | .syswr x => Sys2Proof.Machine.execSyswr x s
  | .launch x => Sys2Proof.Machine.execLaunch x s
  | .iaddShort x => Sys2Proof.Machine.execIaddShort x s
  | .isubShort x => Sys2Proof.Machine.execIsubShort x s
  | .imulShort x => Sys2Proof.Machine.execImulShort x s
  | .imulhI32Short x => Sys2Proof.Machine.execImulhI32Short x s
  | .imulhN32Short x => Sys2Proof.Machine.execImulhN32Short x s
  | .iminI32Short x => Sys2Proof.Machine.execIminI32Short x s
  | .imaxI32Short x => Sys2Proof.Machine.execImaxI32Short x s
  | .iminN32Short x => Sys2Proof.Machine.execIminN32Short x s
  | .imaxN32Short x => Sys2Proof.Machine.execImaxN32Short x s
  | .iaddSatI32Short x => Sys2Proof.Machine.execIaddSatI32Short x s
  | .isubSatI32Short x => Sys2Proof.Machine.execIsubSatI32Short x s
  | .iabsShort x => Sys2Proof.Machine.execIabsShort x s
  | .inegShort x => Sys2Proof.Machine.execInegShort x s
  | .iaddSatN32Short x => Sys2Proof.Machine.execIaddSatN32Short x s
  | .isubSatN32Short x => Sys2Proof.Machine.execIsubSatN32Short x s
  | .movShort x => Sys2Proof.Machine.execMovShort x s
  | .andShort x => Sys2Proof.Machine.execAndShort x s
  | .orShort x => Sys2Proof.Machine.execOrShort x s
  | .xorShort x => Sys2Proof.Machine.execXorShort x s
  | .notShort x => Sys2Proof.Machine.execNotShort x s
  | .shlShort x => Sys2Proof.Machine.execShlShort x s
  | .shrlShort x => Sys2Proof.Machine.execShrlShort x s
  | .shraShort x => Sys2Proof.Machine.execShraShort x s
  | .rotlShort x => Sys2Proof.Machine.execRotlShort x s
  | .popcShort x => Sys2Proof.Machine.execPopcShort x s
  | .clzShort x => Sys2Proof.Machine.execClzShort x s
  | .ctzShort x => Sys2Proof.Machine.execCtzShort x s
  | .brevShort x => Sys2Proof.Machine.execBrevShort x s
  | .frndShort x => Sys2Proof.Machine.execFrndShort x s
  | .ffracShort x => Sys2Proof.Machine.execFfracShort x s
  | .fexpoShort x => Sys2Proof.Machine.execFexpoShort x s
  | .fscaleShort x => Sys2Proof.Machine.execFscaleShort x s
  | .faddShort x => Sys2Proof.Machine.execFaddShort x s
  | .fsubShort x => Sys2Proof.Machine.execFsubShort x s
  | .fmulShort x => Sys2Proof.Machine.execFmulShort x s
  | .fminShort x => Sys2Proof.Machine.execFminShort x s
  | .fmaxShort x => Sys2Proof.Machine.execFmaxShort x s
  | .fnegShort x => Sys2Proof.Machine.execFnegShort x s
  | .faddRzShort x => Sys2Proof.Machine.execFaddRzShort x s
  | .fmulRzShort x => Sys2Proof.Machine.execFmulRzShort x s
  | .faddH2Short x => Sys2Proof.Machine.execFaddH2Short x s
  | .fsubH2Short x => Sys2Proof.Machine.execFsubH2Short x s
  | .fmulH2Short x => Sys2Proof.Machine.execFmulH2Short x s
  | .fminH2Short x => Sys2Proof.Machine.execFminH2Short x s
  | .fmaxH2Short x => Sys2Proof.Machine.execFmaxH2Short x s
  | .faddG2Short x => Sys2Proof.Machine.execFaddG2Short x s
  | .fmulG2Short x => Sys2Proof.Machine.execFmulG2Short x s
  | .fnegH2Short x => Sys2Proof.Machine.execFnegH2Short x s
  | .cvtF32I32Short x => Sys2Proof.Machine.execCvtF32I32Short x s
  | .cvtI32F32Short x => Sys2Proof.Machine.execCvtI32F32Short x s
  | .cvtF32N32Short x => Sys2Proof.Machine.execCvtF32N32Short x s
  | .cvtN32F32Short x => Sys2Proof.Machine.execCvtN32F32Short x s
  | .cvtF32F16Short x => Sys2Proof.Machine.execCvtF32F16Short x s
  | .cvtF16F32Short x => Sys2Proof.Machine.execCvtF16F32Short x s
  | .cvtF32Bf16Short x => Sys2Proof.Machine.execCvtF32Bf16Short x s
  | .cvtBf16F32Short x => Sys2Proof.Machine.execCvtBf16F32Short x s
  | .leaS1Short x => Sys2Proof.Machine.execLeaS1Short x s
  | .leaS2Short x => Sys2Proof.Machine.execLeaS2Short x s
  | .leaS3Short x => Sys2Proof.Machine.execLeaS3Short x s
  | .leaS4Short x => Sys2Proof.Machine.execLeaS4Short x s
  | .nopShort => Sys2Proof.Machine.execNopShort s
  | .rsndInvalidateAll => Sys2Proof.Machine.execRsndInvalidateAll s
  | .rsndGiveWays => Sys2Proof.Machine.execRsndGiveWays s
  | .rsndPreset => Sys2Proof.Machine.execRsndPreset s
  | .rsndEnable => Sys2Proof.Machine.execRsndEnable s
  | .grpctlStop => Sys2Proof.Machine.execGrpctlStop s
  | .grpctlResume => Sys2Proof.Machine.execGrpctlResume s
  | .grpctlStep => Sys2Proof.Machine.execGrpctlStep s
  | .grpctlExit => Sys2Proof.Machine.execGrpctlExit s
  | .reset => Sys2Proof.Machine.execReset s
  | .unitFence => Sys2Proof.Machine.execUnitFence s
  | .scrub => Sys2Proof.Machine.execScrub s
  | .takeRecord => Sys2Proof.Machine.execTakeRecord s
  | .blockPlacement => Sys2Proof.Machine.execBlockPlacement s
  | .gangReservation => Sys2Proof.Machine.execGangReservation s
  | .gangReservationPreempt => Sys2Proof.Machine.execGangReservationPreempt s
  | .deadlineDecision => Sys2Proof.Machine.execDeadlineDecision s
  | .quantumEnd => Sys2Proof.Machine.execQuantumEnd s
  | .preemptionSave => Sys2Proof.Machine.execPreemptionSave s
  | .blockResume => Sys2Proof.Machine.execBlockResume s
  | .launchCompletion => Sys2Proof.Machine.execLaunchCompletion s
  | .preemptRequest => Sys2Proof.Machine.execPreemptRequest s
  | .resumeRequest => Sys2Proof.Machine.execResumeRequest s
  | .trapEntry => Sys2Proof.Machine.execTrapEntry s
  | .watchdog => Sys2Proof.Machine.execWatchdog s
  | .debugHalt => Sys2Proof.Machine.execDebugHalt s
  | .shutterStop => Sys2Proof.Machine.execShutterStop s
  | .shutterArm => Sys2Proof.Machine.execShutterArm s
  | .shutterResume => Sys2Proof.Machine.execShutterResume s
  | .sleepLimitExpiry => Sys2Proof.Machine.execSleepLimitExpiry s
  | .corePowerGate => Sys2Proof.Machine.execCorePowerGate s
  | .coreWake => Sys2Proof.Machine.execCoreWake s
  | .joinRelease => Sys2Proof.Machine.execJoinRelease s
  | .loadDataArrival => Sys2Proof.Machine.execLoadDataArrival s
  | .sfuResultLanding => Sys2Proof.Machine.execSfuResultLanding s
  | .shflResultLanding => Sys2Proof.Machine.execShflResultLanding s
  | .barrierRelease => Sys2Proof.Machine.execBarrierRelease s
  | .fixPointApply => Sys2Proof.Machine.execFixPointApply s
  | .read => Sys2Proof.Machine.execRead s
  | .reg => Sys2Proof.Machine.execReg s
  | .wb => Sys2Proof.Machine.execWb s
  | .homeAtomic => Sys2Proof.Machine.execHomeAtomic s
  | .drop => Sys2Proof.Machine.execDrop s
  | .ack => Sys2Proof.Machine.execAck s
  | .fillData => Sys2Proof.Machine.execFillData s
  | .fwd => Sys2Proof.Machine.execFwd s
  | .xfer => Sys2Proof.Machine.execXfer s
  | .recall => Sys2Proof.Machine.execRecall s
  | .wbAck => Sys2Proof.Machine.execWbAck s
  | .eviction => Sys2Proof.Machine.execEviction s
  | .forwardTimerExpiry => Sys2Proof.Machine.execForwardTimerExpiry s
  | .sleepBitBroadcast => Sys2Proof.Machine.execSleepBitBroadcast s
  | .engineWriteback => Sys2Proof.Machine.execEngineWriteback s
  | .translationWalk => Sys2Proof.Machine.execTranslationWalk s
  | .matrixStep => Sys2Proof.Machine.execMatrixStep s
  | .matrixCompletion => Sys2Proof.Machine.execMatrixCompletion s
  | .matrixAutoRestart => Sys2Proof.Machine.execMatrixAutoRestart s
  | .pilotTokenCapture => Sys2Proof.Machine.execPilotTokenCapture s
  | .pilotTokenRelease => Sys2Proof.Machine.execPilotTokenRelease s
  | .multicastTimeout => Sys2Proof.Machine.execMulticastTimeout s
  | .develop => Sys2Proof.Machine.execDevelop s
  | .developCompletion => Sys2Proof.Machine.execDevelopCompletion s
  | .copyAtRelease => Sys2Proof.Machine.execCopyAtRelease s
  | .copyStart => Sys2Proof.Machine.execCopyStart s
  | .copyCompletion => Sys2Proof.Machine.execCopyCompletion s
  | .portGrant => Sys2Proof.Machine.execPortGrant s
  | .assistAtomic => Sys2Proof.Machine.execAssistAtomic s
  | .lockResend => Sys2Proof.Machine.execLockResend s
  | .collChunk => Sys2Proof.Machine.execCollChunk s
  | .collPeerTimeout => Sys2Proof.Machine.execCollPeerTimeout s
  | .collAbort => Sys2Proof.Machine.execCollAbort s
  | .collCompletion => Sys2Proof.Machine.execCollCompletion s
  | .safelightHold => Sys2Proof.Machine.execSafelightHold s
  | .safelightRelease => Sys2Proof.Machine.execSafelightRelease s
  | .holdLimitExpiry => Sys2Proof.Machine.execHoldLimitExpiry s
  | .rayStart => Sys2Proof.Machine.execRayStart s
  | .rayTraversal => Sys2Proof.Machine.execRayTraversal s
  | .dependenceCounterChange => Sys2Proof.Machine.execDependenceCounterChange s
  | .barrierObjectUpdate => Sys2Proof.Machine.execBarrierObjectUpdate s
  | .perfCounterSelectEffect => Sys2Proof.Machine.execPerfCounterSelectEffect s
  | .perfCounterLatch => Sys2Proof.Machine.execPerfCounterLatch s
  | .tracerSample => Sys2Proof.Machine.execTracerSample s
  | .replayRecord => Sys2Proof.Machine.execReplayRecord s
  | .ptpEventMessage => Sys2Proof.Machine.execPtpEventMessage s
  | .ptpGeneralMessage => Sys2Proof.Machine.execPtpGeneralMessage s
  | .ptpMeasurement => Sys2Proof.Machine.execPtpMeasurement s
  | .tkctlStep => Sys2Proof.Machine.execTkctlStep s
  | .throttleStepUp => Sys2Proof.Machine.execThrottleStepUp s
  | .throttleStepDown => Sys2Proof.Machine.execThrottleStepDown s
  | .thermalTrip => Sys2Proof.Machine.execThermalTrip s
  | .tamperAlarm => Sys2Proof.Machine.execTamperAlarm s
  | .laneRetrain => Sys2Proof.Machine.execLaneRetrain s
  | .inboundRead => Sys2Proof.Machine.execInboundRead s
  | .inboundWrite => Sys2Proof.Machine.execInboundWrite s
  | .inboundAtomic => Sys2Proof.Machine.execInboundAtomic s
  | .mgmtRegisterAccess => Sys2Proof.Machine.execMgmtRegisterAccess s
  | .mgmtCounterWrite => Sys2Proof.Machine.execMgmtCounterWrite s
  | .dacdataRead => Sys2Proof.Machine.execDacdataRead s
  | .dacdataWrite => Sys2Proof.Machine.execDacdataWrite s
  | .dacctlQuery => Sys2Proof.Machine.execDacctlQuery s
  | .dacctlStop => Sys2Proof.Machine.execDacctlStop s
  | .dacctlResume => Sys2Proof.Machine.execDacctlResume s
  | .dacctlStep => Sys2Proof.Machine.execDacctlStep s
  | .dacctlExit => Sys2Proof.Machine.execDacctlExit s
  | .linkHold => Sys2Proof.Machine.execLinkHold s
  | .linkRelease => Sys2Proof.Machine.execLinkRelease s
  | .linkStatus => Sys2Proof.Machine.execLinkStatus s
  | .biasFlipToHost => Sys2Proof.Machine.execBiasFlipToHost s
  | .biasFlipToDevice => Sys2Proof.Machine.execBiasFlipToDevice s
  | .biasAckTimeout => Sys2Proof.Machine.execBiasAckTimeout s
  | .mtkcfgWrite => Sys2Proof.Machine.execMtkcfgWrite s
  | .xlrootWrite => Sys2Proof.Machine.execXlrootWrite s
  | .xlinvPage => Sys2Proof.Machine.execXlinvPage s
  | .xlinvContext => Sys2Proof.Machine.execXlinvContext s
  | .xlinvAll => Sys2Proof.Machine.execXlinvAll s
  | .rpctlWrite => Sys2Proof.Machine.execRpctlWrite s
  | .trctlWrite => Sys2Proof.Machine.execTrctlWrite s
  | .elctlWrite => Sys2Proof.Machine.execElctlWrite s
  | .mailboxAttest => Sys2Proof.Machine.execMailboxAttest s
  | .mailboxUnlock => Sys2Proof.Machine.execMailboxUnlock s
  | .systemRegisterWrite => Sys2Proof.Machine.execSystemRegisterWrite s
  | .producerResultArrival => Sys2Proof.Machine.execProducerResultArrival s
  | .sqpushRowsWritten => Sys2Proof.Machine.execSqpushRowsWritten s
  | .biasHostAcknowledge => Sys2Proof.Machine.execBiasHostAcknowledge s
  | .lineLockRequest => Sys2Proof.Machine.execLineLockRequest s
  | .lineUnlock => Sys2Proof.Machine.execLineUnlock s
  | .measurementsMissed => Sys2Proof.Machine.execMeasurementsMissed s
  | .recoveryImageLoad => Sys2Proof.Machine.execRecoveryImageLoad s
  | .lowInletTemperature => Sys2Proof.Machine.execLowInletTemperature s

end Sys2Proof.Machine
end

