-- ==== Sys2Proof/Machine/Eligible.lean ====
section
/-! DEFINITION. Which lanes may issue (R27, R28, R110, R115), which of them form the issue group (R111), and
when a warp stands at a safe point without issuing (R117). -/

namespace Sys2Proof.Machine

/-! ## The instruction at a lane -/

/-- The issue of some lanes of a warp at an instruction. -/
def State.aim (s : State) (wk : Nat) (lanes : LaneMask) (pc : DWord) (len : Nat) : State :=
  { s with cur := { core := wk / 128, berth := wk % 128, lanes := lanes, pc := pc, len := len } }

/-- What a warp finds at an address: a word that cannot be fetched, no instruction, or an instruction and its
length. -/
inductive Found where
  | miss (m : Miss) (va : Nat)
  | bad
  | instr (i : Instr) (len : Nat)
  deriving DecidableEq, Repr, Inhabited

/-- Fetch and decoding (R41, R59 rows 1 to 4). -/
def findInstr (s : State) (wk : Nat) (pc : DWord) : Found :=
  match fetchInstr s (wk / 128) (s.ctxOf wk) (wk % 128 = handlerBerth) pc.toNat with
  | .error (m, va) => .miss m va
  | .ok ws =>
    match decodeWords ws with
    | .ok (i, _) => .instr i (4 * ws.length)
    | .error _ => .bad

/-- An operation whose constructor the control operand names when it runs (R335, R378). -/
def bindOp (i : Instr) (s : State) : Instr × State :=
  let control := fun (x : Long) (sh : Shape) => State.opA s (Ctx.of x sh s) 0
  let bound := fun (x : Long) => { s with cur := { s.cur with x := x } }
  match i, i.info with
  | .grpctlQuery x, some f =>
    match control x f.shape / 2 ^ 8 % 8 with
    | 1 => (.grpctlStop, bound x)
    | 2 => (.grpctlResume, bound x)
    | 3 => (.grpctlStep, bound x)
    | 4 => (.grpctlExit, bound x)
    | _ => (i, s)
  | .rsndInvalidateContext x, some f =>
    match control x f.shape % 16 with
    | 1 => (.rsndInvalidateAll, bound x)
    | 2 => (.rsndGiveWays, bound x)
    | 3 => (.rsndPreset, bound x)
    | 4 => (.rsndEnable, bound x)
    | _ => (i, s)
  | _, _ => (i, s)

/-- An instruction performed by the issue that the state names. -/
def perform (i : Instr) (s : State) : Out := exec (bindOp i s).1 (bindOp i s).2

/-! ## The operations of an instruction -/

/-- One operation of an instruction, as its operands are checked: a pair has two, a lone NOP none. -/
structure Piece where
  x    : Long
  sh   : Shape
  fget : Bool := false
  deriving DecidableEq, Repr, Inhabited

/-- A long-form instruction as an operation. -/
def pieceOf (i : Instr) : Option Piece := i.info.map (fun f => ⟨f.x, f.shape, i.isFget⟩)

/-- The operations of an instruction. -/
def pieces (i : Instr) : List Piece :=
  match i with
  | .pair p =>
    [p.h0, p.h1].filterMap (fun h =>
      (sopEntry h.op.toNat (halfLong h p.safe)
        (fun d t => { halfLong h p.safe 0 0 true t with b := BitVec.ofNat 10 d })).bind (fun e => pieceOf e.1))
  | i =>
    match pieceOf i with
    | some p => [p]
    | none =>
      match i.sop with
      | some (sop, x) => ((sopEntry sop (fun t m o c => x.toLong t m o c) x.toCvt).bind (fun e => pieceOf e.1)).toList
      | none => []

/-- The shape by which the operands of an instruction are checked: the unit's registers of a matrix operation
are its own affair (R142), and MINS and MREM read their fields B and C by the descriptor's widths (R257). -/
def operandShape (i : Instr) (cx : Ctx) (s : State) : Shape :=
  let land_ :=
    match nameDesc cx s with
    | .bound h => landShape (s.bound (clusterOfCore cx.core) h).word0 cx.sh
    | .free w0 _ _ => landShape w0 cx.sh
    | _ => { cx.sh with b := .zero, c := .zero }
  let matrix : Shape := { cx.sh with dst := .zero, b := .zero, c := .zero }
  match i with
  | .mma _ => matrix
  | .mmaBmp _ => matrix
  | .mmas _ => matrix
  | .mins _ => land_
  | .mrem _ => land_
  | _ => cx.sh

/-! ## Words and predicates (R27, R28) -/

/-- An empty word makes the lanes of a context wait: a source without its empty-trap bit, or a destination. -/
def wordsWait (fget : Bool) (cx : Ctx) (s : State) : Bool :=
  let w := s.warp cx.wk
  (lanesOf cx.act).any (fun l => cx.fields.any (fun (f, code, et) =>
    (!et && (sourceKeys cx fget w f code l).any s.isEmpty) ||
    (codeKeys cx.core w code (f.writes cx.sh cx.x) l).any s.isEmpty))

/-- Predicate codes that a field reads or writes. -/
def predCodes (cx : Ctx) (f : Fld) (code : Nat) : List Nat :=
  let carry := fun (n : Nat) => if n = 7 then [] else [if cx.uni then 0x200 + n else n]
  match f with
  | .pred => [code]
  | .pdst => [code]
  | .vote => if cx.x.mN = 2 then [] else [code]
  | .carry => carry (code % 8) ++ carry (code / 8 % 8)
  | _ => []

/-- Predicate codes of an instruction beside those of its fields: the result of LDT, and every predicate for
PMOV (R95, R192). -/
def morePreds (i : Instr) (cx : Ctx) : List Nat :=
  let every := if cx.uni then [0x200, 0x201, 0x202] else [0, 1, 2, 3, 4, 5, 6]
  match i with
  | .ldt x => [x.cN / 8 % 8]
  | .pmovToRegister _ => every
  | .pmovToPredicates _ => every
  | _ => []

/-- A busy predicate makes the lanes of a context wait. -/
def predsWait (i : Instr) (cx : Ctx) (s : State) : Bool :=
  let w := s.warp cx.wk
  let codes := cx.fields.flatMap (fun (f, code, _) => predCodes cx f code) ++ morePreds i cx
  (lanesOf cx.act).any (fun l => codes.any (fun c => w.predBusy c l))

/-! ## Waits that entries name -/

/-- Whether an instruction performs a release before it acts (R185, R191, R201, R307, R336, R340, R343, R344,
R348). Reading: log entry 35, DEDUCED. -/
def releaseFirst (i : Instr) : Bool :=
  match i with
  | .st x => releases x.order
  | .scat x => releases x.order
  | .stt x => releases x.order || x.cN / 8 % 2 = 1
  | .atom x => releases x.order
  | .red x => releases x.order
  | .cas x => releases x.order
  | .fatom x => releases (TxnKind.order .fatom x)
  | .fence x => releases x.order
  | .bar _ => true
  | .fix _ => true
  | .dcinc _ => true
  | .dcdec _ => true
  | .boinit _ => true
  | .boarrv _ => true
  | .launch _ => true
  | .rbver _ => true
  | _ => false

/-- Whether an instruction waits for its warp's earlier loads (R201, R340). Reading: log entry 35, DEDUCED. -/
def loadsFirst (i : Instr) : Bool :=
  match i with
  | .fence x => acquires x.order
  | .dcwait _ => true
  | _ => false

/-- The instructions of the SFU (R107). -/
def isSfu (i : Instr) : Bool :=
  match i with
  | .rcp _ => true
  | .rsq _ => true
  | .sqrt _ => true
  | .exp2 _ => true
  | .log2 _ => true
  | .sin _ => true
  | .cos _ => true
  | .tanh _ => true
  | .idiv _ => true
  | .irem _ => true
  | _ => false

/-- The instructions that see or replace every flag raised before them (R107). -/
def readsFlags (i : Instr) : Bool :=
  match i with
  | .flgrd _ => true
  | .flgclr _ => true
  | .sets x => x.dN = 0x186
  | _ => false

/-- Entries of a core's SFU result queue in use. -/
def sfuEntries (s : State) (core : Nat) : Nat :=
  (s.prods.filter (fun e => e.2.kind = .sfu && e.2.warp / 128 = core)).length

/-- What a memory instruction touches: the space, whether it loads and whether it stores there, and the addresses and
bytes of each active lane. -/
structure Touch where
  space : Nat
  load  : Bool
  store : Bool
  accs  : List (Nat × Int × Nat) := []
  deriving DecidableEq, Repr, Inhabited

/-- What the instructions touch that watchpoints see (R371). -/
def touchOf (i : Instr) (cx : Ctx) (s : State) : Option Touch :=
  let z := memBytes cx.x.tN
  let sp := cx.x.space
  let at_ := fun (n : Nat) (f : Nat → Int) => (evalLanes cx).map (fun l => (l, f l, n))
  let version := (lowestLane cx.act, tileAt cx s, 4)
  match i with
  | .ld _ => some ⟨sp, true, false, at_ z (laneAddr false cx s)⟩
  | .ldu _ => some ⟨sp, true, false, at_ z (laneAddr false cx s)⟩
  | .gath _ => some ⟨sp, true, false, at_ z (laneAddr true cx s)⟩
  | .st _ => some ⟨sp, false, true, at_ z (laneAddr false cx s)⟩
  | .scat _ => some ⟨sp, false, true, at_ z (laneAddr true cx s)⟩
  | .ldt _ => some ⟨sp, true, false, version :: at_ z (elementAddr cx s)⟩
  | .stt x =>
    let aon := x.cN / 8 % 2 = 1
    some ⟨sp, aon, true, (if aon then [version] else []) ++ at_ z (elementAddr cx s)⟩
  | .atom _ => some ⟨sp, true, true, at_ z (baseAddr cx s)⟩
  | .red _ => some ⟨sp, true, true, at_ z (baseAddr cx s)⟩
  | .cas _ => some ⟨sp, true, true, at_ z (baseAddr cx s)⟩
  | .fatom _ => some ⟨sp, true, true, at_ z (baseAddr cx s)⟩
  | .lclk _ => some ⟨0, true, false, at_ 4 (fun l => addressIn 0 (s.opA cx l) (offsetOf cx.x))⟩
  | .dalloc _ =>
    let r := arenaOf (s.blockOf cx) (s.warp cx.wk)
    let as := (allocations cx s (r.1 + r.2) (lanesOf cx.act) (bumpOf (s.blockOf cx) (s.warp cx.wk))).1
    some ⟨0, false, true, as.map (fun e => (e.1, (e.2.1 : Int), 16))⟩
  | .dfree _ =>
    some ⟨0, true, true, (lanesOf cx.act).filterMap (fun l =>
      let a := s.opA cx l
      if a < 16 then none else some (l, (a : Int) - 16, 16))⟩
  | .rbver _ => some ⟨0, true, true, [(0, (s.opA cx 0 : Int), 64)]⟩
  | _ => none

/-- The core and the address in its store that an access of a space names. -/
def storeOf (cx : Ctx) (space : Nat) (a : Int) : Option (Nat × Nat) :=
  if a < 0 then none
  else
    match space with
    | 1 => some (cx.core, a.toNat)
    | 2 => some (clusterOfCore cx.core * 16 + a.toNat / 2 ^ 22 % 16, a.toNat % 2 ^ 22)
    | _ => none

/-- Whether an operation on the tile that holds a local address is queued or running (R140). -/
def tileInUse (cx : Ctx) (s : State) (a : Nat) : Bool :=
  let b := s.blockOf cx
  decide (b.accBase ≤ a ∧ a < b.accBase + b.tiles * 0x10000) &&
  !(tileOps s cx.core (s.blockKey cx) ((a - b.accBase) / 0x10000)).isEmpty

/-- The range scoreboard of the issuing core and its tiles (R136, R140, R270): a store waits for every held range that it
overlaps and for a tile in use, a load for a held destination. -/
def rangeWait (i : Instr) (cx : Ctx) (s : State) : Bool :=
  match touchOf i cx s with
  | none => false
  | some t =>
    let held := (s.core cx.core).holds
    t.accs.any (fun (_, a, z) =>
      match storeOf cx t.space a with
      | none => false
      | some (core, la) =>
        held.any (fun h => (t.store || h.dest) && h.meets core la (la + z)) ||
        (t.store && core = cx.core && tileInUse cx s la))

/-- The turn of a warp's local atomic in ordered mode (R200). -/
def atomicTurn (cx : Ctx) (s : State) : Bool :=
  let w := s.warp cx.wk
  (upTo (s.blockOf cx).warps).all (fun i =>
    match s.warpOf (s.blockKey cx) i with
    | none => true
    | some k =>
      let u := s.warp k
      i = w.index || u.arrived (fun b => b ≠ .none) ||
      (if i < w.index then decide (w.localCount < u.localCount) else decide (w.localCount ≤ u.localCount)))

/-- Whether an instruction is a local atomic of an ordered block. -/
def orderedAtomic (i : Instr) (cx : Ctx) (s : State) : Bool :=
  (s.blockOf cx).ordered && cx.x.space = 1 &&
  match i with
  | .atom _ => true
  | .cas _ => true
  | .red _ => true
  | _ => false

/-- Instructions that leave the state as it is while they wait: TKWAIT, and the classes from the stores on.
Reading: log entry 67, DEDUCED. -/
def mayWait (i : Instr) : Bool := match i.info with | some f => f.major = 0x4C || decide (0x58 ≤ f.major) | none => false

/-- Why a lane does not issue now. -/
inductive Wait where
  /-- it may issue -/
  | go
  /-- for an empty word (R27) -/
  | word
  /-- for an entry of the SFU's queue (R107) -/
  | sfu
  /-- for anything else -/
  | other
  deriving DecidableEq, Repr, Inhabited

/-- An instruction that leaves the state as it is still waits. Reading: log entry 67, DEDUCED. -/
def stays (i : Instr) (s : State) : Bool :=
  mayWait i && match perform i s with
    | .next t => decide (t = s)
    | _ => false

/-- Accesses of a warp are under way, which a release waits for (R185, R232). -/
def State.accessOpen (s : State) (wk : Nat) : Bool :=
  s.txns.any (fun e => e.2.warp = wk && e.2.kind ≠ .macc && !e.2.stale)

/-- The classes from the loads on, whose accesses wait for an acquire of their lane (R185). -/
def touches (i : Instr) : Bool := match i.info with | some f => decide (0x58 ≤ f.major) | none => false

/-- The waits of an operation whose guard is true for the lanes of a context. -/
def pieceWait (i : Instr) (fget : Bool) (cx : Ctx) (s : State) : Wait :=
  if (decodeFault false fget cx s).isSome then .go
  else if wordsWait fget { cx with sh := operandShape i cx s } s then .word
  else if predsWait i cx s then .other
  else if releaseFirst i && (s.unacked cx.core || s.engineBusy cx.core || s.accessOpen cx.wk) then .other
  else if touches i && (lanesOf cx.act).any (s.acquireHeld cx.wk) then .other
  else if loadsFirst i && s.txns.any (fun e => e.2.warp = cx.wk && e.2.kind ≠ .red) then .other
  else if readsFlags i && s.prods.any (fun e => e.2.warp = cx.wk && e.2.kind = .sfu) then .other
  else if orderedAtomic i cx s && !atomicTurn cx s then .other
  else if rangeWait i cx s then .other
  else if isSfu i && decide (32 ≤ sfuEntries s cx.core) then .sfu
  else .go

/-- The waits of an instruction for the issue that the state names. A busy guard waits; an operation whose guard
is false has no wait (R110). Reading: log entry 67, DEDUCED. -/
def issueWait (i : Instr) (s : State) : Wait :=
  let w := s.warp (warpKey s.cur.core s.cur.berth)
  let one := fun (p : Piece) =>
    let cx := Ctx.of p.x p.sh s
    if (lanesOf cx.group).any (w.guardBusy cx.uni p.x) then Wait.other
    else if cx.act = 0 then .go
    else pieceWait i p.fget cx s
  let waits := (pieces i).map one
  match waits.find? (fun v => v ≠ .go) with
  | some v => v
  | none =>
    if stays i s then .other else .go

/-! ## Eligible lanes (R110) -/

/-- Whether a warp may issue at all (R110, R117, R367, R368, R378). -/
def mayIssue (s : State) (wk : Nat) : Bool :=
  let w := s.warp wk
  w.live && w.fault.isNone && !w.asleep && !w.parked && (!w.stopped || w.stepping)

/-- Why a lane of a warp waits; `go` for an eligible lane (R110). A lane whose fetch awaits a word of its walk waits. -/
def laneWait (s : State) (wk l : Nat) : Wait :=
  let v := (s.warp wk).lane l
  if v.exited || s.tileHeld wk l || v.bar ≠ .none || (v.dcwait.isSome && !v.dcready) then .other
  else
    match findInstr s wk v.pc with
    | .miss m _ => if m.pend then .other else .go
    | .bad => .go
    | .instr i len =>
      if !v.released && (match i.info with | some f => f.x.isJoin | none => false) then .other
      else issueWait i (s.aim wk (maskOf (fun j => j = l)) v.pc len)

/-- The eligible lanes of a warp. Reading: log entry 21, DEDUCED. -/
def eligible (s : State) (wk : Nat) : LaneMask :=
  if mayIssue s wk then maskOf (fun l => laneWait s wk l = .go) else 0

/-! ## The issue group (R111) -/

/-- The lowest PC of a set of lanes. -/
def lowestPc (w : Warp) (m : LaneMask) : DWord :=
  (lanesOf m).foldl (fun pc l => if (w.lane l).pc.toNat < pc.toNat then (w.lane l).pc else pc)
    (w.lane (lowestLane m)).pc

/-- The PC that issues of a set of eligible lanes. -/
def chosenPc (w : Warp) (e : LaneMask) : DWord :=
  let starved := maskOf (fun l => e.getLsbD l && (w.lane l).starve = 256)
  let late := maskOf (fun l => e.getLsbD l && w.yieldPending && !w.yielders.getLsbD l &&
    decide (w.yieldPc.toNat < (w.lane l).pc.toNat))
  if starved ≠ 0 then lowestPc w starved else if late ≠ 0 then lowestPc w late else lowestPc w e

/-- The lanes of a set at a PC. -/
def lanesAt (w : Warp) (e : LaneMask) (pc : DWord) : LaneMask :=
  maskOf (fun l => e.getLsbD l && (w.lane l).pc = pc)

/-- Lanes of a group for which an instruction has an effect; all of them where it has no guard of its own. -/
def effective_ (i : Instr) (s : State) : LaneMask :=
  match pieces i with
  | [] => s.cur.lanes
  | ps => ps.foldl (fun m p => m ||| (Ctx.of p.x p.sh s).act) 0

/-- The eligible lanes of a warp when lanes at one PC that could go alone wait as a group are left out, with the
PC that issues; `fuel` bounds the PCs that are left out. -/
def groupOf_ (s : State) (wk : Nat) : Nat → LaneMask → LaneMask × DWord
  | 0, _ => (0, 0)
  | fuel + 1, e =>
    let w := s.warp wk
    let pc := chosenPc w e
    let g := lanesAt w e pc
    if e = 0 then (0, 0)
    else
      match findInstr s wk pc with
      | .instr i len =>
        let t := s.aim wk g pc len
        if issueWait i t = .go then (e, pc) else groupOf_ s wk fuel (e &&& ~~~(effective_ i t))
      | _ => (e, pc)

/-- The eligible lanes of a warp that count for its issue, and the PC that issues. -/
def candidates (s : State) (wk : Nat) : LaneMask × DWord := groupOf_ s wk 33 (eligible s wk)

/-- A warp has a lane that waits for a reason. -/
def waitsOn_ (s : State) (wk : Nat) (r : Wait) : Bool :=
  mayIssue s wk && laneNumbers.any (fun l => laneWait s wk l = r)

/-! ## Safe points without an issue (R117) -/

/-- A lane stands at an instruction with S = 1 that it has not issued; an `STT.aon` that has made its first version step
has. -/
def laneSafe (s : State) (wk l : Nat) : Bool :=
  let v := (s.warp wk).lane l
  v.exited ||
  (!s.txns.any (fun e => e.2.warp = wk && e.2.kind = .stt && e.2.lanes.getLsbD l && e.2.phase ≠ 0) && safeAt s wk v.pc)

/-- Every lane stands at an unissued safe point, and none may issue. -/
def standsSafe (s : State) (wk : Nat) : Bool :=
  let w := s.warp wk
  w.live && w.fault.isNone && eligible s wk = 0 && laneNumbers.all (laneSafe s wk)

/-- A warp of a stopping block that stands at a safe point is parked there; an `STT.aon` that has made no version step has
not issued. -/
def parkSafe (wk : Nat) (s : State) : State :=
  let w := s.warp wk
  if wk % 128 ≠ handlerBerth && !w.parked && (s.block w.block).stopping && standsSafe s wk then
    { s.setWarp wk { w with parked := true } with
      txns := s.txns.filter (fun ((_, t) : Nat × Txn) => !(t.warp = wk && t.kind = .stt && t.phase = 0)) }
  else s

end Sys2Proof.Machine
end

