-- ==== Sys2Proof/Machine/Schedule.lean ====
section
/-! DEFINITION. One turn of the machine (R426): the delivery of a message, an event of a unit or from outside,
an issue cycle of a partition (R113), or one period of the tick with the clocks that it drives. -/

namespace Sys2Proof.Machine

/-- What follows on a next state. -/
def Out.onNext (f : State → State) (o : Out) : Out :=
  match o with
  | .next s => .next (f s)
  | .fault r => .fault r
  | .refused r => .refused r

/-- A turn that goes on from the next state. -/
def Out.thenDo (o : Out) (f : State → Out) : Out :=
  match o with
  | .next s => f s
  | .fault r => .fault r
  | .refused r => .refused r

/-! ## Messages (R210 to R212) -/

/-- The order that a message keeps (R212): one home slice's messages to one agent, a warp's changes of one dependence
counter (R339), and the broadcasts about one core. No other messages keep an order.
Reading: log entry 20, DESIGN CHOICE, log entry 27, DEDUCED. -/
def orderKey (s : State) (e : Event) : Option (Nat × Nat × Nat) :=
  match e with
  | .ack p a _ => some (1, s.homeOf p, a)
  | .wbAck p a => some (1, s.homeOf p, a)
  | .fwd p a _ => some (1, s.homeOf p, a)
  | .xfer p a _ _ _ => some (1, s.homeOf p, a)
  | .recall n a => some (1, s.homeOf (32 * n), a)
  | .fillData p a _ _ _ _ src => if answerAgent src = homeSource then some (1, s.homeOf p, readerAgent a) else none
  | .dependenceCounterChange n _ w => if w = 0 then none else some (3, n, w)
  | .sleepBitBroadcast c _ => some (4, c, 0)
  | _ => none

/-- What the agenda carries: messages, which no unit and nothing outside can bring about otherwise. -/
def isMessage (e : Event) : Bool :=
  match e with
  | .read _ _ => true
  | .reg _ _ _ _ => true
  | .wb _ _ _ _ => true
  | .homeAtomic _ _ => true
  | .drop _ _ _ => true
  | .ack _ _ _ => true
  | .fillData _ _ _ _ _ _ _ => true
  | .fwd _ _ _ => true
  | .xfer _ _ _ _ _ => true
  | .recall _ _ => true
  | .wbAck _ _ => true
  | .dependenceCounterChange _ _ _ => true
  | .tracerSample _ => true
  | .replayRecord _ _ _ _ _ _ _ _ => true
  | .sleepBitBroadcast _ false => true
  | _ => false

/-- A message to a power-gated core waits until the core has woken (R123, R215). Reading: log entry 53, DEDUCED. -/
def gatedTarget (s : State) (e : Event) : Bool := s.cores.any (fun c => c.2.gated && messageFor c.1 e)

/-- An earlier message of the same order is still under way. Reading: log entry 27, DEDUCED. -/
def behind (s : State) (k : Nat) (e : Event) : Bool :=
  match orderKey s e with
  | none => false
  | some c => (s.agenda.take k).any (fun m => orderKey s m = some c)

/-- Delivery of the k-th message in flight: a held link catches it (R407), or its receiver acts on it.
Reading: log entry 20, DESIGN CHOICE. -/
def deliver (k : Nat) (s : State) : Out :=
  match s.agenda[k]? with
  | none => .next s
  | some e =>
    if s.stopped || behind s k e || gatedTarget s e then .next s
    else
      let s1 := { s with agenda := s.agenda.eraseIdx k }
      match caughtBy s e with
      | some link => .next { s1 with heldMsgs := s1.heldMsgs ++ [(link, e, s.tick)] }
      | none => exec e.row { s1 with now := e }

/-! ## Events of units and from outside -/

/-- What still runs while the package is stopped (R388): the tick and its servo, the management window, the
security and the management processor, and the links. Reading: log entry 53, DEDUCED. -/
def runsStopped (e : Event) : Bool :=
  match e with
  | .reset => true
  | .shutterArm _ => true
  | .shutterResume _ => true
  | .preemptRequest _ _ => true
  | .resumeRequest _ => true
  | .ptpEventMessage _ _ => true
  | .ptpGeneralMessage _ _ => true
  | .ptpMeasurement _ => true
  | .measurementsMissed => true
  | .tkctlStep _ => true
  | .throttleStepUp _ _ _ => true
  | .throttleStepDown _ _ _ => true
  | .thermalTrip _ => true
  | .lowInletTemperature _ => true
  | .tamperAlarm _ => true
  | .laneRetrain _ => true
  | .mgmtRegisterAccess _ _ _ _ _ => true
  | .mgmtCounterWrite _ _ _ => true
  | .dacdataRead _ _ => true
  | .dacdataWrite _ _ => true
  | .dacctlQuery _ _ => true
  | .dacctlStop _ _ => true
  | .dacctlResume _ _ => true
  | .dacctlStep _ _ => true
  | .dacctlExit _ _ => true
  | .linkHold _ _ _ => true
  | .linkRelease _ _ _ => true
  | .linkStatus _ _ _ => true
  | .mtkcfgWrite _ _ => true
  | .xlrootWrite _ _ => true
  | .xlinvPage _ => true
  | .xlinvContext _ => true
  | .xlinvAll _ => true
  | .biasFlipToHost _ => true
  | .biasFlipToDevice _ => true
  | .rpctlWrite _ => true
  | .trctlWrite _ => true
  | .elctlWrite _ => true
  | .mailboxAttest _ => true
  | .mailboxUnlock _ => true
  | .systemRegisterWrite _ _ => true
  | .recoveryImageLoad _ _ _ _ => true
  | _ => false

/-- Events that only a step of another kind brings about: the debug halt of an issue (R372), and the update of a
barrier object by what completes (R342). -/
def isInner (e : Event) : Bool :=
  match e with
  | .debugHalt _ => true
  | .barrierObjectUpdate _ _ _ _ => true
  | _ => false

/-- An event comes about. Reading: log entry 20, DESIGN CHOICE. -/
def happen (e : Event) (s : State) : Out :=
  if isMessage e || isInner e || (s.stopped && !runsStopped e) then .next s
  else exec e.row { s with now := e }

/-! ## The issue of a warp (R110 to R118, R365, R370) -/

/-- The fault of a fetch (R317): TRAPP and TRAPA hold the address of the word. -/
def fetchTrap (s : State) (wk : Nat) (g : LaneMask) (m : Miss) (va : Nat) : Trap where
  cause := if m.perm then .permission else .translation
  qual := if m.reason = 5 then 1 else 0
  lanes := g
  low := lowestLane g
  addr := BitVec.ofNat 64 va
  pc := BitVec.ofNat 64 va
  xlstat := xlstatOf (s.ctxOf wk) m

/-- A fault of an issue that no instruction decides: an encoding, or a breakpoint register.
Reading: log entry 68, DEDUCED. -/
def groupTrap (cause : Cause) (qual : Nat) (g : LaneMask) (pc : DWord) : Trap where
  cause := cause
  qual := qual
  lanes := g
  low := lowestLane g
  pc := pc

/-- The warp's own record of an issue: patience (R111), the yield it spends, and its counts (R113, R374). -/
def Warp.booked (w : Warp) (e g : LaneMask) (clk : Nat) : Warp :=
  let left := w.modLanes e (fun v => { v with starve := min 256 (v.starve + 1) })
  { left.modLanes g (fun v => { v with starve := 0 }) with
    yieldPending := false, idle := 0, lastIssue := clk + 1, issued := w.issued + 1 }

/-- The issue is recorded; the window's cycles are counted for its share (R113). Reading: log entry 63, DEDUCED. -/
def State.book (s : State) (wk : Nat) (e g : LaneMask) : State :=
  let s := s.modWarp wk (fun w => w.booked e g s.clk)
  if wk % 128 = handlerBerth then s.modCore (wk / 128) (fun c => { c with handler := c.handler ||| 1 }) else s

/-- Instructions that note their wait, or claim what they need, while they have not issued: CTXSV, BAR and FIX, and
stores in ordered mode (R222, R344, R381). Reading: log entry 52, DEDUCED. -/
def notesWait (i : Instr) : Bool :=
  match i with
  | .ctxsv _ => true
  | .bar _ => true
  | .fix _ => true
  | .st _ => true
  | .scat _ => true
  | .stt _ => true
  | .dalloc _ => true
  | _ => false

/-- BAR and FIX, whose active lanes stand unissued until their release (R117, R344). -/
def standsAtBarrier (i : Instr) : Bool :=
  match i with
  | .bar _ => true
  | .fix _ => true
  | _ => false

/-- A group still stands at its instruction without a fault. -/
def stillAt (s : State) (wk : Nat) (g : LaneMask) (pc : DWord) : Bool :=
  let w := s.warp wk
  w.live && w.fault.isNone && (lanesOf g).any (fun l => (w.lane l).pc = pc && !(w.lane l).exited)

/-- After an issue without a fault: its counts (R352), the end of a single step (R378), and the safe point of an
instruction with S = 1 (R117). Reading: log entry 52, DEDUCED, log entry 63, DEDUCED. -/
def afterIssue (wk : Nat) (i : Instr) (active : Nat) (s : State) : State :=
  let core := wk / 128
  let w := s.warp wk
  if w.fault.isSome then s
  else
    let s := (s.count core evIssues 1).count core evLanes active
    let stop := w.live && w.stepping
    let park := w.live && wk % 128 ≠ handlerBerth && safePoint i && (s.block w.block).stopping
    if stop || park then
      s.setWarp wk { w with
        stopped := w.stopped || stop, stepping := w.stepping && !stop, parked := w.parked || park }
    else s

/-- A watchpoint routed to the debug halt that an active lane of an operation matches, judged before the issue group is
(R365, R372), where the operands that give its addresses have values. -/
def haltWatch (i : Instr) (s : State) : Stop :=
  match pieceOf i with
  | none => .none
  | some p =>
    let cx := Ctx.of p.x p.sh s
    if cx.act = 0 || s.sysreg 0x1C8 &&& 15 = 0 then .none
    else if (decodeFault false p.fget cx s).isSome || (emptyFault p.fget cx s).isSome then .none
    else
      match touchOf i cx s with
      | none => .none
      | some t =>
        if t.space ≠ 0 then .none
        else
          match watch s cx t.load t.store t.accs with
          | .halt n lanes => .halt n lanes
          | _ => .none

/-- The instruction of a group issues: its active lanes alone where they only come to stand at a barrier. What leaves
its group where it is without having opened an access has not issued, and is not recorded. -/
def issueInstr (wk : Nat) (i : Instr) (e g : LaneMask) (pc : DWord) (len : Nat) (s : State) : Out :=
  let whole := s.aim wk g pc len
  let m := effective_ i whole
  let t := if standsAtBarrier i && m ≠ 0 then s.aim wk m pc len else whole
  let t := t.countMiss (wk / 128) (s.ctxOf wk) pc.toNat
  match perform i (t.book wk e g) with
  | .next u =>
    if notesWait i && stillAt u wk g pc && u.txns.length = t.txns.length then perform i t
    else .next (afterIssue wk i (lanesOf m).length u)
  | r => r

/-- The issue of a group that has been chosen: breakpoints (R365 class 1, R372), the fetch and the decoding, what stops
the package before the group is judged, and the instruction. -/
def issueGroup (wk : Nat) (e : LaneMask) (pc : DWord) (s : State) : Out :=
  let g := lanesAt (s.warp wk) e pc
  match breakpointAt s wk pc with
  | some n =>
    if (s.sysreg 0x1C8).getLsbD (4 + n) then
      exec .debugHalt { s.aim wk g pc 0 with now := .debugHalt wk }
    else .next ((s.book wk e g).raise wk (groupTrap .breakpoint n g pc))
  | none =>
    match findInstr s wk pc with
    | .miss m va =>
      .next (((s.book wk e g).countMiss (wk / 128) (s.ctxOf wk) va).raise wk (fetchTrap s wk g m va))
    | .bad => .next ((s.book wk e g).raise wk (groupTrap .illegal 0 g pc))
    | .instr i len =>
      let t := s.aim wk g pc len
      match haltWatch i t with
      | .halt n lanes => .next (t.halt 2 n (wk / 128) (s.warp wk).index lanes pc wk)
      | _ => issueInstr wk i e g pc len s

/-- A warp issues, if it is ready. -/
def issueWarp (wk : Nat) (s : State) : Out :=
  let (e, pc) := candidates s wk
  if e = 0 then .next s else issueGroup wk e pc s

/-! ## The choice of a partition (R113) -/

/-- Keys of the berths of a partition of a core. -/
def partitionWarps (core part : Nat) : List Nat := (upTo 16).map (fun i => warpKey core (part % 4 * 16 + i))

/-- A warp has issued in the present clock, and in the one before. Reading: log entry 67, DEDUCED. -/
def issuedNow (s : State) (wk : Nat) : Bool := (s.warp wk).lastIssue = s.clk + 1
def issuedBefore (s : State) (wk : Nat) : Bool := (s.warp wk).lastIssue ≠ 0 && (s.warp wk).lastIssue = s.clk

/-- The ready warps of a partition that may be chosen, in berth order. -/
def readyWarps (s : State) (core part : Nat) : List Nat :=
  (partitionWarps core part).filter (fun k => !issuedBefore s k && (candidates s k).1 ≠ 0)

/-- The one whose last issue is oldest; warps that have not issued come first, in berth order. -/
def oldest (s : State) (ks : List Nat) : Option Nat :=
  ks.foldl (fun best k =>
    match best with
    | none => some k
    | some b => if (s.warp k).lastIssue < (s.warp b).lastIssue then some k else best) none

/-- How many of the bits are set. -/
def onesOf (v : BitVec 64) : Nat := ((upTo 64).filter (fun i => v.getLsbD i)).length

/-- The handler window may issue in a partition now: its handler runs there (log entry 13), and it has issued in
fewer than 48 of the 64 clocks that end with this one. -/
def windowTurn (s : State) (core part : Nat) : Bool :=
  let c := s.core core
  (match c.serving with | some b => b / 16 = part % 4 | none => false) && !c.handler.getLsbD 0 &&
  decide (onesOf c.handler < 48) && (candidates s (windowKey core)).1 ≠ 0

/-- The warp that a partition issues from. Reading: log entry 13, DEDUCED, log entry 67, DEDUCED. -/
def chooseWarp (s : State) (core part : Nat) : Option Nat :=
  let window := match (s.core core).serving with
    | some b => decide (b / 16 = part % 4) && (s.core core).handler.getLsbD 0
    | none => false
  if (partitionWarps core part).any (issuedNow s) || window then none
  else if windowTurn s core part then some (windowKey core)
  else oldest s (readyWarps s core part)

/-- A core runs: it is present, not fenced and not power-gated, and the package is not stopped (R15, R123,
R388). -/
def coreRuns (s : State) (core : Nat) : Bool :=
  s.hasCore core && !s.stopped && !(s.core core).gated && !nmem s.fenced (agentOfCore core)

/-- A partition issues from the warp that it chooses; what has not issued leaves the cycle to the next choice. -/
def issueFrom (core part : Nat) : Nat → State → Out
  | 0, s => .next s
  | fuel + 1, s =>
    match chooseWarp s core part with
    | none => .next s
    | some k => (issueWarp k s).thenDo (fun u =>
        if u.stopped || !(u.warp k).live || (u.warp k).issued ≠ (s.warp k).issued then .next u
        else issueFrom core part fuel u)

/-- An issue cycle of a partition. Warps that stand at safe points (R117) and lanes that have come to a DCWAIT (R340)
are noted first. -/
def issueTurn (core part : Nat) (s : State) : Out :=
  if !coreRuns s core then .next s
  else
    let ks := partitionWarps core part
    let s := (windowKey core :: ks).foldl noteWaits s
    issueFrom core part 64 (ks.foldl (fun s k => parkSafe k s) s)

/-- The partitions that have warps. -/
def busyPartitions (s : State) : List (Nat × Nat) :=
  ((s.warps.filter (fun e => e.2.live && e.1 % 128 ≠ handlerBerth)).map (fun e => (e.1 / 128, e.1 % 128 / 16))).dedup

/-- Before a clock ends, each partition that has not had its issue cycle in it has one (R113). -/
def issueRest : List (Nat × Nat) → State → Out
  | [], s => .next s
  | (core, part) :: rest, s => (issueTurn core part s).thenDo (issueRest rest)

/-! ## Clocks (R349, R352, R353, R374, R402) -/

/-- Whether the arithmetic clock has an edge in this period of the tick: 1.8, 1.35 or 0.9 GHz (R402). -/
def clockEdge (s : State) : Bool :=
  match s.power.step with
  | 2 => s.tick.toNat % 4 ≠ 3
  | 3 => s.tick.toNat % 2 = 0
  | _ => true

/-- The watchdog's count of a warp (R374): a clock in which it issues nothing. -/
def Warp.idled (w : Warp) (clk : Nat) : Warp :=
  if w.live && !w.ended && !w.stopped && w.fault.isNone && w.lastIssue ≠ clk + 1 then { w with idle := w.idle + 1 } else w

/-- A running clock of a resident block (R383). -/
def Block.clocked (b : Block) : Block := if b.mode = .running then { b with clocks := b.clocks + 1 } else b

/-- Counts of a core for one clock (R352): clocks, partitions that wait on empty words, and waits for the SFU.
Reading: log entry 52, DEDUCED. -/
def countClock (core : Nat) (s : State) : State :=
  let events := (s.core core).events
  let s1 := s.count core evClocks 1
  let s1 := if events.contains evEmpty then
      s1.count core evEmpty ((upTo 4).filter (fun p =>
        let ks := partitionWarps core p
        !ks.any (issuedNow s) && ks.all (fun k => (candidates s k).1 = 0) && ks.any (fun k => waitsOn_ s k .word))).length
    else s1
  if events.contains evSfuFull && (upTo 64).any (fun i => waitsOn_ s (warpKey core i) .sfu) then
    s1.count core evSfuFull 1
  else s1

/-- A core's matrix unit waits for a pilot token for one clock (R155, R163). -/
def countToken (core : Nat) (s : State) : State :=
  match stepReady s core with
  | none => s
  | some (o, _) =>
    if (s.cluster (clusterOfCore core)).token then s
    else (s.modWarp o.warp (fun w => { w with tokenWait := min 0xFFFFFFFF (w.tokenWait + 1) })).count core evNoToken 1

/-- One arithmetic clock: what is counted in clocks, and what acts when a count is reached (R374, R383).
Reading: log entry 53, DEDUCED. -/
def clockStep (s : State) : State :=
  let s := s.cores.foldl (fun s' e => countToken e.1 (countClock e.1 s')) s
  let warps : Table Warp := s.warps.map (fun e => (e.1, if e.1 % 128 = handlerBerth then e.2 else e.2.idled s.clk))
  let blocks : Table Block := s.blocks.map (fun e => (e.1, e.2.clocked))
  let cores : Table Core := s.cores.map (fun e => (e.1, { e.2 with handler := e.2.handler <<< 1 }))
  let s : State := { s with warps := warps, blocks := blocks, cores := cores, clk := s.clk + 1 }
  let s := (upTo 4).foldl (fun s' die => ringStep die s') s
  let s := s.clusters.foldl (fun s' e => sweepCluster e.1 s') s
  let s := s.warps.foldl (fun s' e => watchdog e.1 s') s
  s.blocks.foldl (fun s' e => quantumEnd e.1 s') s

/-- What is due at a tick acts in its cycle: selections before latches, releases, and the dispatcher's look at its queues
and at its deadlines (R279, R299, R303, R353, R354). -/
def tickDue (s : State) : State :=
  let s := s.selects.foldl (fun s _ => selectEffect s) s
  let s := s.prods.foldl (fun s e => latchCounters e.1 s) s
  decideLaunches (noteHeads (s.copies.foldl (fun s e => copyRelease e.1 s) s))

/-- One period of the tick. A package that is stopped keeps the tick and the security processor (R388).
Reading: log entry 53, DEDUCED. -/
def tickCycle (s : State) : State :=
  let edge := clockEdge s
  let s := shutterStop (tickStep s)
  if s.stopped then mailboxStep s
  else
    let s := mailboxStep (flipStep (finishXlinv (lapseLocks (tickDue s))))
    if edge then clockStep s else s

/-- A period of the tick, behind the issue cycles of the clock that it ends (R113). -/
def cycle (s : State) : Out :=
  (if clockEdge s && !s.stopped then issueRest (busyPartitions s) s else .next s).onNext tickCycle

/-! ## One turn -/

/-- The turn that the state names. Reading: log entry 20, DESIGN CHOICE. -/
def runTurn (s : State) : Out :=
  match s.turn with
  | .deliver k => deliver k s
  | .event e => happen e s
  | .issue core part => issueTurn core part s
  | .cycle => cycle s

/-- A debug halt tells the members of open collectives (R289, R372), traced requests that have completed are sent
(R360), and the next turn is drawn.
Reading: log entry 20, DESIGN CHOICE. -/
def endTurn (before : State) (s : State) : State :=
  let s := if !before.stopped && s.stopped && before.haltWarp.isNone && s.haltWarp.isSome then tellStop true s else s
  let s := if s.samples.isEmpty then s else closeSamples s
  { s with turn := Config.nextTurn (s.steps + 1), steps := s.steps + 1 }

/-- One step of the machine; without power there is none (R402).
Reading: log entry 14, DEDUCED, log entry 20, DESIGN CHOICE. -/
def turnStep (s : State) : Out :=
  if s.powerOff then .fault .powerRemoved else (runTurn s).onNext (endTurn s)

end Sys2Proof.Machine
end

