-- ==== Sys2Proof/Machine/Step.lean ====
section
/-! DEFINITION. The machine's step, and the placing of one instruction where the step fetches it. -/

namespace Sys2Proof.Machine

/-- One step of the machine: the turn that the state names (R426), or the fault of a package without power
(R402). -/
def step (s : State) : Host.Outcome State Fault Refusal := turnStep s

/-- The words of an instruction laid out as the hardware stores them (R2, R41). -/
def probeWords (nbits w : Nat) : List Word := wordsOfBytes (bytesOfNat 12 (w % 2 ^ nbits))

/-- The block, the launch and the warp that a placement leaves (R21, R300): one warp of one lane on core 0, in
berth 0, with 64 vector and 128 uniform registers, at address 0 of context 0. Reading: log entry 14, DEDUCED. -/
def probeBlock : Block where
  launch := 1
  warps := 1
  berths := [0]
  vregs := 64
  sregs := 128
  vbases := [0]
  sbases := [0x2000]

def probeWarp : Warp :=
  { live := true, block := 1, vregs := 64, sregs := 128, vbase := 0, sbase := 0x2000
    lanes := laneNumbers.map (fun l => { exited := l ≠ 0, rngs := 1, start := 1 })
    fmts := lrep fmtStart 8 }

/-- The translation of the page at address 0, readable, writable and executable (R311, R314).
Reading: log entry 14, DEDUCED. -/
def probePage : Cached where
  ctx := 0
  base := 0
  size := 2 ^ 16
  leaf := 0x1F

/-- A state with an instruction stored where the next step fetches, and that step an issue of its warp.
Reading: log entry 14, DEDUCED. -/
def State.withFetchWord (s : State) (nbits w : Nat) : State :=
  { s with
    turn := .issue 0 0
    mem := (probeWords nbits w).zipIdx.foldl (fun m e => memPutWord m e.2 e.1) s.mem
    blocks := tput s.blocks 1 probeBlock
    launches := tput s.launches 1 { blocks := 1, next := 1 }
    warps := tput s.warps 0 probeWarp
    caches := tput s.caches 0 [probePage] }

end Sys2Proof.Machine
end

