-- ==== Sys2Proof/Safety.lean ====
section
/-! DEFINITION. What claims speak of: the issue of an instruction and the conditions under which its own
effect takes place, what registers and lanes hold after it, and everything that it leaves alone. -/

namespace Sys2Proof.Safety

open Sys2Proof.Machine

/-- The context in which the machine's current issue executes a long-form instruction. -/
def issueCx (i : Instr) (s : State) : Ctx :=
  match i.info with
  | some f => Ctx.of f.x f.shape s
  | none => default

/-- Nothing stops the issue short of the instruction's own effect: its registers are allocated and its
privilege suffices (R59), a lane is active (R40), and no operand is empty with its empty-trap bit set (R27) or
poisoned (R31). -/
structure Goes (i : Instr) (privileged : Bool) (s : State) : Prop where
  decoded : decodeFault privileged i.isFget (issueCx i s) s = none
  active  : (issueCx i s).act ≠ 0
  full    : emptyFault i.isFget (issueCx i s) s = none
  clean   : poisonFault i.isFget (issueCx i s) s = none

/-- The register words that an instruction writes for lane l. -/
def dstOf (i : Instr) (s : State) (l : Nat) : List Nat :=
  let cx := issueCx i s
  codeKeys cx.core (s.warp cx.wk) cx.x.dN (cx.sh.dst.writes cx.sh cx.x) l

/-- Register words hold the low words of a number, full and not poisoned (R19, R26, R31). -/
def Holds (t : State) (ks : List Nat) (v : Nat) : Prop :=
  t.regs ks = v % 2 ^ (32 * ks.length) ∧ ∀ k ∈ ks, t.isEmpty k = false ∧ t.isPoison k = false

/-- A lane that has passed an instruction (R40, R115): it is at the next one, or, where a fault of its data had put it
back here, where it had gone on to (R61). -/
def movedOn (v : Lane) (next : DWord) : Lane :=
  match v.ahead with
  | [] => { v with pc := next, released := false, bar := .none, dcwait := .none, dcready := false }
  | a :: rest => { v with pc := a.pc, exited := a.exited, released := a.released, bar := a.bar, dcwait := a.dcwait
                          dcready := a.dcready, ahead := rest }

/-- A lane of an issue group that has passed the instruction. -/
def passed (cx : Ctx) (v : Lane) : Lane := movedOn v (BitVec.ofNat 64 (cx.pc.toNat + cx.len))

/-- Every lane of the issue group has passed after `change`; no other lane of the warp has moved. -/
def LanesPassed (cx : Ctx) (w w' : Warp) (change : Nat → Lane → Lane) : Prop :=
  w'.lanes.length = w.lanes.length ∧ ∀ l v, w.lanes[l]? = some v →
    w'.lanes[l]? = some (if cx.group.getLsbD l then passed cx (change l v) else change l v)

/-- Store words outside a list keep their value, their full/empty state and their poison. -/
def WordsKept (s t : State) (ks : List Nat) : Prop :=
  ∀ k, k ∉ ks → t.word k = s.word k ∧ t.isEmpty k = s.isEmpty k ∧ t.isPoison k = s.isPoison k

/-- Every byte of memory reads as before. -/
def MemoryKept (s t : State) : Prop := ∀ a, memByte t.mem a = memByte s.mem a

/-- Beside store words and the issuing warp nothing of the machine has changed: no other warp, no memory, no
system or special register, no accumulator, no trap register. -/
structure RestKept (cx : Ctx) (s t : State) : Prop where
  warps  : ∀ k, k ≠ cx.wk → t.warp k = s.warp k
  memory : MemoryKept s t
  state  : t = { s with store := t.store, empty := t.empty, poison := t.poison, warps := t.warps }

/-- The report latch after an instruction that left a warp as w': clear once no lane is held at its PC and no access
of the warp that was issued there is in flight (R369). -/
def latchAfter (cx : Ctx) (s : State) (w' : Warp) : Option DWord :=
  let w := s.warp cx.wk
  if w.latch = some cx.pc ∧ w'.heldAt cx.pc = false ∧ s.accessAt cx.wk cx.pc = false then none else w.latch

/-- Beside its lanes nothing of the issuing warp has changed but FLAGS, uniform predicates and the report
latch at this instruction (R34, R369). -/
def WarpKept (cx : Ctx) (s t : State) (flags : FlagMask) : Prop :=
  let w := s.warp cx.wk
  let w' := t.warp cx.wk
  w' = { w with lanes := w'.lanes, qpreds := w'.qpreds, qbusy := w'.qbusy, flags := w.flags ||| flags
                latch := latchAfter cx s w' }

/-- An instruction completed: it wrote `value l` to its destination registers for every lane it was evaluated for,
raised `flags`, changed lane l by `change l` and the uniform predicates by `uniform`, passed its group, and changed
nothing else. An instruction without a register destination writes no word. -/
structure Completes (i : Instr) (s t : State) (value : Nat → Nat) (flags : FlagMask)
    (change : Nat → Lane → Lane) (uniform : Warp → Warp) : Prop where
  results : ∀ l ∈ evalLanes (issueCx i s), Holds t (dstOf i s l) (value l)
  words   : WordsKept s t (dstKeys (issueCx i s) (s.warp (issueCx i s).wk))
  lanes   : LanesPassed (issueCx i s) (s.warp (issueCx i s).wk) (t.warp (issueCx i s).wk) change
  qpreds  : (t.warp (issueCx i s).wk).qpreds = (uniform (s.warp (issueCx i s).wk)).qpreds
  qbusy   : (t.warp (issueCx i s).wk).qbusy = (uniform (s.warp (issueCx i s).wk)).qbusy
  warp    : WarpKept (issueCx i s) s t flags
  rest    : RestKept (issueCx i s) s t

/-- The value of a lane's rule at the lane's inputs, and the flags of every evaluated lane together (R34, R60). -/
def valueOf (i : Instr) (s : State) (rule : LaneIn → Res) (l : Nat) : Nat :=
  (rule (laneIn (issueCx i s) s l)).1

def flagsOf (i : Instr) (s : State) (rule : LaneIn → Res) : FlagMask :=
  (evalLanes (issueCx i s)).foldl (fun m l => m ||| (rule (laneIn (issueCx i s) s l)).2) 0

/-- A lane whose random state n draws have stepped: each evaluated lane's own, or the lowest lane's of a uniform
issue group (R72). -/
def drawn (cx : Ctx) (n l : Nat) (v : Lane) : Lane :=
  if n ≠ 0 ∧ (if cx.uni then l = lowestLane cx.group else cx.act.getLsbD l) then
    { v with rngs := rngSteps n v.rngs }
  else v

/-- A lane with predicate p set where it was evaluated; p7 discards the write (R22). -/
def laneWithPred (cx : Ctx) (code : Nat) (b : Nat → Bool) (l : Nat) (v : Lane) : Lane :=
  if code < 0x200 ∧ cx.act.getLsbD l then v.setPred (code % 8) (b l) else v

/-- A warp with the uniform predicate that a code names set; q3 discards the write (R22). -/
def warpWithPred (code : Nat) (b : Bool) (w : Warp) : Warp :=
  if 0x200 ≤ code then w.setQpred (code - 0x200) b else w

/-- An instruction completed as a producer (R26): its destination words are empty, their values and poison as
before, and a pending result holds what they receive when it lands, no sooner than `after` clocks from now, with
the flags that rise then. Lanes changed by `change` have passed; nothing else has changed. -/
structure Pends (i : Instr) (s t : State) (kind : ProdKind) (after : Nat) (value : Nat → Nat) (flags : FlagMask)
    (change : Nat → Lane → Lane) : Prop where
  produced : ∃ p, tfind t.prods s.fresh = some p ∧ p.kind = kind ∧ p.warp = (issueCx i s).wk ∧
    p.flags = flags ∧ p.after = s.clk + after ∧ p.words = (evalLanes (issueCx i s)).flatMap (fun l =>
      ((dstOf i s l).zip (wordsOf ((issueCx i s).sh.dst.writes (issueCx i s).sh (issueCx i s).x) (value l))).map
        (fun e => ⟨e.1, e.2, false⟩))
  others   : ∀ k, k ≠ s.fresh → tfind t.prods k = tfind s.prods k
  empty    : ∀ k, t.isEmpty k =
    (s.isEmpty k || (dstKeys (issueCx i s) (s.warp (issueCx i s).wk)).contains k)
  lanes    : LanesPassed (issueCx i s) (s.warp (issueCx i s).wk) (t.warp (issueCx i s).wk) change
  warp     : (t.warp (issueCx i s).wk) = { s.warp (issueCx i s).wk with
    lanes := (t.warp (issueCx i s).wk).lanes
    latch := latchAfter (issueCx i s) s (t.warp (issueCx i s).wk) }
  warps    : ∀ k, k ≠ (issueCx i s).wk → t.warp k = s.warp k
  memory   : MemoryKept s t
  state    : t = { s with prods := t.prods, fresh := s.fresh + 1, empty := t.empty, warps := t.warps }

/-- The format registers that an instruction uses hold formats of the width class of their type numbers (R67). -/
def FormatsFit (i : Instr) (s : State) (uses : List (Nat × Nat)) : Prop :=
  ∀ u ∈ uses, fmtFits u.1 (fmtOfReg (lget fmtStart (s.warp (issueCx i s).wk).fmts u.2)) = true

/-- Pending result k has landed (R26): its words hold their values, full; its flags have risen in its warp. -/
structure Landed (s t : State) (k : Nat) (p : Prod) : Prop where
  values : ∀ x ∈ p.words, t.word x.key = x.value ∧ t.isEmpty x.key = false ∧ t.isPoison x.key = x.poison
  words  : WordsKept s t (p.words.map Landing.key)
  gone   : tfind t.prods k = none ∧ ∀ j, j ≠ k → tfind t.prods j = tfind s.prods j
  warp   : t.warp p.warp = { s.warp p.warp with flags := (s.warp p.warp).flags ||| p.flags }
  warps  : ∀ j, j ≠ p.warp → t.warp j = s.warp j
  memory : MemoryKept s t
  state  : t = { s with store := t.store, empty := t.empty, poison := t.poison, prods := t.prods
                        warps := t.warps }

/-! ## Memory instructions (R179 to R204) -/

/-- No watchpoint of a global access matches, every lane passes the checks of R182, and no earlier access holds one of the
words (R184, R214). -/
def Allowed (cx : Ctx) (s : State) (load store : Bool) (z : Nat) (accs : List LaneAcc) : Prop :=
  (cx.x.space = 0 → watch s cx load store (accs.map (fun a => (a.lane, a.addr, z))) = .none) ∧
  accessFault s cx accs = none ∧ s.accessHeld cx store z (placesOf accs) = false

/-- The address of a lane of a load or store (R179): a base and an offset, or a scaled index. -/
def addressOf (indexed : Bool) (cx : Ctx) (s : State) (l : Nat) : Int :=
  let d : Int := if indexed then (s.opB cx l : Int).bmod (2 ^ 32) * 2 ^ (cx.x.cN / 8 % 8) else offsetOf cx.x
  if cx.x.space = 0 then ((s.opA cx l : Int) + d) % 2 ^ 64 else (s.opA cx l : Int) + d

/-- A memory instruction is under way: a record of its access, empty destination words, and a group that has passed it,
its active lanes changed by `change` (R61, R183). Memory, other warps and other accesses are as they were. -/
structure Issued (i : Instr) (s t : State) (kind : TxnKind) (change : Lane → Lane) : Prop where
  record : ∃ k x, s.fresh ≤ k ∧ tfind t.txns k = some x ∧ x.kind = kind ∧ x.warp = (issueCx i s).wk ∧
    x.pc = (issueCx i s).pc ∧ x.len = (issueCx i s).len ∧ x.x = (issueCx i s).x ∧ x.lanes = (issueCx i s).act
  others : ∀ k, k < s.fresh → tfind t.txns k = tfind s.txns k
  empty  : ∀ k, t.isEmpty k = (s.isEmpty k || (dstKeys (issueCx i s) (s.warp (issueCx i s).wk)).contains k)
  lanes  : LanesPassed (issueCx i s) (s.warp (issueCx i s).wk) (t.warp (issueCx i s).wk)
    (fun l v => if (issueCx i s).act.getLsbD l then change v else v)
  warp   : t.warp (issueCx i s).wk = { s.warp (issueCx i s).wk with
    lanes := (t.warp (issueCx i s).wk).lanes
    rclk := (t.warp (issueCx i s).wk).rclk
    localCount := (t.warp (issueCx i s).wk).localCount }
  warps  : ∀ k, k ≠ (issueCx i s).wk → t.warp k = s.warp k
  memory : MemoryKept s t

/-- Byte i of a word. -/
def wordByte (w : Word) (i : Nat) : Nat := w.toNat / 2 ^ (8 * i) % 256

/-- Byte j of a store of a lane at a place is what the machine now holds there: in a core's store, in the issuing
core's near cache, registered to it, or in memory (R187, R188, R24). Of a fabric window nothing is said. -/
def StoredByte (core : Nat) (t : State) (p : Place) (data j : Nat) : Prop :=
  match p with
  | .loc c a => wordByte (t.word (storeKey c (a + j))) ((a + j) % 4) = data / 2 ^ (8 * j) % 256
  | .glob ph _ =>
    if t.direct ph then
      regionOf ph.pa = .fabric ∨ (memByte t.mem (ph.pa + j)).toNat = data / 2 ^ (8 * j) % 256
    else
      (t.near_ core ((ph.pa + j) / 4)).held = true ∧ (t.near_ core ((ph.pa + j) / 4)).reg = true ∧
      wordByte (t.near_ core ((ph.pa + j) / 4)).value ((ph.pa + j) % 4) = data / 2 ^ (8 * j) % 256

/-- Whether a byte at offset j of a place of one lane is also byte k of another's. -/
def SameByte (p : Place) (j : Nat) (q : Place) (k : Nat) : Prop :=
  match p, q with
  | .loc c a, .loc d b => c = d ∧ a + j = b + k
  | .glob ph _, .glob ph' _ => ph.pa + j = ph'.pa + k
  | _, _ => False

/-- Every cached translation starts at a multiple of the smallest page (R311). -/
def PagesAligned (s : State) : Prop := ∀ k, ∀ c ∈ tget [] s.caches k, c.base % 2 ^ 16 = 0

/-- The global places use registration all or none of them, and lie below 2^52. -/
def Alike (s : State) (ps : List (Nat × Place)) : Prop :=
  ∃ d, ∀ l ph va, (l, Place.glob ph va) ∈ ps → s.direct ph = d ∧ ph.pa < 2 ^ 52

/-- Stores of z bytes by some lanes have taken place in ascending order: each byte that no later lane stores to
holds its lane's data, and outside the words of the places nothing has changed in any core's store; memory of
a block that is not ordered changed in the stored bytes of places without registration alone. -/
structure Stored (core z : Nat) (ordered : Bool) (s t : State) (ps : List (Nat × Place)) (data : Nat → Nat) : Prop where
  bytes : (ordered = true → Alike s ps) → ∀ (n l : Nat) (p : Place), ps[n]? = some (l, p) → ∀ j, j < z →
    (∀ (m l' : Nat) (q : Place), n < m → ps[m]? = some (l', q) → ∀ k, k < z → ¬ SameByte p j q k) →
    StoredByte core t p (data l) j
  words : ∀ k, (∀ l c a, (l, Place.loc c a) ∈ ps → ∀ j, j < z → k ≠ storeKey c (a + j)) →
    t.word k = s.word k ∧ t.isPoison k = s.isPoison k
  empty : t.empty = s.empty
  memory : ordered = false → ∀ a, (∀ l ph va, (l, Place.glob ph va) ∈ ps → s.direct ph = true →
    a < ph.pa ∨ ph.pa + z ≤ a) → memByte t.mem a = memByte s.mem a

/-- The present word at an address of a space: of a core's store, or its latest value in memory; none where it is
poisoned, lost or another package's. -/
def presentWord (s : State) (space core a : Nat) : Option Word :=
  if space ≠ 0 then (if s.isPoison (storeKey core a) then none else some (s.word (storeKey core a)))
  else if regionOf a = .fabric then none
  else match s.latest (a / 4) with
    | some (v, false) => some v
    | _ => none

/-- The group of an issue has passed, and beside it, the store words `ks` and the units outside the warps nothing has
changed: no other word, no other warp, no memory and no system register. -/
structure Passes (i : Instr) (s t : State) (ks : List Nat) : Prop where
  lanes  : LanesPassed (issueCx i s) (s.warp (issueCx i s).wk) (t.warp (issueCx i s).wk) (fun _ v => v)
  warp   : WarpKept (issueCx i s) s t 0
  words  : WordsKept s t ks
  warps  : ∀ k, k ≠ (issueCx i s).wk → t.warp k = s.warp k
  memory : MemoryKept s t
  system : t.sysregs = s.sysregs

end Sys2Proof.Safety
end

