-- ==== Sys2Proof/Rules.lean ====
section
/-! DEFINITION. The manual's own formulas for what instructions compute, written apart from the model's meanings,
in tables that name each instruction with its formula (R62, R86 to R106). -/

namespace Sys2Proof.Rules

open Sys2Proof.Machine

/-- A lane's result and the flags it raises, from the instruction's fields and the lane's inputs. -/
abbrev LaneRule := Long → LaneIn → Res

/-- An instruction and its formula. -/
abbrev Entry := (Long → Instr) × LaneRule

/-! ## Integers (R62, R86, R87) -/

/-- The value of the low bits of a register as an integer type (R62). -/
def valueAs (t : IntType) (v : Nat) : Int :=
  if t.signed then (v : Int).bmod (2 ^ t.width) else (v : Int) % 2 ^ t.width

/-- The register bits of an integer of a type: wrapped to its width, then its sign or zeros above (R62). -/
def registerOf (t : IntType) (n : Int) : Nat :=
  ((if t.signed then n.bmod (2 ^ t.width) else n % 2 ^ t.width) % 2 ^ (if t.width = 64 then 64 else 32)).toNat

/-- R86's narrowing of the exact value x: wrapped, or under `.sat` clamped to the type's range with the
saturated flag when that changes x. -/
def narrowed (x : Long) (n : Int) : Res :=
  let t := intTypeOf x.tN
  let lo : Int := if t.signed then -2 ^ (t.width - 1) else 0
  let hi : Int := if t.signed then 2 ^ (t.width - 1) - 1 else 2 ^ t.width - 1
  if x.mN / 8 = 1 then
    (registerOf t (if n < lo then lo else if hi < n then hi else n), if n < lo ∨ hi < n then fSaturated else 0)
  else (registerOf t n, 0)

/-- The exact value of R86's table from the three sources read as the type. -/
def exactly (f : Int → Int → Int → Int) : LaneRule := fun x v =>
  let t := intTypeOf x.tN
  narrowed x (f (valueAs t v.a) (valueAs t v.b) (valueAs t v.c))

def iaddRule : LaneRule := exactly (fun a b _ => a + b)
def isubRule : LaneRule := exactly (fun a b _ => a - b)
def imulRule : LaneRule := exactly (fun a b _ => a * b)
def imadRule : LaneRule := exactly (fun a b c => a * b + c)
def iabsRule : LaneRule := exactly (fun a _ _ => |a|)
def inegRule : LaneRule := exactly (fun a _ _ => -a)

/-- R86's table, but for the two rows whose result is not narrowed to the type. -/
def integers : List Entry :=
  [((.iadd ·), iaddRule), ((.isub ·), isubRule), ((.imul ·), imulRule), ((.imad ·), imadRule),
    ((.iabs ·), iabsRule), ((.ineg ·), inegRule)]

/-- The rows of R86 that never saturate, whatever minor bit 12: it is zero in their encoding. -/
def unsaturated (f : IntType → Int → Int → Int → Int) : LaneRule := fun x v =>
  let t := intTypeOf x.tN
  (registerOf t (f t (valueAs t v.a) (valueAs t v.b) (valueAs t v.c)), 0)

def iminRule : LaneRule := unsaturated (fun _ a b _ => min a b)
def imaxRule : LaneRule := unsaturated (fun _ a b _ => max a b)
def iclampRule : LaneRule := unsaturated (fun _ a b c => min (max a b) c)
def isadRule : LaneRule := unsaturated (fun _ a b c => |a - b| + c)
def imulhRule : LaneRule := unsaturated (fun t a b _ => a * b / 2 ^ t.width)

/-- R86's rows without `.sat`. -/
def orders : List Entry :=
  [((.imin ·), iminRule), ((.imax ·), imaxRule), ((.iclamp ·), iclampRule), ((.isad ·), isadRule),
    ((.imulh ·), imulhRule)]

/-- IMADW (R86): a 64-bit addend of the same signedness, wrapped to 64 bits. -/
def madWide : LaneRule := fun x v =>
  let s := decide (x.tN = 0)
  (((valueAs ⟨32, s⟩ v.a * valueAs ⟨32, s⟩ v.b + valueAs ⟨64, s⟩ v.c) % 2 ^ 64).toNat, 0)

/-! ## Bits (R88 to R91, R93 to R95) -/

/-- The number whose bit i, below w, is f i. -/
def ofBits (w : Nat) (f : Nat → Bool) : Nat := ∑ i ∈ Finset.range w, if f i then 2 ^ i else 0

/-- A bit operation at the width w of its type. -/
def atWidth (f : Nat → Nat → Nat → Nat → Nat) : LaneRule := fun x v =>
  (f (if x.tN = 1 then 64 else 32) v.a v.b v.c, 0)

def andRule : LaneRule := atWidth (fun _ a b _ => a &&& b)
def orRule : LaneRule := atWidth (fun _ a b _ => a ||| b)
def xorRule : LaneRule := atWidth (fun _ a b _ => a ^^^ b)
def notRule : LaneRule := atWidth (fun w a _ _ => ofBits w (fun i => !a.testBit i))
def shlRule : LaneRule := atWidth (fun w a n _ => if w ≤ n then 0 else a * 2 ^ n % 2 ^ w)
def shrlRule : LaneRule := atWidth (fun w a n _ => if w ≤ n then 0 else a % 2 ^ w / 2 ^ n)
def shraRule : LaneRule := atWidth (fun w a n _ => ((a : Int).bmod (2 ^ w) / 2 ^ n % 2 ^ w).toNat)
def rotlRule : LaneRule := atWidth (fun w a n _ => ofBits w (fun i => a.testBit ((i + (w - n % w)) % w)))
def popcRule : LaneRule := atWidth (fun w a _ _ => ((List.range w).filter a.testBit).length)
def clzRule : LaneRule := atWidth (fun w a _ _ => w - Nat.size (a % 2 ^ w))
def ctzRule : LaneRule := atWidth (fun w a _ _ => ((List.range w).find? a.testBit).getD w)
def brevRule : LaneRule := atWidth (fun w a _ _ => ofBits w (fun i => a.testBit (w - 1 - i)))
def bfmRule : LaneRule := atWidth (fun w a b _ => ofBits w (fun i => a % 256 ≤ i && i < a % 256 + b % 256))
def bfiRule : LaneRule :=
  atWidth (fun w a b c => ofBits w (fun i =>
    if c % 256 ≤ i && i < c % 256 + c / 256 % 256 then b.testBit (i - c % 256) else a.testBit i))

/-- R88's table, BFI (R89) and PRMB (R90). -/
def bits : List Entry :=
  [((.and ·), andRule), ((.or ·), orRule), ((.xor ·), xorRule), ((.not ·), notRule), ((.shl ·), shlRule),
    ((.shrl ·), shrlRule), ((.shra ·), shraRule), ((.rotl ·), rotlRule), ((.popc ·), popcRule),
    ((.clz ·), clzRule), ((.ctz ·), ctzRule), ((.brev ·), brevRule), ((.bfm ·), bfmRule),
    ((.bfi ·), bfiRule)]

/-- FUNNEL (R88): z = a x 2^w + b, k = opC mod w; minor 0 left, 1 right. -/
def funnelRule : LaneRule := fun x v =>
  let w := if x.tN = 1 then 64 else 32
  let z := v.a % 2 ^ w * 2 ^ w + v.b % 2 ^ w
  (if x.mN = 1 then z / 2 ^ (v.c % w) % 2 ^ w else z * 2 ^ (v.c % w) / 2 ^ w % 2 ^ w, 0)

/-- BFX (R89): e extends a without limit. -/
def extractRule : LaneRule := fun x v =>
  let t := intTypeOf x.tN
  let len := min (v.c % 256) t.width
  let f := valueAs t v.a / 2 ^ (v.b % 256) % 2 ^ len
  (registerOf t (if len = 0 then 0 else if t.signed then f.bmod (2 ^ len) else f), 0)

/-- PRMB (R90): the byte that a selector of four bits chooses from the eight bytes of b:a. -/
def chosenByte (a b sel : Nat) : Nat :=
  let j := sel % 8
  let byte := (if j < 4 then a / 2 ^ (8 * j) else b / 2 ^ (8 * (j - 4))) % 256
  if sel / 8 % 2 = 0 then byte else if byte.testBit 7 then 0xFF else 0

def permuteRule : LaneRule := fun _ v =>
  (∑ i ∈ Finset.range 4, chosenByte v.a v.b (v.c / 2 ^ (4 * i) % 16) * 2 ^ (8 * i), 0)

/-- LOP (R91): bit i of the result is bit 4 a + 2 b + c of tt. -/
def truthRule (tt : Nat) (v : LaneIn) : Nat :=
  ofBits 32 (fun i => tt.testBit (4 * (v.a.testBit i).toNat + 2 * (v.b.testBit i).toNat + (v.c.testBit i).toNat))

def selRule : LaneRule := fun x v => (if xor v.pc (x.mN % 2 = 1) then v.a else v.b, 0)
def csetRule : LaneRule := fun x v => (if xor v.pa (x.mN % 2 = 1) then v.b else 0, 0)
def leaRule : LaneRule := fun x v => ((v.a + v.b * 2 ^ x.mN) % 2 ^ 32, 0)
def leawRule : LaneRule :=
  fun x v => ((((v.a : Int) + (v.b : Int).bmod (2 ^ 32) * 2 ^ x.mN) % 2 ^ 64).toNat, 0)
def movRule : LaneRule := fun _ v => (v.a, 0)
def movlRule : LaneRule := fun _ v => (v.b % 2 ^ 32 * 2 ^ 32 + v.a % 2 ^ 32, 0)

/-- SEL, CSET, LEA, LEAW, MOV and MOVL (R93 to R95). -/
def moves : List Entry :=
  [((.sel ·), selRule), ((.cset ·), csetRule), ((.lea ·), leaRule), ((.leaw ·), leawRule),
    ((.mov ·), movRule), ((.movl ·), movlRule), ((.funnel ·), funnelRule), ((.bfx ·), extractRule),
    ((.prmb ·), permuteRule), ((.imadw ·), madWide)]

/-! ## Floats (R66, R72, R98 to R104) -/

/-- One element of a scalar type, or the two halves of a packed one, each with its own drawn bits; the flags of
both (R66). -/
def perElement (g : Long → Fmt → Nat → Nat → Nat → Nat → Res) : LaneRule := fun x v =>
  match x.tN with
  | 4 =>
    let lo := g x fmtF16 v.r0 (v.a % 2 ^ 16) (v.b % 2 ^ 16) (v.c % 2 ^ 16)
    let hi := g x fmtF16 v.r1 (v.a / 2 ^ 16 % 2 ^ 16) (v.b / 2 ^ 16 % 2 ^ 16) (v.c / 2 ^ 16 % 2 ^ 16)
    (lo.1 + hi.1 * 2 ^ 16, lo.2 ||| hi.2)
  | 5 =>
    let lo := g x fmtBf16 v.r0 (v.a % 2 ^ 16) (v.b % 2 ^ 16) (v.c % 2 ^ 16)
    let hi := g x fmtBf16 v.r1 (v.a / 2 ^ 16 % 2 ^ 16) (v.b / 2 ^ 16 % 2 ^ 16) (v.c / 2 ^ 16 % 2 ^ 16)
    (lo.1 + hi.1 * 2 ^ 16, lo.2 ||| hi.2)
  | t =>
    let f := fmtOfFloat t
    g x f v.r0 (v.a % 2 ^ f.width) (v.b % 2 ^ f.width) (v.c % 2 ^ f.width)

/-- FSCALE: the count is a 32-bit register, or the half of its element. -/
def fscaleRule : LaneRule := fun x v =>
  if x.tN = 4 ∨ x.tN = 5 then
    perElement (fun x f r a b _ => floatScale f (roundMode x) (saturates x) r a ((b : Int).bmod (2 ^ 16))) x v
  else floatScale (fmtOfFloat x.tN) (roundMode x) (saturates x) v.r0 v.a ((v.b : Int).bmod (2 ^ 32))

def faddRule : LaneRule := perElement (fun x f r a b _ => floatAdd false f (roundMode x) (saturates x) r a b)
def fsubRule : LaneRule := perElement (fun x f r a b _ => floatAdd true f (roundMode x) (saturates x) r a b)
def fmulRule : LaneRule := perElement (fun x f r a b _ => floatMul f (roundMode x) (saturates x) r a b)
def ffmaRule : LaneRule := perElement (fun x f r a b c => floatFma f (roundMode x) (saturates x) r a b c)
def frndRule : LaneRule := perElement (fun x f r a _ _ => floatRnd f (roundMode x) r a)
def ffracRule : LaneRule := perElement (fun x f r a _ _ => floatFrac f (roundMode x) (saturates x) r a)

/-- The float instructions that round under the mode of their minor (R98). -/
def roundedFloats : List Entry :=
  [((.fadd ·), faddRule), ((.fsub ·), fsubRule), ((.fmul ·), fmulRule), ((.ffma ·), ffmaRule),
    ((.frnd ·), frndRule), ((.ffrac ·), ffracRule), ((.fscale ·), fscaleRule)]

def fminRule : LaneRule := perElement (fun _ f _ a b _ => floatMinMax false f a b)
def fmaxRule : LaneRule := perElement (fun _ f _ a b _ => floatMinMax true f a b)
def fclampRule : LaneRule := perElement (fun _ f _ a b c => floatClamp f a b c)
def fnegRule : LaneRule := perElement (fun _ f _ a _ _ => (a ^^^ 2 ^ (f.e + f.m), 0))
def fexpoRule : LaneRule :=
  fun x v => perElement (fun x f _ a _ _ => floatExpo (if x.tN = 4 ∨ x.tN = 5 then 16 else 32) f a) x v

/-- The float instructions that do not round (R98 to R100). -/
def exactFloats : List Entry :=
  [((.fmin ·), fminRule), ((.fmax ·), fmaxRule), ((.fclamp ·), fclampRule), ((.fneg ·), fnegRule),
    ((.fexpo ·), fexpoRule)]

/-! ## Compare and classify (R92, R93, R100) -/

/-- The condition codes of R92 on a three-way comparison of two ordered operands. -/
def holds (cc : Nat) (o : Ordering) : Bool :=
  match cc, o with
  | 0, .eq => true
  | 1, .lt => true
  | 1, .gt => true
  | 2, .lt => true
  | 3, .lt => true
  | 3, .eq => true
  | 4, .gt => true
  | 5, .gt => true
  | 5, .eq => true
  | 6, _ => true
  | _, _ => false

/-- A lane's truth value and the flags it raises. -/
abbrev PredRule := Long → LaneIn → Bool × FlagMask

/-- ICMP, FCMP, FCLASS and PSET (R92, R93, R100). -/
def compares : List ((Long → Instr) × PredRule) :=
  [((.icmp ·), fun x v =>
      (holds (min x.mN 5) (compare (valueAs (intTypeOf x.tN) v.a) (valueAs (intTypeOf x.tN) v.b)) && v.pc, 0)),
    ((.fcmp ·), fun x v =>
      let f := fmtOfFloat x.tN
      let p := f.decode v.a
      let q := f.decode v.b
      let signal := if p.isSignal || q.isSignal then fInvalid else 0
      if p.isNaN || q.isNaN then
        ((x.mN = 1 || x.mN = 7) && v.pc, if x.mN = 0 ∨ x.mN = 1 ∨ x.mN = 6 ∨ x.mN = 7 then signal else fInvalid)
      else (holds x.mN (p.cmp q) && v.pc, 0)),
    ((.fclass ·), fun x v => (v.b.testBit (floatClassBit (fmtOfFloat x.tN) v.a), 0)),
    ((.pset ·), fun x v => (x.mN.testBit (2 * v.pa.toNat + v.pb.toNat), 0))]

/-! ## Conversions (R101 to R104) -/

/-- The type number and the format register of a conversion layout in field B, and of that in field C (R50). -/
def layoutB (x : Long) : Nat × Nat := (x.bN % 32, x.bN / 32)
def layoutC (x : Long) : Nat × Nat := (x.cN % 32, x.cN / 32)

/-- The type that a layout names with the warp's format registers. -/
def typeAt (v : LaneIn) (u : Nat × Nat) : NumType := numTypeOf u.1 (lget fmtStart v.fmts u.2)

def cvtRule : LaneRule := fun x v =>
  convertNum (typeAt v (layoutB x)) (typeAt v (layoutC x)) (rmodeOf (x.mN % 8)) (x.mN / 8 = 1) v.r0 v.a

/-- CVT, CVTS, SCENC and SCDEC with the format registers they use. -/
def conversions : List (Entry × (Long → List (Nat × Nat))) :=
  [(((.cvt ·), cvtRule), fun x => [layoutB x, layoutC x]),
    (((.cvts ·), fun x v =>
      narrowScaled (typeAt v (layoutC x)) (rmodeOf (x.mN % 8)) (x.mN / 8 = 1) v.r0 v.a v.b), fun x => [layoutC x]),
    (((.scenc ·), fun x v => scaleEncode (rmodeOf x.mN) v.r0 v.a v.b), fun _ => []),
    (((.scdec ·), fun x v => scaleDecode (rmodeOf x.mN) v.r0 v.a v.b), fun _ => [])]

/-- Every long form whose guard can be false in every lane and that checks nothing before its guard but R59: all but the
handler's own, SYSRD and those that check a format register (R67). -/
def guarded (x : Long) : List Instr :=
  [.iadd x, .isub x, .imul x, .imulh x, .imad x, .imadw x, .isad x, .iabs x, .ineg x, .imin x, .imax x, .iclamp x,
    .iaddc x, .isubb x, .and x, .or x, .xor x, .not x, .shl x, .shrl x, .shra x, .rotl x, .funnel x, .popc x,
    .clz x, .ctz x, .brev x, .bfx x, .bfi x, .bfm x, .prmb x, .icmp x, .fcmp x, .sel x, .cset x, .pset x, .lea x,
    .leaw x, .mov x, .movl x, .movs x, .sets x, .pmovToRegister x, .pmovToPredicates x, .flgrd x, .flgclr x,
    .rng x, .rngseed x, .fadd x, .fsub x, .fmul x, .ffma x, .fmin x, .fmax x, .fclamp x, .frnd x, .ffrac x,
    .fscale x, .fexpo x, .fclass x, .fneg x, .scenc x, .scdec x, .rcp x, .rsq x, .sqrt x, .exp2 x, .log2 x, .sin x,
    .cos x, .tanh x, .idiv x, .irem x, .bra x, .brx x, .call x, .callx x, .ret x, .exit x, .nop x, .yield x,
    .safe x, .trap x, .bkpt x, .sleep x, .wake x, .tkwait x, .vote x, .shfl x, .redux x, .scan x, .matchLanes x,
    .partset x, .elect x, .lmask x, .ld x, .ldu x, .ldt x, .st x, .stt x, .gath x, .scat x, .atom x, .red x,
    .cas x, .fence x, .invr x, .inva x, .wbr x, .regr x, .pref x, .dalloc x, .dfree x, .copy x, .copyt x, .copyl x,
    .collAllReduce x, .collReduceScatter x, .collAllGather x, .collAllToAll x, .fput x, .fget x, .fatom x, .mma x,
    .mmaBmp x, .mmas x, .macc x, .mclr x, .mstep x, .mstepSet x, .mtok x, .mins x, .mrem x, .mdev x, .mcnt x,
    .mopen x, .mnext x, .mclose x, .sqpush x, .sqpop x, .sqflush x, .rtrc x, .rres x, .rahc x,
    .rsndInvalidateContext x, .rbver x, .bar x, .dcinc x, .dcdec x, .dcwait x, .boinit x, .boarrv x, .bowait x,
    .botest x, .fix x, .tickrd x, .lclk x, .pcsel x, .pcrd x, .launch x]

/-- Long forms that check format registers before their guard, with the layouts that name those (R50, R67). -/
def layered (x : Long) : List (Instr × List (Nat × Nat)) :=
  [(.cvt x, [layoutB x, layoutC x]), (.cvts x, [layoutC x]), (.pack x, [layoutC x]), (.unpk x, [layoutC x]),
    (.mcmp x, [layoutB x]), (.mbmp x, [layoutB x])]

/-! ## The special-function unit (R105, R106) -/

/-- The functions of R105, rounded under the code in field C. -/
def functions : List Entry :=
  let f := fun (op : SfuOp) (x : Long) (v : LaneIn) => sfuFloat op (fmtOfFloat x.tN) (rmodeOf x.cN) v.r0 v.a
  [((.rcp ·), f .rcp), ((.rsq ·), f .rsq), ((.sqrt ·), f .sqrt), ((.exp2 ·), f .exp2), ((.log2 ·), f .log2),
    ((.sin ·), f .sin), ((.cos ·), f .cos), ((.tanh ·), f .tanh)]

/-- R106: the quotient truncated toward zero, the remainder with the sign of a; a zero divisor gives all ones and
a, with divide-by-zero. -/
def division (remainder : Bool) : LaneRule := fun x v =>
  let t := intTypeOf x.tN
  let a := valueAs t v.a
  let b := valueAs t v.b
  if b = 0 then (if remainder then registerOf t a else 2 ^ (if t.width = 64 then 64 else 32) - 1, fDivZero)
  else (registerOf t (if remainder then a.tmod b else a.tdiv b), 0)

/-! ## Special registers (R32) -/

/-- The value of special register n for lane l of a warp in a berth, where a placement gives it (R32): none for
the registers that the handler window lacks and for reserved numbers. -/
def specialValue (s : State) (core berth : Nat) (w : Warp) (l n : Nat) : Option DWord :=
  let v := w.lane l
  let b := s.block w.block
  match n with
  | 0x00 => some (BitVec.ofNat 64 l)
  | 0x01 => if berth < 64 then some (BitVec.ofNat 64 (berth * 2 ^ 16 + w.index)) else none
  | 0x02 => some ((lget 0 v.tid 0).setWidth 64)
  | 0x03 => some ((lget 0 v.tid 1).setWidth 64)
  | 0x04 => some ((lget 0 v.tid 2).setWidth 64)
  | 0x05 => some (BitVec.ofNat 64 w.part)
  | 0x06 => some (w.flags.setWidth 64)
  | 0x07 => some (BitVec.ofNat 64 b.spBase)
  | 0x10 => some v.rngs
  | 0x11 => some s.tick
  | 0x12 => some (BitVec.ofNat 64 (b.index * 2 ^ 32 + b.fixer.length % 1024 * 2 ^ 16 + b.ordered.toNat))
  | 0x13 => if berth < 64 then some (BitVec.ofNat 64 w.vbase) else none
  | 0x14 => if berth < 64 then some (BitVec.ofNat 64 w.sbase) else none
  | 0x15 => some (BitVec.ofNat 64 b.accBase)
  | 0x16 => some w.mstat
  | 0x20 => some (s.core core).trapc
  | 0x21 => some (s.core core).trapa
  | 0x22 => some (s.core core).trapp
  | n =>
    if 0x08 ≤ n ∧ n ≤ 0x0F then some ((lget 0 v.lvl (n - 8)).setWidth 64)
    else if 0x18 ≤ n ∧ n ≤ 0x1F then some ((lget 0x0011C418 w.fmts (n - 0x18)).setWidth 64)
    else none

/-- One step of a random state (R72). -/
def stepOf (x : DWord) : DWord :=
  let x := x ^^^ (x <<< 13)
  let x := x ^^^ (x >>> 7)
  x ^^^ (x <<< 17)

/-- A stored random state: zero stores 1 (R35). -/
def storedState (x : DWord) : DWord := if x = 0 then 1 else x

/-! ## The short form (R53, R56) -/

/-- A short instruction, the long-form instruction of its table entry, its fields there, and its formula. -/
structure ShortEntry where
  short  : Short → Instr
  long   : Long → Instr
  fields : Short → Long
  rule   : LaneRule

/-- R56's table: the type code, the modifier bits and whether the operation takes one source, or the destination's
and the source's type number of a conversion. -/
def shorts : List ShortEntry :=
  [⟨(.iaddShort ·), (.iadd ·), fun x => x.toLong 0 0 false, iaddRule⟩,
    ⟨(.isubShort ·), (.isub ·), fun x => x.toLong 0 0 false, isubRule⟩,
    ⟨(.imulShort ·), (.imul ·), fun x => x.toLong 0 0 false, imulRule⟩,
    ⟨(.imulhI32Short ·), (.imulh ·), fun x => x.toLong 0 0 false, imulhRule⟩,
    ⟨(.imulhN32Short ·), (.imulh ·), fun x => x.toLong 1 0 false, imulhRule⟩,
    ⟨(.iminI32Short ·), (.imin ·), fun x => x.toLong 0 0 false, iminRule⟩,
    ⟨(.imaxI32Short ·), (.imax ·), fun x => x.toLong 0 0 false, imaxRule⟩,
    ⟨(.iminN32Short ·), (.imin ·), fun x => x.toLong 1 0 false, iminRule⟩,
    ⟨(.imaxN32Short ·), (.imax ·), fun x => x.toLong 1 0 false, imaxRule⟩,
    ⟨(.iaddSatI32Short ·), (.iadd ·), fun x => x.toLong 0 8 false, iaddRule⟩,
    ⟨(.isubSatI32Short ·), (.isub ·), fun x => x.toLong 0 8 false, isubRule⟩,
    ⟨(.iabsShort ·), (.iabs ·), fun x => x.toLong 0 0 true, iabsRule⟩,
    ⟨(.inegShort ·), (.ineg ·), fun x => x.toLong 0 0 true, inegRule⟩,
    ⟨(.iaddSatN32Short ·), (.iadd ·), fun x => x.toLong 1 8 false, iaddRule⟩,
    ⟨(.isubSatN32Short ·), (.isub ·), fun x => x.toLong 1 8 false, isubRule⟩] ++
  [⟨(.movShort ·), (.mov ·), fun x => x.toLong 0 0 true, movRule⟩,
    ⟨(.andShort ·), (.and ·), fun x => x.toLong 0 0 false, andRule⟩,
    ⟨(.orShort ·), (.or ·), fun x => x.toLong 0 0 false, orRule⟩,
    ⟨(.xorShort ·), (.xor ·), fun x => x.toLong 0 0 false, xorRule⟩,
    ⟨(.notShort ·), (.not ·), fun x => x.toLong 0 0 true, notRule⟩,
    ⟨(.shlShort ·), (.shl ·), fun x => x.toLong 0 0 false, shlRule⟩,
    ⟨(.shrlShort ·), (.shrl ·), fun x => x.toLong 0 0 false, shrlRule⟩,
    ⟨(.shraShort ·), (.shra ·), fun x => x.toLong 0 0 false, shraRule⟩,
    ⟨(.rotlShort ·), (.rotl ·), fun x => x.toLong 0 0 false, rotlRule⟩,
    ⟨(.popcShort ·), (.popc ·), fun x => x.toLong 0 0 true, popcRule⟩,
    ⟨(.clzShort ·), (.clz ·), fun x => x.toLong 0 0 true, clzRule⟩,
    ⟨(.ctzShort ·), (.ctz ·), fun x => x.toLong 0 0 true, ctzRule⟩,
    ⟨(.brevShort ·), (.brev ·), fun x => x.toLong 0 0 true, brevRule⟩,
    ⟨(.frndShort ·), (.frnd ·), fun x => x.toLong 0 0 true, frndRule⟩,
    ⟨(.ffracShort ·), (.ffrac ·), fun x => x.toLong 0 0 true, ffracRule⟩] ++
  [⟨(.fexpoShort ·), (.fexpo ·), fun x => x.toLong 0 0 true, fexpoRule⟩,
    ⟨(.fscaleShort ·), (.fscale ·), fun x => x.toLong 0 0 false, fscaleRule⟩,
    ⟨(.faddShort ·), (.fadd ·), fun x => x.toLong 0 0 false, faddRule⟩,
    ⟨(.fsubShort ·), (.fsub ·), fun x => x.toLong 0 0 false, fsubRule⟩,
    ⟨(.fmulShort ·), (.fmul ·), fun x => x.toLong 0 0 false, fmulRule⟩,
    ⟨(.fminShort ·), (.fmin ·), fun x => x.toLong 0 0 false, fminRule⟩,
    ⟨(.fmaxShort ·), (.fmax ·), fun x => x.toLong 0 0 false, fmaxRule⟩,
    ⟨(.fnegShort ·), (.fneg ·), fun x => x.toLong 0 0 true, fnegRule⟩,
    ⟨(.faddRzShort ·), (.fadd ·), fun x => x.toLong 0 1 false, faddRule⟩,
    ⟨(.fmulRzShort ·), (.fmul ·), fun x => x.toLong 0 1 false, fmulRule⟩,
    ⟨(.faddH2Short ·), (.fadd ·), fun x => x.toLong 4 0 false, faddRule⟩,
    ⟨(.fsubH2Short ·), (.fsub ·), fun x => x.toLong 4 0 false, fsubRule⟩,
    ⟨(.fmulH2Short ·), (.fmul ·), fun x => x.toLong 4 0 false, fmulRule⟩,
    ⟨(.fminH2Short ·), (.fmin ·), fun x => x.toLong 4 0 false, fminRule⟩,
    ⟨(.fmaxH2Short ·), (.fmax ·), fun x => x.toLong 4 0 false, fmaxRule⟩] ++
  [⟨(.faddG2Short ·), (.fadd ·), fun x => x.toLong 5 0 false, faddRule⟩,
    ⟨(.fmulG2Short ·), (.fmul ·), fun x => x.toLong 5 0 false, fmulRule⟩,
    ⟨(.fnegH2Short ·), (.fneg ·), fun x => x.toLong 4 0 true, fnegRule⟩,
    ⟨(.cvtF32I32Short ·), (.cvt ·), fun x => x.toCvt 12 2, cvtRule⟩,
    ⟨(.cvtI32F32Short ·), (.cvt ·), fun x => x.toCvt 2 12, cvtRule⟩,
    ⟨(.cvtF32N32Short ·), (.cvt ·), fun x => x.toCvt 12 6, cvtRule⟩,
    ⟨(.cvtN32F32Short ·), (.cvt ·), fun x => x.toCvt 6 12, cvtRule⟩,
    ⟨(.cvtF32F16Short ·), (.cvt ·), fun x => x.toCvt 12 10, cvtRule⟩,
    ⟨(.cvtF16F32Short ·), (.cvt ·), fun x => x.toCvt 10 12, cvtRule⟩,
    ⟨(.cvtF32Bf16Short ·), (.cvt ·), fun x => x.toCvt 12 11, cvtRule⟩,
    ⟨(.cvtBf16F32Short ·), (.cvt ·), fun x => x.toCvt 11 12, cvtRule⟩,
    ⟨(.leaS1Short ·), (.lea ·), fun x => x.toLong 0 1 false, leaRule⟩,
    ⟨(.leaS2Short ·), (.lea ·), fun x => x.toLong 0 2 false, leaRule⟩,
    ⟨(.leaS3Short ·), (.lea ·), fun x => x.toLong 0 3 false, leaRule⟩,
    ⟨(.leaS4Short ·), (.lea ·), fun x => x.toLong 0 4 false, leaRule⟩]

/-! ## Memory (R187, R194, R196) -/

/-- The value a register receives of z bytes of memory of a type code (R62, R187): bytes and halves are extended by
the type's signedness to 32 bits. -/
def extended (t raw : Nat) : Nat :=
  match t with
  | 4 => registerOf ⟨8, true⟩ (valueAs ⟨8, true⟩ raw)
  | 6 => registerOf ⟨16, true⟩ (valueAs ⟨16, true⟩ raw)
  | t => raw % 2 ^ (8 * memBytes t)

/-- R194's new value, from an old value of w bits and an operand. -/
def atomicRule (op t old b : Nat) : Nat :=
  let w := 8 * memBytes t
  let signed := fun (v : Nat) => (v : Int).bmod (2 ^ w)
  let b' := b % 2 ^ w
  match op with
  | 0 => (old + b) % 2 ^ w
  | 1 => Nat.land old b'
  | 2 => Nat.lor old b'
  | 3 => Nat.xor old b'
  | 4 => b'
  | 5 => if signed b' < signed old then b' else old
  | 6 => if signed old < signed b' then b' else old
  | 7 => min old b'
  | 8 => max old b'
  | 9 => (floatAdd false (fmtOfFloat t) .rn false 0 old b).1
  | 10 => (floatMinMax false (fmtOfFloat t) old b).1
  | _ => (floatMinMax true (fmtOfFloat t) old b).1

/-- What an atomic leaves of an old value: R194's, or R196's compare and swap, whose group is the compare value and
the new one, each in whole registers. -/
def leaves (kind : TxnKind) (x : Long) (group old : Nat) : Nat :=
  let w := 8 * memBytes x.tN
  let regs := 2 ^ (32 * (memBytes x.tN / 4))
  if kind = .cas ∨ x.cN / 8 % 32 = 12 then
    (if old = group % regs % 2 ^ w then group / regs % regs % 2 ^ w else old)
  else atomicRule (x.cN / 8 % 32) x.tN old group

/-! ## Compression (R153, R160) -/

/-- The eight codes of a group of registers, and how many of them come before code i in magnitude: a greater one, or
an equal one of a lower index; a NaN is above an infinity, and that above the finite values. -/
def codeOfGroup (t : NumType) (a i : Nat) : Nat := a / 2 ^ (t.width * i) % 2 ^ t.width
def before (t : NumType) (a i : Nat) : Nat :=
  let v := fun (j : Nat) => codeValue t (codeOfGroup t a j)
  ((List.range 8).filter (fun j => magnitudeBelow (v i) (v j) || (decide (j < i) && !magnitudeBelow (v j) (v i)))).length

/-- MCMP (R160): the four codes of largest magnitude in rising order of index, and their indices of three bits. -/
def compressRule : LaneRule := fun x v =>
  let t := typeAt v (layoutB x)
  let kept := (List.range 8).filter (fun i => before t v.a i < 4)
  let place := fun (f : Nat → Nat) (w : Nat) => (kept.zipIdx.map (fun e => f e.1 * 2 ^ (w * e.2))).sum
  (place (codeOfGroup t v.a) t.width + place id 3 * (if t.width = 16 then 2 ^ 64 else 2 ^ 32), 0)

/-- MBMP (R153): bit i says that code i is not zero. -/
def bitmapRule : LaneRule := fun x v =>
  let t := typeAt v (layoutB x)
  (((List.range 8).filter (fun i => !(codeValue t (codeOfGroup t v.a i)).isZero)).map (fun i => 2 ^ i) |>.sum, 0)

/-! ## Words and the turn that issues them (R41, R42, R111, R113) -/

/-- The fields of a long form in the order in which the manual draws them (R42): type, ET, C, B, A, dst, S, N, guard
and modifier bits. -/
def gridLong (ty et c b a dst safe neg guard mods : Nat) : Long where
  form := .long
  ty := BitVec.ofNat 3 ty
  et := BitVec.ofNat 3 et
  c := BitVec.ofNat 10 c
  b := BitVec.ofNat 10 b
  a := BitVec.ofNat 10 a
  dst := BitVec.ofNat 10 dst
  safe := safe = 1
  neg := neg = 1
  guard := BitVec.ofNat 3 guard
  mods := BitVec.ofNat 4 mods

/-- The same with a literal word. -/
def withLiteral (w : Word) (x : Long) : Long := { x with form := .literal w }

/-- The words of one instruction stand at an address: each is fetched in its place, and the first names the
length (R41). -/
def WordsAt (s : State) (wk : Nat) (pc : DWord) (ws : List Word) : Prop :=
  ws ≠ [] ∧ 4 * ws.length = lengthOf (ws.headD 0) ∧
  ∀ j, j < ws.length →
    fetchWord s (wk / 128) (s.ctxOf wk) (decide (wk % 128 = handlerBerth)) (pc.toNat + 4 * j) = .ok (ws.getD j 0)

/-- The step is an issue, and the group that issues is at `pc` in warp `wk` of the state `p`, which notes the warps
that stand at safe points (R111, R113, R117); no breakpoint stands there. -/
structure Chosen (s p : State) (core part wk : Nat) (e : LaneMask) (pc : DWord) : Prop where
  power  : s.powerOff = false
  turn   : s.turn = .issue core part ∧ coreRuns s core = true
  noted  : p = (partitionWarps core part).foldl (fun s k => parkSafe k s)
    ((windowKey core :: partitionWarps core part).foldl noteWaits s)
  chosen : chooseWarp p core part = some wk
  group  : candidates p wk = (e, pc)
  lanes  : e ≠ 0
  free   : breakpointAt p wk pc = none

/-- What every step keeps: memory in its one form, cached translations at page bounds, and the tables of blocks and
rays in rising order. -/
structure Canonical (s : State) : Prop where
  memory : Memory.wf s.mem
  pages  : Safety.PagesAligned s
  blocks : tsorted .none s.blocks = true
  rays   : tsorted .none s.rays = true

end Sys2Proof.Rules
end

