-- ==== Sys2Proof/Certificates/Slice0/Obligations.lean ====
section
/-! DEFINITION. The statements to be proved about the model. -/

open Sys2Proof Sys2Proof.Machine Sys2Proof.Safety Sys2Proof.Rules

/-! ## Computing in each lane (R86 to R104) -/

/-- The integer rows of R86 that accept `.sat`, and those that never saturate (their minor bits are zero): from every
state in which nothing stops the issue, the instruction completes with the row's exact value narrowed, the
saturated flag of any lane, and nothing else changed.
IADDC and ISUBB (R87): the w-bit sum or difference of the unsigned sources and the carry-in, and the carry-out
or borrow in the named predicate; code 7 is a carry-in of 0 and discards the carry-out; a uniform form names
`q` predicates. -/
def Obligations.IntegerResults : Prop :=
  (∀ e ∈ integers ++ orders, ∀ (x : Long) (s : State), Goes (e.1 x) false s →
     (e ∈ orders → x.mN = 0) →
     ∃ t, exec (e.1 x) s = .next t ∧
       Completes (e.1 x) s t (valueOf (e.1 x) s (e.2 x)) (flagsOf (e.1 x) s (e.2 x)) (fun _ v => v) id) ∧
  (∀ (subtract : Bool) (x : Long) (s : State),
     let i : Instr := if subtract then .isubb x else .iaddc x
     let cx := issueCx i s
     let w := (intTypeOf x.tN).width
     let sum : Nat → Int := fun l =>
       let v := laneIn cx s l
       let ci : Int := if x.cN % 8 ≠ 7 ∧
         (s.warp cx.wk).predOf (if cx.uni then 0x200 + x.cN % 8 else x.cN % 8) l then 1 else 0
       if subtract then (v.a : Int) % 2 ^ w - (v.b : Int) % 2 ^ w - ci
       else (v.a : Int) % 2 ^ w + (v.b : Int) % 2 ^ w + ci
     let carry : Nat → Bool := fun l => if subtract then sum l < 0 else 2 ^ w ≤ sum l
     let out := x.cN / 8 % 8
     Goes i false s → x.cN < 0x40 →
     ∃ t, exec i s = .next t ∧
       Completes i s t (fun l => (sum l % 2 ^ w).toNat) 0
         (fun l v => if out = 7 ∨ cx.uni then v else laneWithPred cx out carry l v)
         (fun q => if out = 7 ∨ ¬ cx.uni then q else warpWithPred (0x200 + out) (carry 0) q))

/-- The bit operations of R88, BFI (R89) and the rows of R88 to R95 that select, move and address.
LOP (R91): the 8-bit table of its major, minor and type field applied at every bit.
ICMP, FCMP, FCLASS and PSET (R92, R93, R100): the truth value in the predicate of each active lane, or in the
uniform predicate; a write to p7 or q3 is discarded; no register changes.
Beside the rules it rests on the model's own readings, log entry 22 (DEDUCED). -/
def Obligations.BitAndCompareResults : Prop :=
  ((∀ e ∈ bits ++ moves, ∀ (x : Long) (s : State), Goes (e.1 x) false s →
      ∃ t, exec (e.1 x) s = .next t ∧
        Completes (e.1 x) s t (valueOf (e.1 x) s (e.2 x)) 0 (fun _ v => v) id) ∧
   (∀ (hi : Bool) (x : Long) (s : State), Goes (.lop hi x) false s →
      ∃ t, exec (.lop hi x) s = .next t ∧
        Completes (.lop hi x) s t
          (fun l => truthRule ((if hi then 128 else 0) + 8 * x.mN + x.tN) (laneIn (issueCx (.lop hi x) s) s l)) 0
          (fun _ v => v) id)) ∧
  (∀ e ∈ compares, ∀ (x : Long) (s : State), Goes (e.1 x) false s →
     ∃ t, exec (e.1 x) s = .next t ∧
       Completes (e.1 x) s t (fun _ => 0)
         (flagsOf (e.1 x) s (fun v => (0, (e.2 x v).2)))
         (laneWithPred (issueCx (e.1 x) s) x.dN (fun l => (e.2 x (laneIn (issueCx (e.1 x) s) s l)).1))
         (warpWithPred x.dN (e.2 x (laneIn (issueCx (e.1 x) s) s 0)).1))

/-- The float instructions (R66, R72, R98 to R100): each element's result and flags, and under `.rs` one random step
for each element.
CVT, CVTS, SCENC and SCDEC: the converted value, and one random step for each evaluated lane under `.rs`, but
for a conversion between integer types. The format registers hold formats of the types' width classes.
Beside the rules it rests on the model's own readings, log entries 18 (DESIGN CHOICE), 24 (DEDUCED), 25 (DEDUCED). -/
def Obligations.FloatResults : Prop :=
  ((∀ e ∈ roundedFloats, ∀ (x : Long) (s : State), Goes (e.1 x) false s →
     ∃ t, exec (e.1 x) s = .next t ∧
       Completes (e.1 x) s t (valueOf (e.1 x) s (e.2 x)) (flagsOf (e.1 x) s (e.2 x))
         (drawn (issueCx (e.1 x) s)
           (if 4 ≤ x.mN % 8 then (if x.tN = 4 ∨ x.tN = 5 then 2 else 1) else 0)) id) ∧
   ∀ e ∈ exactFloats, ∀ (x : Long) (s : State), Goes (e.1 x) false s →
     ∃ t, exec (e.1 x) s = .next t ∧
       Completes (e.1 x) s t (valueOf (e.1 x) s (e.2 x)) (flagsOf (e.1 x) s (e.2 x)) (fun _ v => v) id) ∧
  (∀ e ∈ conversions, ∀ (x : Long) (s : State), Goes (e.1.1 x) false s → FormatsFit (e.1.1 x) s (e.2 x) →
     (e.2 x = [] → x.mN < 8) →
     let isInteger := fun (t : Nat) => decide (t ≤ 7 ∨ t = 20)
     ∃ t, exec (e.1.1 x) s = .next t ∧
       Completes (e.1.1 x) s t (valueOf (e.1.1 x) s (e.1.2 x)) (flagsOf (e.1.1 x) s (e.1.2 x))
         (drawn (issueCx (e.1.1 x) s)
           (if 4 ≤ x.mN % 8 ∧ ¬ (e.1.1 x = .cvt x ∧ isInteger x.dstType ∧ isInteger x.srcType) then 1 else 0)) id)

/-! ## Conversions and the special-function unit (R101 to R107) -/

/-- PACK (R63, R103): each active lane's code stands at its lane's place in a stream of 32 elements; active lane j
receives word j of it, or 0 beyond the stream.
UNPK (R63, R103): active lane l widens element l of the stream that the A words of lanes 0 to w - 1 form, with
its own scale.
Beside the rules it rests on the model's own readings, log entry 24 (DEDUCED). -/
def Obligations.PackResults : Prop :=
  (∀ (x : Long) (s : State), Goes (.pack x) false s → x.dN < 0x100 → FormatsFit (.pack x) s [layoutC x] →
     let cx := issueCx (.pack x) s
     let code := fun l =>
       let v := laneIn cx s l
       narrowScaled (typeAt v (layoutC x)) (rmodeOf (x.mN % 8)) (x.mN / 8 = 1) v.r0 v.a v.b
     let w := (typeAt (laneIn cx s 0) (layoutC x)).width
     let stream := ((lanesOf cx.act).map (fun l => (code l).1 % 2 ^ w * 2 ^ (l * w))).sum
     ∃ t, exec (.pack x) s = .next t ∧
       Completes (.pack x) s t (fun l => if l < w then stream / 2 ^ (32 * l) % 2 ^ 32 else 0)
         ((lanesOf cx.act).foldl (fun m l => m ||| (code l).2) 0)
         (drawn cx (if 4 ≤ x.mN % 8 then 1 else 0)) id) ∧
  (∀ (x : Long) (s : State), Goes (.unpk x) false s → x.dN < 0x100 → FormatsFit (.unpk x) s [layoutC x] →
     let cx := issueCx (.unpk x) s
     let w := (typeAt (laneIn cx s 0) (layoutC x)).width
     let stream := ((List.range w).map (fun j => s.operand cx (.int 32) 1 x.aN j % 2 ^ 32 * 2 ^ (32 * j))).sum
     let wide := fun l =>
       let v := laneIn cx s l
       widenScaled (typeAt v (layoutC x)) (rmodeOf (x.mN % 8)) (x.mN / 8 = 1) v.r0
         (stream / 2 ^ (l * w) % 2 ^ w) v.b
     ∃ t, exec (.unpk x) s = .next t ∧
       Completes (.unpk x) s t (fun l => (wide l).1) ((evalLanes cx).foldl (fun m l => m ||| (wide l).2) 0)
         (drawn cx (if 4 ≤ x.mN % 8 then 1 else 0)) id)

/-- The functions of R105 complete as producers: the value rounded once under the code in field C, flags on landing,
and a random step at issue under `.rs`.
Beside the rules it rests on the model's own readings, log entry 74 (DEDUCED). -/
def Obligations.FunctionResults : Prop :=
  ∀ e ∈ functions, ∀ (x : Long) (s : State), Goes (e.1 x) false s →
    ∃ t, exec (e.1 x) s = .next t ∧
      Pends (e.1 x) s t .sfu 0 (valueOf (e.1 x) s (e.2 x)) (flagsOf (e.1 x) s (e.2 x))
        (drawn (issueCx (e.1 x) s) (if 4 ≤ x.cN then 1 else 0))

/-- IDIV and IREM (R106) complete as producers: the quotient truncated toward zero, the remainder with the sign of
a; a zero divisor gives all ones and a, and raises divide-by-zero; the signed minimum divided by -1 gives the signed
minimum and 0 with no flag. -/
def Obligations.DivisionResults : Prop :=
  ∀ (remainder : Bool) (x : Long) (s : State), x.tN < 4 →
    let i : Instr := if remainder then .irem x else .idiv x
    Goes i false s →
    (∃ t, exec i s = .next t ∧
      Pends i s t .sfu 0 (valueOf i s (division remainder x)) (flagsOf i s (division remainder x)) (fun _ v => v)) ∧
    ∀ v : LaneIn, (intTypeOf x.tN).signed = true →
      v.a = 2 ^ ((intTypeOf x.tN).width - 1) → v.b = 2 ^ (intTypeOf x.tN).width - 1 →
      division remainder x v = (if remainder then 0 else v.a, 0)

/-- Results land (R26, R107, R127): the oldest pending SFU result of a warp, a SHFL result once its clock has
come, and an MNEXT result at any time. Their words hold their values, full; their flags rise in the warp; nothing
else changes while the warp has a lane that has not exited.
Beside the rules it rests on the model's own readings, log entry 74 (DEDUCED). -/
def Obligations.ResultsLand : Prop :=
  ∀ (s : State) (k : Nat) (p : Prod), tfind s.prods k = some p → (p.words.map Landing.key).Nodup →
    (s.warp p.warp).ended = false →
    (∀ core berth, s.now = .sfuResultLanding core berth → p.warp = warpKey core berth →
      s.prods.find? (fun e => e.2.warp = p.warp && e.2.kind = .sfu) = some (k, p) →
      ∃ t, exec .sfuResultLanding s = .next t ∧ Landed s t k p) ∧
    (s.now = .shflResultLanding k → p.kind = .shfl → p.after ≤ s.clk →
      ∃ t, exec .shflResultLanding s = .next t ∧ Landed s t k p) ∧
    (s.now = .producerResultArrival k → p.kind = .mnext →
      ∃ t, exec .producerResultArrival s = .next t ∧ Landed s t k p)

/-! ## Special registers, predicates and flags (R32 to R36, R95 to R97, R108, R109) -/

/-- MOVS (R96): each evaluated lane receives the special register's value, which R32's table gives.
PARTSET (R33, R132), and SETS (R33 to R36, R97): RNGS in each active lane, zero stored as 1; PART and FLAGS once,
reserved bits dropped; a format register without its reserved bits. A value that R33 or R36 refuses takes the
illegal-instruction fault and leaves the register unchanged.
R36's conditions on a format register, at every value: WIDTH 4 to 8, EXP at most WIDTH less SIGN, POLICY not 0b11, and
EXP at least 2 under `ieee`.
Beside the rules it rests on the model's own readings, log entry 32 (DEDUCED). -/
def Obligations.SpecialRegisters : Prop :=
  ((∀ (x : Long) (s : State), Goes (.movs x) false s →
     let cx := issueCx (.movs x) s
     ∃ t, exec (.movs x) s = .next t ∧
       Completes (.movs x) s t (fun l => (s.special cx.core cx.berth (s.warp cx.wk) (x.aN - 0x180) l).toNat) 0
         (fun _ v => v) id) ∧
   ∀ (s : State) (core berth : Nat) (w : Warp) (l n : Nat) (v : DWord),
     specialValue s core berth w l n = some v → s.special core berth w n l = v) ∧
  ((∀ (x : Long) (s : State), Goes (.partset x) false s →
     let i : Instr := .partset x
     let cx := issueCx i s
     let v := s.opA cx 0
     (v % 8 ∉ [0, 6, 7] → exec i s = .next ((s.modWarp cx.wk (fun w => { w with part := v % 8 })).advance cx)) ∧
     (v % 8 ∈ [0, 6, 7] → exec i s = .next (s.raise cx.wk (s.trapOf cx .illegal 0 cx.group 0)))) ∧
   ∀ (x : Long) (s : State), Goes (.sets x) false s →
     let i : Instr := .sets x
     let cx := issueCx i s
     let n := x.dN - 0x180
     let v := s.opA cx 0
     (n = 0x10 → ∃ t, exec i s = .next t ∧
       Completes i s t (fun _ => 0) 0
         (fun l y => if cx.act.getLsbD l then { y with rngs := storedState (BitVec.ofNat 64 (s.opA cx l)) } else y)
         id) ∧
     (n = 0x05 → v % 8 ∉ [0, 6, 7] →
       exec i s = .next ((s.modWarp cx.wk (fun w => { w with part := v % 8 })).advance cx)) ∧
     (n = 0x05 → v % 8 ∈ [0, 6, 7] →
       exec i s = .next (s.raise cx.wk (s.trapOf cx .illegal 0 cx.group 0))) ∧
     (n = 0x06 →
       exec i s = .next ((s.modWarp cx.wk (fun w => { w with flags := BitVec.ofNat 6 v })).advance cx)) ∧
     (0x18 ≤ n → n ≤ 0x1F → fmtRegOk (BitVec.ofNat 32 v) = true →
       exec i s = .next ((s.modWarp cx.wk (fun w =>
         { w with fmts := lupd (fun _ => BitVec.ofNat 32 v &&& 0x003FCF1F) w.fmts (n - 0x18) })).advance cx)) ∧
     (0x18 ≤ n → n ≤ 0x1F → fmtRegOk (BitVec.ofNat 32 v) = false →
       exec i s = .next (s.raise cx.wk (s.trapOf cx .illegal 0 cx.group 0)))) ∧
  (∀ v : Word,
     let width := v.toNat % 16
     let sign := v.toNat / 16 % 2
     let e := v.toNat / 2 ^ 8 % 16
     let policy := v.toNat / 2 ^ 20 % 4
     fmtRegOk v = true ↔
       (4 ≤ width ∧ width ≤ 8) ∧ e ≤ width - sign ∧ policy ≠ 3 ∧ (policy = 0 → 2 ≤ e))

/-- PMOV (R95): bits 6..0 from p0 to p6 with bit 7 one, or bits 2..0 from q0 to q2 with bit 3 one; and the
predicates that b's bits name set from a's bits, p7 and q3 never.
FLGRD and FLGCLR (R108): FLAGS, zero-extended, to every evaluated lane; FLAGS without the bits that bits 5..0 of
a name, bits 31..6 ignored.
RNG and RNGSEED (R35, R72, R109): one step of each active lane's random state, of which `.b32` gives bits 63..32
and `.b64` all; or the seed xor the lane's start value, zero stored as 1. -/
def Obligations.StateMoves : Prop :=
  ((∀ (x : Long) (s : State), Goes (.pmovToRegister x) false s →
     let cx := issueCx (.pmovToRegister x) s
     let w := s.warp cx.wk
     ∃ t, exec (.pmovToRegister x) s = .next t ∧
       Completes (.pmovToRegister x) s t (fun l =>
         if cx.uni then w.qpreds.toNat + 8 else (w.lane l).preds.toNat + 128) 0 (fun _ v => v) id) ∧
   ∀ (x : Long) (s : State), Goes (.pmovToPredicates x) false s →
     let cx := issueCx (.pmovToPredicates x) s
     ∃ t, exec (.pmovToPredicates x) s = .next t ∧
       Completes (.pmovToPredicates x) s t (fun _ => 0) 0
         (fun l v =>
           let a : BitVec 7 := BitVec.ofNat 7 (s.opA cx l)
           let b : BitVec 7 := BitVec.ofNat 7 (s.opB cx l)
           if ¬ cx.uni ∧ cx.act.getLsbD l then
             { v with preds := (v.preds &&& ~~~b) ||| (a &&& b), busy := v.busy &&& ~~~b }
           else v)
         (fun w =>
           let a : BitVec 3 := BitVec.ofNat 3 (s.opA cx 0)
           let b : BitVec 3 := BitVec.ofNat 3 (s.opB cx 0)
           if cx.uni then { w with qpreds := (w.qpreds &&& ~~~b) ||| (a &&& b), qbusy := w.qbusy &&& ~~~b } else w)) ∧
  ((∀ (x : Long) (s : State), Goes (.flgrd x) false s →
     ∃ t, exec (.flgrd x) s = .next t ∧
       Completes (.flgrd x) s t (fun _ => (s.warp (issueCx (.flgrd x) s).wk).flags.toNat) 0 (fun _ v => v) id) ∧
   ∀ (x : Long) (s : State), Goes (.flgclr x) false s →
     let cx := issueCx (.flgclr x) s
     exec (.flgclr x) s = .next ((s.modWarp cx.wk (fun w =>
       { w with flags := w.flags &&& ~~~ BitVec.ofNat 6 (s.opA cx 0) })).advance cx)) ∧
  ((∀ (x : Long) (s : State), Goes (.rng x) false s → x.dN < 0x100 →
     let cx := issueCx (.rng x) s
     ∃ t, exec (.rng x) s = .next t ∧
       Completes (.rng x) s t (fun l =>
         let y := stepOf ((s.warp cx.wk).lane l).rngs
         if x.tN = 1 then y.toNat else y.toNat / 2 ^ 32) 0
         (fun l v => if cx.act.getLsbD l then { v with rngs := stepOf v.rngs } else v) id) ∧
   ∀ (x : Long) (s : State), Goes (.rngseed x) false s →
     let cx := issueCx (.rngseed x) s
     ∃ t, exec (.rngseed x) s = .next t ∧
       Completes (.rngseed x) s t (fun _ => 0) 0
         (fun l v => if cx.act.getLsbD l then
           { v with rngs := storedState (BitVec.ofNat 64 (s.opA cx l) ^^^ v.start) } else v) id)

/-! ## Short and pair forms (R53 to R56) -/

/-- A short instruction does what the long form of its table entry does (R53), and completes with that
entry's result.
A pair (R54, R55): both halves read before either writes, FLAGS receives the OR of both, and the group passes
the pair once. A half is none for NOP.
Beside the rules it rests on the model's own readings, log entry 26 (DEDUCED). -/
def Obligations.ShortResults : Prop :=
  (∀ e ∈ shorts, ∀ (x : Short) (s : State),
     exec (e.short x) s = exec (e.long (e.fields x)) s ∧
     (Goes (e.long (e.fields x)) false s → ∃ t, exec (e.short x) s = .next t ∧
       Completes (e.long (e.fields x)) s t (valueOf (e.long (e.fields x)) s (e.rule (e.fields x)))
         (flagsOf (e.long (e.fields x)) s (e.rule (e.fields x))) (fun _ v => v) id)) ∧
  (∀ (p : Pair) (s : State) (h0 h1 : Option (Ctx × (LaneIn → LaneOut))),
     halfIssue p.h0 p.safe s = h0 → halfIssue p.h1 p.safe s = h1 →
     halfFault h0 s = none → halfFault h1 s = none →
     let halves := h0.toList ++ h1.toList
     let wk := warpKey s.cur.core s.cur.berth
     let keys := halves.flatMap (fun h => dstKeys h.1 (s.warp wk))
     keys.Nodup →
     ∃ t, exec (.pair p) s = .next t ∧
       (∀ h ∈ halves, ∀ l ∈ evalLanes h.1,
         Holds t (codeKeys h.1.core (s.warp wk) h.1.x.dN (h.1.sh.dst.writes h.1.sh h.1.x) l)
           (h.2 (laneIn h.1 s l)).value) ∧
       WordsKept s t keys ∧
       (t.warp wk).flags = halves.foldl (fun m h =>
         (evalLanes h.1).foldl (fun m l => m ||| (h.2 (laneIn h.1 s l)).flags) m) (s.warp wk).flags ∧
       (∀ l v, (s.warp wk).lanes[l]? = some v → (t.warp wk).lanes[l]? = some (
         if s.cur.lanes.getLsbD l then movedOn v (BitVec.ofNat 64 (s.cur.pc.toNat + s.cur.len)) else v)) ∧
       (∀ k, k ≠ wk → t.warp k = s.warp k) ∧ MemoryKept s t ∧
       t = { s with store := t.store, empty := t.empty, poison := t.poison, warps := t.warps })

/-- NOP in the long form, SAFE and the short NOP (R118, R122) have no effect but to pass their group; the short NOP does
so from every state.
R40 and R85: a long form that is not the handler's, SYSRD apart, whose guard is false in every lane of its issue group
and whose registers, privilege and format registers pass R59 and R67, only moves the group past itself.
Beside the rules it rests on the model's own readings, log entry 26 (DEDUCED). -/
def Obligations.NopsOnlyPass : Prop :=
  ((∀ (x : Long) (s : State), Goes (.nop x) false s → ∃ t, exec (.nop x) s = .next t ∧
     Completes (.nop x) s t (fun _ => 0) 0 (fun _ v => v) id) ∧
   (∀ (x : Long) (s : State), Goes (.safe x) false s → ∃ t, exec (.safe x) s = .next t ∧
     Completes (.safe x) s t (fun _ => 0) 0 (fun _ v => v) id) ∧
   ∀ s : State, ∃ t, exec .nopShort s = .next t ∧ ∀ cx : Ctx, cx.wk = warpKey s.cur.core s.cur.berth →
     cx.group = s.cur.lanes → cx.pc = s.cur.pc → cx.len = s.cur.len →
     LanesPassed cx (s.warp cx.wk) (t.warp cx.wk) (fun _ v => v) ∧ WarpKept cx s t 0 ∧ WordsKept s t [] ∧
       RestKept cx s t) ∧
  (∀ (x : Long) (s : State), ∀ i ∈ guarded x,
     decodeFault false i.isFget (issueCx i s) s = none → (issueCx i s).act = 0 →
       exec i s = .next (s.advance (issueCx i s))) ∧
  (∀ (x : Long) (s : State), ∀ e ∈ layered x,
     decodeFault false false (issueCx e.1 s) s = none → FormatsFit e.1 s e.2 → (issueCx e.1 s).act = 0 →
       exec e.1 s = .next (s.advance (issueCx e.1 s)))

/-! ## Control flow (R110 to R125) -/

/-- BRA, BRX, CALL, CALLX and RET (R119, R120): active lanes move to their targets and the others pass; a call writes
the address after it to its pair; a lane whose target is no instruction address makes the instruction take the
illegal-instruction fault with the mask of such lanes, before anything is written.
EXIT (R121): the active lanes exit and the others of the group pass; a warp with a lane left goes on; a warp of
a berth with none left, with nothing outstanding and no fault, gives its berth up.
Beside the rules it rests on the model's own readings, log entry 71 (DEDUCED). -/
def Obligations.Transfers : Prop :=
  (∀ (x : Long) (s : State), ∀ i ∈ ([.bra x, .brx x, .call x, .callx x, .ret x] : List Instr), Goes i false s →
     let cx := issueCx i s
     let off : Int := ((x.aN + 2 ^ 10 * x.bN + 2 ^ 20 * x.cN : Nat) : Int).bmod (2 ^ 30)
     let target : Nat → Nat := fun l =>
       if i = .bra x ∨ i = .call x then (((cx.pc.toNat : Int) + off * 4) % 2 ^ 64).toNat else s.opA cx l
     let wrong : Nat → Bool := fun l => target l % 4 ≠ 0 || 2 ^ 57 ≤ target l
     let bad := maskOf (fun l => cx.act.getLsbD l && wrong l)
     (bad ≠ 0 → exec i s = .next (s.raise cx.wk (s.trapOf cx .illegal 0 bad 0))) ∧
     (bad = 0 → ∃ t, exec i s = .next t ∧
       (∀ l ∈ evalLanes cx, Holds t (dstOf i s l) (cx.pc.toNat + cx.len)) ∧
       WordsKept s t (dstKeys cx (s.warp cx.wk)) ∧
       (∀ l v, (s.warp cx.wk).lanes[l]? = some v → (t.warp cx.wk).lanes[l]? = some (
         let v' := if cx.group.getLsbD l then passed cx v else v
         if cx.act.getLsbD l then { v' with pc := BitVec.ofNat 64 (target l) } else v')) ∧
       WarpKept cx s t 0 ∧
       (t.warp cx.wk).qpreds = (s.warp cx.wk).qpreds ∧ RestKept cx s t)) ∧
  (∀ (x : Long) (s : State), Goes (.exit x) false s →
     let cx := issueCx (.exit x) s
     let left := fun (l : Nat) (v : Lane) =>
       if cx.act.getLsbD l then { v with exited := true, released := false }
       else if cx.group.getLsbD l then passed cx v else v
     ((∃ l v, (s.warp cx.wk).lanes[l]? = some v ∧ (left l v).exited = false) →
       ∃ t, exec (.exit x) s = .next t ∧
         (∀ l v, (s.warp cx.wk).lanes[l]? = some v → (t.warp cx.wk).lanes[l]? = some (left l v)) ∧
         WarpKept cx s t 0 ∧ WordsKept s t [] ∧ RestKept cx s t) ∧
     ((∀ l v, (s.warp cx.wk).lanes[l]? = some v → (left l v).exited = true) → s.outstanding cx.wk = false →
       (s.warp cx.wk).live = true → (s.warp cx.wk).fault = none → cx.wk % 128 ≠ 64 →
       ∃ t, exec (.exit x) s = .next t ∧ (t.warp cx.wk).live = false))

/-- YIELD and SLEEP (R111, R123): YIELD records its PC and its group for the next choice of a PC; SLEEP puts the warp to
sleep with the lowest active lane's limit, or spends a set wake latch instead.
TKWAIT (R125): it passes once TICK has reached the value of every active lane, compared as unsigned numbers, with
no further effect; before that it changes nothing. -/
def Obligations.YieldAndSleep : Prop :=
  ((∀ (x : Long) (s : State), Goes (.yield x) false s →
     let cx := issueCx (.yield x) s
     exec (.yield x) s = .next ((s.modWarp cx.wk (fun w =>
       { w with yieldPending := true, yieldPc := cx.pc, yielders := cx.group })).advance cx)) ∧
   ∀ (x : Long) (s : State), Goes (.sleep x) false s →
     let cx := issueCx (.sleep x) s
     let w := s.warp cx.wk
     (w.wakeLatch = false → ∃ t, exec (.sleep x) s = .next t ∧ (t.warp cx.wk).asleep = true ∧
       (t.warp cx.wk).sleepTick = BitVec.ofNat 64 (s.opA cx (lowestLane cx.act)) ∧
       LanesPassed cx w (t.warp cx.wk) (fun _ v => v) ∧ WordsKept s t [] ∧ RestKept cx s t) ∧
     (w.wakeLatch = true → ∃ t, exec (.sleep x) s = .next t ∧ (t.warp cx.wk).asleep = w.asleep ∧
       (t.warp cx.wk).wakeLatch = false ∧
       LanesPassed cx w (t.warp cx.wk) (fun _ v => v) ∧ WordsKept s t [] ∧ RestKept cx s t)) ∧
  (∀ (x : Long) (s : State), Goes (.tkwait x) false s →
     let cx := issueCx (.tkwait x) s
     ((∀ l ∈ lanesOf cx.act, s.opA cx l ≤ s.tick.toNat) → exec (.tkwait x) s = .next (s.advance cx)) ∧
     ((∃ l ∈ lanesOf cx.act, s.tick.toNat < s.opA cx l) → exec (.tkwait x) s = .next s))

/-- WAKE (R124): for each bit i of the OR of the active lanes' masks, the warp of the issuing block with index i is
woken, or has its latch set if it is awake; every other warp stays as it was. -/
def Obligations.WarpsWake : Prop :=
  ∀ (x : Long) (s : State), Goes (.wake x) false s →
    let cx := issueCx (.wake x) s
    let b := (s.warp cx.wk).block
    let mask := (lanesOf cx.act).foldl (fun m l => m ||| s.opA cx l) 0
    let named := fun (k : Nat) => ∃ i, i < 64 ∧ mask.testBit i = true ∧ s.warpOf b i = some k
    ∃ t, exec (.wake x) s = .next t ∧
      (∀ k, named k → (s.warp k).asleep = true →
        (t.warp k).asleep = false ∧ (t.warp k).sleepTick = 0 ∧ (t.warp k).wakeLatch = (s.warp k).wakeLatch) ∧
      (∀ k, named k → (s.warp k).asleep = false → (t.warp k).asleep = false ∧ (t.warp k).wakeLatch = true) ∧
      (∀ k, k ≠ cx.wk → ¬ named k → t.warp k = s.warp k) ∧
      LanesPassed cx (s.warp cx.wk) (t.warp cx.wk) (fun _ v => v) ∧
      WordsKept s t [] ∧ MemoryKept s t ∧ t = { s with warps := t.warps }

/-! ## Traps (R363 to R369, R377) -/

/-- R377: TRAP raises its cause with bits 7..0 of the lowest active lane's operand, BKPT the breakpoint cause with
qualifier 0xFF; the lanes are the active lanes and the address the instruction's. -/
def Obligations.TrapInstructions : Prop :=
  ∀ (x : Long) (s : State),
    (Goes (.trap x) false s →
      let cx := issueCx (.trap x) s
      ∃ f : Trap, exec (.trap x) s = .next (s.raise cx.wk f) ∧ f.cause = .trap ∧
        f.qual = s.opA cx (lowestLane cx.act) % 256 ∧ f.lanes = cx.act ∧ f.low = lowestLane cx.act ∧ f.pc = cx.pc ∧
        f.addr = 0 ∧ f.apart = false) ∧
    (Goes (.bkpt x) false s →
      let cx := issueCx (.bkpt x) s
      ∃ f : Trap, exec (.bkpt x) s = .next (s.raise cx.wk f) ∧ f.cause = .breakpoint ∧ f.qual = 0xFF ∧
        f.lanes = cx.act ∧ f.low = lowestLane cx.act ∧ f.pc = cx.pc ∧ f.addr = 0 ∧ f.apart = false)

/-- Trap entry (R363, R366, R367): with the window idle, no other fault waiting on the core and a handler installed,
a fault of a warp writes TRAPC by R363's map, TRAPA and TRAPP, starts the window with all 32 lanes at the
handler's address, and gives it the served warp's WARP in s0 and its block's index in s1. No memory changes.
Return from the handler (R368, R369): retry resumes the warp, with the report latch at TRAPP after a watchpoint or
a breakpoint; skip moves each named lane that is still at TRAPP past the instruction that stands there; hold
leaves the warp stopped; discard ends the block. With no other fault waiting, the window is idle again.
Beside the rules it rests on the model's own readings, log entry 69 (DEDUCED). -/
def Obligations.TrapEntryAndReturn : Prop :=
  (∀ (s : State) (core berth : Nat) (f : Trap), berth < 64 →
     let wk := warpKey core berth
     let w := s.warp wk
     let b := s.block w.block
     let vec := s.sysreg (0x1B0 + b.ctx)
     let win := windowKey core
     f.pend = false → w.live = true → (s.core core).serving = none → vec.getLsbD 63 = true →
     (s.sysreg 0x1C8).getLsbD 8 = false →
     (∀ k, k < 64 → k ≠ berth → (s.warp (warpKey core k)).fault = none) →
     let t := s.raise wk f
     (t.core core).serving = some berth ∧
     (t.core core).trapc.toNat =
       (f.lanes.toNat * 2 ^ 32 + f.low * 2 ^ 16 + f.qual * 2 ^ 8 + f.cause.code) % 2 ^ 64 ∧
     (t.core core).trapa.toNat = f.addr.toNat % 2 ^ 57 ∧ (t.core core).trapp = f.pc ∧
     (t.warp wk).fault = some { f with tick := s.tick } ∧
     (t.warp win).live = true ∧ (t.warp win).block = w.block ∧
     (∀ v ∈ (t.warp win).lanes, v.exited = false ∧ v.pc.toNat = vec.toNat / 4 % 2 ^ 55 * 4) ∧
     ((s.warp win).lanes = [] ∨ (s.warp win).lanes.length = 32 → (t.warp win).lanes.length = 32) ∧
     t.word (core * 0x200000 + 0x402000 / 4) = BitVec.ofNat 32 (berth * 2 ^ 16 + w.index) ∧
     t.word (core * 0x200000 + 0x402000 / 4 + 1) = BitVec.ofNat 32 b.index ∧
     (∀ k, k ≠ wk → k ≠ win → t.warp k = s.warp k) ∧ MemoryKept s t ∧ t.sysregs = s.sysregs) ∧
  (∀ (x : Long) (s : State) (berth : Nat),
     let core := s.cur.core
     let wk := warpKey core berth
     let c := s.core core
     let w := s.warp wk
     let cause := c.trapc.toNat % 256
     s.cur.berth = 64 → berth < 64 → c.serving = some berth → w.live = true → w.ended = false → c.apart = false →
     w.later = [] → (∀ e ∈ s.txns, e.2.warp = windowKey core → e.2.kind ≠ .stt) →
     (∀ k, k < 64 → k ≠ berth → (s.warp (warpKey core k)).fault = none) →
     (Goes (.tretRetry x) true s → ∃ t, exec (.tretRetry x) s = .next t ∧ (t.core core).serving = none ∧
       t.warp wk = { w with fault := none, idle := 0, stopped := false
                            latch := if cause = 0x0E ∨ cause = 0x0F then some c.trapp else w.latch } ∧
       (t.warp (windowKey core)).live = false ∧ t.mem = s.mem ∧ t.store = s.store) ∧
     (Goes (.tretSkip x) true s → ∀ w0, fetchWord s core (s.block w.block).ctx false c.trapp.toNat = .ok w0 →
       let skipped := fun (l : Nat) (v : Lane) =>
         if c.trapc.getLsbD (32 + l) ∧ v.pc = c.trapp ∧ v.exited = false then
           movedOn v (BitVec.ofNat 64 (v.pc.toNat + lengthOf w0))
         else v
       (∃ l v, w.lanes[l]? = some v ∧ (skipped l v).exited = false) →
       ∃ t, exec (.tretSkip x) s = .next t ∧ (t.core core).serving = none ∧
       (t.warp wk).fault = none ∧ (t.warp wk).stopped = false ∧ (t.warp wk).latch = none ∧
       (∀ l v, w.lanes[l]? = some v → (t.warp wk).lanes[l]? = some (skipped l v)) ∧
       t.mem = s.mem ∧ t.store = s.store) ∧
     (Goes (.tretHold x) true s → ∃ t, exec (.tretHold x) s = .next t ∧ (t.core core).serving = none ∧
       t.warp wk = { w with fault := none, idle := 0, stopped := true } ∧ t.mem = s.mem ∧ t.store = s.store) ∧
     (Goes (.tretDiscard x) true s → (s.block w.block).over = false → w.block ≠ 0 → w.index < (s.block w.block).warps →
       lget 127 (s.block w.block).berths w.index = berth → (s.block w.block).core = core →
       ∃ t, exec (.tretDiscard x) s = .next t ∧ (t.core core).serving = none ∧ (t.warp wk).live = false ∧
         (t.block w.block).mode = .discarded ∧
         (t.launch (s.block w.block).launch).status = (s.launch (s.block w.block).launch).status ++ [0x06]))

/-! ## Tiles (R126 to R132) -/

/-- VOTE, MATCH, ELECT and LMASK (R126 to R128, R131, R132): each active lane's result over T, the active lanes of
its own tile, with masks relative to the tile; VOTE and ELECT write a predicate, but VOTE.bal a register.
REDUX and SCAN (R62, R130): the combination over the members of the lane's tile, of SCAN over those up to the lane
or, exclusively, below it; the combination of no member is the identity.
Beside the rules it rests on the model's own readings, log entry 70 (DEDUCED). -/
def Obligations.LaneGroupResults : Prop :=
  (∀ (x : Long) (s : State) (i : Instr) (cx : Ctx), issueCx i s = cx → Goes i false s →
     let w := s.warp cx.wk
     let n := 2 ^ w.part
     let tile := fun (l : Nat) => (List.range 32).filter (fun j => cx.act.getLsbD j && decide (j / n = l / n))
     let mask := fun (l : Nat) (f : Nat → Bool) => (((tile l).filter f).map (fun j => 2 ^ (j - l / n * n))).sum
     let p := fun (j : Nat) => w.predOf x.aN j
     let a := s.opA cx
     let writes := fun (value : Nat → Nat) => x.dN < 0x100 → ∃ t, exec i s = .next t ∧
       Completes i s t value 0 (fun _ v => v) id
     let decides := fun (b : Nat → Bool) => x.dN < 0x200 → ∃ t, exec i s = .next t ∧
       Completes i s t (fun _ => 0) 0 (laneWithPred cx x.dN b) id
     (i = .vote x → x.mN = 0 → decides (fun l => (tile l).all p)) ∧
     (i = .vote x → x.mN = 1 → decides (fun l => (tile l).any p)) ∧
     (i = .vote x → x.mN = 2 → writes (fun l => mask l p)) ∧
     (i = .vote x → x.mN = 3 → decides (fun l => (tile l).all (fun j => p j == p l))) ∧
     (i = .matchLanes x → x.mN = 0 → writes (fun l => mask l (fun j => a j == a l))) ∧
     (i = .matchLanes x → x.mN = 1 →
       writes (fun l => if (tile l).all (fun j => a j == a l) then mask l (fun _ => true) else 0)) ∧
     (i = .elect x → decides (fun l => (tile l).all (fun j => l ≤ j))) ∧
     (i = .lmask x → x.aN = 0x140 → writes (fun l => mask l (fun _ => true))) ∧
     (i = .lmask x → x.aN = 0x141 → writes (fun l => mask l (fun j => j < l))) ∧
     (i = .lmask x → x.aN = 0x142 → writes (fun l => mask l (fun j => j ≤ l))) ∧
     (i = .lmask x → x.aN = 0x143 → writes (fun l => mask l (fun j => l < j))) ∧
     (i = .lmask x → x.aN = 0x144 → writes (fun l => mask l (fun j => l ≤ j))) ∧
     (i = .lmask x → x.aN = 0x145 → writes (fun _ => 2 ^ n - 1))) ∧
  (∀ (scan : Bool) (x : Long) (s : State),
     let i : Instr := if scan then .scan x else .redux x
     let cx := issueCx i s
     Goes i false s → x.dN < 0x100 → x.mN % 8 ≤ 5 → (scan = false → x.mN < 8) →
     let n := 2 ^ (s.warp cx.wk).part
     let t := intTypeOf x.tN
     let tile := fun (l : Nat) => (List.range 32).filter (fun j => cx.act.getLsbD j && decide (j / n = l / n) &&
       decide (scan = true → j < l ∨ (j = l ∧ x.mN < 8)))
     let least : Int := if t.signed then -2 ^ (t.width - 1) else 0
     let greatest : Int := if t.signed then 2 ^ (t.width - 1) - 1 else 2 ^ t.width - 1
     let numbers := fun (l : Nat) => (tile l).map (fun j => valueAs t (s.opA cx j))
     let bits := fun (l : Nat) (f : Nat → Nat → Nat) (z : Nat) =>
       registerOf t (valueAs t ((tile l).foldl (fun v j => f v (s.opA cx j)) z))
     ∃ u, exec i s = .next u ∧
       Completes i s u (fun l => match x.mN % 8 with
         | 0 => registerOf t (numbers l).sum
         | 1 => registerOf t ((numbers l).foldl min greatest)
         | 2 => registerOf t ((numbers l).foldl max least)
         | 3 => bits l (fun v y => v &&& y) (2 ^ 64 - 1)
         | 4 => bits l (fun v y => v ||| y) 0
         | _ => bits l (fun v y => v ^^^ y) 0) 0 (fun _ v => v) id)

/-- SHFL (R127, R129): a producer that lands no sooner than 4 clocks after issue; an active lane receives its source
lane's A value where that lane is an active lane of the same tile, and its own C value otherwise. -/
def Obligations.ShuffleResults : Prop :=
  ∀ (x : Long) (s : State), Goes (.shfl x) false s →
    let cx := issueCx (.shfl x) s
    let n := 2 ^ (s.warp cx.wk).part
    let source : Nat → Int := fun l =>
      let d := s.opB cx l % 32
      match x.mN with
      | 0 => ((l / n * n + d % n : Nat) : Int)
      | 1 => (l : Int) - d
      | 2 => (l : Int) + d
      | _ => ((l / n * n + ((l - l / n * n) ^^^ (d % n)) : Nat) : Int)
    ∃ t, exec (.shfl x) s = .next t ∧
      Pends (.shfl x) s t .shfl 4 (fun l =>
        if 0 ≤ source l ∧ cx.act.getLsbD (source l).toNat ∧ (source l).toNat / n = l / n then
          s.opA cx (source l).toNat
        else s.opC cx l) 0 (fun _ v => v)

/-! ## Memory (R179 to R204) -/

/-- LD, LDU and GATH (R179, R182, R187): where no check stops them, an access is under way, the destination words are
empty, the group passes, and no other register word, no memory and no other warp has changed.
Data arrive (R26, R61, R183, R187): an LD or LDU whose words are all there, whole, writes every lane's value,
extended; a GATH does so for its lowest lane that has its words. Beside this, the report latch and the
invalidation of an acquire, nothing changes.
Beside the rules it rests on the model's own readings, log entries 21 (DEDUCED), 28 (DEDUCED). -/
def Obligations.Loads : Prop :=
  (∀ (x : Long) (s : State), ∀ e ∈ ([(.ld x, .ld, false), (.ldu x, .ldu, false), (.gath x, .gath, true)] :
       List (Instr × TxnKind × Bool)), Goes e.1 false s →
     let cx := issueCx e.1 s
     let accs := laneAccs cx s (memBytes x.tN) wantLoad (addressOf e.2.2 cx s)
     let words := ((placesOf accs).foldl (loadLane cx (memBytes x.tN)) ([], s)).1
     Allowed cx s true false (memBytes x.tN) accs →
     (e.2.1 ≠ .gath → (∀ w ∈ words, w.ready = true) → ∀ w ∈ words, w.lost = false ∧ w.poison = false) →
     ∃ t, exec e.1 s = .next t ∧ Issued e.1 s t e.2.1 id ∧ t.store = s.store ∧ t.poison = s.poison) ∧
  (∀ (s : State) (id : Nat) (x : Txn), tfind s.txns id = some x → s.now = .loadDataArrival id →
     (s.warp x.warp).ended = false → x.warp % 128 ≠ orphanBerth →
     let cx := x.cx
     let w := s.warp x.warp
     let keys := fun (l : Nat) => codeKeys cx.core w x.x.dN (cx.sh.dst.writes cx.sh x.x) l
     let whole := fun (l : Nat) => ∀ y ∈ x.words, y.lane = l → y.ready = true ∧ y.lost = false ∧ y.poison = false
     let value := fun (l : Nat) => extended x.x.tN
       (ofWords ((x.words.filter (fun y => y.lane = l)).map (fun y => y.value)) / 2 ^ (8 * (x.addr l % 4)))
     let after := fun (t : State) (ls : List Nat) =>
       (∀ l ∈ ls, Holds t (keys l) (value l)) ∧ WordsKept s t (ls.flatMap keys) ∧
       t.warp x.warp = { w with latch := (t.warp x.warp).latch } ∧
       (∀ k, k ≠ x.warp → t.warp k = s.warp k) ∧ (x.x.order ≠ 1 → x.x.order ≠ 3 → t.near = s.near ∧ t.acqs = s.acqs) ∧
       t = { s with store := t.store, empty := t.empty, poison := t.poison, warps := t.warps, near := t.near
                    acqs := t.acqs, txns := t.txns }
     (x.kind = .ld ∨ x.kind = .ldu → ((x.laneList cx).flatMap keys).Nodup →
       (∀ y ∈ x.words, y.ready = true ∧ y.lost = false ∧ y.poison = false) →
       ∃ t, exec .loadDataArrival s = .next t ∧ after t (x.laneList cx) ∧ t.txns = tdel s.txns id) ∧
     (∀ l, x.kind = .gath → l ∈ lanesOf x.lanes → (keys l).Nodup → whole l →
       (∀ j ∈ lanesOf x.lanes, j < l → ¬ whole j) →
       ∃ t, exec .loadDataArrival s = .next t ∧ after t [l] ∧
         t.txns = if x.lanes = maskOf (fun j => j = l) then tdel s.txns id
           else tput s.txns id { x with lanes := x.lanes &&& ~~~ maskOf (fun j => j = l) }))

/-- ST and SCAT (R179, R187, R222, R224): the active lanes' data are stored and the group passes. A store of an ordered
block is performed once each word that it names in an ordered page is Registered with its value; until then it sends
the Regs that are missing and its lanes stay; it takes the inversion fault where the home has refused one, and the
owner-lost fault where a part of a Lost word is to be written.
Beside the rules it rests on the model's own readings, log entries 28 (DEDUCED), 75 (DEDUCED). -/
def Obligations.StoresComplete : Prop :=
  ∀ (x : Long) (s : State), ∀ e ∈ ([(.st x, false), (.scat x, true)] : List (Instr × Bool)), Goes e.1 false s →
    Memory.wf s.mem → PagesAligned s →
    let cx := issueCx e.1 s
    let z := memBytes x.tN
    let accs := laneAccs cx s z wantStore (addressOf e.2 cx s)
    let ps := placesOf accs
    let words := orderedWords s cx z ps
    let some_ := fun (k : Standing) => ∃ o ∈ words, standingOf s cx.core o = k
    Allowed cx s false true z accs →
    ((∀ o ∈ words, standingOf s cx.core o = .held) → ∃ t, exec e.1 s = .next t ∧
      Stored cx.core z (s.blockOf cx).ordered s t ps (s.opD cx) ∧
      LanesPassed cx (s.warp cx.wk) (t.warp cx.wk) (fun _ v => v) ∧
      t.warp cx.wk = { s.warp cx.wk with lanes := (t.warp cx.wk).lanes, rclk := (t.warp cx.wk).rclk
                                         latch := (t.warp cx.wk).latch } ∧
      (∀ k, k ≠ cx.wk → t.warp k = s.warp k) ∧
      (x.space = 1 ∨ x.space = 2 → t = { s with store := t.store, poison := t.poison, warps := t.warps })) ∧
    ((s.blockOf cx).ordered = false → words = []) ∧
    (some_ .refused → ∃ (u : State) (f : Trap), exec e.1 s = .next (u.raise cx.wk f) ∧ u = { s with near := u.near } ∧
      f.cause = .orderedMode ∧ f.qual = 3 ∧ f.pc = cx.pc) ∧
    (¬ some_ .refused → some_ .lost → ∃ (u : State) (f : Trap), exec e.1 s = .next (u.raise cx.wk f) ∧
      u = { s with near := u.near } ∧ f.cause = .ownerLost ∧ f.qual = 0 ∧ f.pc = cx.pc) ∧
    (¬ some_ .refused → ¬ some_ .lost → some_ .asked ∨ some_ .unasked →
      ∃ t, exec e.1 s = .next t ∧ t.warps = s.warps ∧ t.mem = s.mem ∧ t.store = s.store ∧
        ∀ o ∈ words, standingOf s cx.core o = .unasked →
          (t.near_ cx.core o.word).held = true ∧ (t.near_ cx.core o.word).reg = true)

/-- STT (R190, R191): lane l's element of z bytes lies 16 + l z bytes above the base of the lowest active lane. The
plain form stores the elements and leaves the version alone. `.aon` keeps its lanes; its first version step waits
while the version is odd and else adds 1, stores the elements, and its last step leaves the version greater by 2,
after which the lanes pass.
LDT (R190, R192): the group passes with the destination words empty and the result predicate busy. A try reads the
version, the elements and the version again; an even version read twice gives the elements and true, anything else
the next try, and after 256 tries the data of the last with false.
Beside the rules it rests on the model's own readings, log entry 34 (DEDUCED). -/
def Obligations.TileAccesses : Prop :=
  (∀ (x : Long) (s : State), Goes (.stt x) false s → Memory.wf s.mem → PagesAligned s →
     let i : Instr := .stt x
     let cx := issueCx i s
     let z := memBytes x.tN
     let base := addressOf false cx s (lowestLane cx.act)
     let element := fun (l : Nat) => if x.space = 0 then (base + 16 + l * z) % 2 ^ 64 else base % 2 ^ 64 + 16 + l * z
     let version : LaneAcc := ⟨lowestLane cx.act, base, checkLane s cx x.space 16 ⟨needBoth, false⟩ base⟩
     let elements := laneAccs cx s z wantStore element
     let ps := placesOf elements
     (∀ o ∈ orderedWords s cx z ps, standingOf s cx.core o = .held) →
     (x.cN / 8 % 2 = 0 → Allowed cx s false true z elements → base % 16 = 0 →
       ∃ t, exec i s = .next t ∧ Stored cx.core z (s.blockOf cx).ordered s t ps (s.opD cx) ∧
         LanesPassed cx (s.warp cx.wk) (t.warp cx.wk) (fun _ v => v) ∧ ∀ k, k ≠ cx.wk → t.warp k = s.warp k) ∧
     (∀ p : Place, x.cN / 8 % 2 = 1 → version.place = .ok p →
       (x.space = 0 → watch s cx true true ((version.lane, base, 4) :: elements.map (fun a => (a.lane, a.addr, z))) =
         .none) →
       accessFault s cx (version :: elements) = none → s.accessHeld cx true z ps = false →
       s.accessHeld cx true 4 [(version.lane, p)] = false →
       ∃ t k r, exec i s = .next t ∧ tfind t.txns k = some r ∧ r.kind = .stt ∧ r.phase = 0 ∧ r.warp = cx.wk ∧ r.pc = cx.pc ∧
         r.lanes = cx.act ∧ r.vplace = some p ∧ r.places = ps ∧ r.args = ps.map (fun e => (e.1, 0, s.opD cx e.1)) ∧
         (∀ l v, (s.warp cx.wk).lanes[l]? = some v → (t.warp cx.wk).lanes[l]? = some (
           if cx.group.getLsbD l ∧ cx.act.getLsbD l = false then passed cx v else v)) ∧
         (∀ j, j ≠ cx.wk → t.warp j = s.warp j) ∧ WordsKept s t [] ∧ MemoryKept s t)) ∧
  (∀ (s : State) (id c a : Nat) (r : Txn), tfind s.txns id = some r → s.now = .loadDataArrival id → r.kind = .stt →
     (s.warp r.warp).ended = false → r.warp % 128 ≠ orphanBerth → r.todo = [] → r.words = [] →
     r.vplace = some (.loc c a) → Memory.wf s.mem →
     let z := memBytes r.x.tN
     let v := s.word (storeKey c a)
     let data := fun (l : Nat) => match r.args.find? (fun e => e.1 = l) with | some e => e.2.2 | none => 0
     (r.phase = 0 → s.isPoison (storeKey c a) = false → v.getLsbD 0 = true → exec .loadDataArrival s = .next s) ∧
     (r.phase = 0 → s.isPoison (storeKey c a) = false → v.getLsbD 0 = false →
       (∀ e ∈ r.places, e.2.addr % z = 0 ∧ ∀ d b, e.2 = .loc d b → b + z ≤ 2 ^ 22) → ∃ t, exec .loadDataArrival s = .next t ∧
         Stored r.cx.core z false (s.localStore c a 15 (v + 1)) t r.places data ∧ t.warps = s.warps ∧
         tfind t.txns id = some { r with phase := 1, version := v }) ∧
     let gone := fun (l : Nat) (y : Lane) => if r.lanes.getLsbD l then passed r.cx y else y
     (r.phase = 1 → (∀ e ∈ r.places, ∃ d b, e.2 = .loc d b) → s.unacked r.cx.core = false →
       s.engineBusy r.cx.core = false → (∃ l y, (s.warp r.warp).lanes[l]? = some y ∧ (gone l y).exited = false) → ∃ t, exec .loadDataArrival s = .next t ∧
         t.word (storeKey c a) = r.version + 2 ∧ (∀ k, k ≠ storeKey c a → t.word k = s.word k) ∧ t.mem = s.mem ∧
         t.txns = tdel s.txns id ∧ ∀ l y, (s.warp r.warp).lanes[l]? = some y →
           (t.warp r.warp).lanes[l]? = some (gone l y))) ∧
  (∀ (s : State) (id p : Nat) (r : Txn), s.now = .homeAtomic id 32 → tfind s.txns id = some r → r.kind = .stt →
     32 ∈ r.todo → p = r.addr 32 / 4 → Memory.wf s.mem → (∀ j ∈ r.todo, 32 ≤ j) →
     let line := s.line (p / 32)
     line.pulling = none → line.stalled = [] → s.lineLocked (p / 32) = false → s.comingHome p = false →
     (s.near_ (r.warp / 128) p).reqPend = false → s.owner p = .unowned →
     (r.phase = 0 → nmem s.memPoison p = false → (s.homeCopy p).getLsbD 0 = true →
       exec .homeAtomic s = .next (s.sendFirst (.homeAtomic id 32))) ∧
     (r.phase = 0 → nmem s.memPoison p = false → (s.homeCopy p).getLsbD 0 = false →
       (∀ e ∈ r.places, ∀ ph va, e.2 = .glob ph va → s.direct ph = false) →
       ∃ t, exec .homeAtomic s = .next t ∧ memWord t.mem p = s.homeCopy p + 1 ∧
       (∀ c, c / 4 ≠ p → memByte t.mem c = memByte s.mem c) ∧
         tfind t.txns id = some { r with phase := 1, version := s.homeCopy p, todo := [], words := [] }) ∧
     (r.phase ≠ 0 → ∃ t, exec .homeAtomic s = .next t ∧ memWord t.mem p = r.version + 2 ∧
       (∀ c, c / 4 ≠ p → memByte t.mem c = memByte s.mem c) ∧ t.txns = tput s.txns id { r with todo := [] })) ∧
  ((∀ (x : Long) (s : State), Goes (.ldt x) false s →
     let i : Instr := .ldt x
     let cx := issueCx i s
     let z := memBytes x.tN
     let base := addressOf false cx s (lowestLane cx.act)
     let element := fun (l : Nat) => if x.space = 0 then (base + 16 + l * z) % 2 ^ 64 else base % 2 ^ 64 + 16 + l * z
     let version : LaneAcc := ⟨lowestLane cx.act, base, checkLane s cx x.space 16 wantLoad base⟩
     let elements := laneAccs cx s z wantLoad element
     (x.space = 0 → watch s cx true false ((version.lane, base, 4) :: elements.map (fun a => (a.lane, a.addr, z))) =
       .none) →
     accessFault s cx (version :: elements) = none → s.accessHeld cx false z (placesOf elements) = false →
     s.accessHeld cx false 4 (placesOf [version]) = false →
     ∃ t, exec i s = .next t ∧ t.store = s.store ∧ t.poison = s.poison ∧
       Issued i s t .ldt
         (fun v => if x.cN / 8 % 8 = 7 then v else { v with busy := setBit v.busy (x.cN / 8 % 8) true })) ∧
   ∀ (s : State) (id : Nat) (x : Txn), tfind s.txns id = some x → s.now = .loadDataArrival id → x.kind = .ldt →
     (s.warp x.warp).ended = false → x.warp % 128 ≠ orphanBerth → x.vplace.isSome = true →
     (∀ y ∈ x.words, y.ready = true ∧ y.lost = false ∧ y.poison = false) →
     let cx := x.cx
     let keys := fun (l : Nat) => codeKeys cx.core (s.warp x.warp) x.x.dN (cx.sh.dst.writes cx.sh x.x) l
     let read := match x.words.find? (fun y => y.index = 1000) with | some y => y.value | none => 0
     let good := x.version = read ∧ read.getLsbD 0 = false
     let asks := fun (phase tries : Nat) (version : Word) => ∃ t y, exec .loadDataArrival s = .next t ∧
       tfind t.txns id = some y ∧ y.kind = .ldt ∧ y.lanes = x.lanes ∧ y.places = x.places ∧ y.phase = phase ∧
       y.tries = tries ∧ y.version = version ∧ t.store = s.store ∧ t.mem = s.mem ∧ t.warps = s.warps
     (x.phase = 0 → asks 1 x.tries read) ∧ (x.phase = 1 → asks 2 x.tries x.version) ∧
     (x.phase = 2 → ¬ good → x.tries < 255 → asks 0 (x.tries + 1) x.version) ∧
     (x.phase = 2 → good ∨ 255 ≤ x.tries → ((x.laneList cx).flatMap keys).Nodup →
       ∃ t, exec .loadDataArrival s = .next t ∧
       (∀ l ∈ x.laneList cx, Holds t (keys l) (extended x.x.tN
         (ofWords ((x.words.filter (fun y => y.lane = l && y.index ≠ 1000)).map (fun y => y.value)) /
           2 ^ (8 * (x.addr l % 4))))) ∧
       WordsKept s t ((x.laneList cx).flatMap keys) ∧ t.txns = tdel s.txns id ∧ t.mem = s.mem ∧
       ∀ l y, (s.warp x.warp).lanes[l]? = some y → (t.warp x.warp).lanes[l]? = some (
         if x.lanes.getLsbD l then y.setPred (x.x.cN / 8 % 8) (decide good) else y)))

/-- ATOM, RED, CAS and FATOM at issue (R194 to R200, R283). In a scratchpad every lane's atomic is performed at once,
in ascending lane order; for memory a message goes to each lane's home, or a request through its window, whose answer
is the other package's; the group passes. In an ordered block a global RED takes one fixer entry for each lane and
passes; the forms that ordered mode does not allow take its fault.
Beside the rules it rests on the model's own readings, log entries 7 (DESIGN CHOICE), 33 (DEDUCED), 75 (DEDUCED). -/
def Obligations.AtomicsIssue : Prop :=
  ∀ (x : Long) (s : State), ∀ e ∈ ([(.atom x, .atom), (.red x, .red), (.cas x, .cas), (.fatom x, .fatom)] :
      List (Instr × TxnKind)), Goes e.1 false s →
    let cx := issueCx e.1 s
    let z := memBytes x.tN
    let b := s.blockOf cx
    let accs := laneAccs cx s z wantAtomic (fun l => if x.space = 0 then s.opA cx l % 2 ^ 64 else s.opA cx l)
    let ps := placesOf accs
    let unwatched := x.space = 0 → watch s cx true true (accs.map (fun a => (a.lane, a.addr, z))) = .none
    let far := fun (pa : Nat) => bitsOf (windowOf s pa) 46 6 * 2 ^ 46 + pa % 2 ^ 46
    let performed := ps.foldl (fun (m : List (Nat × Nat) × (Nat → Word)) p =>
      match p.2 with
      | .glob _ _ => m
      | .loc c a =>
        let ks := (List.range (wordCount z)).map (fun i => storeKey c (a + 4 * i))
        let all := ofWords (ks.map m.2)
        let old := all / 2 ^ (8 * (a % 4)) % 2 ^ (8 * z)
        let new := all - old * 2 ^ (8 * (a % 4)) + leaves e.2 x (s.opB cx p.1) old % 2 ^ (8 * z) * 2 ^ (8 * (a % 4))
        (m.1 ++ [(p.1, old)],
          fun k => if k ∈ ks then BitVec.ofNat 32 (new / 2 ^ (32 * (k - storeKey c a))) else m.2 k)) ([], s.word)
    let stops := fun (q : Nat) => ∃ f : Trap, exec e.1 s = .next (s.raise cx.wk f) ∧ f.cause = .orderedMode ∧
      f.qual = q ∧ f.lanes = cx.act ∧ f.pc = cx.pc
    (e.2 = .cas ∨ x.cN / 8 % 32 = 12 → x.tN ≤ 2) →
    (x.space = 1 ∨ x.space = 2 → e.2 ≠ .fatom → (b.ordered = true → x.space = 1) → accessFault s cx accs = none →
      (∀ l c a, (l, Place.loc c a) ∈ ps → ∀ i, i < wordCount z → s.isPoison (storeKey c (a + 4 * i)) = false) →
      ∃ t, exec e.1 s = .next t ∧ Issued e.1 s t e.2 id ∧ t.poison = s.poison ∧
        (∀ k, t.word k = performed.2 k) ∧ ∃ r, tfind t.txns s.fresh = some r ∧ r.olds = performed.1 ∧ r.todo = []) ∧
    (x.space = 0 → b.ordered = false → Allowed cx s true true z accs → lockRefused e.2 cx s accs = none →
      (e.2 = .fatom → ∀ l p va, (l, Place.glob p va) ∈ ps → regionOf p.pa = .fabric) →
      ∃ t, exec e.1 s = .next t ∧ Issued e.1 s t e.2 id ∧ t.store = s.store ∧ t.poison = s.poison ∧
        ∃ k r, tfind t.txns k = some r ∧ r.kind = e.2 ∧ r.warp = cx.wk ∧ ∀ l p va, (l, Place.glob p va) ∈ ps →
          (regionOf p.pa ≠ .fabric → l ∈ r.todo ∧ Event.homeAtomic k l ∈ t.agenda) ∧
          (regionOf p.pa = .fabric → nativeAtomic e.2 x = true →
            ((∃ old, (l, old) ∈ r.olds) ∨ ∃ y ∈ r.words, y.lane = l ∧ (y.lost = true ∨ y.poison = true)) ∧
            ∃ m ∈ t.fabricOut, m.kind = 2 ∧ m.addr = far p.pa ∧ m.tag = atomicOp e.2 x + 2 ^ 8 * z ∧
              (atomicOp e.2 x ≠ 12 → m.data = BitVec.ofNat 64 (s.opB cx l))) ∧
          (regionOf p.pa = .fabric → nativeAtomic e.2 x = false → l ∈ r.todo ∧
            ∃ m ∈ t.fabricOut, m.kind = 3 ∧ m.addr = far (p.pa / 128 * 128))) ∧
    (b.ordered = true → x.space = 0 → e.2 = .red → accessFault s cx accs = none → unwatched →
      b.fixer.length + (lanesOf cx.act).length ≤ 512 → lockRefused e.2 cx s accs = none →
      ∃ t, exec e.1 s = .next t ∧ LanesPassed cx (s.warp cx.wk) (t.warp cx.wk) (fun _ v => v) ∧
        (t.block (s.blockKey cx)).fixer = b.fixer ++ (ps.map (fun p => ({
          addr := BitVec.ofNat 64 (match p.2 with | .glob _ va => va | .loc _ a => a)
          value := BitVec.ofNat 64 (s.opB cx p.1), op := x.cN / 8 % 32, ty := x.tN, lane := p.1
          warp := (s.warp cx.wk).index, seq := (s.warp cx.wk).issued, block := b.index } : FixEntry))) ∧
        WordsKept s t [] ∧ MemoryKept s t) ∧
    (b.ordered = true → unwatched →
      (e.2 = .fatom → stops 4) ∧
      (e.2 ≠ .fatom → (x.space = 2 ∨ (x.space = 0 ∧ e.2 ≠ .red)) → stops 1) ∧
      (e.2 = .red → x.space = 0 → 512 < b.fixer.length + (lanesOf cx.act).length → stops 2))

/-- The atomic of a lane at its home (R184, R194 to R196, R209, R211): with no lower lane of the instruction waiting
for the same location, the line unlocked, no request waiting at it, no Reg of its core for its words pending and its
words at home, it is one step on them: memory holds what it leaves, the access records the old value, and no other
byte of memory changes. A word that an agent owns is asked home by a Xfer with its timer; behind other requests of
the line it takes its place among them, and otherwise the message waits.
The results of atomics land (R61, R183, R195, R196): of ATOM, RED and CAS when every lane has been performed, of
FATOM lane by lane; each destination receives its lane's old value, extended.
Beside the rules it rests on the model's own readings, log entries 33 (DEDUCED), 39 (DEDUCED). -/
def Obligations.AtomicsPerform : Prop :=
  (∀ (s : State) (id l : Nat) (r : Txn) (v : Nat → Word), s.now = .homeAtomic id l → tfind s.txns id = some r →
     l ∈ r.todo → r.kind ≠ .stt → Memory.wf s.mem →
     let z := memBytes r.x.tN
     let a := r.addr l
     let n := wordCount z
     let line := s.line (a / 4 / 32)
     let first := line.pulling = none ∧ line.stalled = []
     let held := (r.todo.any (fun j => decide (j < l) && r.addr j = a) = true) ∨ s.lineLocked (a / 4 / 32) = true ∨
       ∃ i, i < n ∧ (s.comingHome (a / 4 + i) = true ∨ (s.near_ (r.warp / 128) (a / 4 + i)).reqPend = true)
     let all := ofWords ((List.range n).map v)
     let old := all / 2 ^ (8 * (a % 4)) % 2 ^ (8 * z)
     let arg := match r.args.find? (fun e => e.1 = l) with | some e => e.2 | none => (0, 0)
     let new := if r.kind = .cas ∨ r.x.cN / 8 % 32 = 12 then
         (if old = arg.1 % 2 ^ (8 * z) then arg.2 % 2 ^ (8 * z) else old)
       else atomicRule (r.x.cN / 8 % 32) r.x.tN old arg.2
     let put := all - old * 2 ^ (8 * (a % 4)) + new % 2 ^ (8 * z) * 2 ^ (8 * (a % 4))
     (line.pulling.isSome = true ∨ (line.stalled ≠ [] ∧ line.stalled.head? ≠ some (.homeAtomic id l)) →
       exec .homeAtomic s = .next (s.setLine (a / 4 / 32) { line with stalled := line.stalled ++ [.homeAtomic id l] })) ∧
     (first → held → exec .homeAtomic s = .next (s.sendFirst (.homeAtomic id l))) ∧
     (∀ o, first → ¬ held → n = 1 → s.owner (a / 4) = .agent o → exec .homeAtomic s =
       .next (((s.startTimer (a / 4) o 4 id).send (.xfer (a / 4) o homeSource true 0)).sendFirst (.homeAtomic id l))) ∧
     (first → ¬ held → a % min z 4 = 0 →
       (∀ i, i < n → s.away (a / 4 + i) = false ∧ s.latest (a / 4 + i) = some (v i, false)) →
       ∃ t, exec .homeAtomic s = .next t ∧
         (∀ i, i < n → memWord t.mem (a / 4 + i) = BitVec.ofNat 32 (put / 2 ^ (32 * i)) ∧
           t.owner (a / 4 + i) = .unowned) ∧
         (∀ c, (c / 4 < a / 4 ∨ a / 4 + n ≤ c / 4) → memByte t.mem c = memByte s.mem c) ∧
         t.txns = tput s.txns id { r with todo := r.todo.filter (fun j => j ≠ l), olds := r.olds ++ [(l, old)] } ∧
         t.store = s.store ∧ t.warps = s.warps)) ∧
  (∀ (s : State) (id : Nat) (r : Txn), tfind s.txns id = some r → s.now = .loadDataArrival id →
     (s.warp r.warp).ended = false → r.warp % 128 ≠ orphanBerth → r.refused = [] →
     let cx := r.cx
     let w := s.warp r.warp
     let keys := fun (l : Nat) => codeKeys cx.core w r.x.dN (cx.sh.dst.writes cx.sh r.x) l
     let after := fun (t : State) (es : List (Nat × Nat)) =>
       (∀ e ∈ es, Holds t (keys e.1) (extended r.x.tN e.2)) ∧ WordsKept s t (es.flatMap (fun e => keys e.1)) ∧
       MemoryKept s t ∧ (∀ k, k ≠ r.warp → t.warp k = s.warp k) ∧
       t.warp r.warp = { w with latch := (t.warp r.warp).latch }
     (r.kind = .atom ∨ r.kind = .red ∨ r.kind = .cas → r.todo = [] → r.words.all (fun y => !y.lost && !y.poison) →
       (r.olds.flatMap (fun e => keys e.1)).Nodup →
       ∃ t, exec .loadDataArrival s = .next t ∧ after t r.olds ∧ t.txns = tdel s.txns id) ∧
     (∀ l old, r.kind = .fatom → r.lanes.getLsbD l = true → r.olds.find? (fun e => e.1 = l) = some (l, old) →
       (∀ j, j < l → r.lanes.getLsbD j = true → ∀ e ∈ r.olds, e.1 ≠ j) → (keys l).Nodup →
       ∃ t, exec .loadDataArrival s = .next t ∧ after t [(l, old)] ∧
         t.txns = if r.lanes = maskOf (fun j => j = l) then tdel s.txns id
           else tput s.txns id { r with lanes := r.lanes &&& ~~~ maskOf (fun j => j = l) }))

/-- FENCE, INVA, INVR, WBR, REGR and PREF (R185, R201): the group passes; an acquire and INVA drop every Valid word of
the near caches in scope and no other, INVR those of its regions; memory keeps its bytes but for written-back words,
and no register changes; WBR waits for words whose Reg, fill or earlier write-back is pending, and PREF for a walk.
Outside R201's limits REGR takes the permission fault, and PREF does nothing.
Beside the rules it rests on the model's own readings, log entry 35 (DEDUCED). -/
def Obligations.CacheControls : Prop :=
  ∀ (x : Long) (s : State),
    let drops := fun (t : State) (core : Nat) (f : Nat → Bool) => t.near = s.near.map (fun (e : Nat × NearWord) =>
      if e.2.held = true ∧ e.2.reg = false ∧ coresIn (x.cN % 8) core (e.1 / 2 ^ 50) = true ∧ f (e.1 % 2 ^ 50) = true then
        (e.1, e.2.drop) else e) ∧
      ∀ c, t.acquires c = s.acquires c + if coresIn (x.cN % 8) core c = true then 1 else 0
    let passes := fun (cx : Ctx) (t : State) => LanesPassed cx (s.warp cx.wk) (t.warp cx.wk) (fun _ v => v) ∧
      (∀ k, k ≠ cx.wk → t.warp k = s.warp k) ∧ t.store = s.store ∧ t.empty = s.empty ∧ t.poison = s.poison
    (Goes (.fence x) false s → ∃ t, exec (.fence x) s = .next t ∧ passes (issueCx (.fence x) s) t ∧
      (if x.order = 1 ∨ x.order = 3 then drops t s.cur.core (fun _ => true) else t.near = s.near ∧ t.acqs = s.acqs) ∧
      t = { s with warps := t.warps, near := t.near, acqs := t.acqs }) ∧
    (Goes (.inva x) false s → ∃ t, exec (.inva x) s = .next t ∧ passes (issueCx (.inva x) s) t ∧
      drops t s.cur.core (fun _ => true) ∧ t = { s with warps := t.warps, near := t.near, acqs := t.acqs }) ∧
    (Goes (.invr x) false s → ∀ pages, regionPages (issueCx (.invr x) s) s = .ok pages →
      ∃ t, exec (.invr x) s = .next t ∧ passes (issueCx (.invr x) s) t ∧
        drops t s.cur.core (fun pw => pages.any (fun p => decide (p.2.1 / 4 ≤ pw ∧ 4 * pw < p.2.1 + p.2.2))) ∧
        t = { s with warps := t.warps, near := t.near, acqs := t.acqs }) ∧
    (Goes (.wbr x) false s → ∀ pages, regionPages (issueCx (.wbr x) s) s = .ok pages →
      let mine := fun (e : Nat × NearWord) => e.1 / 2 ^ 50 = s.cur.core ∧ inPages pages (e.1 % 2 ^ 50) = true ∧
        e.2.held = true ∧ e.2.reg = true
      (∀ e ∈ s.near, mine e → (s.near_ s.cur.core (e.1 % 2 ^ 50)).fillPend = false ∧
        (s.near_ s.cur.core (e.1 % 2 ^ 50)).kept = false ∧ (s.near_ s.cur.core (e.1 % 2 ^ 50)).reqPend = false ∧
        (s.near_ s.cur.core (e.1 % 2 ^ 50)).err = false) →
      ∃ t, exec (.wbr x) s = .next t ∧ passes (issueCx (.wbr x) s) t ∧ MemoryKept s t ∧
        ∀ e ∈ s.near, mine e → let n := s.near_ s.cur.core (e.1 % 2 ^ 50)
          (t.near_ s.cur.core (e.1 % 2 ^ 50)).held = true ∧ (t.near_ s.cur.core (e.1 % 2 ^ 50)).reg = false ∧
          Event.wb (e.1 % 2 ^ 50) (agentOfCore s.cur.core) n.value n.poison ∈ t.agenda) ∧
    (Goes (.regr x) false s →
      let cx := issueCx (.regr x) s
      let a := s.opA cx (groupLane cx)
      let len := s.opB cx (groupLane cx)
      (a % 4 ≠ 0 ∨ len % 4 ≠ 0 ∨ len < 4 ∨ 4096 < len → ∃ f : Trap, exec (.regr x) s = .next (s.raise cx.wk f) ∧
        f.cause = .permission ∧ f.qual = 0 ∧ f.lanes = cx.act ∧ f.addr = BitVec.ofNat 64 a) ∧
      (a % 4 = 0 → len % 4 = 0 → 4 ≤ len → len ≤ 4096 → ∀ pages, pagesOf s cx needBoth a len = .ok pages →
        (∀ p ∈ pages, leafHome p.1.leaf ≠ 3) →
        ∃ t, exec (.regr x) s = .next t ∧ passes cx t ∧ MemoryKept s t ∧
          ∀ p ∈ pages, s.direct p.1 = false → ∀ i, i < p.2.2 / 4 →
            (t.near_ cx.core (p.2.1 / 4 + i)).held = true ∧ (t.near_ cx.core (p.2.1 / 4 + i)).reg = true)) ∧
    (Goes (.pref x) false s →
      let cx := issueCx (.pref x) s
      let a := s.opA cx (groupLane cx)
      let len := s.opB cx (groupLane cx)
      let none_ := x.cN % 2 = 1 ∨ len = 0 ∨ 65536 < len
      let waits := prefetchWaits cx s (a / 128 * 128) ((a + len + 127) / 128 - a / 128)
      (none_ → exec (.pref x) s = .next (s.advance cx)) ∧ (¬ none_ → waits = true → exec (.pref x) s = .next s) ∧
      (¬ none_ → waits = false → ∃ t, exec (.pref x) s = .next t ∧ passes cx t ∧ MemoryKept s t ∧
        ∀ c pw, t.near_ c pw = { s.near_ c pw with pref := (t.near_ c pw).pref }))

/-- DALLOC and DFREE (R202 to R204). DALLOC gives each active lane, in ascending order, what the warp's region has room
for, writes the headers and moves the pointer; a lane with a size of 0 or without room receives 0. DFREE of one
pointer clears the in-use word of its header; the bump pointer moves to a header that ends at it; a null pointer
does nothing; a pointer outside the arena, or with a header that does not check, takes the permission fault with
the allocator's qualifier.
Beside the rules it rests on the model's own readings, log entry 36 (DEDUCED). -/
def Obligations.Allocations : Prop :=
  (∀ (x : Long) (s : State), Goes (.dalloc x) false s → x.dN < 0x100 → Memory.wf s.mem → PagesAligned s →
    let i : Instr := .dalloc x
    let cx := issueCx i s
    let w := s.warp cx.wk
    let b := s.blockOf cx
    let sub := if b.ordered then b.arenaN / max 1 b.warps / 16 * 16 else b.arenaN
    let last := b.arena + b.index * b.arenaN + (if b.ordered then w.index * sub else 0) + sub
    let start : Bump := if b.ordered then w.bump else b.bump
    let done := (lanesOf cx.act).foldl (fun (m : Bump × List (Nat × Nat × Nat × Nat)) l =>
      let size := 16 + 16 * ((s.opA cx l + 15) / 16)
      if s.opA cx l = 0 ∨ last < m.1.ptr + size then m
      else (⟨m.1.ptr + size, size / 16⟩, m.2 ++ [(l, m.1.ptr, size / 16, m.1.comp)])) (start, [])
    let given := fun (l : Nat) => (done.2.find? (fun e => e.1 = l)).map Prod.snd
    let header := fun (l : Nat) => match given l with
      | some (_, units, below) => ofWords [BitVec.ofNat 32 units, 1, BitVec.ofNat 32 below, ~~~ BitVec.ofNat 32 units]
      | none => 0
    let cx0 := { cx with x := { cx.x with mods := 0 } }
    let accs := done.2.map (fun e => (⟨e.1, e.2.1, checkLane s cx0 0 4 ⟨needBoth, false⟩ e.2.1⟩ : LaneAcc))
    let ps := placesOf accs
    Allowed cx0 s false true 16 accs → (∀ o ∈ orderedWords s cx 16 ps, standingOf s cx.core o = .held) →
    ∃ t u, exec i s = .next t ∧ Stored cx.core 16 b.ordered s u ps header ∧ t.mem = u.mem ∧ t.near = u.near ∧
      (∀ l ∈ lanesOf cx.act, Holds t (dstOf i s l) (match given l with | some (p, _) => p + 16 | none => 0)) ∧
      WordsKept s t (dstKeys cx w) ∧ LanesPassed cx w (t.warp cx.wk) (fun _ v => v) ∧
      (if b.ordered then (t.warp cx.wk).bump = done.1 else (t.block (s.blockKey cx)).bump = done.1) ∧
      ∀ k, k ≠ cx.wk → t.warp k = s.warp k) ∧
  ∀ (x : Long) (s : State) (l : Nat), Goes (.dfree x) false s → Memory.wf s.mem → PagesAligned s →
    let i : Instr := .dfree x
    let cx := issueCx i s
    let b := s.blockOf cx
    let a := s.opA cx l
    let base := b.arena + b.index * b.arenaN
    watch s cx true true ((lanesOf cx.act).filterMap (fun l =>
      let a := s.opA cx l
      if a < 16 then none else some (l, (a : Int) - 16, 16))) = .none →
    ((∀ l ∈ lanesOf cx.act, s.opA cx l = 0) → exec i s = .next (s.advance cx)) ∧
    (l ∈ lanesOf cx.act → a ≠ 0 → (∀ j ∈ lanesOf cx.act, j ≠ l → s.opA cx j = 0) →
      (a < base + 16 ∨ base + b.arenaN < a ∨ a % 16 ≠ 0 → ∃ f : Trap, exec i s = .next (s.raise cx.wk f) ∧
        f.cause = .permission ∧ f.qual = 2 ∧ f.lanes = maskOf (fun j => j = l) ∧ f.addr = BitVec.ofNat 64 a) ∧
      ∀ (p0 p1 p2 p3 : Phys) (w0 w1 w2 w3 : Word), headWord cx s l (a - 16) = .value p0 w0 →
        headWord cx s l (a - 12) = .value p1 w1 → headWord cx s l (a - 8) = .value p2 w2 →
        headWord cx s l (a - 4) = .value p3 w3 → base + 16 ≤ a → a ≤ base + b.arenaN → a % 16 = 0 →
        (w3 ≠ ~~~ w0 ∨ w1 ≠ 1 → ∃ f : Trap, exec i s = .next (s.raise cx.wk f) ∧
          f.cause = .permission ∧ f.qual = 2 ∧ f.lanes = maskOf (fun j => j = l) ∧ f.addr = BitVec.ofNat 64 a) ∧
        (w3 = ~~~ w0 → w1 = 1 →
          let p : Bump := if b.ordered then (s.warp cx.wk).bump else b.bump
          (a - 16 + 16 * w0.toNat = p.ptr → w2 = 0) → ∃ t, exec i s = .next t ∧
            (regionOf p1.pa ≠ .fabric → memWord t.mem (p1.pa / 4) = 0) ∧
            (∀ c, c / 4 ≠ p1.pa / 4 → memByte t.mem c = memByte s.mem c) ∧
            (if b.ordered then (t.warp cx.wk).bump else (t.block (s.blockKey cx)).bump) =
              (if a - 16 + 16 * w0.toNat = p.ptr then ⟨a - 16, 0⟩ else p) ∧
            LanesPassed cx (s.warp cx.wk) (t.warp cx.wk) (fun _ v => v) ∧ WordsKept s t [] ∧
            ∀ k, k ≠ cx.wk → t.warp k = s.warp k))

/-! ## Copies, transfers and collectives (R268 to R289) -/

/-- COPY, COPYT, COPYL, FPUT and FGET (R258, R268 to R274, R280): of the producer warp or the handler, with a good
completion operand and ends within the limits, the copy is accepted: a record holds its words and its completion,
held until its tick or ready, its scratchpad ranges are in the scoreboard, and the group passes. Without room it
waits; another warp takes the copy-rights fault; a bad end its own.
COLL (R286, R288): a descriptor that is not a multiple of 32 or outside the scratchpad takes the permission fault
with qualifier 4; otherwise, with a good descriptor and buffers, the collective is open under its group's sequence
and the group passes; with eight open ones on its engine it waits.
Beside the rules it rests on the model's own readings, log entries 9 (DESIGN CHOICE), 37 (DEDUCED). -/
def Obligations.EnginesAccept : Prop :=
  (∀ (x : Long) (s : State) (i : Instr) (cx : Ctx), issueCx i s = cx → Goes i false s →
     let b := s.blockOf cx
     let comp := BitVec.ofNat 32 (s.opC cx 0)
     let tick := BitVec.ofNat 64 (s.opC cx 0 / 2 ^ 64)
     let d := s.opD cx 0
     let a := s.opA cx 0
     let place := fun (glob : Bool) (v : Nat) => if glob then End.glob v else End.loc cx.core v
     let rights := cx.berth = 64 ∨ (s.warp cx.wk).index = b.prodw
     let takes := fun (full store timed at_ : Bool) (plan : Except Trap Plan) =>
       (full = true → exec i s = .next s) ∧
       (full = false → ¬ rights → ∃ f : Trap, exec i s = .next (s.raise cx.wk f) ∧ f.cause = .copyRights ∧ f.qual = 0 ∧
         f.lanes = cx.act ∧ f.pc = cx.pc) ∧
       (full = false → rights → comp.getLsbD 31 = true → comp.toNat % 2 ^ 22 % 16 ≠ 0 ∨ b.inScratch (comp.toNat % 2 ^ 22) = false →
         ∃ f : Trap, exec i s = .next (s.raise cx.wk f) ∧ f.cause = .permission ∧ f.qual = 0 ∧
           f.addr = BitVec.ofNat 64 (comp.toNat % 2 ^ 22)) ∧
       (full = false → rights →
         (comp.getLsbD 31 = true → comp.toNat % 2 ^ 22 % 16 = 0 ∧ b.inScratch (comp.toNat % 2 ^ 22) = true) →
         (∀ f, plan = .error f → exec i s = .next (s.raise cx.wk f)) ∧
         ∀ p, plan = .ok p →
           let holds := p.spans.map (fun (dest, k, lo, hi) => (⟨k, lo, hi, dest, 0, s.fresh⟩ : Hold))
           ∃ t c, exec i s = .next t ∧ tfind t.copies s.fresh = some c ∧
             c.moves = p.moves ∧ c.comp = comp ∧ c.core = cx.core ∧ c.block = s.blockKey cx ∧ c.store = store ∧
             c.timed = timed ∧ (at_ = true → c.mode = .held ∧ c.tick = tick) ∧ (at_ = false → c.mode = .ready) ∧
             (∀ k, k ≠ s.fresh → tfind t.copies k = tfind s.copies k) ∧
             (t.core cx.core).holds = (s.core cx.core).holds ++ holds ∧
             LanesPassed cx (s.warp cx.wk) (t.warp cx.wk) (fun _ v => v) ∧
             (∀ k, k ≠ cx.wk → t.warp k = s.warp k) ∧ MemoryKept s t ∧ WordsKept s t [])
     let local_ := tileSpan cx.core (if x.tN = 0 then d else a) (s.opB cx 0)
     let ends := fabricEnds cx s
     (i = .copy x → takes
       (noRoom s cx.core (x.tN ≠ 0) (endRanges (place (x.tN ≠ 0) d) (place (x.tN ≠ 1) a) (s.opB cx 0)))
       (x.tN ≠ 0) false (x.mN / 8 = 1)
       (planRange s cx (place (x.tN ≠ 0) d) (place (x.tN ≠ 1) a) (s.opB cx 0))) ∧
     (i = .copyt x → takes (noRoom s cx.core (x.tN ≠ 0) [(x.tN = 0, local_)]) (x.tN ≠ 0) false (x.mN / 8 = 1)
       (planTile cx s (if x.tN = 0 then d else a) (if x.tN = 0 then a else d) (s.opB cx 0) (x.tN = 0))) ∧
     (i = .copyl x → takes (copylFull cx s) (x.tN ≠ 0) false (x.mN / 8 = 1) (planList cx s)) ∧
     (i = .fput x → takes (noRoom s cx.core true (endRanges (ends false).1 (ends false).2 (s.opB cx 0)))
       true (x.tN / 4 = 1) (x.tN / 2 % 2 = 1) (planFabric cx s false)) ∧
     (i = .fget x → takes (noRoom s cx.core false (endRanges (ends true).1 (ends true).2 (s.opB cx 0)))
       false (x.tN / 4 = 1) (x.tN / 2 % 2 = 1) (planFabric cx s true)) ∧
     ∀ (c v len : Nat) (e : End), (len % 4 ≠ 0 ∨ len = 0 ∨ v % 4 ≠ 0 ∨ v < b.spBase ∨ b.spBase + b.spSize < v + len) →
       ∃ f : Trap, planRange s cx (.loc c v) e len = .error f ∧ f.cause = .permission ∧ f.qual = 4) ∧
  (∀ (x : Long) (s : State), ∀ e ∈ ([(0, .collAllReduce x), (1, .collReduceScatter x), (2, .collAllGather x),
       (3, .collAllToAll x)] : List (Nat × Instr)), Goes e.2 false s → copyRights (issueCx e.2 s) s = none →
     let cx := issueCx e.2 s
     let b := s.blockOf cx
     let a := s.opD cx 0
     let d := collDesc s cx.core a
     let size := elementBytes d.type
     let comp := BitVec.ofNat 32 (s.opC cx 0)
     (8 ≤ openColls s (collDie cx.core) → exec e.2 s = .next s) ∧
     (openColls s (collDie cx.core) < 8 → a % 32 ≠ 0 ∨ localBad b a 32 = true →
       ∃ f : Trap, exec e.2 s = .next (s.raise cx.wk f) ∧ f.cause = .permission ∧ f.qual = 4 ∧ f.addr = BitVec.ofNat 64 a) ∧
     ∀ (g : Group) (src dst : List (Nat × Nat) × List Phys), a % 32 = 0 → localBad b a 32 = false → d.clean = true →
       d.type ∈ [2, 3, 6, 10, 11, 12, 13] → 12 ≤ d.chunk → d.chunk ≤ 20 → (e.1 ≤ 1 → d.rop ≤ 2) →
       d.src % size = 0 → d.dst % size = 0 → groupOf s d.group = some g → groupMiss s d.group = none →
       groupSteady s d.group = true →
       (e.1 = 1 ∨ e.1 = 3 → d.count % g.nodes.length = 0) → compFault cx s comp = none →
       bufferWords s cx needLoad d.src (d.count * size) = .ok src →
       bufferWords s cx needStore d.dst
         ((if e.1 = 1 then d.count / g.nodes.length else if e.1 = 2 then d.count * g.nodes.length else d.count) * size) =
         .ok dst →
       openColls s (collDie cx.core) < 8 → ∃ t c, exec e.2 s = .next t ∧ tfind t.colls s.fresh = some c ∧
         c.mode = .running ∧ c.op = e.1 ∧ c.rop = d.rop ∧ c.type = d.type ∧ c.chunk = d.chunk ∧ c.count = d.count ∧
         c.srcs = src.1 ∧ c.dsts = dst.1 ∧ c.rank = g.rank ∧ c.members = g.nodes ∧ c.comp = comp ∧
         c.iodie = collDie cx.core ∧ c.port / 8 = c.iodie ∧ c.seq = tget 0 s.collSeq d.group ∧
         tget 0 t.collSeq d.group = tget 0 s.collSeq d.group + 1 ∧
         LanesPassed cx (s.warp cx.wk) (t.warp cx.wk) (fun _ v => v) ∧ (∀ k, k ≠ cx.wk → t.warp k = s.warp k) ∧
         MemoryKept s t ∧ WordsKept s t [])

/-- The events of copies (R271, R276, R279 to R281, R284): release and start, the words of a running copy, completion
with its signal, the turns of a port, and the assist of an atomic on another package.
The events of collectives (R287 to R289): a chunk of the destination, the status at completion, time-outs and
aborts, and the hold of a stopped member.
Beside the rules it rests on the model's own readings, log entries 10 (DEDUCED), 38 (DEDUCED), 60 (DEDUCED). -/
def Obligations.EnginesProceed : Prop :=
  (∀ (s : State) (id : Nat),
     (∀ c, tfind s.copies id = some c →
       (s.now = .copyAtRelease id → c.mode = .held → c.tick.toNat ≤ s.tick.toNat →
         exec .copyAtRelease s = .next { s with copies := tput s.copies id { c with mode := .ready, released := true } }) ∧
       (s.now = .copyStart id → c.mode = .ready → s.unacked c.core = false → startsBefore s id c = false →
         exec .copyStart s = .next { s with copies := tput s.copies id { c with mode := .running } }) ∧
       (s.now = .copyStart id → s.unacked c.core = true → exec .copyStart s = .next s) ∧
       (s.now = .engineWriteback id → c.mode = .running → c.port = none → c.moves ≠ [] →
         let k := (Config.freeValue s.freeNo).toNat % c.moves.length
         ∀ m v mask, c.moves[k]? = some m → m.dstSp = 0 →
           gatherMove (s.takeFree).2 (tenderOf c.core) id m.srcs = some (v, mask, false) → compBar c.comp = false →
           ∃ t, exec .engineWriteback s = .next t ∧
             tfind t.copies id = some { c with moves := c.moves.eraseIdx k, sending := c.timed } ∧
             (let key := m.dst / 2 ^ 22 * 0x200000 + m.dst % 2 ^ 22 / 4
              t.word key = mergeBytes (BitVec.ofNat 4 mask) (s.word key) (BitVec.ofNat 32 v) ∧ WordsKept s t [key]) ∧
             MemoryKept s t ∧ t.warps = s.warps) ∧
       (s.now = .copyCompletion id → c.mode = .running → c.moves = [] →
         s.engineOpen id = false → ∃ t, exec .copyCompletion s = .next t ∧
           t.copies = tdel s.copies id ∧
           (t.core c.core).holds = (s.core c.core).holds.filter (fun h => !(h.kind = 0 && h.own = id)) ∧
           t.agenda = (if c.comp.getLsbD 30 then
             s.agenda ++ [.dependenceCounterChange (c.core / 128 * 256 + c.comp.toNat / 2 ^ 22 % 2 ^ 8) (-1) 0]
             else s.agenda) ∧
           t.store = s.store ∧ t.mem = s.mem ∧ t.warps = s.warps)) ∧
     (s.now = .portGrant id →
       let waiting := s.copies.filter (fun e => e.2.port = some id && e.2.mode = .running && !e.2.moves.isEmpty)
       let groups := s.colls.filter (fun e =>
         e.2.port = id && e.2.mode = .running && decide (e.2.bursts < e.2.chunkBursts))
       (waiting = [] → groups = [] → exec .portGrant s = .next s) ∧
       (∀ e, waiting.find? (fun e => e.2.timed && e.2.sending) = some e →
         exec .portGrant s = .next (burst e.1 1024 s)) ∧
       (∀ e, waiting.find? (fun e => e.2.timed && e.2.sending) = none → waiting.find? (fun e => e.2.timed) = some e →
         exec .portGrant s = .next (burst e.1 1024 s)) ∧
       (∀ n, waiting.find? (fun e => e.2.timed) = none → 1 ≤ n → n ≤ 16 →
         let turn := fun (n : Nat) => (tget 15 s.ports id + n) % 16
         let channel := fun (c : Copy) => if c.timed then 15 else c.core % 128 % 14
         let u := { s with ports := tput s.ports id (turn n) }
         (∀ m, 1 ≤ m → m < n → (∀ e ∈ waiting, channel e.2 ≠ turn m) ∧ (turn m = 14 → groups = [])) →
         (∀ e, waiting.find? (fun e => channel e.2 = turn n) = some e →
           exec .portGrant s = .next (burst e.1 1024 u)) ∧
         (∀ k c rest, turn n = 14 → groups = (k, c) :: rest →
           exec .portGrant s = .next { u with colls := tput s.colls k { c with bursts := c.bursts + 1 } }))) ∧
     ∀ (l : Nat) (r : Txn), tfind s.txns id = some r → awaitsAssist r l = true →
       (s.now = .assistAtomic id l → ∃ t, exec .assistAtomic s = .next t ∧ MemoryKept s t ∧ t.warps = s.warps ∧
         let (old, u) := s.farOld (memBytes r.x.tN)
         let f := Config.freeValue u.freeNo
         let unlocked := (t.fabricOut.getLast?).map (fun m => m.kind) = some 4
         (f.toNat % 4 = 0 → tfind t.txns id = some (r.performed l old) ∧ unlocked ∧
           t.fabricOut.length = s.fabricOut.length + 2 + wordCount (memBytes r.x.tN)) ∧
         (f.toNat % 4 = 1 → tfind t.txns id = some { r.performed l old with refused := r.refused ++ [l] } ∧
           t.fabricOut = s.fabricOut) ∧
         (f.toNat % 4 = 2 → tfind t.txns id = some (r.failed l false 0 0) ∧ unlocked) ∧
         (f.toNat % 4 = 3 → tfind t.txns id = some (r.failed l true f s.tick) ∧ unlocked)) ∧
       (s.now = .lockResend id l → r.tick.toNat + 1800 ≤ s.tick.toNat →
         ∃ t, exec .lockResend s = .next t ∧ tfind t.txns id = some { r with tick := s.tick } ∧ t.mem = s.mem ∧
           t.warps = s.warps ∧ t.fabricOut.length = s.fabricOut.length + 1)) ∧
  (∀ (s : State) (id : Nat) (c : Coll), tfind s.colls id = some c →
     let set := fun (c : Coll) => { s with colls := tput s.colls id c }
     (s.now = .collChunk id → c.mode = .running → c.done ≠ 0 ∨ s.unacked c.core = false →
       chunkReady s (assistOf c.iodie) id c = true → c.chunkBursts ≤ c.bursts → (c.matched = true ∨ c.members.length ≤ 1) →
       let total := (if c.op = 1 then c.count / c.members.length else if c.op = 2 then c.count * c.members.length
         else c.count)
       let n := min (2 ^ c.chunk / elementBytes c.type) (total - c.done)
       c.done + n < total → ∀ u, writeElements (assistOf c.iodie) id { c with matched := true } n c.done s = some u →
       let c' := { c with matched := true, done := c.done + n, chunkStart := s.tick.toNat, stoppedHere := false, bursts := 0 }
       exec .collChunk s = .next { u with colls := tput u.colls id c' }) ∧
     (∀ status, s.now = .collCompletion id → c.mode = .ending status → compBar c.comp = false →
       s.engineOpen id = false → ∃ t, exec .collCompletion s = .next t ∧
         t.colls = tdel s.colls id ∧ t.word (storeKey c.core (c.desc + 0x1C)) = BitVec.ofNat 32 status ∧
         WordsKept s t [storeKey c.core (c.desc + 0x1C)] ∧ MemoryKept s t ∧ t.warps = s.warps) ∧
     (s.now = .collPeerTimeout id → c.mode = .running → 1 < c.members.length →
       c.chunkStart + 90000000 ≤ s.tick.toNat → ∃ t, exec .collPeerTimeout s = .next t ∧
         ∃ c', tfind t.colls id = some c' ∧ c'.mode = .ending 2) ∧
     (s.now = .collAbort id → (∀ n, c.mode ≠ .ending n) → 1 < c.members.length → ∃ t, exec .collAbort s = .next t ∧
         ∃ c', tfind t.colls id = some c' ∧ c'.mode = .ending (if c.stoppedHere then 1 else 2)) ∧
     (s.now = .safelightHold id → c.mode = .running → 1 < c.members.length →
       exec .safelightHold s = .next (set { c with mode := .held s.tick.toNat, stops := 1 })) ∧
     (∀ since, s.now = .safelightHold id → c.mode = .held since → 1 < c.members.length →
       exec .safelightHold s = .next (set { c with stops := c.stops + 1 })) ∧
     (∀ since, s.now = .safelightRelease id → c.mode = .held since →
       (1 < c.stops → exec .safelightRelease s = .next (set { c with stops := c.stops - 1 })) ∧
       (c.stops ≤ 1 → c.own = true → exec .safelightRelease s = .next s) ∧
       (c.stops ≤ 1 → c.own = false → exec .safelightRelease s = .next (set
         { c with mode := .running, stops := 0, chunkStart := c.chunkStart + (s.tick.toNat - since) }))) ∧
     (∀ since, s.now = .holdLimitExpiry id → c.mode = .held since →
       let limit := (s.sysreg 0x169).toNat % 2 ^ 32
       (limit ≠ 0 → s.stopped = false → since + 1800 * limit ≤ s.tick.toNat → ∃ t, exec .holdLimitExpiry s = .next t ∧
         ∃ c', tfind t.colls id = some c' ∧ c'.mode = .ending 1) ∧
       (limit = 0 ∨ s.stopped = true → exec .holdLimitExpiry s = .next s)))

/-! ## Registration messages (R205 to R217) -/

/-- What a home does with a message (R209, R211): a Read is answered from the home's copy, reported lost, or forwarded
to the owner; a Reg makes its sender the owner, advances the line's clock, is acknowledged and brings the data or
the Xfer of the old owner; a Wb of the owner becomes the home's copy, any other is only acknowledged; a Drop of the
owner loses the word. A line has four slots and 32 word codes.
What a core's near cache does with a message (R210, R213, R216): acknowledgements, forwards and transfers of a
registered word, a recall, an eviction, and data, which complete a pending store or become a Valid copy for the
loads that await them.
Beside the rules it rests on the model's own readings, log entries 27 (DEDUCED), 39 (DEDUCED), 54 (DEDUCED). -/
def Obligations.HomesAndOwnersAnswer : Prop :=
  (∀ (s : State) (pw a : Nat),
     let v := s.line (pw / 32)
     let clock := v.clock.toNat
     let shaped := v.slots.length = 4 ∧ (v.codes = [] ∨ v.codes.length = 32)
     (∀ i, v.pulling = some i → (s.now = .read pw a → exec .read s =
       .next (s.setLine (pw / 32) { v with stalled := v.stalled ++ [.read pw a] }))) ∧
     (s.now = .read pw a → v.pulling = none → v.stalled = [] →
       (s.owner pw = .unowned → exec .read s =
         .next (s.send (.fillData pw a (s.homeCopy pw) (nmem s.memPoison pw) (s.stamp clock) false homeSource))) ∧
       (s.owner pw = .lost → exec .read s = .next (s.send (.fillData pw a 4 false (s.stamp clock) true homeSource))) ∧
       (∀ o, s.owner pw = .agent o → s.orderedOn (coreOfAgent a) = none →
         (nmem s.fenced o = false → exec .read s = .next ((s.startTimer pw o 0 a).send (.fwd pw o a))) ∧
         (nmem s.fenced o = true → exec .read s = .next (s.startTimer pw o 0 a)))) ∧
     (∀ want order, s.now = .reg pw a want order → s.flipping pw = false → s.comingHome pw = false → v.pulling = none →
       v.stalled = [] → nmem s.hostBias (pw / 2 ^ 14) = false →
       (nmem s.fenced a = true → exec .reg s = .next s) ∧
       (nmem s.fenced a = false → s.owner pw = .agent a → want = false →
         exec .reg s = .next (s.send (.ack pw a clock))) ∧
       (nmem s.fenced a = false → shaped → (v.slotOf a).isSome = true ∨ v.freeSlot.isSome = true →
         s.owner pw ≠ .agent a → (s.owner pw = .lost → want = false) → order = 0 ∨ v.orderAt (pw % 32) = none →
         ∃ t, exec .reg s = .next t ∧ t.owner pw = .agent a ∧ (t.line (pw / 32)).clock = v.clock + 1 ∧
           Event.ack pw a (v.clock + 1).toNat ∈ t.agenda ∧
           (∀ o, s.owner pw = .agent o → nmem s.fenced o = false →
             Event.xfer pw o a want (v.clock + 1).toNat ∈ t.agenda) ∧
           (s.owner pw = .unowned → want = true →
             Event.fillData pw a (s.homeCopy pw) (nmem s.memPoison pw) (v.clock + 1).toNat false regSource ∈ t.agenda) ∧
           (∀ n, n ≠ pw / 32 → t.line n = s.line n) ∧ t.near = s.near ∧ t.mem = s.mem)) ∧
     (∀ value bad, s.now = .wb pw a value bad →
       (s.owner pw ≠ .agent a → (s.engine a pw).host = false →
         exec .wb s = .next ((s.wbStops pw a).send (.wbAck pw a))) ∧
       (s.owner pw = .agent a → v.orderAt (pw % 32) = none → Memory.wf s.mem →
         ∃ t, exec .wb s = .next t ∧ memWord t.mem pw = value ∧ nmem t.memPoison pw = bad ∧
           (∀ c, c / 4 ≠ pw → memByte t.mem c = memByte s.mem c) ∧ t.owner pw = .unowned ∧
           Event.wbAck pw a ∈ t.agenda ∧ t.near = s.near ∧ t.warps = s.warps)) ∧
     (∀ code, s.now = .drop pw a code → code < 16 →
       (s.owner pw ≠ .agent a → exec .drop s = .next s) ∧
       (s.owner pw = .agent a → v.codes.length = 32 → ∃ t, exec .drop s = .next t ∧
         ((s.sysreg 0x1A8).getLsbD 63 = false → t.owner pw = .lost ∧ t.mem = s.mem) ∧
         tget (0, 0) t.lostLog pw = (BitVec.ofNat 64 (code * 2 ^ 32 + a), s.tick) ∧ t.warps = s.warps))) ∧
  (∀ (s : State) (pw a : Nat), agentKind a = 0 → nmem s.fenced a = false →
     let c := coreOfAgent a
     let w := s.near_ c pw
     let owned := w.held = true ∧ w.reg = true ∧ w.fillPend = false ∧ w.kept = false
     let s1 := s.count c 0x0B 1
     (∀ clock, s.now = .ack pw a clock →
       (clock < refusedClock →
         let u := s.setNear c pw
           { w with reqPend := false, dropping := none, clock := if w.held then s.stamp clock else w.clock }
         (w.dropping = none → exec .ack s = .next u) ∧
         (∀ r, w.dropping = some r → exec .ack s = .next (u.send (.drop pw a r)))) ∧
       (refusedClock ≤ clock → exec .ack s = .next ((s.setNear c pw
         { w.drop with reqPend := false, dropping := none, claim := if w.claim = 1 then 2 else 0 }).askAgain c pw))) ∧
     (s.now = .wbAck pw a →
       let u := s.setNear c pw { w with kept := false, unsent := none }
       (w.unsent = none → exec .wbAck s = .next u) ∧
       (∀ want order, w.unsent = some (want, order) → exec .wbAck s = .next (u.send (.reg pw a want order)))) ∧
     (∀ r, s.now = .fwd pw a r →
       (owned → w.err = false →
         exec .fwd s = .next (s1.send (.fillData pw r w.value w.poison (s.stamp w.clock) false a))) ∧
       (owned → w.err = true → exec .fwd s =
         .next (((s1.setNear c pw w.drop).send (.fillData pw r 1 false w.clock true a)).send (.drop pw a 1))) ∧
       (w.held = true → w.fillPend = true → w.kept = false →
         exec .fwd s = .next (s1.setNear c pw { w with owed := w.owed ++ [.fwd pw a r] })) ∧
       (w.kept = true →
         exec .fwd s = .next (s1.send (.fillData pw r w.keptVal w.keptPoison w.clock false a)))) ∧
     (∀ b want clock, s.now = .xfer pw a b want clock →
       let answer := fun (v : Word) (bad : Bool) =>
         Event.fillData pw b v bad clock false (answerSource a (xferKind b want))
       (owned → w.err = false → exec .xfer s =
         .next ((s1.setNear c pw { w.drop with clock := s.stamp w.clock }).send (answer w.value w.poison))) ∧
       (w.kept = true → exec .xfer s =
         .next ((if w.held && !w.reg then s1.setNear c pw w.drop else s1).send (answer w.keptVal w.keptPoison)))) ∧
     (∀ n, s.now = .recall n a → ∃ t, exec .recall s = .next t ∧ t.mem = s.mem ∧ t.warps = s.warps ∧
       ∀ e ∈ s.near, e.1 / 2 ^ 50 = c → e.1 % 2 ^ 50 / 32 = n → e.2.held = true → e.2.reg = true →
         e.2.reqPend = false → e.2.fillPend = false → (s.near_ c (e.1 % 2 ^ 50)).err = false →
         Event.wb (e.1 % 2 ^ 50) (agentOfCore c) (s.near_ c (e.1 % 2 ^ 50)).value (s.near_ c (e.1 % 2 ^ 50)).poison ∈
           t.agenda) ∧
     (s.now = .eviction a pw → w.held = true → w.reqPend = false → w.fillPend = false → w.kept = false →
       (w.reg = false → exec .eviction s = .next (s.setNear c pw w.drop)) ∧
       (w.reg = true → w.err = false → ∃ t, exec .eviction s = .next t ∧ (t.near_ c pw).held = false ∧
         (t.near_ c pw).kept = true ∧ (t.near_ c pw).keptVal = w.value ∧
         t.agenda = s.agenda ++ [.wb pw (agentOfCore c) w.value w.poison])) ∧
     (∀ value bad clock source, s.now = .fillData pw a value bad clock false source → (s.sysreg 0x198).getLsbD 63 = false →
       a ≠ homeSource → answerKind source ≠ 2 →
       let served := fun (t : State) (v : Word) (bad : Bool) (age : Nat) => t.txns = s.txns.map (fun (e : Nat × Txn) =>
         if e.2.warp / 128 = c ∧ e.2.age ≤ age then
           (e.1, { e.2 with words := e.2.words.map (fun y => if y.word = pw ∧ y.ready = false then
             { y with ready := true, value := v, poison := bad, lost := false, own := 0, ownTick := 0 } else y) })
         else e)
       let older := w.clock ≠ 0 ∧ fillBelow clock w.clock = true
       (w.held = false → ¬ older → answerKind source = 0 → readerAge a = s.acquires c →
         ∃ t, exec .fillData s = .next t ∧ served t value bad (s.acquires c) ∧
           t.near_ c pw = { w with held := true, reg := false, value := value, poison := bad, clock := clock } ∧
           t = { s.answered pw a source with near := t.near, txns := t.txns }) ∧
       (w.held = false → ¬ older → answerKind source = 0 → readerAge a < s.acquires c →
         ∃ t, exec .fillData s = .next t ∧ served t value bad (readerAge a) ∧ t = { s.answered pw a source with txns := t.txns }) ∧
       (w.held = false → older → answerKind source = 0 →
         exec .fillData s = .next ((s.answered pw a source).askAgain c pw)) ∧
       (w.held = true → w.fillPend = true → answerKind source = 0 → exec .fillData s = .next (s.answered pw a source)) ∧
       (w.held = true → w.fillPend = true → w.owed = [] → answerKind source ≠ 0 → ∃ t, exec .fillData s = .next t ∧
         served t (mergeBytes w.bytes value w.value) bad (s.acquires c) ∧
         t.near_ c pw =
           { w with fillPend := false, bytes := 0, value := mergeBytes w.bytes value w.value, poison := bad } ∧
         t = { s.answered pw a source with near := t.near, txns := t.txns }))) ∧
  (∀ (s : State) (pw o : Nat) (value : Word) (bad : Bool) (clock kind : Nat), o < 2 ^ 16 →
     s.now = .fillData pw homeSource value bad clock false (answerSource o kind) → s.owner pw = .agent o →
     (s.timers.any (fun e => e.2.word = pw && e.2.owner = o && e.2.kind = 4 && e.2.other ≠ homeSource)) = true →
     Memory.wf s.mem →
     ∃ t, exec .fillData s = .next t ∧ t.owner pw = .unowned ∧ memWord t.mem pw = value ∧ nmem t.memPoison pw = bad ∧
       t.comingHome pw = (s.timers.any (fun e => e.2.word = pw && e.2.kind = 4 && e.2.owner ≠ o)) ∧
       t.near = s.near ∧ t.warps = s.warps)

/-- Units and their upkeep (R15, R30, R123, R215, R310, R357 to R360): timers, sleep bits, power gating, fenced units,
the scrubber, walks into the translation caches, and the records of the replay log and the tracer.
Beside the rules it rests on the model's own readings, log entries 8 (DESIGN CHOICE), 53 (DEDUCED), 54 (DEDUCED), 65
(DEDUCED). -/
def Obligations.UnitsUpkeep : Prop :=
  ∀ (s : State) (c n : Nat),
    (∀ k y, s.now = .forwardTimerExpiry k → tfind s.timers k = some y →
      (s.clk < y.limit → exec .forwardTimerExpiry s = .next s) ∧
      (y.limit ≤ s.clk → y.kind = 0 → ∃ t, exec .forwardTimerExpiry s = .next t ∧ tfind t.timers k = none ∧
        (s.owner y.word = .agent y.owner → (tget (0, 0) t.lostLog y.word).2 = s.tick) ∧
        ∃ why, Event.fillData y.word y.other why false 0 true homeSource ∈ t.agenda) ∧
      (y.limit ≤ s.clk → y.kind = 4 → ∃ t, exec .forwardTimerExpiry s = .next t ∧ tfind t.timers k = none ∧
        (s.owner y.word = .agent y.owner → (tget (0, 0) t.lostLog y.word).2 = s.tick))) ∧
    (s.now = .sleepBitBroadcast c true → mayGate s c = true → (s.core c).gated = false → exec .sleepBitBroadcast s =
      .next { s with sleepers := [agentOfCore c, tenderOf c, matrixOf c, traversalOf c].foldl nput s.sleepers }) ∧
    (s.now = .sleepBitBroadcast c false → (s.core c).gated = false → exec .sleepBitBroadcast s =
      .next { s with sleepers := [agentOfCore c, tenderOf c, matrixOf c, traversalOf c].foldl ndel s.sleepers }) ∧
    (s.now = .corePowerGate c → mayGate s c = true → nmem s.sleepers (agentOfCore c) = true →
      exec .corePowerGate s = .next (s.setCore c { s.core c with gated := true })) ∧
    (s.now = .coreWake c → (s.core c).gated = true → wakes s c = true → exec .coreWake s =
      .next ((s.setCore c { s.core c with gated := false }).send (.sleepBitBroadcast c false))) ∧
    (s.now = .unitFence c → ∃ t, exec .unitFence s = .next t ∧ nmem t.fenced c = true ∧
      (t.sysreg 0x100).getLsbD 63 = true) ∧
    (∀ bad, s.now = .scrub c n bad → ∃ t, exec .scrub s = .next t ∧ t.store = s.store ∧ t.warps = s.warps ∧
      ∀ k, t.isPoison k = (s.isPoison k || (bad && decide (k = c * 0x200000 + n)))) ∧
    (s.now = .memoryError n → (s.sysreg 0x1A8).getLsbD 63 = false → ∃ t, exec .scrub s = .next t ∧
      nmem t.memPoison n = true ∧ t.mem = s.mem ∧ t.warps = s.warps) ∧
    (s.now = .nearError c n → (s.near_ c n).held = true → (s.near_ c n).fillPend = false →
      (s.sysreg 0x1A8).getLsbD 63 = false → ∃ t, exec .scrub s = .next t ∧
        t.near_ c n = { s.near_ c n with poison := true, err := (s.near_ c n).reg } ∧ t.warps = s.warps) ∧
    (∀ ctx va, s.now = .translationWalk c ctx va →
      let die := 1024 + dieOfCore c
      let f := (Config.freeValue s.freeNo).toNat % 4
      let near := cachedIn (tget [] s.caches die) ctx va
      (∀ p, f = 1 → near = some p → ∃ t, exec .translationWalk s = .next t ∧ p ∈ tget [] t.caches c ∧
        t.mem = s.mem ∧ t.warps = s.warps) ∧
      (f = 2 → ∃ t, exec .translationWalk s = .next t ∧ t.caches = s.caches ∧ t.mem = s.mem ∧ t.warps = s.warps) ∧
      (∀ p, f = 1 → near = none → walk s (dieOfCore c) ctx va = .ok p → ∃ t, exec .translationWalk s = .next t ∧
        p ∈ tget [] t.caches c ∧ p ∈ tget [] t.caches die ∧ t.lows = [] ∧ t.mem = s.mem ∧ t.warps = s.warps) ∧
      (∀ p, f = 0 ∨ f = 3 → walk s (dieOfCore c) ctx va = .ok p → ∃ t, exec .translationWalk s = .next t ∧
        p ∈ tget [] t.caches c ∧ p ∈ tget [] t.caches die ∧ t.lows = [] ∧ t.mem = s.mem ∧ t.warps = s.warps) ∧
      (∀ m, f = 0 ∨ f = 3 → walk s (dieOfCore c) ctx va = .error m → ∃ t, exec .translationWalk s = .next t ∧
        cachedIn (tget [] t.caches c) ctx va = none ∧ cachedIn (tget [] t.caches die) ctx va = none ∧
        t.lows = [] ∧ t.mem = s.mem ∧ t.warps = s.warps)) ∧
    (∀ line writer clock rclk block cw tick, s.now = .replayRecord c line writer clock rclk block cw tick →
      ∃ t, exec .replayRecord s = .next t ∧ t.sysreg 0x199 ≠ s.sysreg 0x199 ∧ t.warps = s.warps ∧ t.store = s.store) ∧
    (∀ k x, s.now = .tracerSample k → tfind s.samples k = some x → ∃ t, exec .tracerSample s = .next t ∧
      tfind t.samples k = none ∧ t.sysreg 0x1A1 ≠ s.sysreg 0x1A1 ∧ t.warps = s.warps ∧ t.store = s.store)

/-! ## The matrix unit (R133 to R164) -/

/-- MMA, MMA.bmp, MMAS and the instructions of the unit's state (R133, R142, R149, R153, R160 to R164). An operation
whose checks pass stands last in its core's queue with MSTAT busy, and the group passes; it waits for room, and a
failing check is the fault of the lowest active lane. MCMP, MBMP, MACC, MSTEP and MTOK deliver their values, MCLR
zeroes its tile, MSTEP.set sets the step of a suspended operation.
Beside the rules it rests on the model's own readings, log entries 55 (DEDUCED), 56 (DEDUCED). -/
def Obligations.MatrixInstructions : Prop :=
  (∀ (x : Long) (s : State) (n : Info), ∀ e ∈ ([(0, .mma x), (1, .mmaBmp x), (2, .mmas x)] : List (Nat × Instr)),
    e.2.info = some n →
    let cx := Ctx.of x { n.shape with dst := .zero, b := .zero, c := .zero } s
    let l0 := lowestLane cx.act
    let one := { cx with act := maskOf (fun l => l = l0) }
    let w := s.warp cx.wk
    let busy := mBusy w.mstat || w.rerun || decide (8 ≤ (s.core cx.core).matrix.length)
    let pb := s.opA cx l0
    let checks := begin_ s cx.wk e.1 (x.mN / 4) pb l0 x.bN x.cN x.dN x.et (mResume w.mstat) (x.bN = 0 && x.cN = 0)
    decodeFault false false { cx with sh := n.shape } s = none → cx.act ≠ 0 →
    (busy = true → exec e.2 s = .next s) ∧
    (busy = false → emptyFault false one s = none → poisonFault false one s = none →
      (∀ c a, checks = .fail c a → exec e.2 s =
        .next (s.raise cx.wk (s.trapOf cx c 0 (maskOf (fun l => l = l0)) (BitVec.ofNat 64 a)))) ∧
      ∀ op hs, checks = .ok op hs → ∃ t, exec e.2 s = .next t ∧
        (t.core cx.core).matrix = (s.core cx.core).matrix ++ [op] ∧
        (t.core cx.core).holds = (s.core cx.core).holds ++ hs ∧
        (t.warp cx.wk).mstat = BitVec.ofNat 64
          (op.step * 2 ^ 32 + op.groups.length * 2 ^ 16 + 2 ^ 15 + pbAcc op.pb * 2 ^ 11) ∧
        (t.warp cx.wk).restart = ⟨true, e.1, x.mN / 4, pb % 2 ^ 22, l0, x.bN, x.cN, x.dN⟩ ∧
        LanesPassed cx w (t.warp cx.wk) (fun _ v => v) ∧ (∀ k, k ≠ cx.wk → t.warp k = s.warp k) ∧
        MemoryKept s t ∧ WordsKept s t [])) ∧
  (∀ (x : Long) (s : State),
    let w := fun (i : Instr) => s.warp (issueCx i s).wk
    (Goes (.mcmp x) false s → FormatsFit (.mcmp x) s [layoutB x] → x.dN < 0x100 → ∃ t, exec (.mcmp x) s = .next t ∧
      Completes (.mcmp x) s t (valueOf (.mcmp x) s (compressRule x)) 0 (fun _ v => v) id) ∧
    (Goes (.mbmp x) false s → FormatsFit (.mbmp x) s [layoutB x] → x.dN < 0x100 → ∃ t, exec (.mbmp x) s = .next t ∧
      Completes (.mbmp x) s t (valueOf (.mbmp x) s (bitmapRule x)) 0 (fun _ v => v) id) ∧
    (Goes (.mstep x) false s →
      ((mBusy (w (.mstep x)).mstat || (w (.mstep x)).rerun) = true → exec (.mstep x) s = .next s) ∧
      ((mBusy (w (.mstep x)).mstat || (w (.mstep x)).rerun) = false → ∃ t, exec (.mstep x) s = .next t ∧
        Completes (.mstep x) s t (fun _ => (w (.mstep x)).mstat.toNat) 0 (fun _ v => v) id)) ∧
    (Goes (.mtok x) false s → ∃ t, exec (.mtok x) s = .next t ∧
      Completes (.mtok x) s t (fun _ => (if (s.cluster (s.cur.core / 16)).token then 2 ^ 31 else 0) +
        (s.sysreg (0x150 + s.cur.core / 128)).toNat % 16 * 2 ^ 24 +
        min (w (.mtok x)).tokenWait (2 ^ 32 - 1) * 2 ^ 32) 0 (fun _ v => v) id) ∧
    (Goes (.mclr x) false s → x.aN - 0x140 < (s.blockOf (issueCx (.mclr x) s)).tiles →
      let cx := issueCx (.mclr x) s
      let first := storeKey cx.core ((s.blockOf cx).accBase + (x.aN - 0x140) * 0x10000)
      (tileOps s cx.core (s.blockKey cx) (x.aN - 0x140) ≠ [] → exec (.mclr x) s = .next s) ∧
      (tileOps s cx.core (s.blockKey cx) (x.aN - 0x140) = [] →
        (∀ k ∈ s.warpsOf (s.blockKey cx), ¬ (mResume (s.warp k).mstat ∧ mAcc (s.warp k).mstat = x.aN - 0x140)) →
        ∃ t, exec (.mclr x) s = .next t ∧
          (∀ k, first ≤ k → k < first + 0x4000 → t.word k = 0 ∧ t.isPoison k = false ∧ t.isEmpty k = false) ∧
          (∀ k, k < first ∨ first + 0x4000 ≤ k → t.word k = s.word k ∧ t.isPoison k = s.isPoison k ∧
            t.isEmpty k = s.isEmpty k) ∧
          LanesPassed cx (s.warp cx.wk) (t.warp cx.wk) (fun _ v => v) ∧ RestKept cx s t)) ∧
    (Goes (.macc x) false s → x.dN < 0x100 → x.aN - 0x140 < (s.blockOf (issueCx (.macc x) s)).tiles →
      let cx := issueCx (.macc x) s
      let key := fun (l : Nat) => storeKey cx.core ((s.blockOf cx).accBase + (x.aN - 0x140) * 0x10000 +
        (s.opB cx l % 128 * 128 + s.opC cx l % 128) * 4)
      let value := fun (l : Nat) =>
        let c := (s.word (key l)).toNat
        let isNaN := c / 2 ^ 23 % 2 ^ 8 = 255 ∧ c % 2 ^ 23 ≠ 0
        if x.tN = 0 then c else if isNaN then (fmtOfFloat x.tN).nan false
        else ((fmtOfFloat x.tN).convert fmtF32 .rn false 0 (fmtF32.decode c)).1
      (tileOps s cx.core (s.blockKey cx) (x.aN - 0x140) = [] → (∀ l ∈ lanesOf cx.act, s.isPoison (key l) = false) →
        ∃ t, exec (.macc x) s = .next t ∧ Completes (.macc x) s t value 0 (fun _ v => v) id) ∧
      (tileOps s cx.core (s.blockKey cx) (x.aN - 0x140) ≠ [] → ∃ t r, exec (.macc x) s = .next t ∧
        tfind t.txns s.fresh = some r ∧ r.kind = .macc ∧ r.warp = cx.wk ∧ r.lanes = cx.act ∧
        r.todo = tileOps s cx.core (s.blockKey cx) (x.aN - 0x140) ∧
        (∀ k, t.isEmpty k = (s.isEmpty k || (dstKeys cx (s.warp cx.wk)).contains k)) ∧
        LanesPassed cx (s.warp cx.wk) (t.warp cx.wk) (fun _ v => v) ∧ WarpKept cx s t 0 ∧
        (∀ k, k ≠ cx.wk → t.warp k = s.warp k) ∧ t.store = s.store ∧ t.poison = s.poison ∧ MemoryKept s t)) ∧
    (Goes (.mstepSet x) false s →
      let cx := issueCx (.mstepSet x) s
      let ctl := s.opB cx 0
      let step := s.opA cx 0 % 2 ^ 16
      let m := (w (.mstepSet x)).mstat
      (ctl / 2 % 2 ^ 6 ≠ 0 ∨ ctl / 2 ^ 14 % 2 ^ 18 ≠ 0 ∨ (ctl.testBit 7 = false ∧ ctl / 2 ^ 8 % 2 ^ 6 ≠ 0) →
        ∃ f : Trap, exec (.mstepSet x) s = .next (s.raise cx.wk f) ∧ f.cause = .illegal) ∧
      (ctl = 0 →
        (mBusy m = true ∨ mResume m = false ∨ mSteps m < step → ∃ f : Trap, exec (.mstepSet x) s =
          .next (s.raise cx.wk f) ∧ f.cause = .matrixFormat ∧ f.qual = 0 ∧ f.lanes = cx.act ∧ f.addr = 0) ∧
        (mBusy m = false → mResume m = true → step ≤ mSteps m →
          let m' := BitVec.ofNat 64 (step * 2 ^ 32 + mSteps m * 2 ^ 16 + 2 ^ 14 + mAcc m * 2 ^ 11 + mCode m)
          exec (.mstepSet x) s = .next ((s.modWarp cx.wk (fun w => { w with mstat := m' })).advance cx)))))

/-- The events of the matrix unit (R135, R146, R148, R149, R154 to R158): a step with a pilot token adds its group's
products to every element and counts the step; without the token nothing changes; the last step is followed by
completion with its signals; tokens are taken and given back.
Beside the rules it rests on the model's own readings, log entry 55 (DEDUCED). -/
def Obligations.MatrixProceeds : Prop :=
  ∀ (s : State) (core : Nat),
    (∀ o rest g, s.now = .matrixStep core → (s.core core).matrix = o :: rest → o.groups[o.step]? = some g →
      let fits := (s.cluster (core / 16)).token && burstFits s (core / 16) (stepClocks o.form o.pb)
      let s0 := if o.zero then zeroTile o s else s
      let key := fun (e : Nat × Nat) => storeKey (o.warp / 128)
        ((s.block o.block).accBase + pbAcc o.pb * 0x10000 + (e.1 * 128 + e.2) * 4)
      (fits = false → exec .matrixStep s = .next s) ∧
      (fits = true → o.badMask = none → stepFault o g s0 = none → pbN o.pb ≤ 128 → o.warp / 128 = core →
        ∃ t, exec .matrixStep s = .next t ∧
          (∀ i j, i < pbM o.pb → j < pbN o.pb →
            let sum := groupSum (o.factors s0 true i g) (o.factors s0 false j g)
            let old := (s0.word (key (i, j))).toNat
            t.word (key (i, j)) = BitVec.ofNat 32
              (if isIntOperand (pbType o.pb) then accumulateInt (pbSat o.pb) old sum else accumulate old sum)) ∧
          (∀ k, (∀ i j, i < pbM o.pb → j < pbN o.pb → k ≠ key (i, j)) → t.word k = s.word k) ∧
          t.empty = s.empty ∧ t.mem = s.mem ∧ (t.warp o.warp).mstat = BitVec.ofNat 64
            ((o.step + 1) * 2 ^ 32 + o.groups.length * 2 ^ 16 + 2 ^ 15 + pbAcc o.pb * 2 ^ 11) ∧
          (t.core core).matrix = (s.core core).matrix.map (fun m =>
            if m.order = o.order then { o with step := o.step + 1, zero := false } else m))) ∧
    (∀ o rest, s.now = .matrixCompletion core → (s.core core).matrix = o :: rest →
      (o.step < o.groups.length → exec .matrixCompletion s = .next s) ∧
      (o.groups.length ≤ o.step → o.zero = false → pbBar o.pb = none → o.warp / 128 = core →
        (s.warp o.warp).ended = false → ∃ t, exec .matrixCompletion s = .next t ∧
          (t.core core).matrix = (s.core core).matrix.filter (fun m => m.order ≠ o.order) ∧
          (t.warp o.warp).mstat = BitVec.ofNat 64
            (o.step * 2 ^ 32 + o.groups.length * 2 ^ 16 + pbAcc o.pb * 2 ^ 11) ∧
          t.agenda = (match pbDc o.pb with
            | some n => s.agenda ++ [.dependenceCounterChange (core / 128 * 256 + n) (-1) 0]
            | none => s.agenda) ∧ t.store = s.store ∧ t.mem = s.mem)) ∧
    (∀ wk op hs, s.now = .matrixAutoRestart wk → (s.warp wk).live = true → (s.warp wk).rerun = true →
      (s.warp wk).fault = none → (s.warp wk).stopped = false → restartOp wk s = .ok op hs → ∃ t, exec .matrixAutoRestart s = .next t ∧
        (t.core (wk / 128)).matrix = (s.core (wk / 128)).matrix ++ [op] ∧ (t.warp wk).rerun = false ∧
        t.store = s.store ∧ t.mem = s.mem) ∧
    (s.now = .pilotTokenCapture core →
      let ring := tget [] s.ring (core / 8)
      let here := ring.find? (fun e => e.1 = core && decide (e.2 ≤ s.clk))
      (here = none ∨ (s.cluster core).token = true ∨ clusterReady s core = [] → exec .pilotTokenCapture s = .next s) ∧
      (∀ e, here = some e → (s.cluster core).token = false → clusterReady s core ≠ [] →
        ∃ t, exec .pilotTokenCapture s = .next t ∧ (t.cluster core).token = true ∧ (t.cluster core).since = s.clk ∧
          tget [] t.ring (core / 8) = ring.erase e ∧ (∀ k, k ≠ core → t.cluster k = s.cluster k) ∧
          t.warps = s.warps ∧ t.store = s.store)) ∧
    (s.now = .pilotTokenRelease core → (s.cluster core).token = true → clusterReady s core = [] →
      let die := core / 8
      let ring := tget [] s.ring die
      let u := s.setCluster core { s.cluster core with token := false }
      (tokenCount s die ≤ tokensHeld u die + ring.length → exec .pilotTokenRelease s = .next u) ∧
      (tokensHeld u die + ring.length < tokenCount s die → exec .pilotTokenRelease s = .next
        { u with ring := tput s.ring die (ring ++ [(nextStop s core, s.clk + 8)]) })) ∧
    exec .multicastTimeout s = .next s

/-! ## Manifests and the survivor queue (R241 to R267) -/

/-- MINS, MREM, MDEV, MCNT, MOPEN, MNEXT and MCLOSE on a bound descriptor (R248, R251 to R262), and on a free one its
binding first (R245): a name that fails R256 is a fault, a full queue is waited for.
Beside the rules it rests on the model's own readings, log entry 57 (DEDUCED). -/
def Obligations.ManifestInstructions : Prop :=
  ∀ (x : Long) (s : State) (i : Instr) (cx : Ctx), issueCx i s = cx → Goes i false s →
    let cl := cx.core / 16
    let c := s.cluster cl
    let acts := fun (h : Nat) (b : Bound) (elements : Bool → List Landed) =>
      b.used = true ∧ tget {} c.bound h = b ∧ nameDesc cx s = .bound h ∧
      elements = fun remove => (lanesOf cx.act).map (fun l => ⟨h, remove, s.opD cx l % 2 ^ (b.word0.toNat % 2 ^ 6),
        s.opB cx l % 2 ^ (b.word0.toNat / 2 ^ 8 % 2 ^ 5), s.opC cx l % 2 ^ (b.word0.toNat / 2 ^ 16 % 2 ^ 6)⟩)
    (∀ f, i ∈ [.mcnt x, .mopen x] → nameDesc cx s = .fail f → exec i s = .next (s.raise cx.wk f)) ∧
    (i ∈ [.mcnt x, .mopen x] → nameDesc cx s = .wait → exec i s = .next s) ∧
    (∀ w0 pool p, i = .mcnt x → nameDesc cx s = .free w0 pool p →
      (bindDesc cx w0 pool p s = none → exec i s = .next s) ∧
      (∀ h u, bindDesc cx w0 pool p s = some (h, u) → ∃ t, exec i s = .next t ∧
        tfind t.bindings (p.pa / 32) = some ⟨cl, h⟩ ∧ h < 64)) ∧
    (∀ h b elements, acts h b elements →
      (∀ remove, i = (if remove then .mrem x else .mins x) →
        (4096 < c.landing.length + (lanesOf cx.act).length → exec i s = .next s) ∧
        (c.landing.length + (lanesOf cx.act).length ≤ 4096 → ∃ t, exec i s = .next t ∧ Passes i s t [] ∧
          (t.cluster cl) = { c with landing := c.landing ++ elements remove })) ∧
      (i = .mdev x →
        (8 ≤ c.develops.length → exec i s = .next s) ∧
        (c.develops.length < 8 → compFault cx s (BitVec.ofNat 32 (s.opB cx 0)) = none → ∃ t d, exec i s = .next t ∧
          Passes i s t [] ∧ (t.cluster cl) = { c with develops := c.develops ++ [d] } ∧ d.handle = h ∧
          d.unbind = decide (x.cN % 2 = 1) ∧ d.core = cx.core ∧ d.comp = BitVec.ofNat 32 (s.opB cx 0) ∧
          d.started = false ∧ d.priv = decide (cx.berth = 64))) ∧
      (i = .mcnt x → ∃ t, exec i s = .next t ∧
        let landed := (c.landing.filter (fun e => e.handle = h)).length
        let develops := (c.develops.filter (fun d => d.handle = h)).length
        Completes i s t (fun _ => ofWords [BitVec.ofNat 32 b.current.elems, BitVec.ofNat 32 b.current.count,
          BitVec.ofNat 32 b.result,
          BitVec.ofNat 32 (landed * 2 ^ 16 + b.live.length * 2 ^ 8 + develops * 2 ^ 4 + b.status)]) 0 (fun _ v => v) id) ∧
      (i = .mopen x →
        let lo := s.opB cx 0 % 2 ^ (b.word0.toNat % 2 ^ 6)
        let hi := s.opC cx 0 % 2 ^ (b.word0.toNat % 2 ^ 6)
        let given := fun (t : State) (words : List Word) => Passes i s t (dstKeys cx (s.warp cx.wk)) ∧
          Holds t (dstOf i s 0) (ofWords words)
        let opened := fun (place : Nat) (position : Nat) => ∃ t cid, exec i s = .next t ∧ cid < 256 ∧
          tfind c.cursors cid = none ∧ tfind (t.cluster cl).cursors cid = some ⟨h, b.current.number, s.blockKey cx⟩ ∧
          given t [BitVec.ofNat 32 (2 ^ 31 + place * 2 ^ 30 + h * 2 ^ 24 + cid), BitVec.ofNat 32 b.current.number,
            BitVec.ofNat 32 position, BitVec.ofNat 32 hi]
        (freeCursors c = [] → ∃ t, exec i s = .next t ∧ given t [0, 0, 0, 0]) ∧
        (freeCursors c ≠ [] → ∀ plate entry e, firstFrom s cl cx.handler b b.current lo = .elem plate entry e →
          opened (if hi < e.1 then 1 else 0) (plate % 2 ^ 22 * 2 ^ 10 + entry)) ∧
        (freeCursors c ≠ [] → firstFrom s cl cx.handler b b.current lo = .over →
          opened 1 (b.current.count % 2 ^ 22 * 2 ^ 10)))) ∧
    (let word := fun (n : Nat) => s.opA cx 0 / 2 ^ (32 * n) % 2 ^ 32
     let cid := word 0 % 2 ^ 8
     let known := (word 0).testBit 31 = true ∧ tfind c.cursors cid =
       some ⟨word 0 / 2 ^ 24 % 2 ^ 6, word 1, s.blockKey cx⟩
     let refused := ∃ f : Trap, exec i s = .next (s.raise cx.wk f) ∧ f.cause = .permission ∧ f.qual = 3 ∧
       f.lanes = cx.act ∧ f.addr = BitVec.ofNat 64 ((s.warp cx.wk).sbase + 4 * (x.aN - 0x200))
     (i = .mclose x → (word 0).testBit 31 = false → exec i s = .next (s.advance cx)) ∧
     (i = .mclose x → (word 0).testBit 31 = true → ¬ known → refused) ∧
     (i = .mclose x → known → ∃ t, exec i s = .next t ∧ tfind (t.cluster cl).cursors cid = none ∧
       (∀ k ∈ codeKeys cx.core (s.warp cx.wk) x.aN 1 0, t.word k = BitVec.ofNat 32 (word 0 % 2 ^ 31)) ∧
       LanesPassed cx (s.warp cx.wk) (t.warp cx.wk) (fun _ v => v)) ∧
     (i = .mnext x → ¬ known → refused) ∧
     (∀ (v : Version) (k : Walk), i = .mnext x → known →
       (tget {} c.bound (word 0 / 2 ^ 24 % 2 ^ 6)).live.find? (fun v => v.number = word 1) = some v →
       (lanesOf cx.act).foldl (walkLane s cl cx.handler (tget {} c.bound (word 0 / 2 ^ 24 % 2 ^ 6)) v (word 3))
         (some { ended := (word 0).testBit 30, plate := word 2 / 2 ^ 10, entry := word 2 % 2 ^ 10 }) = some k →
       ∃ t p, exec i s = .next t ∧ tfind t.prods s.fresh = some p ∧ p.kind = .mnext ∧ p.warp = cx.wk ∧
         LanesPassed cx (s.warp cx.wk) (t.warp cx.wk) (fun _ v => v) ∧ MemoryKept s t ∧ t.store = s.store ∧
         (∀ l e, (l, e) ∈ k.elems → ∀ y ∈ landings cx (s.warp cx.wk) x.dN 3 l
           (ofWords [BitVec.ofNat 32 e.1, BitVec.ofNat 32 e.2.1, BitVec.ofNat 32 e.2.2]) k.bad,
           e.1 < 2 ^ 32 → e.2.1 < 2 ^ 32 → e.2.2 < 2 ^ 32 → y ∈ p.words ∧ t.isEmpty y.key = true)))

/-- SQPUSH, SQPOP and SQFLUSH (R263 to R267): the rows of the mask are queued into the channel's tiles and the token
advances by 32; a completed tile is popped, and none is all ones; a flush pads the pending tile, or gives 0. A record
that names no channel takes the permission fault with qualifier 3; a push without room waits.
Beside the rules it rests on the model's own readings, log entry 58 (DEDUCED). -/
def Obligations.SurvivorQueue : Prop :=
  ∀ (x : Long) (s : State),
    let refused := fun (i : Instr) (a : Nat) => ∃ f : Trap, exec i s = .next (s.raise (issueCx i s).wk f) ∧
      f.cause = .permission ∧ f.qual = 3 ∧ f.addr = BitVec.ofNat 64 a
    (Goes (.sqpush x) false s →
      let i : Instr := .sqpush x
      let cx := issueCx i s
      let a := s.opA cx 0
      let src := s.opB cx 0
      let kept := (List.range 32).filter (fun l => (s.opC cx 0).testBit l)
      (namedChannel s cx a = none → refused i a) ∧
      ∀ n c, namedChannel s cx a = some (n, c) → (c.bound = false → recordPoison s cx a = none) →
        (src % 16 ≠ 0 ∨ localBad (s.blockOf cx) src (32 * c.rowb) = true → refused i a) ∧
        (src % 16 = 0 → localBad (s.blockOf cx) src (32 * c.rowb) = false → c.rows < c.height →
          let room := kept = [] ∨ c.filled + (c.rows + kept.length - 1) / c.height + 1 ≤ c.popped + c.slots
          (¬ room ∨ 32 ≤ (s.core cx.core).holds.length → exec i s = .next s) ∧
          (room → (s.core cx.core).holds.length < 32 → ∃ t d, exec i s = .next t ∧ Passes i s t [] ∧
            tfind (t.cluster (cx.core / 16)).channels n = some d ∧ d.bound = true ∧ d.token = c.token + 32 ∧
            d.rows = (c.rows + kept.length) % c.height ∧ d.filled = c.filled + (c.rows + kept.length) / c.height ∧
            d.popped = c.popped ∧ (kept ≠ [] → ∃ p, (t.cluster (cx.core / 16)).pushes =
              (s.cluster (cx.core / 16)).pushes ++ [p] ∧ p.chan = n ∧ p.rowb = c.rowb ∧
              p.rows.map Prod.fst = kept.map (fun l => src + l * c.rowb))))) ∧
    (Goes (.sqpop x) false s → x.dN < 0x100 →
      let i : Instr := .sqpop x
      let cx := issueCx i s
      let a := s.opA cx (lowestLane cx.act)
      (namedChannel s cx a = none → refused i a) ∧
      ∀ n c, namedChannel s cx a = some (n, c) →
        (c.bound = false → refused i a) ∧
        (c.bound = true → c.popped = c.filled → ∃ t, exec i s = .next t ∧
          Completes i s t (fun _ => 0xFFFFFFFF) 0 (fun _ v => v) id) ∧
        (c.bound = true → c.popped ≠ c.filled → ∃ t p, exec i s = .next t ∧ tfind t.prods s.fresh = some p ∧
          p.kind = .sqpop ∧ p.words = (lanesOf cx.act).flatMap (fun l =>
            landings cx (s.warp cx.wk) x.dN 1 l (lget 0xFFFFFFFF (c.maps.headD []) l).toNat false) ∧
          (c.flushed = false → tfind (t.cluster (cx.core / 16)).channels n =
            some { c with popped := c.popped + 1, maps := c.maps.drop 1 }) ∧
          LanesPassed cx (s.warp cx.wk) (t.warp cx.wk) (fun _ v => v) ∧ MemoryKept s t)) ∧
    (Goes (.sqflush x) false s →
      let i : Instr := .sqflush x
      let cx := issueCx i s
      let a := s.opA cx (groupLane cx)
      ∀ n c, namedChannel s cx a = some (n, c) →
        (c.bound = false → refused i a) ∧
        (c.bound = true → c.rows = 0 → ∃ t d, exec i s = .next t ∧ Passes i s t (dstKeys cx (s.warp cx.wk)) ∧
          Holds t (dstOf i s 0) 0 ∧ tfind (t.cluster (cx.core / 16)).channels n = some d ∧
          (c.popped = c.filled → d.bound = false) ∧ (c.popped ≠ c.filled → d = { c with flushed := true })) ∧
        (c.bound = true → 0 < c.rows → c.rows < c.height → c.room (c.height - c.rows) = false →
          exec i s = .next s) ∧
        (c.bound = true → 0 < c.rows → c.rows < c.height → c.room (c.height - c.rows) = true → ∃ t d,
          exec i s = .next t ∧ Passes i s t (dstKeys cx (s.warp cx.wk)) ∧ Holds t (dstOf i s 0) c.rows ∧
          tfind (t.cluster (cx.core / 16)).channels n = some d ∧ d.flushed = true ∧ d.rows = 0 ∧
          d.filled = c.filled + 1))

/-- The events of manifests and of the survivor queue (R249, R251, R258, R265, R266): a develop that writes nothing
ends with its status and discards its landed entries; a performed develop completes with its signals; rows are
written, and the last one ends its push; a popped tile's words land once its rows are written.
Beside the rules it rests on the model's own readings, log entries 57 (DEDUCED), 58 (DEDUCED). -/
def Obligations.ManifestsProceed : Prop :=
  ∀ (s : State) (cl : Nat),
    let c := s.cluster cl
    (s.now = .develop cl → developHeads c = [] → exec .develop s = .next s) ∧
    (∀ k d status, s.now = .develop cl → developHeads c = [(k, d)] → planDevelop cl d (sweepHandle cl d.handle s) = .done status none →
      ∃ t e, exec .develop s = .next t ∧ (t.cluster cl).develops[k]? = some e ∧ e.started = true ∧ e.status = status ∧
        e.version = none ∧ MemoryKept (sweepHandle cl d.handle s) t) ∧
    (∀ k d v absent writes fresh ws u, s.now = .develop cl → developHeads c = [(k, d)] →
      planDevelop cl d (sweepHandle cl d.handle s) = .write v absent writes fresh →
      developWords cl ((sweepHandle cl d.handle s).bound cl d.handle) d.priv v writes fresh (sweepHandle cl d.handle s) =
        .ok (ws, u) → (u.cluster cl).develops[k]? = some d →
      ∃ t e, exec .develop s = .next t ∧ (t.cluster cl).develops[k]? = some e ∧ e.started = true ∧ e.status = 0 ∧
        e.result = absent ∧ e.version = some v ∧ MemoryKept u t ∧ t.store = u.store ∧
        ∃ j, (t.cluster cl).jobs = (u.cluster cl).jobs ++ [j] ∧ j.id = d.id ∧ j.words.length = ws.length) ∧
    (s.now = .developCompletion cl → (∀ d ∈ c.develops, d.started = false) → exec .developCompletion s = .next s) ∧
    (∀ d k, s.now = .developCompletion cl → c.develops.zipIdx.find? (fun e => developDone s cl e.1) = some (d, k) →
      d.unbind = false → compBar d.comp = false → ∃ t, exec .developCompletion s = .next t ∧
        (t.cluster cl).develops = c.develops.eraseIdx k ∧
        (tget {} (t.cluster cl).bound d.handle).status = d.status ∧
        (tget {} (t.cluster cl).bound d.handle).result = d.result ∧
        (d.comp.getLsbD 30 = true → Event.dependenceCounterChange
          (d.core / 128 * 256 + d.comp.toNat / 2 ^ 22 % 2 ^ 8) (-1) 0 ∈ t.agenda)) ∧
    (s.now = .sqpushRowsWritten cl → c.pushes = [] → exec .sqpushRowsWritten s = .next s) ∧
    (∀ p src dst tile rest, s.now = .sqpushRowsWritten cl → c.pushes = [p] → p.rows = (src, dst, tile) :: rest →
      p.rowb % 4 = 0 → dst % 4 = 0 → dst + p.rowb ≤ 2 ^ 22 → (src < 2 ^ 22 → src % 4 = 0 ∧ (src + p.rowb ≤ dst ∨ dst + p.rowb ≤ src)) →
      ∃ t, exec .sqpushRowsWritten s = .next t ∧
        (∀ j, j < p.rowb / 4 → t.word (storeKey p.core (dst + 4 * j)) =
          if 2 ^ 22 ≤ src then 0 else s.word (storeKey p.core (src + 4 * j))) ∧
        (t.cluster cl).pushes = (if rest = [] then [] else [{ p with rows := rest }]) ∧
        (rest = [] → (t.core p.core).holds = (s.core p.core).holds.filter (fun h => !(h.kind = 2 && h.own = p.id))) ∧
        t.mem = s.mem ∧ t.warps = s.warps) ∧
    ∀ k p, s.now = .producerResultArrival k → tfind s.prods k = some p → p.kind = .sqpop →
      (p.words.map Landing.key).Nodup → (s.warp p.warp).ended = false →
      (tileWritten s p = false → exec .producerResultArrival s = .next s) ∧
      (tileWritten s p = true → ∃ t, exec .producerResultArrival s = .next t ∧ Landed s t k p)

/-! ## Rays (R318 to R336) -/

/-- RTRC, RRES, RAHC and RBVER (R329, R330, R332 to R334, R336). A ray starts in each active lane's slot when the
slots are idle and the core's unit has room; an idle slot answers at once, another one is waited for by its registers
alone; a decision commits the candidate or drops it, and without a candidate is the permission fault with qualifier 6;
VERSION is raised by one at its home.
Beside the rules it rests on the model's own readings, log entry 59 (DEDUCED). -/
def Obligations.RayInstructions : Prop :=
  ∀ (x : Long) (s : State),
    (Goes (.rtrc x) false s →
      let cx := issueCx (.rtrc x) s
      let slot := x.dN - 0x140
      let root := s.opB cx 0
      let busy := (∃ l ∈ lanesOf cx.act, (rayIn s (s.blockKey cx) (rayWarp cx s) l slot).isSome = true) ∨
        1024 < (s.rays.filter (fun e => e.2.core = cx.core)).length + (lanesOf cx.act).length
      let fault := accessFault s cx ((lanesOf cx.act).map (fun l =>
        ⟨l, (root : Int), checkLane s cx 0 64 wantLoad root⟩))
      (busy → exec (.rtrc x) s = .next s) ∧
      (∀ f, ¬ busy → fault = some f → exec (.rtrc x) s = .next (s.raise cx.wk f)) ∧
      (¬ busy → fault = none → ∃ t, exec (.rtrc x) s = .next t ∧ Passes (.rtrc x) s t [] ∧
        ∀ l ∈ lanesOf cx.act, ∃ id r, rayIn t (s.blockKey cx) (rayWarp cx s) l slot = some (id, r) ∧
          r = { mode := .waiting, core := cx.core, block := s.blockKey cx, warp := rayWarp cx s, lane := l, slot := slot
                root := BitVec.ofNat 64 root, flags := BitVec.ofNat 32 (s.opC cx 0), data := wordsOf 8 (s.opA cx l)
                ctx := (s.blockOf cx).ctx, priv := decide (cx.berth = 64) })) ∧
    (Goes (.rres x) false s → x.dN < 0x100 →
      let cx := issueCx (.rres x) s
      let slot := x.aN - 0x140
      let ray := fun (l : Nat) => rayIn s (s.blockKey cx) (rayWarp cx s) l slot
      ∃ t, exec (.rres x) s = .next t ∧ Passes (.rres x) s t (dstKeys cx (s.warp cx.wk)) ∧
        ∀ l ∈ lanesOf cx.act,
          (ray l = none → Holds t (dstOf (.rres x) s l) (ofWords [0, 0xFFFFFFFF, 0, 0, 15])) ∧
          (ray l ≠ none → (∀ k ∈ dstOf (.rres x) s l, t.isEmpty k = true) ∧ ∃ k p, tfind t.prods k = some p ∧
            p.kind = .rres ∧ p.warp = cx.wk ∧ p.arg = slot ∧ p.lanes = maskOf (fun j => j = l) ∧
            p.words.map Landing.key = dstOf (.rres x) s l)) ∧
    (Goes (.rahc x) false s → (s.rays.map Prod.fst).Nodup →
      let cx := issueCx (.rahc x) s
      let slot := x.aN - 0x140
      let ray := fun (l : Nat) => rayIn s (s.blockKey cx) (rayWarp cx s) l slot
      let held := fun (l : Nat) => ∃ id r, ray l = some (id, r) ∧ r.mode = .candidate
      ((∃ l ∈ lanesOf cx.act, ¬ held l) → ∃ f : Trap, exec (.rahc x) s = .next (s.raise cx.wk f) ∧
        f.cause = .permission ∧ f.qual = 6 ∧ f.addr = 0 ∧
        ∀ l, l < 32 → (f.lanes.getLsbD l = true ↔ cx.act.getLsbD l = true ∧ ¬ held l)) ∧
      ((∀ l ∈ lanesOf cx.act, held l) → ∃ t, exec (.rahc x) s = .next t ∧ Passes (.rahc x) s t [] ∧
        ∀ l ∈ lanesOf cx.act, ∀ id r, ray l = some (id, r) → ∃ r', tfind t.rays id = some r' ∧
          let final := fun (status : Nat) (h : Option Hit) => r'.mode = .final ∧ r'.status = status ∧ r'.result = h
          ((s.opB cx l).testBit 0 = true → final 3 r.cands.head?) ∧
          ((s.opB cx l).testBit 0 = false → 1 < r.cands.length →
            r' = { r with cands := r.cands.drop 1, handed := false }) ∧
          ((s.opB cx l).testBit 0 = false → r.cands.length ≤ 1 →
            final (if r.closest = none then 0 else 1) r.closest))) ∧
    (∀ p va v, Goes (.rbver x) false s → Memory.wf s.mem →
      let cx := issueCx (.rbver x) s
      let a := s.opA cx 0
      let pw := p.pa / 4
      let held := s.lineLocked (pw / 32) = true ∨ (s.near_ cx.core pw).reqPend = true ∨ s.quiet pw = false
      watch s { cx with x := { x with mods := 0 } } true true [(0, (a : Int), 64)] = .none →
      checkLane s cx 0 64 wantAtomic a = .ok (.glob p va) → regionOf p.pa ≠ .fabric →
      s.latest pw = some (v, false) →
      let ahead := s.accessHeld { cx with x := { x with mods := 0 } } true 64 [(0, .glob p va)]
      (ahead = true → exec (.rbver x) s = .next s) ∧
      (ahead = false → held → exec (.rbver x) s = .next (s.takePin p)) ∧
      (ahead = false → ¬ held → ∃ t, exec (.rbver x) s = .next t ∧
        Holds t (dstOf (.rbver x) s 0) (v + 1).toNat ∧ WordsKept s t (dstKeys cx (s.warp cx.wk)) ∧
        (memWord t.mem pw = v + 1 ∧ (s.direct p = false → t.owner pw = .unowned)) ∧
        (∀ c, c / 4 ≠ pw → memByte t.mem c = memByte s.mem c) ∧
        LanesPassed cx (s.warp cx.wk) (t.warp cx.wk) (fun _ v => v) ∧ (∀ k, k ≠ cx.wk → t.warp k = s.warp k)))

/-- The five operations of RSND (R335): another control word is illegal; 1 to 3 are privileged; the destination
receives the context's setting after the operation. Entries in invalidated ways are gone; giving ways takes them from
every other context; the presets divide the four ways among contexts 0 to 3; an enable changes its context alone.
Beside the rules it rests on the model's own readings, log entry 59 (DEDUCED). -/
def Obligations.SoundingControl : Prop :=
  ∀ (s : State) (op : Nat) (i : Instr), let x := s.cur.x
    (op, i) ∈ ([(0, .rsndInvalidateContext x), (1, .rsndInvalidateAll), (2, .rsndGiveWays), (3, .rsndPreset),
      (4, .rsndEnable)] : List (Nat × Instr)) →
    let r : Instr := .rsndInvalidateContext x
    Goes r false s →
    let cx := issueCx r s
    let c := s.opA cx 0
    let me := (s.blockOf cx).ctx
    let used := match op with
      | 2 => 0x1F70F | 3 => 0x3F | 4 => 0x1000F | _ => 0xF
    let wellFormed := c % 16 = op ∧ ∀ k, k < 32 → c.testBit k = true → Nat.testBit used k = true
    let without := fun (t : State) (mask : Nat) => t.sounding = s.sounding.filter (fun e => !mask.testBit (e.1 % 4))
    let taken := c / 2 ^ 12 % 2 ^ 4
    let whom := c / 2 ^ 8 % 2 ^ 3
    (¬ wellFormed → c < 2 ^ 32 → ∃ f : Trap, exec i s = .next (s.raise cx.wk f) ∧ f.cause = .illegal) ∧
    (wellFormed → c < 2 ^ 32 → op ∈ [1, 2, 3] → cx.berth ≠ 64 → ∃ f : Trap, exec i s = .next (s.raise cx.wk f) ∧
      f.cause = .privileged) ∧
    (wellFormed → c < 2 ^ 32 → (op ∈ [1, 2, 3] → cx.berth = 64) → ∃ t, exec i s = .next t ∧
      Passes r s t (dstKeys cx (s.warp cx.wk)) ∧
      Holds t (dstOf r s 0) (tget 0 t.ways me + if nmem t.predict me then 16 else 0) ∧
      (op = 0 → without t (tget 0 s.ways me) ∧ t.ways = s.ways ∧ t.predict = s.predict) ∧
      (op = 1 → t.sounding = [] ∧ t.ways = s.ways ∧ t.predict = s.predict) ∧
      (op = 2 → without t (taken ||| tget 0 s.ways whom) ∧ tget 0 t.ways whom = taken ∧
        (∀ k, k ≠ whom → tget 0 t.ways k = tget 0 s.ways k &&& (15 - taken)) ∧
        (∀ k, nmem t.predict k = if k = whom then c.testBit 16 else nmem s.predict k)) ∧
      (op = 3 → t.sounding = s.sounding ∧
        (∀ k, tget 0 t.ways k = (match c / 16 % 4, k with
          | 1, 0 => 15 | 2, 0 => 3 | 2, 1 => 12 | 3, 0 => 1 | 3, 1 => 2 | 3, 2 => 4 | 3, 3 => 8 | _, _ => 0)) ∧
        (∀ k, nmem t.predict k = (nmem s.predict k || decide (tget 0 t.ways k ≠ 0)))) ∧
      (op = 4 → t.sounding = s.sounding ∧ t.ways = s.ways ∧
        ∀ k, nmem t.predict k = if k = me then c.testBit 16 else nmem s.predict k))

/-- The events of rays (R26, R323, R327, R330, R332, R333): a start reads the root record or ends the ray with its
status; a traversal whose reads succeed leaves the candidates below the closest opaque hit in order, or ends the ray;
and a pending RRES lands a candidate, handed over once, or a final status that frees the slot.
Beside the rules it rests on the model's own readings, log entries 19 (DESIGN CHOICE), 59 (DEDUCED). -/
def Obligations.RaysProceed : Prop :=
  ∀ (s : State),
    (∀ id r, s.now = .rayStart id → tfind s.rays id = some r → r.mode = .waiting → s.unacked r.core = false →
      let ended := fun (t : State) (status : Nat) => tfind t.rays id =
        some { r with mode := .final, status := status, result := none, cands := [] }
      let reads := engineReads s r.core r.ctx r.priv ((List.range 16).map (fun i => r.root.toNat + 4 * i))
      (beamOf r.data = none ∨ 8 ≤ r.flags.toNat → ∃ t, exec .rayStart s = .next t ∧ ended t 5) ∧
      (∀ beam, beamOf r.data = some beam → r.flags.toNat < 8 →
        (∀ va, reads = .bad va → ∃ t, exec .rayStart s = .next t ∧ ended t 4) ∧
        (reads = .wait → exec .rayStart s = .next s) ∧
        (∀ ws, reads = .ok ws → rootOk ws = false → ∃ t, exec .rayStart s = .next t ∧ ended t 6) ∧
        (∀ ws lo hi, reads = .ok ws → rootOk ws = true → rootBox ws = some (lo, hi) → ∃ t r',
          exec .rayStart s = .next t ∧ tfind t.rays id = some r' ∧ r'.mode = .started ∧ r'.rootWords = ws ∧
          r'.key = rayKey beam lo hi ∧ (r.flags.getLsbD 0 = true → r'.leaf = none) ∧ t.sounding = s.sounding ∧
          t.mem = s.mem ∧ t.warps = s.warps))) ∧
    (∀ id r beam, s.now = .rayTraversal id → tfind s.rays id = some r → r.mode = .started → r.leaf = none →
      beamOf r.data = some beam →
      let out := traverse (rayEnv s r beam) (travFuel r.rootWords) { wait := [⟨rootTop r.rootWords, false, none⟩] }
      (out = .wait → exec .rayTraversal s = .next s) ∧
      (∀ status va, out = .fail status va → ∃ t, exec .rayTraversal s = .next t ∧
        tfind t.rays id = some { r with mode := .final, status := status, result := none, cands := [] }) ∧
      (∀ tr, out = .ok tr → ∃ t r', exec .rayTraversal s = .next t ∧ tfind t.rays id = some r' ∧
        let open_ := tr.hits.filter (fun h => !h.opaque_ &&
          (match tr.bound with | some b => h.below b | none => true))
        r'.closest = tr.bound ∧ (open_ = [] → r'.mode = .final ∧ r'.result = tr.bound ∧
          r'.status = if tr.bound = none then 0 else 1) ∧
        (open_ ≠ [] → r'.mode = .candidate ∧ r'.cands.Perm open_))) ∧
    (∀ k p id r, s.now = .producerResultArrival k → tfind s.prods k = some p → p.kind = .rres →
      (p.words.map Landing.key).Nodup → p.words.length = 5 → (s.warp p.warp).ended = false → p.warp % 128 ≠ 64 →
      rayIn s (s.warp p.warp).block (s.warp p.warp).index (lowestLane p.lanes) p.arg = some (id, r) →
      let words := fun (t : State) (status count : Nat) (h : Option Hit) =>
        Holds t (p.words.map Landing.key) (ofWords (match h with
          | some h => [h.tWord, BitVec.ofNat 32 h.prim, h.u, h.v, BitVec.ofNat 32 (min count 0xFFFF * 2 ^ 16 +
              (if h.front then 2 ^ 6 else 0) + h.kind * 2 ^ 4 + status)]
          | none => [0, 0xFFFFFFFF, 0, 0, BitVec.ofNat 32 (min count 0xFFFF * 2 ^ 16 + status)]))
      (r.mode = .waiting ∨ r.mode = .started → exec .producerResultArrival s = .next s) ∧
      (r.mode = .candidate → (∀ y ∈ p.words, y.poison = false) → ∃ t, exec .producerResultArrival s = .next t ∧
        words t 2 (if r.handed then r.count else r.count + 1) r.cands.head? ∧ tfind t.prods k = none ∧
        tfind t.rays id = some { r with count := if r.handed then r.count else r.count + 1, handed := true }) ∧
      (r.mode = .final → (∀ y ∈ p.words, y.poison = false) → ∃ t, exec .producerResultArrival s = .next t ∧
        words t r.status r.count r.result ∧ tfind t.prods k = none ∧ tfind t.rays id = none))

/-! ## Synchronisation and time (R337 to R356) -/

/-- BAR and FIX and their release (R344, R345, R348): the active lanes stand at the barrier unissued, the others of the
group pass. When every participant has arrived and no entry of a fix point is left, the barrier releases: each lane
at it passes, the local counts of a fix point start again, and no word of any store and no byte of memory changes;
until then nothing happens. At a fix point that is reached the block's entries become its batch (R346).
A batch of a fix point (R199, R346): its order is by block, warp, lane and issue sequence; an entry that is alone
in its batch is performed at its home as a relaxed RED, leaves the fixer, and changes its own bytes alone.
Beside the rules it rests on the model's own readings, log entry 40 (DEDUCED). -/
def Obligations.BarriersAndFixPoints : Prop :=
  ((∀ (x : Long) (s : State), ∀ e ∈ ([(.bar x, .bar (x.cN % 8)), (.fix x, .fix (x.cN % 8))] : List (Instr × BarrierWait)),
     Goes e.1 false s →
     let cx := issueCx e.1 s
     ∃ t, exec e.1 s = .next t ∧ WordsKept s t [] ∧ RestKept cx s t ∧
       WarpKept cx s t 0 ∧
       (t.warp cx.wk).lanes.length = (s.warp cx.wk).lanes.length ∧
       ∀ l v, (s.warp cx.wk).lanes[l]? = some v → (t.warp cx.wk).lanes[l]? = some (
         if cx.act.getLsbD l then { v with bar := e.2 } else if cx.group.getLsbD l then passed cx v else v)) ∧
   ∀ (s : State) (wk : Nat) (wait : BarrierWait), s.now = .barrierRelease wk → (s.warp wk).barrier = some wait →
     let bs := barrierBlocks s (s.warp wk).block wait
     let ready := (s.warp wk).live = true ∧ gathered s wk wait = true ∧
       ∀ b ∈ bs, wait ≠ .bar 1 → (s.block b).ordered = true → (s.block b).fixer = [] ∧ (s.block b).batch = []
     (¬ ready → exec .barrierRelease s = .next s) ∧
     (ready → (participants s wk wait).Nodup → ∃ t, exec .barrierRelease s = .next t ∧ t.store = s.store ∧ t.mem = s.mem ∧
       (∀ k, k ∉ participants s wk wait → t.warp k = s.warp k) ∧
       ∀ k ∈ participants s wk wait, (t.warp k).lanes = (s.warp k).lanes.map (fun v =>
           if v.exited = true ∨ v.bar = .none then v
           else movedOn v (BitVec.ofNat 64 (v.pc.toNat + 8))) ∧
         ((s.block (s.warp wk).block).ordered = true → wait ≠ .bar 1 → (t.warp k).localCount = 0) ∧
         (t.warp k).qpreds = (s.warp k).qpreds ∧ (t.warp k).flags = (s.warp k).flags)) ∧
  ((∀ es : List FixEntry, (sortEntries es).Perm es ∧ (sortEntries es).Pairwise (fun a b =>
     let key := fun (e : FixEntry) => [e.block, e.warp, e.lane, e.seq]
     ¬ List.Lex (· < ·) (key b) (key a))) ∧
   (∀ (s : State) (b wk : Nat) (wait : BarrierWait), s.now = .fixPointApply b → (s.block b).ordered = true →
     (s.block b).mode = .running → (s.warpsOf b).head? = some wk → (s.warp wk).barrier = some wait →
     wait ≠ .bar 1 → wait ≠ .bar 3 → gathered s wk wait = true → (s.block b).fixer ≠ [] →
     exec .fixPointApply s = .next (s.setBlock b
       { s.block b with batch := (s.block b).batch ++ (s.block b).fixer, fixer := [] })) ∧
   ∀ (s : State) (b wk : Nat) (wait : BarrierWait) (e : FixEntry) (p : Phys) (v : Nat → Word),
     s.now = .fixPointApply b → (s.block b).ordered = true → (s.block b).mode = .running →
     (s.warpsOf b).head? = some wk → (s.warp wk).barrier = some wait → wait ≠ .bar 1 → wait ≠ .bar 3 →
     gathered s wk wait = true → s.lowerRetired (s.block b).launch (s.block b).index = true → Memory.wf s.mem →
     (s.block b).fixer = [] → (s.block b).batch = [e] → translate s (s.block b).core (s.block b).ctx false needBoth e.addr.toNat = .ok p →
     regionOf p.pa ≠ .fabric →
     let z := memBytes e.ty
     let n := wordCount z
     let all := ofWords ((List.range n).map v)
     let old := all / 2 ^ (8 * (p.pa % 4)) % 2 ^ (8 * z)
     let new := atomicRule e.op e.ty old e.value.toNat
     let put := all - old * 2 ^ (8 * (p.pa % 4)) + new % 2 ^ (8 * z) * 2 ^ (8 * (p.pa % 4))
     p.pa % min z 4 = 0 →
     (∀ i, i < n → s.latest (p.pa / 4 + i) = some (v i, false) ∧ s.quiet (p.pa / 4 + i) = true ∧
       (s.near_ (s.block b).core (p.pa / 4 + i)).reqPend = false) →
     ∃ t, exec .fixPointApply s = .next t ∧ (t.block b).fixer = [] ∧ (t.block b).batch = [] ∧ t.warps = s.warps ∧ t.store = s.store ∧
       (∀ i, i < n → memWord t.mem (p.pa / 4 + i) = BitVec.ofNat 32 (put / 2 ^ (32 * i))) ∧
       ∀ c, (c / 4 < p.pa / 4 ∨ p.pa / 4 + n ≤ c / 4) → memByte t.mem c = memByte s.mem c)

/-- DCINC, DCDEC and DCWAIT, and the change of a counter (R338 to R340): a change is sent and the group passes; a
counter changes modulo 2^32, a lane that stands at a DCWAIT of it has arrived before the change, and a change whose
result is 0 reaches every lane that waits on it; a lane passes where the counter reads 0 at its arrival, behind the
warp's own changes, or a transition to zero has come since, and the others wait.
Beside the rules it rests on the model's own readings, log entry 61 (DEDUCED). -/
def Obligations.DependenceCounters : Prop :=
  (∀ (x : Long) (s : State) (down : Bool),
    let i : Instr := if down then .dcdec x else .dcinc x
    Goes i false s →
    let cx := issueCx i s
    let n := BitVec.ofNat 32 (s.opB cx 0)
    ∃ t, exec i s = .next t ∧ Passes i s t [] ∧
      t.agenda = s.agenda ++ [.dependenceCounterChange (s.opA cx 0 % 2 ^ 10) (if down then 0 - n else n) (cx.wk + 1)] ∧
      t.counters = s.counters) ∧
  (∀ (x : Long) (s : State), Goes (.dcwait x) false s →
    let cx := issueCx (.dcwait x) s
    let n := s.opA cx 0 % 2 ^ 10
    let goes := fun (v : Lane) => (v.dcwait = none ∧ tget 0 s.counters n = 0 ∧ changeComing s cx.wk n = false) ∨ (v.dcwait ≠ none ∧ v.dcready = true)
    ∃ t, exec (.dcwait x) s = .next t ∧ WordsKept s t [] ∧ MemoryKept s t ∧ t.counters = s.counters ∧
      (∀ k, k ≠ cx.wk → t.warp k = s.warp k) ∧
      ∀ l v, l < 32 → (s.warp cx.wk).lanes[l]? = some v → (t.warp cx.wk).lanes[l]? = some (
        if cx.group.getLsbD l = false then v
        else if goes v then passed cx v
        else if v.dcwait = none then { v with dcwait := some n, dcready := false } else v)) ∧
  ∀ (s : State) (n w : Nat) (d : Word), s.now = .dependenceCounterChange n d w → ∃ t,
    exec .dependenceCounterChange s = .next t ∧ tget 0 t.counters n = tget 0 s.counters n + d ∧
    (∀ k, k ≠ n → tget 0 t.counters k = tget 0 s.counters k) ∧ t.store = s.store ∧ t.mem = s.mem ∧
    (tget 0 s.counters n + d ≠ 0 → t.queues = s.queues ∧ t.blocks = s.blocks) ∧
    ∀ (k l : Nat) (v : Lane), (s.warp k).lanes[l]? = some v →
      let u := if waitsAt s k l = some n then { v with
          dcwait := some n
          dcready := decide (tget 0 s.counters n = 0 ∧ changeComing s k n = false ∧ w ≠ k + 1) }
        else v
      (tget 0 s.counters n + d ≠ 0 → (t.warp k).lanes[l]? = some u) ∧
      (tget 0 s.counters n + d = 0 → (t.warp k).lanes[l]? = some { u with
        dcready := u.dcready || u.dcwait = some n
        ahead := u.ahead.map (fun a => { a with dcready := a.dcready || a.dcwait = some n }) })

/-- BOINIT, BOARRV, BOWAIT and BOTEST, and an update of a barrier object (R341 to R343): after each update a phase is
complete when no arrival and no byte is pending, and then PHASE advances and PENDING is COUNT again. An address that
R341 refuses takes the permission fault.
Beside the rules it rests on the model's own readings, log entry 61 (DEDUCED). -/
def Obligations.BarrierObjects : Prop :=
  let word := fun (s : State) (core a i : Nat) => s.word (storeKey core (a + 4 * i))
  let updated := fun (s t : State) (core a : Nat) (arrive : Bool) (bytes : Word) =>
    let pending := word s core a 0
    let left := if arrive ∧ pending ≠ 0 then pending - 1 else pending
    let due := word s core a 1 + bytes
    let done := left = 0 ∧ due = 0
    word t core a 0 = (if done then word s core a 2 else left) ∧ word t core a 1 = due ∧
    word t core a 2 = word s core a 2 ∧ word t core a 3 = if done then word s core a 3 + 1 else word s core a 3
  let outside := fun (s t : State) (core a : Nat) (ks : List Nat) =>
    ∀ k, (k < storeKey core a ∨ storeKey core a + 4 ≤ k) → k ∉ ks → t.word k = s.word k
  (∀ (s : State) (core a : Nat) (arrive : Bool) (bytes : Word), s.now = .barrierObjectUpdate core a arrive bytes →
    a % 16 = 0 → ∃ t, exec .barrierObjectUpdate s = .next t ∧ updated s t core a arrive bytes ∧
      outside s t core a [] ∧ t.mem = s.mem ∧ t.warps = s.warps) ∧
  ∀ (x : Long) (s : State), ∀ i ∈ ([.boinit x, .boarrv x, .bowait x, .botest x] : List Instr), Goes i false s →
    let cx := issueCx i s
    let a := s.opA cx (if cx.uni then 0 else lowestLane cx.act)
    let b := s.opB cx (if cx.uni then 0 else lowestLane cx.act)
    (∀ m, checkLane s cx 1 16 wantAtomic (a : Int) = .error m → ∃ f : Trap, exec i s = .next (s.raise cx.wk f) ∧
      f.cause = .permission ∧ f.qual = m.qual ∧ f.addr = BitVec.ofNat 64 a ∧ f.lanes = cx.act) ∧
    (a % 16 = 0 → a < 2 ^ 22 → s.inBlock (s.blockKey cx) a = true → (s.blockOf cx).inScratch a = true →
      (i = .boinit x → ∃ t, exec i s = .next t ∧ word t cx.core a 0 = BitVec.ofNat 32 (max b 1) ∧
        word t cx.core a 1 = 0 ∧ word t cx.core a 2 = BitVec.ofNat 32 (max b 1) ∧ word t cx.core a 3 = 0 ∧
        outside s t cx.core a [] ∧ LanesPassed cx (s.warp cx.wk) (t.warp cx.wk) (fun _ v => v) ∧ RestKept cx s t) ∧
      (i = .boarrv x → (∀ k ∈ dstKeys cx (s.warp cx.wk), k < storeKey cx.core a ∨ storeKey cx.core a + 4 ≤ k) →
        ∃ t, exec i s = .next t ∧ updated s t cx.core a true (BitVec.ofNat 32 b) ∧
        Holds t (dstOf i s 0) (word s cx.core a 3).toNat ∧ outside s t cx.core a (dstKeys cx (s.warp cx.wk)) ∧
        LanesPassed cx (s.warp cx.wk) (t.warp cx.wk) (fun _ v => v) ∧ RestKept cx s t) ∧
      (i = .bowait x → (word s cx.core a 3).toNat = b → exec i s = .next s) ∧
      (i = .bowait x → (word s cx.core a 3).toNat ≠ b → ∃ t, exec i s = .next t ∧ Passes i s t []) ∧
      (i = .botest x →
        let r := decide ((word s cx.core a 3).toNat ≠ b)
        ∃ t, exec i s = .next t ∧ WordsKept s t [] ∧ MemoryKept s t ∧ (∀ k, k ≠ cx.wk → t.warp k = s.warp k) ∧
          LanesPassed cx (s.warp cx.wk) (t.warp cx.wk) (laneWithPred cx x.dN (fun _ => r)) ∧
          (t.warp cx.wk).qpreds = (warpWithPred x.dN r (s.warp cx.wk)).qpreds))

/-- TICKRD writes TICK or the 1588 time at issue, and MOVS TICK the same value as select 0 (R351, R32). -/
def Obligations.TickReads : Prop :=
  (∀ (x : Long) (s : State), Goes (.tickrd x) false s →
    ∃ t, exec (.tickrd x) s = .next t ∧ Completes (.tickrd x) s t
      (fun _ => if x.aN = 0x140 then s.tick.toNat else s.tick.toNat * 5 / 9) 0 (fun _ v => v) id) ∧
  ∀ (x : Long) (s : State), Goes (.movs x) false s → x.aN = 0x180 + 0x11 →
    ∃ t, exec (.movs x) s = .next t ∧ Completes (.movs x) s t (fun _ => s.tick.toNat) 0 (fun _ v => v) id

/-- LCLK, PCSEL and PCRD with their effects (R26, R352 to R356): a selection takes effect 4,096 ticks later on every
core and zeroes the counter; counters are latched 4,096 ticks after PCRD, after the selections that are due, and the
sheet holds their sum, their minimum and maximum with the lowest core that has each, and the tick; LCLK lands a line's
clock and the word's code as the home has them.
Beside the rules it rests on the model's own readings, log entry 53 (DEDUCED). -/
def Obligations.ClocksAndSheets : Prop :=
  (∀ (x : Long) (s : State), Goes (.pcsel x) false s →
    let cx := issueCx (.pcsel x) s
    let k := s.opA cx 0 % 8
    (4 ≤ k → cx.berth ≠ 64 → ∃ f : Trap, exec (.pcsel x) s = .next (s.raise cx.wk f) ∧ f.cause = .privileged) ∧
    ((4 ≤ k → cx.berth = 64) → ∃ t, exec (.pcsel x) s = .next t ∧ Passes (.pcsel x) s t (dstKeys cx (s.warp cx.wk)) ∧
      t.selects = s.selects ++ [{ counter := k, event := s.opB cx 0 % 2 ^ 8, tick := s.tick + 4096 }] ∧
      Holds t (dstOf (.pcsel x) s 0) (s.tick + 4096).toNat)) ∧
  (∀ (x : Long) (s : State), Goes (.pcrd x) false s →
    let cx := issueCx (.pcrd x) s
    ∃ t p, exec (.pcrd x) s = .next t ∧ tfind t.prods s.fresh = some p ∧ p.kind = .pcrd ∧ p.warp = cx.wk ∧
      p.arg = s.opA cx 0 % 8 ∧ p.arg2 = (s.tick + 4096).toNat ∧ p.words.map Landing.key = dstOf (.pcrd x) s 0 ∧
      (∀ k ∈ dstOf (.pcrd x) s 0, t.isEmpty k = true) ∧ MemoryKept s t ∧ t.store = s.store ∧
      LanesPassed cx (s.warp cx.wk) (t.warp cx.wk) (fun _ v => v)) ∧
  (∀ (x : Long) (s : State), Goes (.lclk x) false s → x.dN < 0x100 →
    let cx := issueCx (.lclk x) s
    let accs := (lanesOf cx.act).map (fun l =>
      let a := ((s.opA cx l : Int) + offsetOf x) % 2 ^ 64
      (⟨l, a, checkLane s cx 0 4 wantLoad a⟩ : LaneAcc))
    Allowed { cx with x := { x with mods := 0 } } s true false 4 accs → ∃ t, exec (.lclk x) s = .next t ∧
      MemoryKept s t ∧ t.store = s.store ∧ t.registry = s.registry ∧ t.near = s.near ∧
      LanesPassed cx (s.warp cx.wk) (t.warp cx.wk) (fun _ v => v) ∧
      ∀ y ∈ accs, ∀ ph va, y.place = .ok (.glob ph va) →
        (∀ k ∈ dstOf (.lclk x) s y.lane, t.isEmpty k = true) ∧ ∃ k p, tfind t.prods k = some p ∧ p.kind = .lclk ∧
          p.arg = ph.pa / 4 ∧ p.words.map Landing.key = dstOf (.lclk x) s y.lane) ∧
  ∀ (s : State),
    (∀ n y rest, s.now = .perfCounterSelectEffect n → s.selects = y :: rest → y.counter < 8 →
      (∀ c, c < 512 → ((s.core c).events = [] ∨ (s.core c).events.length = 8) ∧
        ((s.core c).counts = [] ∨ (s.core c).counts.length = 8)) →
      (s.tick.toNat < y.tick.toNat → exec .perfCounterSelectEffect s = .next s) ∧
      (y.tick.toNat ≤ s.tick.toNat → ∃ t, exec .perfCounterSelectEffect s = .next t ∧ t.selects = rest ∧
        t.warps = s.warps ∧ t.store = s.store ∧ ∀ c k, c < 512 → k < 8 →
          lget 0 (t.core c).events k = (if k = y.counter then y.event else lget 0 (s.core c).events k) ∧
          lget 0 (t.core c).counts k = (if k = y.counter then 0 else lget 0 (s.core c).counts k))) ∧
    (∀ k p, s.now = .perfCounterLatch k → tfind s.prods k = some p → p.kind = .pcrd → p.words.length = 8 →
      (p.words.map Landing.key).Nodup → (∀ y ∈ p.words, y.poison = false) → (s.warp p.warp).ended = false →
      let vs := (presentCores s).map (fun c => (c, lget 0 (s.core c).counts p.arg))
      let due := (∃ y ∈ s.selects, y.tick.toNat ≤ p.arg2)
      (s.tick.toNat < p.arg2 ∨ due → exec .perfCounterLatch s = .next s) ∧
      (p.arg2 ≤ s.tick.toNat → ¬ due → vs ≠ [] → p.arg2 < 2 ^ 64 → (∀ e ∈ vs, e.2 < 2 ^ 48) →
        ∃ t, ∃ lo ∈ vs, ∃ hi ∈ vs, exec .perfCounterLatch s = .next t ∧
          (∀ e ∈ vs, lo.2 < e.2 ∨ (lo.2 = e.2 ∧ lo.1 ≤ e.1)) ∧ (∀ e ∈ vs, e.2 < hi.2 ∨ (hi.2 = e.2 ∧ hi.1 ≤ e.1)) ∧
          Holds t (p.words.map Landing.key) ((vs.map Prod.snd).sum % 2 ^ 64 +
            2 ^ 64 * (lo.2 % 2 ^ 32) + 2 ^ 96 * (lo.1 * 2 ^ 16 + lo.2 / 2 ^ 32) +
            2 ^ 128 * (hi.2 % 2 ^ 32) + 2 ^ 160 * (hi.1 * 2 ^ 16 + hi.2 / 2 ^ 32) + 2 ^ 192 * p.arg2) ∧
          tfind t.prods k = none)) ∧
    (∀ k p, s.now = .producerResultArrival k → tfind s.prods k = some p → p.kind = .lclk → p.words.length = 1 →
      (∀ y ∈ p.words, y.poison = false) → (s.warp p.warp).ended = false → ∃ t,
      exec .producerResultArrival s = .next t ∧ tfind t.prods k = none ∧
      Holds t (p.words.map Landing.key) ((s.line (p.arg / 32)).clock.toNat +
        2 ^ 16 * (lget 0 (s.line (p.arg / 32)).codes (p.arg % 32)).toNat) ∧ t.mem = s.mem)

/-! ## The handler's instructions, system registers and launches (R306, R307, R376 to R386) -/

/-- GRPCTL, GRPRD and GRPWR (R378, R379): an operation on a warp of the served block and the state word after it; an
item of another warp read when its words are full, or written for the active lanes. A number that names no warp takes
the permission fault with qualifier 8, an item that is not there is illegal, and outside the handler each is
privileged.
Beside the rules it rests on the model's own readings, log entry 46 (DEDUCED). -/
def Obligations.WarpControl : Prop :=
  (∀ (s : State) (op : Nat) (i : Instr), let x := s.cur.x
    (op, i) ∈ ([(0, .grpctlQuery x), (1, .grpctlStop), (2, .grpctlResume), (3, .grpctlStep), (4, .grpctlExit)] :
      List (Nat × Instr)) →
    let r : Instr := .grpctlQuery x
    let cx := issueCx r s
    (decodeFault false false cx s = none → cx.berth ≠ 64 → ∃ f : Trap, exec i s = .next (s.raise cx.wk f) ∧
      f.cause = .privileged) ∧
    (Goes r true s →
      let c := s.opA cx 0
      let b := s.blockKey cx
      (c / 2 ^ 8 % 8 ≠ op → ∃ f : Trap, exec i s = .next (s.raise cx.wk f) ∧ f.cause = .illegal) ∧
      (c / 2 ^ 8 % 8 = op → (s.block b).warps ≤ c % 64 → ∃ f : Trap, exec i s = .next (s.raise cx.wk f) ∧
        f.cause = .permission ∧ f.qual = 8) ∧
      (c / 2 ^ 8 % 8 = op → c % 64 < (s.block b).warps → s.warpOf b (c % 64) = none → ∃ t, exec i s = .next t ∧
        Passes r s t (dstKeys cx (s.warp cx.wk)) ∧ Holds t (dstOf r s 0) 4) ∧
      ∀ wk, c / 2 ^ 8 % 8 = op → c % 64 < (s.block b).warps → s.warpOf b (c % 64) = some wk → wk ≠ cx.wk →
        (s.warp wk).live = true → (s.warp wk).ended = false →
        let w := s.warp wk
        let mask := BitVec.ofNat 32 (s.opB cx 0)
        let served := (s.core (wk / 128)).serving = some (wk % 128)
        ∃ t, exec i s = .next t ∧ Holds t (dstOf r s 0) (stateWord t wk).toNat ∧
          LanesPassed cx (s.warp cx.wk) (t.warp cx.wk) (fun _ v => v) ∧
          (op = 0 → t.warp wk = w) ∧
          (op = 1 → t.warp wk = { w with stopped := true, stepping := false }) ∧
          (op = 2 → served ∨ (w.stopped = false ∧ w.asleep = false) → t.warp wk = w) ∧
          (op = 2 → ¬ served → w.stopped = true ∨ w.asleep = true →
            (t.warp wk).stopped = false ∧ (t.warp wk).stepping = false ∧ (t.warp wk).asleep = false) ∧
          (op = 3 → t.warp wk = { w with stopped := false, stepping := true, idle := 0 }) ∧
          (op = 4 → ∀ l v, w.lanes[l]? = some v → ∃ v', (t.warp wk).lanes[l]? = some v' ∧
            (mask.getLsbD l = true → v'.exited = true) ∧ (mask.getLsbD l = false → v' = v)))) ∧
  (∀ (x : Long) (s : State), Goes (.grprd x) true s →
    let cx := issueCx (.grprd x) s
    let sel := s.opA cx (if cx.uni then 0 else lowestLane cx.act)
    let i := itemOf sel
    (targetOf cx s (sel % 64) = none → ∃ f : Trap, exec (.grprd x) s = .next (s.raise cx.wk f) ∧
      f.cause = .permission ∧ f.qual = 8) ∧
    (∀ wk, targetOf cx s (sel % 64) = some (some wk) → i.exists_ (s.warp wk) = false ∨ fitsDst i x.dN = false →
      ∃ f : Trap, exec (.grprd x) s = .next (s.raise cx.wk f) ∧ f.cause = .illegal) ∧
    (targetOf cx s (sel % 64) = some none → ∃ t, exec (.grprd x) s = .next t ∧
      Passes (.grprd x) s t (dstKeys cx (s.warp cx.wk))) ∧
    ∀ wk, targetOf cx s (sel % 64) = some (some wk) → i.exists_ (s.warp wk) = true → fitsDst i x.dN = true →
      ∃ t p, exec (.grprd x) s = .next t ∧ tfind t.prods s.fresh = some p ∧ p.kind = .grprd ∧ p.arg = sel ∧
        p.arg2 = wk ∧ p.lanes = cx.act ∧ p.words.map Landing.key = dstKeys cx (s.warp cx.wk) ∧
        (∀ k ∈ dstKeys cx (s.warp cx.wk), t.isEmpty k = true) ∧ MemoryKept s t ∧
        LanesPassed cx (s.warp cx.wk) (t.warp cx.wk) (fun _ v => v)) ∧
  (∀ (s : State) (k : Nat) (p : Prod) (y : Landing), s.now = .producerResultArrival k → tfind s.prods k = some p →
    p.kind = .grprd → p.words = [y] → (s.warp p.warp).ended = false →
    let i := itemOf p.arg
    let l := if i.perLane then lowestLane p.lanes else 0
    (i.perLane = true → lanesOf p.lanes = [l]) →
    (i.full s p.arg2 l = false → exec .producerResultArrival s = .next s) ∧
    (i.full s p.arg2 l = true → ∃ t, exec .producerResultArrival s = .next t ∧
      t.word y.key = i.value s p.arg2 l ∧ t.isEmpty y.key = false ∧ t.isPoison y.key = i.poisoned s p.arg2 l ∧
      tfind t.prods k = none ∧ WordsKept s t [y.key] ∧ t.mem = s.mem)) ∧
  ∀ (x : Long) (s : State), Goes (.grpwr x) true s →
    let cx := issueCx (.grpwr x) s
    let low := lowestLane cx.act
    let sel := s.opA cx low
    let i := itemOf sel
    (targetOf cx s (sel % 64) = none → ∃ f : Trap, exec (.grpwr x) s = .next (s.raise cx.wk f) ∧
      f.cause = .permission ∧ f.qual = 8) ∧
    (targetOf cx s (sel % 64) = some none → ∃ t, exec (.grpwr x) s = .next t ∧ Passes (.grpwr x) s t []) ∧
    ∀ wk, targetOf cx s (sel % 64) = some (some wk) → wk ≠ cx.wk →
      let ls := if i.perLane then lanesOf cx.act else [low]
      let allowed := i.exists_ (s.warp wk) = true ∧
        ∀ l ∈ ls, i.allows s wk l (BitVec.ofNat 32 (s.opB cx l)) = true
      (¬ allowed → ∃ f : Trap, exec (.grpwr x) s = .next (s.raise cx.wk f) ∧ f.cause = .illegal) ∧
      (allowed → i.kind = 0 → (∃ l ∈ ls, i.full s wk l = false) → exec (.grpwr x) s = .next s) ∧
      (allowed → i.kind = 0 → (∀ l ∈ ls, i.full s wk l = true) → ∃ t, exec (.grpwr x) s = .next t ∧
        (∀ l ∈ ls, ∀ k, i.key (wk / 128) (s.warp wk) l = some k →
          t.word k = BitVec.ofNat 32 (s.opB cx l) ∧ t.isEmpty k = false ∧ t.isPoison k = false) ∧
        WordsKept s t (ls.filterMap (i.key (wk / 128) (s.warp wk))) ∧ RestKept cx s t ∧
        LanesPassed cx (s.warp cx.wk) (t.warp cx.wk) (fun _ v => v)) ∧
      (allowed → i.kind = 1 → ∃ t, exec (.grpwr x) s = .next t ∧ WordsKept s t [] ∧
        (t.warp wk).qpreds = (BitVec.ofNat 32 (s.opB cx low) >>> 8).setWidth 3 ∧
        ∀ l v, (s.warp wk).lanes[l]? = some v → (t.warp wk).lanes[l]? = some (
          if cx.act.getLsbD l then { v with preds := (BitVec.ofNat 32 (s.opB cx l)).setWidth 7 } else v))

/-- CTXSV and CTXLD (R380 to R382): a misaligned image takes the permission fault with qualifier 1, an image whose
header does not fit the block with qualifier 8. A save first asks the block's warps to halt at safe points and waits;
when they stand there and nothing of the block is outstanding, the image's words are in memory from its address on,
the warps stay stopped and the group passes, no store word changed. A load waits for the block's producers; then the
block's registers and scratchpad and its warps' lanes and flags are the image's, and its warps are left stopped.
Beside the rules it rests on the model's own readings, log entry 47 (DEDUCED). -/
def Obligations.ContextImages : Prop :=
  ∀ (x : Long) (s : State),
    (Goes (.ctxsv x) true s →
      let cx := issueCx (.ctxsv x) s
      let a := s.opA cx 0
      let b := s.blockKey cx
      ((s.block b).halting = false → a % 256 ≠ 0 → ∃ f : Trap, exec (.ctxsv x) s = .next (s.raise cx.wk f) ∧
        f.cause = .permission ∧ f.qual = 1 ∧ f.addr = BitVec.ofNat 64 a) ∧
      (∀ m va, (s.block b).halting = false → a % 256 = 0 → imagePieces cx s a = .error (m, va) → ∃ f : Trap,
        exec (.ctxsv x) s = .next (s.raise cx.wk f) ∧ f.addr = BitVec.ofNat 64 va) ∧
      (∀ ps, (s.block b).halting = false → a % 256 = 0 → imagePieces cx s a = .ok ps → ∃ t,
        exec (.ctxsv x) s = .next t ∧ (t.block b).halting = true ∧ (t.core cx.core).pieces = ps ∧
        t.warps = s.warps ∧ t.store = s.store ∧ t.mem = s.mem) ∧
      let stands := (∀ k ∈ s.warpsOf b, (s.warp k).parked = true ∨ (s.warp k).stopped = true ∨
          (s.core cx.core).serving.map (warpKey cx.core) = some k ∨ (s.warp k).fault ≠ none) ∧
        noProducers s b = true ∧ scratchBusy s b = false
      ((s.block b).halting = true → ¬ stands → exec (.ctxsv x) s = .next s) ∧
      ((s.block b).halting = true → stands → cx.wk ∉ s.warpsOf b → ∃ t, exec (.ctxsv x) s = .next t ∧
        t.store = s.store ∧ (t.block b).halting = false ∧ (t.core cx.core).pieces = [] ∧
        (∀ k ∈ s.warpsOf b, (t.warp k).stopped = true ∧ (t.warp k).parked = false ∧
          (t.warp k).lanes = (s.warp k).lanes) ∧
        LanesPassed cx (s.warp cx.wk) (t.warp cx.wk) (fun _ v => v) ∧
        let image := imageOf (stopMatrix b s) b
        t.mem = (fillPieces (agentOfCore cx.core) (s.core cx.core).pieces image (stopMatrix b s)).mem ∧
        (∀ p, (s.core cx.core).pieces = [p] → Memory.wf s.mem → regionOf p.pa ≠ .fabric → image.length ≤ p.len / 4 →
          ∀ i w, image[i]? = some w → memWord t.mem (p.pa / 4 + i) = w.1))) ∧
    (Goes (.ctxld x) true s →
      let cx := issueCx (.ctxld x) s
      let a := s.opA cx 0
      let b := s.blockKey cx
      (a % 256 ≠ 0 → ∃ f : Trap, exec (.ctxld x) s = .next (s.raise cx.wk f) ∧ f.cause = .permission ∧ f.qual = 1 ∧
        f.addr = BitVec.ofNat 64 a) ∧
      (∀ head, a % 256 = 0 → loadImage cx s 64 a = .ok head → imageFits (s.block b) head = false → ∃ f : Trap,
        exec (.ctxld x) s = .next (s.raise cx.wk f) ∧ f.cause = .permission ∧ f.qual = 8) ∧
      (∀ head ws, a % 256 = 0 → loadImage cx s 64 a = .ok head → imageFits (s.block b) head = true →
        loadImage cx s (imageWords (s.block b) (imageNum head 8 1)) a = .ok ws →
        (noProducers s b = false → exec (.ctxld x) s = .next s) ∧
        (noProducers s b = true → cx.berth = 64 → (∀ n ∈ (s.block b).berths, n < 64) → ∃ t,
          exec (.ctxld x) s = .next t ∧ MemoryKept s t ∧ (t.block b).spBase = (s.block b).spBase ∧
          t.sysregs = s.sysregs ∧ LanesPassed cx (s.warp cx.wk) (t.warp cx.wk) (fun _ v => v) ∧
          t.store = (replaceBlock b ws (stopMatrix b s)).store ∧
          ∀ i k, s.warpOf b i = some k → k ≠ cx.wk →
            let part := ws.drop (64 + 256 * i)
            (t.warp k).stopped = true ∧ (t.warp k).flags = BitVec.ofNat 6 (imageNum part 160 1) ∧
              ∀ l, l < 32 → ((t.warp k).lane l).pc = BitVec.ofNat 64 (imageNum part (2 * l) 2 % 2 ^ 57) ∧
                ((t.warp k).lane l).exited = (imageNum part 136 8 / 2 ^ (8 * l)).testBit 0)))

/-- SYSRD and SYSWR (R59, R386): all code reads the registers 0x100 to 0x147, every other access is the handler's, and
an unassigned number is illegal. A read delivers the register, OWNID, OWNTK and XLSTAT those of the core. A write
replaces the writable fields of a plain register and keeps its other bits, and writes no other register; a register
without a writable field keeps its value. A write of XLINV waits while it is busy.
Beside the rules it rests on the model's own readings, log entry 62 (DEDUCED). -/
def Obligations.SystemRegisters : Prop :=
  ∀ (x : Long) (s : State),
    let readable := fun (n : Nat) => 0x100 ≤ n ∧ n ≤ 0x147
    let stops := fun (i : Instr) (c : Cause) => ∃ f : Trap, exec i s = .next (s.raise (issueCx i s).wk f) ∧ f.cause = c
    (Goes (.sysrd x) false s →
      let cx := issueCx (.sysrd x) s
      let n := s.opA cx 0
      (¬ readable n → cx.berth ≠ 64 → stops (.sysrd x) .privileged) ∧
      (readable n ∨ cx.berth = 64 → assigned n = false → stops (.sysrd x) .illegal) ∧
      (readable n ∨ cx.berth = 64 → assigned n = true → ∃ t, exec (.sysrd x) s = .next t ∧
        Passes (.sysrd x) s t (dstKeys cx (s.warp cx.wk)) ∧ Holds t (dstOf (.sysrd x) s 0)
          (if n = 0x161 then (s.core cx.core).ownid else if n = 0x162 then (s.core cx.core).owntk
           else if n = 0x189 then (s.core cx.core).xlstat else s.sysreg n).toNat)) ∧
    (decodeFault false false (issueCx (.syswr x) s) s = none → (issueCx (.syswr x) s).berth ≠ 64 →
      stops (.syswr x) .privileged) ∧
    (Goes (.syswr x) true s → (issueCx (.syswr x) s).berth = 64 →
      let cx := issueCx (.syswr x) s
      let n := s.opA cx 0
      let v := BitVec.ofNat 64 (s.opB cx 0)
      (assigned n = false → stops (.syswr x) .illegal) ∧
      (n = 0x188 → (s.sysreg 0x188).getLsbD 63 = true ∨ s.unacked cx.core = true ∨ s.engineBusy cx.core = true →
        exec (.syswr x) s = .next s) ∧
      (assigned n = true → n ∉ [0x150, 0x151, 0x152, 0x153, 0x160, 0x170, 0x178, 0x179, 0x17A, 0x17B, 0x17C, 0x17D, 0x17E,
          0x17F, 0x188, 0x190, 0x198, 0x1A0, 0x1A8, 0x1D0, 0x218] → ∃ t, exec (.syswr x) s = .next t ∧
        (∀ j, j < 64 → (t.sysreg n).getLsbD j =
          if (plainMask n).testBit j then v.getLsbD j else (s.sysreg n).getLsbD j) ∧
        (∀ m, m ≠ n → t.sysreg m = s.sysreg m) ∧ t.store = s.store ∧ MemoryKept s t ∧
        LanesPassed cx (s.warp cx.wk) (t.warp cx.wk) (fun _ v => v)) ∧
      (∀ k, k < 8 → n = 0x178 + k → ∃ t, exec (.syswr x) s = .next t ∧
        t.sysreg n = v &&& 0x000FFFFFFFFE0001 ∧ (∀ m, m ≠ n → t.sysreg m = s.sysreg m) ∧
        (∀ c p, p ∈ tget [] t.caches c → p.ctx ≠ k) ∧ t.store = s.store ∧ MemoryKept s t) ∧
      (n = 0x188 → (s.sysreg 0x188).getLsbD 63 = false → s.unacked cx.core = false → s.engineBusy cx.core = false →
        bitsOf v 61 2 ≠ 3 → ∃ t, exec (.syswr x) s = .next t ∧
        (t.sysreg 0x188).getLsbD 63 = true ∧ (∀ c p, p ∈ tget [] t.caches c → xlinvNames v p = false)) ∧
      (∀ d, d < 4 → n = 0x150 + d → ∃ t, exec (.syswr x) s = .next t ∧
        let tokens := match bitsOf v 4 2 with | 0 => bitsOf v 0 4 | 1 => 3 | 2 => 6 | _ => 8
        t.sysreg n = (if tokens = 0 ∨ 8 < tokens then s.sysreg n
          else BitVec.ofNat 64 (bitsOf v 4 2 * 16 + tokens))) ∧
      (n = 0x218 → ∃ t, exec (.syswr x) s = .next t ∧
        let watts := bitsOf v 0 16
        t.sysreg n = if bitsOf v 62 2 = 0 ∧ (watts < 1500 ∨ 3900 < watts) then s.sysreg n
          else v &&& 0xC00000000000FFFF))

/-- LAUNCH and TAKE_RECORD (R291, R292, R294, R299, R306, R307, R309). LAUNCH appends the record's 32 words to its queue
and delivers the old TAIL, or all ones when the queue is full; a queue that takes no records takes the permission
fault with qualifier 7, a misaligned record with qualifier 1. A queue whose descriptor cannot be read stops and takes
nothing, and no warp faults for it. In its turn the record of a ready head enters the dispatcher, ready since the tick
at which it was first seen so. What reads a descriptor or a record waits while messages about its words are under way.
Beside the rules it rests on the model's own readings, log entry 43 (DEDUCED). -/
def Obligations.LaunchesAccepted : Prop :=
  (∀ (x : Long) (s : State), Goes (.launch x) false s →
    let i : Instr := .launch x
    let cx := issueCx i s
    let a := s.opA cx 0
    let q := s.opB cx 0
    let refused := fun (n : Nat) => ∃ f : Trap, exec i s = .next (s.raise cx.wk f) ∧ f.cause = .permission ∧
      f.qual = n ∧ f.addr = BitVec.ofNat 64 a
    let there := steady s deviceCore 0 (descriptorAt s q) 8 = true
    (q ≤ 63 → ¬ there → exec i s = .next s) ∧
    (63 < q → refused 7) ∧
    (∀ ws, q ≤ 63 → there → descriptorWords s q = some ws → (queueDescOf ws).en = false ∨ (queueDescOf ws).dev = false →
      refused 7) ∧
    (launchable s q = true → there → a % 128 ≠ 0 → a < 2 ^ 57 → refused 1) ∧
    ∀ (ps : List (Phys × Nat × Nat)) (pw : Nat) (v : Nat → Word), launchable s q = true → there → a % 128 = 0 → pagesOf s cx needLoad a 128 = .ok ps →
      (ps.map (fun e => e.2.1)).headD 0 / 4 = pw → regionOf (4 * pw) ≠ .fabric →
      (∀ i, i < 32 → s.quiet (pw + i) = true ∧ s.latest (pw + i) = some (v i, false)) →
      (descriptorWords s q = none → ∃ t, exec i s = .next t ∧ Holds t (dstOf i s 0) 0xFFFFFFFF ∧
        (t.queue q).stopped = true ∧ LanesPassed cx (s.warp cx.wk) (t.warp cx.wk) (fun _ v => v)) ∧
      ∀ ws, descriptorWords s q = some ws →
      let d := queueDescOf ws
      (d.slots ≤ d.waiting → ∃ t, exec i s = .next t ∧ Passes i s t (dstKeys cx (s.warp cx.wk)) ∧
        Holds t (dstOf i s 0) 0xFFFFFFFF) ∧
      ∀ s1 s2, d.waiting < d.slots →
        writeVirtual deviceCore 0 deviceAgent s (d.slot d.tail) ((List.range 32).map v) = some s1 →
        writeVirtual deviceCore 0 deviceAgent s1 (descriptorAt s1 q + 12) [BitVec.ofNat 32 (d.tail + 1)] = some s2 →
        ∃ t, exec i s = .next t ∧ Holds t (dstOf i s 0) d.tail ∧ t.mem = s2.mem ∧
          LanesPassed cx (s.warp cx.wk) (t.warp cx.wk) (fun _ v => v)) ∧
  ∀ (s : State) (q : Nat), s.now = .takeRecord q →
    (s.queueStopped q = true → exec .takeRecord s = .next s) ∧
    let there := steady s deviceCore 0 (descriptorAt s q) 8 = true
    (¬ there → exec .takeRecord s = .next s) ∧
    (s.queueStopped q = false → there → descriptorWords s q = none → ∃ t, exec .takeRecord s = .next t ∧
      (t.queue q).stopped = true ∧ t.warps = s.warps) ∧
    ∀ ws, s.queueStopped q = false → there → descriptorWords s q = some ws →
      let d := queueDescOf ws
      (d.en = false ∨ d.waiting = 0 ∨ headReady s q d = false → exec .takeRecord s = .next s) ∧
      (∀ q' d' prio, nextTake s = some (q', d', prio) → q' ≠ q → exec .takeRecord s = .next s) ∧
      ∀ d' prio rec s1, nextTake s = some (q, d', prio) → steady s deviceCore 0 (d.slot d.head) 32 = true → readWords s deviceCore 0 32 (d.slot d.head) = some rec →
        writeVirtual deviceCore 0 deviceAgent s (descriptorAt s q + 16) [BitVec.ofNat 32 (d.head + 1)] = some s1 →
        ∃ t k, exec .takeRecord s = .next t ∧ (t.launch k).queue = q ∧ (t.launch k).ctx = q / 8 ∧
          (t.launch k).prio = prio ∧ (t.launch k).order = s1.takes ∧ (t.launch k).words = rec ∧
          (t.launch k).ready = (s.queue q).readyAt.getD s.tick ∧
          (t.queue q).readyAt = none ∧ (t.queue q).seen = false ∧ t.takes = s1.takes + 1 ∧ t.nextQueue = (q + 1) % 64 ∧
          (({ words := rec } : Launch).levels.any (fun v => v.domain = 6) = false → t.mem = s1.mem) ∧ t.warps = s.warps

/-- The dispatcher (R300, R301, R303 to R305): a block, or the next of a gang, is placed with its warps live at the
kernel's address, its registers full, and its die's time of placement is noted; a gang that has waited reserves a
cluster and then has its blocks stopped; a deadline's choice; and a launch whose blocks are over completes.
Blocks that are switched (R301, R383 to R385, R412): a quantum's end and a request of the host ask a block to stop at
its warps' safe points; once they stand there its image is written to the core's save area and its berths are free, or
the switch is abandoned for want of room; a saved block comes back to its core.
Beside the rules it rests on the model's own readings, log entries 11 (DESIGN CHOICE), 12 (DEDUCED), 44 (DEDUCED), 45
(DEDUCED), 79 (DESIGN CHOICE). -/
def Obligations.LaunchesProceed : Prop :=
  (∀ (s : State) (k : Nat),
     let l := s.launch k
     (s.now = .blockPlacement k →
       (placesNow s k l = false → exec .blockPlacement s = .next s) ∧
       (l.gangLeft = [] → yields s l = true → exec .blockPlacement s = .next s) ∧
       ∀ core rest, placesNow s k l = true → l.gangLeft ≠ [] ∨ yields s l = false →
         coresFor s k l true = some (core :: rest) → nmem s.fenced (agentOfCore core) = false →
         l.warps ≤ (freeBerths s core).length → let need := needsOf l l.regWord
         (findPlaces need s.fresh (usedRanges s core need.near)).isSome = true → ∃ t b, exec .blockPlacement s = .next t ∧
           (t.launch k).gangLeft = (if l.gangLeft = [] then rest else l.gangLeft.drop 1) ∧
           (tget 0 t.placed (dieOfCore core)).toNat = (s.tick.toNat + 1) % 2 ^ 64 ∧
           (t.block b).launch = k ∧ (t.block b).core = core ∧ (t.block b).index = l.base + l.next ∧
           (t.block b).mode = .running ∧ (t.launch k).next = l.next + 1 ∧ t.mem = s.mem ∧
           ∀ i, i < l.warps → ∃ wk, t.warpOf b i = some wk ∧ wk / 128 = core ∧ (t.warp wk).lanes.length = 32 ∧
             (∀ n v, (t.warp wk).lanes[n]? = some v → v.pc = BitVec.ofNat 64 (l.kernel % 2 ^ 57) ∧ v.preds = 0 ∧
               (v.exited = false ↔ n < l.width)) ∧
             (t.warp wk).flags = 0 ∧ (t.warp wk).qpreds = 0 ∧ (t.warp wk).part = 5 ∧
             (∀ r, r < (t.warp wk).sregs → t.isEmpty (skey core (t.warp wk) r) = false ∧
               t.isPoison (skey core (t.warp wk) r) = false) ∧
             (l.warps = 1 → t.regs (skeys core (t.warp wk) 0 2) = l.param % 2 ^ 64)) ∧
     (s.now = .gangReservation k →
       let due := gangWaits s k l = true ∧ l.reserved = none ∧ gangTime s l.waiting = true
       (¬ due → exec .gangReservation s = .next s) ∧
       (due → (∃ cl, cl < 32 ∧ l.gang ≤ (clusterCores s cl).length ∧ reservedElsewhere s k cl = false ∧
           ∀ d, dieFor l (l.base + l.next) = some d → cl / 8 = d) →
         ∃ t cl, exec .gangReservation s = .next t ∧ t.launch k = { l with
           reserved := some cl, waiting := some s.tick, preempted := false } ∧ cl < 32 ∧
           l.gang ≤ (clusterCores s cl).length ∧ t.warps = s.warps)) ∧
     (∀ cl, s.now = .gangReservationPreempt k → l.reserved = some cl → (s.blocks.map Prod.fst).Nodup →
       let due := gangWaits s k l = true ∧ l.preempted = false ∧ gangTime s l.waiting = true
       let stuck := ∃ e ∈ s.blocks, e.2.core / 16 = cl ∧ e.2.resident = true ∧ e.2.nopre = true
       (¬ due → exec .gangReservationPreempt s = .next s) ∧
       (due → stuck → ∃ t, exec .gangReservationPreempt s = .next t ∧ t.launch k = { l with
         reserved := none, blocks := l.next, status := l.status ++ [0x05] } ∧ t.blocks = s.blocks) ∧
       (due → ¬ stuck → ∃ t, exec .gangReservationPreempt s = .next t ∧ (t.launch k).preempted = true ∧
         t.warps = s.warps ∧ ∀ b, (t.block b).mode ≠ (s.block b).mode → (s.block b).mode = .running ∧
           (t.block b).mode = .saving ∧ (t.block b).hold = false)) ∧
     (s.now = .deadlineDecision k →
       let now := max (l.deadline - l.word 26) l.ready.toNat
       let cost := fun (i : Nat) => (lget (0, 0, 0, 0) l.variants i).2.2.2
       let n := l.variants.length
       let starts := fun (t : State) (ran : Nat) (miss : Bool) => exec .deadlineDecision s = .next t ∧ t.launch k =
         { l with mode := .started, ran := ran, miss := miss, waiting := some s.tick }
       (l.mode ≠ .deciding → exec .deadlineDecision s = .next s) ∧
       (l.mode = .deciding → primaryFits k s = true → ∃ t, starts t l.ran l.miss) ∧
       (l.mode = .deciding → primaryFits k s = false →
         (s.tick.toNat < now → exec .deadlineDecision s = .next s) ∧
         (now ≤ s.tick.toNat →
           (1 ≤ n → now + cost 0 ≤ l.deadline → ∃ t, starts t 1 false) ∧
           (2 ≤ n → l.deadline < now + cost 0 → now + cost 1 ≤ l.deadline → ∃ t, starts t 2 false) ∧
           ((1 ≤ n → l.deadline < now + cost 0) → (2 ≤ n → l.deadline < now + cost 1) → ∃ t, starts t n true)))) ∧
     (s.now = .launchCompletion k →
       let done := l.mode = .started ∧ l.blocks ≤ l.next ∧ l.next ≤ l.ended ∧ launchUnacked s k = false
       (¬ done → exec .launchCompletion s = .next s) ∧
       (done → ∃ t, exec .launchCompletion s = .next t ∧ (t.launch k).mode = .done ∧ t.warps = s.warps ∧
         (l.word 13 / 2 ^ 31 % 2 = 1 → Event.dependenceCounterChange
           (l.word 13 / 2 ^ 24 % 4 * 256 + l.word 13 / 2 ^ 16 % 2 ^ 8) (-1) 0 ∈ t.agenda) ∧
         (l.dword 14 = 0 → t.mem = s.mem) ∧
         ∀ s1, l.dword 14 ≠ 0 →
           let late := if l.deadline ≠ 0 ∧ l.blocks ≠ 0 ∧ l.deadline < s.tick.toNat then 2 ^ 9 else 0
           let word1 := BitVec.ofNat 32 (l.ran + (if l.miss then 2 ^ 8 else 0) + late)
           writeVirtual deviceCore l.ctx deviceAgent s (l.dword 14 / 16 * 16)
             ([BitVec.ofNat 32 (statusOf l), word1] ++ wordsOfD s.tick) = some s1 → t.mem = s1.mem))) ∧
  (∀ (s : State) (b : Nat),
     let v := s.block b
     (s.now = .quantumEnd b →
       let q := (s.sysreg 0x1B8).toNat % 2 ^ 32
       let due := v.mode = .running ∧ q ≠ 0 ∧ v.nopre = false ∧ q * 1024 ≤ v.clocks
       let switches := waitsFor s v.core v.prio = true ∧ roomForImage s b ≠ none
       (¬ due → exec .quantumEnd s = .next s) ∧
       (due → ∃ t, exec .quantumEnd s = .next t ∧ t.warps = s.warps ∧ t.block b =
         if switches then { v with mode := .saving, hold := false } else { v with clocks := 0 })) ∧
     (∀ hold, s.now = .preemptRequest b hold →
       (v.nopre = true → exec .preemptRequest s = .next s) ∧
       (v.nopre = false → v.mode = .running → roomForImage s b ≠ none → ∃ t, exec .preemptRequest s = .next t ∧
         t.block b = { v with mode := .saving, hold := hold } ∧ t.warps = s.warps)) ∧
     (s.now = .resumeRequest b → ∃ t, exec .resumeRequest s = .next t ∧ t.warps = s.warps ∧
       (v.mode = .held → t.block b = { v with mode := .saved, hold := false }) ∧
       (v.mode = .saving → t.block b = { v with hold := false }) ∧
       (v.mode ≠ .held → v.mode ≠ .saving → t.block b = v)) ∧
     (s.now = .preemptionSave b →
       (v.mode ≠ .saving ∨ savable s b = false → exec .preemptionSave s = .next s) ∧
       (v.mode = .saving → savable s b = true → roomForImage s b = none → ∃ t, exec .preemptionSave s = .next t ∧
         (t.block b).mode = .running ∧ (t.block b).clocks = 0 ∧ ∀ k ∈ s.warpsOf b, (t.warp k).parked = false) ∧
       (∀ o va, v.mode = .saving → savable s b = true → roomForImage s b = some o →
         writeImage deviceCore 0 deviceAgent (stopMatrix b s) (saveArea s v.core + o) (imageOf (stopMatrix b s) b) =
           .error va →
         ∃ t, exec .preemptionSave s = .next t ∧ (t.block b).mode = .running ∧ (t.block b).clocks = 0) ∧
       ∀ o s2, v.mode = .saving → savable s b = true → roomForImage s b = some o →
         writeImage deviceCore 0 deviceAgent (stopMatrix b s) (saveArea s v.core + o) (imageOf (stopMatrix b s) b) =
           .ok s2 →
         ∃ t, exec .preemptionSave s = .next t ∧ (t.block b).mode = (if v.hold then .held else .saved) ∧
           (t.block b).image = o ∧ (t.block b).imageN = 4 * (imageOf (stopMatrix b s) b).length ∧ t.mem = s2.mem ∧
           ∀ k ∈ s.warpsOf b, (t.warp k).live = false) ∧
     (s.now = .blockResume b →
       let there := steady s deviceCore 0 (saveArea s v.core + v.image) (v.imageN / 4) = true
       (mayResume s b = false ∨ ¬ there → exec .blockResume s = .next s) ∧
       (∀ ws, mayResume s b = true → there →
         readImage s deviceCore 0 (v.imageN / 4) (saveArea s v.core + v.image) = .ok ws → ∃ t,
           exec .blockResume s = .next t ∧ (t.block b).core = v.core ∧ (t.block b).vbases = v.vbases ∧
           (t.block b).sbases = v.sbases ∧ (t.block b).spBase = v.spBase ∧
           let up := fun (n : Nat) => (n + 63) / 64 * 64
           let start := 64 + 256 * v.warps + up (v.warps * v.sregs) + up (v.warps * v.vregs * 32) + up (v.spSize / 4)
           ∀ j w bad, j < v.tiles * 2 ^ 14 → ws[start + j]? = some (w, bad) →
             let k := storeKey v.core v.accBase + j
             t.word k = w ∧ t.isEmpty k = false ∧ t.isPoison k = bad) ∧
       (∀ va, mayResume s b = true → there →
         readImage s deviceCore 0 (v.imageN / 4) (saveArea s v.core + v.image) = .error va → ∃ t,
           exec .blockResume s = .next t ∧ (t.block b).mode = .discarded)))

/-- Events of a warp (R115, R123, R365, R367, R372, R374): every lane held at a `.join` lets those at the lowest PC go;
the watchdog's fault; a debug halt; the end of a sleep; and an idle window takes the next waiting fault.
Beside the rules it rests on the model's own readings, log entries 63 (DEDUCED), 69 (DEDUCED). -/
def Obligations.WarpEvents : Prop :=
  ∀ (s : State) (wk : Nat),
    let w := s.warp wk
    (s.now = .joinRelease wk →
      let live := fun (l : Nat) => l < 32 ∧ (w.lane l).exited = false
      let held := w.live = true ∧ (∃ l, live l) ∧ ∀ l, live l → (w.lane l).released = false ∧
        joinAt s wk (w.lane l).pc = true
      (¬ held → exec .joinRelease s = .next s) ∧
      (held → ∃ t, exec .joinRelease s = .next t ∧ (∀ k, k ≠ wk → t.warp k = s.warp k) ∧ t.mem = s.mem ∧
        ∀ l v, l < 32 → w.lanes[l]? = some v → (t.warp wk).lanes[l]? = some (
          { v with released := v.released || (!v.exited && decide (∀ j ∈ List.range 32, (w.lane j).exited = false →
              v.pc.toNat ≤ (w.lane j).pc.toNat)) }))) ∧
    (s.now = .watchdog wk →
      let b := s.block w.block
      let fires := w.live = true ∧ w.ended = false ∧ w.stopped = false ∧ w.fault = none ∧ b.wdog ≠ 0 ∧
        b.wdog * 1024 ≤ w.idle ∧ wk % 128 ≠ 64 ∧ s.tileOpen wk = false
      (¬ fires → exec .watchdog s = .next s) ∧
      (fires → ∃ f : Trap, exec .watchdog s = .next (s.raise wk f) ∧ f.cause = .watchdog ∧ f.apart = true ∧
        ∀ l, l < 32 → (f.lanes.getLsbD l = true ↔ (w.lane l).exited = false))) ∧
    (∀ n, s.now = .debugHalt wk → s.cur.core * 128 + s.cur.berth = wk → breakpointAt s wk s.cur.pc = some n →
      (s.sysreg 0x1C8).getLsbD (4 + n) = true → ∃ t, exec .debugHalt s = .next t ∧ t.stopped = true ∧
        t.haltWarp = some wk ∧ t.sysreg 0x1CA = s.cur.pc ∧ t.sysreg 0x1CB = s.tick ∧
        (t.sysreg 0x1D0).getLsbD 60 = true ∧ t.warps = s.warps ∧ t.store = s.store ∧ t.mem = s.mem) ∧
    (s.now = .debugHalt wk → (s.sysreg 0x1C8) = 0 → exec .debugHalt s = .next s) ∧
    (s.now = .sleepLimitExpiry wk →
      let ends := w.live = true ∧ w.asleep = true ∧ w.sleepTick ≠ 0 ∧ w.sleepTick.toNat ≤ s.tick.toNat
      (¬ ends → exec .sleepLimitExpiry s = .next s) ∧
      (ends → ∃ t, exec .sleepLimitExpiry s = .next t ∧ t.warp wk = { w with asleep := false, sleepTick := 0 } ∧
        ∀ k, k ≠ wk → t.warp k = s.warp k)) ∧
    ∀ core, s.now = .trapEntry core →
      ((s.core core).serving ≠ none ∨ s.waiting core = none → exec .trapEntry s = .next s) ∧
      ∀ berth f, (s.core core).serving = none → s.waiting core = some (berth, f) → (s.sysreg 0x1C8).getLsbD 8 = false →
        (s.sysreg (0x1B0 + (s.block (s.warp (warpKey core berth)).block).ctx)).getLsbD 63 = true →
        ∃ t, exec .trapEntry s = .next t ∧ (t.core core).serving = some berth ∧ (t.core core).trapa.toNat = f.addr.toNat % 2 ^ 57 ∧
          (t.core core).trapp = f.pc ∧ (t.warp (windowKey core)).live = true

/-! ## The package's edges (R349, R350, R387 to R403) -/

/-- Time and the shutter (R349, R350, R388, R389, R393): time stamps, measurements with OFS and LOCK, a forward step
only where the tick lags, and the stop and the resumption of the package.
Beside the rules it rests on the model's own readings, log entry 51 (DEDUCED). -/
def Obligations.TimeAndShutter : Prop :=
  ∀ (s : State),
    (∀ port kind, s.now = .ptpEventMessage port kind → ∃ t, exec .ptpEventMessage s = .next t ∧
      t.servo.stamp = (port, kind, s.tick) ∧ t.tick = s.tick ∧ t.sysregs = s.sysregs) ∧
    exec .ptpGeneralMessage s = .next s ∧
    (∃ t, exec .measurementsMissed s = .next t ∧ (t.sysreg 0x191).getLsbD 63 = false ∧ t.tick = s.tick ∧
      t.servo.left = 0) ∧
    (∀ time, s.now = .ptpMeasurement time → time * 9 / 5 < 2 ^ 64 →
      let target := time * 9 / 5
      let d : Int := (s.tick.toNat : Int) - target
      let near := -18 ≤ d ∧ d ≤ 18
      let steps := (s.sysreg 0x190).getLsbD 63 = true ∧ s.servo.step = true ∧ s.tick.toNat < target
      ∃ t, exec .ptpMeasurement s = .next t ∧
        (steps → t.tick.toNat = target ∧ (t.sysreg 0x191).getLsbD 62 = true) ∧ (¬ steps → t.tick = s.tick) ∧
        (-(2 ^ 31) ≤ d → d < 2 ^ 31 → (t.sysreg 0x191).toNat % 2 ^ 32 = (d % 2 ^ 32).toNat) ∧
        ((t.sysreg 0x191).getLsbD 63 = true ↔ near ∧ 7 ≤ s.servo.good) ∧
        t.servo.good = (if near then min 8 (s.servo.good + 1) else 0) ∧ ∀ n, n ≠ 0x191 → t.sysreg n = s.sysreg n) ∧
    (s.now = .shutterStop →
      let due := (s.sysreg 0x1D0).getLsbD 63 = true ∧ s.stopped = false ∧ (s.sysreg 0x1D1).toNat ≤ s.tick.toNat
      (¬ due → exec .shutterStop s = .next s) ∧
      (due → ∃ t, exec .shutterStop s = .next t ∧ t.stopped = true ∧ (t.sysreg 0x1D0).getLsbD 60 = true ∧
        (∀ n, n ≠ 0x1D0 → t.sysreg n = s.sysreg n) ∧ t.warps = s.warps ∧ t.mem = s.mem ∧ t.store = s.store)) ∧
    (∀ v, s.now = .shutterArm v →
      (managed s = false → exec .shutterArm s = .next s) ∧
      (managed s = true → v.getLsbD 61 = false → ∃ t, exec .shutterArm s = .next t ∧
        (t.sysreg 0x1D0).getLsbD 63 = true ∧ t.stopped = s.stopped ∧ t.warps = s.warps ∧ t.mem = s.mem)) ∧
    (∀ v, s.now = .shutterResume v →
      (managed s = false → exec .shutterResume s = .next s) ∧
      (managed s = true → s.stopped = true → s.halted = false → s.haltWarp = none → ∃ t,
        exec .shutterResume s = .next t ∧ t.stopped = false ∧ (t.sysreg 0x1D0).getLsbD 63 = false ∧
        (t.sysreg 0x1D0).getLsbD 60 = false ∧ t.warps = s.warps ∧ t.mem = s.mem ∧ t.store = s.store ∧ t.tick = s.tick) ∧
      (managed s = true → s.halted = true → ∃ t, exec .shutterResume s = .next t ∧ t.stopped = s.stopped))

/-- Power, tampering, degraded links and reset (R396, R398 to R400, R402, R403): the throttling step that the sensors
call for, one step down after 100 milliseconds without its cause, the trip, an alarm's response, a port's next lower
width, and a reset that keeps the fuses alone.
Beside the rules it rests on the model's own readings, log entries 3 (DESIGN CHOICE), 50 (DEDUCED), 51 (DEDUCED). -/
def Obligations.PowerAndAlarms : Prop :=
  ∀ (s : State),
    let limit := match bitsOf (s.sysreg 0x218) 62 2 with
      | 0 => bitsOf (s.sysreg 0x218) 0 16 | 1 => 3900 | 2 => 3300 | _ => 2600
    (∀ junction inlet power, s.now = .throttleStepUp junction inlet power → s.power.step = 0 →
      let wanted := if 105 ≤ junction ∨ 45 < inlet then 3 else if 100 ≤ junction then 2
        else if limit < power ∨ 95 ≤ junction ∨ 40 < inlet then 1 else 0
      ∃ t, exec .throttleStepUp s = .next t ∧ t.power.step = wanted ∧ bitsOf (t.sysreg 0x219) 61 2 = wanted ∧
        t.warps = s.warps ∧ t.mem = s.mem) ∧
    (∀ junction inlet power, s.now = .throttleStepDown junction inlet power → 1 ≤ s.power.step → s.power.step ≤ 3 →
      let cause := stepCause s s.power.step junction inlet power
      let absent := cause = false ∧ s.power.absent ≠ 0 ∧ s.power.absent.toNat + 180000000 ≤ s.tick.toNat + 1
      ∃ t, exec .throttleStepDown s = .next t ∧
        t.power.step = (if absent then s.power.step - 1 else s.power.step) ∧
        bitsOf (t.sysreg 0x219) 61 2 = t.power.step ∧ t.warps = s.warps ∧ t.mem = s.mem) ∧
    (∀ junction, s.now = .thermalTrip junction →
      (junction < 115 → exec .thermalTrip s = .next s) ∧
      (115 ≤ junction → ∃ t, exec .thermalTrip s = .next t ∧ t.powerOff = true ∧ t.stopped = true ∧
        step t = .fault .powerRemoved)) ∧
    (∀ inlet, s.now = .lowInletTemperature inlet →
      (15 ≤ inlet → exec .lowInletTemperature s = .next s) ∧
      (inlet < 15 → ∃ t, exec .lowInletTemperature s = .next t ∧ t.sysreg 0x1A9 ≠ s.sysreg 0x1A9 ∧
        t.warps = s.warps ∧ t.store = s.store)) ∧
    (∀ cause, s.now = .tamperAlarm cause → cause < 5 →
      let old := s.sysreg 0x210
      let response := bitsOf old 62 2
      ∃ t, exec .tamperAlarm s = .next t ∧ (t.sysreg 0x210).getLsbD (16 + cause) = true ∧
        bitsOf (t.sysreg 0x210) 0 16 = min 0xFFFF (bitsOf old 0 16 + 1) ∧
        (∀ j, j < 5 → j ≠ cause → (t.sysreg 0x210).getLsbD (16 + j) = old.getLsbD (16 + j)) ∧
        bitsOf (t.sysreg 0x210) 62 2 = response ∧
        (response = 0 → t.sysreg 0x1A9 ≠ s.sysreg 0x1A9 ∧ t.stopped = s.stopped) ∧
        (response ≠ 0 → t.stopped = true ∧ t.halted = true ∧ (t.sysreg 0x1D0).getLsbD 60 = true) ∧
        (2 ≤ response → (t.sysreg 0x210).getLsbD 61 = true ∧ t.mailbox.command ≠ 1) ∧ t.warps = s.warps) ∧
    (∀ port, s.now = .laneRetrain port → port < 16 →
      let old := s.sysreg (0x200 + port)
      let live := bitsOf old 6 2
      (live = 0 → exec .laneRetrain s = .next s) ∧
      (live ≠ 0 → ∃ t, exec .laneRetrain s = .next t ∧ bitsOf (t.sysreg (0x200 + port)) 6 2 = live - 1 ∧
        bitsOf (t.sysreg (0x200 + port)) 0 6 = min 63 (bitsOf old 0 6 + 1) ∧ (t.sysreg 0x100).getLsbD 63 = true ∧
        ∀ n, n ≠ 0x200 + port → n ≠ 0x100 → t.sysreg n = s.sysreg n)) ∧
    (s.now = .reset → ∃ t, exec .reset s = .next t ∧ t.mem = State.reset.mem ∧ t.warps = State.reset.warps ∧
      t.store = State.reset.store ∧ t.blocks = State.reset.blocks ∧ t.tick = State.reset.tick ∧
      t.caches = State.reset.caches ∧ t.registry = State.reset.registry ∧ t.counters = State.reset.counters ∧
      (∀ n, (n < 0x100 ∨ 0x147 < n) → n ≠ 0x210 → n ≠ 0x211 → (n < 0x200 ∨ 0x20F < n) →
        t.sysreg n = State.reset.sysreg n) ∧
      (s.fenced = [] → ∀ n, 0x101 ≤ n → n ≤ 0x147 → t.sysreg n = s.sysreg n) ∧
      (s.fenced = [] → ∀ j, j < 63 → (t.sysreg 0x100).getLsbD j = (s.sysreg 0x100).getLsbD j) ∧
      (s.fenced = [] → (t.sysreg 0x100).getLsbD 63 = false) ∧
      t.sysreg 0x211 = (if (s.sysreg 0x210).getLsbD 61 then 1 else 7) ∧
      t.mailbox.recovery = (s.sysreg 0x210).getLsbD 61 ∧
      bitsOf (t.sysreg 0x210) 61 3 = bitsOf (s.sysreg 0x210) 61 3 ∧
      bitsOf (t.sysreg 0x210) 0 16 = bitsOf (s.sysreg 0x210) 0 16)

/-- Registers that the host writes by events of their own (R156, R176, R177, R290, R308, R316, R359, R361, R386):
nothing happens unless an inbound entry gives some node the management window for writing; MTKCFG's tokens; the root
of a context, whose translations go; an invalidation's BUSY; a log's fields, whose HEAD starts again with a new place
or size; a plain register's writable bits; CQTAB while no queue is enabled; and a bias flip, which an acknowledgement
in time ends and a time without one ends with status 1.
Beside the rules it rests on the model's own readings, log entries 62 (DEDUCED), 73 (DEDUCED). -/
def Obligations.HostWrites : Prop :=
  ∀ (s : State),
    let ignored := fun (e : Event) => managed s = false → s.now = e → exec e.row s = .next s
    (∀ d v, ignored (.mtkcfgWrite d v) ∧ ignored (.xlrootWrite d v) ∧ ignored (.xlinvPage v) ∧
      ignored (.xlinvContext v) ∧ ignored (.xlinvAll v) ∧ ignored (.rpctlWrite v) ∧ ignored (.trctlWrite v) ∧
      ignored (.elctlWrite v) ∧ ignored (.tkctlStep v) ∧ ignored (.biasFlipToHost v) ∧ ignored (.biasFlipToDevice v) ∧
      ignored (.systemRegisterWrite d v)) ∧
    (managed s = true → ∀ (v : DWord),
      (∀ d, d < 4 → s.now = .mtkcfgWrite d v → ∃ t, exec .mtkcfgWrite s = .next t ∧
        let tokens := match bitsOf v 4 2 with | 0 => bitsOf v 0 4 | 1 => 3 | 2 => 6 | _ => 8
        t.sysreg (0x150 + d) = if tokens = 0 ∨ 8 < tokens then s.sysreg (0x150 + d)
          else BitVec.ofNat 64 (bitsOf v 4 2 * 16 + tokens)) ∧
      (∀ k, k < 8 → s.now = .xlrootWrite k v → ∃ t, exec .xlrootWrite s = .next t ∧
        t.sysreg (0x178 + k) = v &&& 0x000FFFFFFFFE0001 ∧ (∀ c p, p ∈ tget [] t.caches c → p.ctx ≠ k) ∧ t.mem = s.mem) ∧
      (∀ kind e, (kind, e) ∈ [(0, Event.xlinvPage v), (1, .xlinvContext v), (2, .xlinvAll v)] → s.now = e →
        (s.sysreg 0x188).getLsbD 63 = false → ∃ t, exec e.row s = .next t ∧
        (t.sysreg 0x188).getLsbD 63 = true ∧ bitsOf (t.sysreg 0x188) 61 2 = kind ∧ t.mem = s.mem ∧
        ∀ c p, p ∈ tget [] t.caches c → kind ≠ 2 ∧ (kind = 1 → p.ctx ≠ bitsOf v 58 3) ∧
          (kind = 0 → p.ctx = bitsOf v 58 3 → ¬ (p.base ≤ bitsOf v 16 41 * 2 ^ 16 ∧ bitsOf v 16 41 * 2 ^ 16 < p.base + p.size))) ∧
      (∀ ctl e, (ctl, e) ∈ [(0x198, Event.rpctlWrite v), (0x1A0, .trctlWrite v), (0x1A8, .elctlWrite v)] → s.now = e →
        ∃ t, exec e.row s = .next t ∧ (t.sysreg ctl).getLsbD 63 = v.getLsbD 63 ∧
        bitsOf (t.sysreg ctl) 12 45 = bitsOf v 12 45 ∧
        bitsOf (t.sysreg ctl) 0 5 = (if 12 ≤ bitsOf v 0 5 ∧ bitsOf v 0 5 ≤ 30 then bitsOf v 0 5
          else bitsOf (s.sysreg ctl) 0 5) ∧
        (if bitsOf (t.sysreg ctl) 12 45 = bitsOf (s.sysreg ctl) 12 45 ∧
            bitsOf (t.sysreg ctl) 0 5 = bitsOf (s.sysreg ctl) 0 5 then t.sysreg (ctl + 1) = s.sysreg (ctl + 1)
          else bitsOf (t.sysreg (ctl + 1)) 0 32 = 0 ∧ bitsOf (t.sysreg (ctl + 1)) 32 32 = bitsOf (s.sysreg (ctl + 1)) 32 32) ∧
        (ctl = 0x1A0 → ∀ c, (t.core c).requests = 0)) ∧
      (s.now = .tkctlStep v → ∃ t, exec .tkctlStep s = .next t ∧ t.servo.step = v.getLsbD 63 ∧
        (t.sysreg 0x191).getLsbD 62 = false ∧ (t.sysreg 0x190).getLsbD 63 = v.getLsbD 63 ∧
        (v.getLsbD 63 = false → t.servo.left = 0)) ∧
      (s.now = .systemRegisterWrite 0x170 v →
        let on := ∃ q ws, q < 64 ∧ descriptorWords s q = some ws ∧ (queueDescOf ws).en = true
        (on → exec .systemRegisterWrite s = .next s) ∧
        (¬ on → ∃ t, exec .systemRegisterWrite s = .next t ∧ t.sysreg 0x170 = v &&& 0x01FFFFFFFFFFF000 ∧
          (∀ q, (t.queue q).stopped = false) ∧ t.mem = s.mem)) ∧
      (∀ n, s.now = .systemRegisterWrite n v → n < 0x150 ∨ 0x1B0 ≤ n → n ≠ 0x1D0 → n ≠ 0x218 → ∃ t,
        exec .systemRegisterWrite s = .next t ∧ (∀ j, j < 64 → (t.sysreg n).getLsbD j =
          if (plainMask n).testBit j then v.getLsbD j else (s.sysreg n).getLsbD j) ∧
        ∀ m, m ≠ n → t.sysreg m = s.sysreg m) ∧
      (∀ e, e ∈ [Event.biasFlipToHost v, .biasFlipToDevice v] → s.now = e →
        let size := match bitsOf v 0 2 with | 0 => 2 ^ 16 | 1 => 2 ^ 21 | _ => 2 ^ 30
        let refused := (s.sysreg 0x160).getLsbD 63 = true ∨ bitsOf v 0 2 = 3
        (refused → exec e.row s = .next s) ∧
        (¬ refused → ∃ t f, exec e.row s = .next t ∧ (t.sysreg 0x160).getLsbD 63 = true ∧ t.flip = some f ∧
          f.toHost = decide (e = .biasFlipToHost v) ∧ f.size = size ∧
          f.base = bitsOf v 16 36 * 2 ^ 16 / size * size ∧ f.limit = s.tick + 180000 ∧ t.mem = s.mem))) ∧
    (∀ f, s.flip = some f → f.toHost = false →
      (s.now = .biasHostAcknowledge → f.limit.toNat ≤ s.tick.toNat → exec .biasHostAcknowledge s = .next s) ∧
      (s.now = .biasHostAcknowledge → s.tick.toNat < f.limit.toNat → ∃ t, exec .biasHostAcknowledge s = .next t ∧ t.flip = none ∧
        (t.sysreg 0x160).getLsbD 63 = false ∧ bitsOf (t.sysreg 0x160) 60 2 = 0 ∧
        ∀ p, p ∈ t.hostBias ↔ p ∈ s.hostBias ∧ ¬ (f.base / 2 ^ 16 ≤ p ∧ p < (f.base + f.size) / 2 ^ 16)) ∧
      (s.now = .biasAckTimeout →
        (s.tick.toNat < f.limit.toNat → exec .biasAckTimeout s = .next s) ∧
        (f.limit.toNat ≤ s.tick.toNat → ∃ t, exec .biasAckTimeout s = .next t ∧ t.flip = none ∧
          (t.sysreg 0x160).getLsbD 63 = false ∧ bitsOf (t.sysreg 0x160) 60 2 = 1 ∧ t.hostBias = s.hostBias))) ∧
    (s.flip = none → exec .biasHostAcknowledge s = .next s ∧ exec .biasAckTimeout s = .next s)

/-- Requests of other nodes (R284, R391, R392, R407, R428): a node without an entry for the access, or one that names
no memory, is answered with an error; a read answers the word's latest value, a write stores its bytes, an atomic
answers the old value and stores the new one, each by a port with lanes in use; a line is locked for one node at a
time; and the messages of a held link wait until they are released.
Beside the rules it rests on the model's own readings, log entries 6 (DESIGN CHOICE), 41 (DEDUCED), 49 (DEDUCED), 64
(DEDUCED). -/
def Obligations.NodesAnswered : Prop :=
  ∀ (s : State),
    let present := fun (pw : Nat) (v : Word) =>
      (if nmem s.hostBias (pw / 2 ^ 14) then some (memWord s.mem pw, nmem s.memPoison pw) else s.latest pw) = some (v, false)
    let told := fun (t : State) (node kind a : Nat) (d : DWord) (tag : Nat) =>
      ∃ rest, t.fabricOut = s.fabricOut ++ [{ node := node, kind := kind, addr := a, data := d, tag := tag }] ++ rest ∧
        (kind ≠ 18 → rest = [])
    let up := fun (port : Nat) => decide (port < 16 ∧ bitsOf (s.sysreg (0x200 + port)) 6 2 ≠ 0)
    let waits := fun (a n : Nat) => s.stopped = true ∨ ∃ i, i < n ∧
      (s.flipping (a / 4 + i) = true ∨ s.quiet (a / 4 + i) = false)
    (∀ node port a tag, s.now = .inboundRead node port a tag → (up port = false → exec .inboundRead s = .next s) ∧ (up port = true →
      (admits s false node = false ∨ inboundPlace s a 4 = false → ∃ t, exec .inboundRead s = .next t ∧
        told t node 18 a 0 tag ∧ t.sysreg 0x1A9 ≠ s.sysreg 0x1A9) ∧
      (admits s false node = true → inboundPlace s a 4 = true →
        (waits a 1 → exec .inboundRead s = .next s) ∧
        (∀ v, ¬ waits a 1 → present (a / 4) v → ∃ t, exec .inboundRead s = .next t ∧
          told t node 16 a (v.setWidth 64) tag ∧ t.mem = s.mem ∧ t.registry = s.registry)))) ∧
    (∀ node port a z v, s.now = .inboundWrite node port a z v → Memory.wf s.mem →
      (up port = false → exec .inboundWrite s = .next s) ∧ (up port = true →
      (admits s true node = false ∨ inboundPlace s a z = false → ∃ t, exec .inboundWrite s = .next t ∧
        told t node 18 a 0 0) ∧
      (admits s true node = true → inboundPlace s a z = true →
        let n := (a % 4 + z + 3) / 4
        (waits a n → exec .inboundWrite s = .next s) ∧
        (¬ waits a n → (z < 4 → ∃ w, present (a / 4) w) → ∃ t, exec .inboundWrite s = .next t ∧
          told t node 17 a 0 0 ∧ (∀ j, j < z → (memByte t.mem (a + j)).toNat = v.toNat / 2 ^ (8 * j) % 2 ^ 8) ∧
          (∀ c, (c / 4 < a / 4 ∨ a / 4 + n ≤ c / 4) → memByte t.mem c = memByte s.mem c) ∧ t.warps = s.warps)))) ∧
    (∀ node port a z op v cmp tag, s.now = .inboundAtomic node port a z op v cmp tag → Memory.wf s.mem →
      (up port = false → exec .inboundAtomic s = .next s) ∧ (up port = true →
      (admits s true node = false ∨ inboundPlace s a z = false ∨ z < 4 ∨ (8 < op ∧ op ≠ 12) → ∃ t,
        exec .inboundAtomic s = .next t ∧ told t node 18 a 0 tag) ∧
      (admits s true node = true → inboundPlace s a z = true → 4 ≤ z → op ≤ 8 ∨ op = 12 →
        let n := z / 4
        (waits a n ∨ s.lineLocked (a / 128) = true → exec .inboundAtomic s = .next s) ∧
        (∀ w : Nat → Word, ¬ waits a n → s.lineLocked (a / 128) = false → (∀ i, i < n → present (a / 4 + i) (w i)) →
          let old := ofWords ((List.range n).map w)
          let new := if op = 12 then (if old = cmp.toNat % 2 ^ (8 * z) then v.toNat % 2 ^ (8 * z) else old)
            else atomicRule op (if z = 8 then 1 else 0) old v.toNat
          ∃ t, exec .inboundAtomic s = .next t ∧ told t node 16 a (BitVec.ofNat 64 old) tag ∧
            (∀ i, i < n → memWord t.mem (a / 4 + i) = BitVec.ofNat 32 (new / 2 ^ (32 * i))) ∧
            ∀ c, (c / 4 < a / 4 ∨ a / 4 + n ≤ c / 4) → memByte t.mem c = memByte s.mem c)))) ∧
    (∀ node line, s.now = .lineLockRequest node line → s.lockQueue = [] →
      (admits s true node = false → ∃ t, exec .lineLockRequest s = .next t ∧ told t node 18 (128 * line) 0 0) ∧
      (admits s true node = true → s.lineLocked line = true → ∃ t, exec .lineLockRequest s = .next t ∧
        t.lockQueue = [(node, line)] ∧ t.locks = s.locks) ∧
      (admits s true node = true → s.lineLocked line = false → ∃ t, exec .lineLockRequest s = .next t ∧
        t.lockQueue = [] ∧ t.locks = s.locks ++ [⟨node, line, s.tick⟩] ∧ told t node 19 (128 * line) 0 0)) ∧
    (∀ node line, s.now = .lineUnlock node line → s.lockQueue = [] → exec .lineUnlock s =
      .next { s with locks := s.locks.filter (fun k => ¬ (k.node = node ∧ k.line = line)) }) ∧
    (∀ a b o, s.now = .linkHold a b o →
      let held := a < 4 ∧ b < 4 ∧ (b = a ^^^ 1 ∨ b = a ^^^ 2) ∧ o = a ∧ (a, b, o) ∉ s.heldLinks
      exec .linkHold s = .next (if held then { s with heldLinks := s.heldLinks ++ [(a, b, o)] } else s)) ∧
    (∀ a b o, s.now = .linkRelease a b o → ∃ t, exec .linkRelease s = .next t ∧ (a, b, o) ∉ t.heldLinks ∧
      (∀ m ∈ t.heldMsgs, m.1 ≠ (a, b, o)) ∧ t.agenda = (s.heldMsgs.filter (fun m => m.1 = (a, b, o))).map
        (fun m => m.2.1) ++ s.agenda ∧ t.mem = s.mem) ∧
    (∀ a b tag, s.now = .linkStatus a b tag → s.heldMsgs = [] → ∃ t, exec .linkStatus s = .next t ∧
      t.fabricOut = s.fabricOut ++ (s.heldLinks.filter (fun k => k.1 = a ∧ k.2.1 = b)).map (fun k =>
        ⟨Config.hostNode, 20, a * 16 + b, BitVec.ofNat 64 k.2.2, tag, 0⟩) ∧ t.mem = s.mem ∧ t.agenda = s.agenda)

/-- The management window, the debug access port and the mailbox (R373, R392, R395 to R397): a node that may reads and
writes system registers and counters; DACDATA reads and writes the selected item of a stopped package; DACCTL's
operations; and the mailbox takes a command while none runs. Before reset's last step a read of a capability register
stalls. Every other request is refused.
Beside the rules it rests on the model's own readings, log entries 50 (DEDUCED), 72 (DEDUCED). -/
def Obligations.ManagementWindow : Prop :=
  ∀ (s : State),
    let told := fun (t : State) (node kind a : Nat) (d : DWord) (tag : Nat) =>
      ∃ rest, t.fabricOut = s.fabricOut ++ [{ node := node, kind := kind, addr := a, data := d, tag := tag }] ++ rest ∧
        (kind ≠ 18 → rest = [])
    let base := 0xF000000000000
    (∀ node n write v tag, s.now = .mgmtRegisterAccess node n write v tag → n < 0x400 → s.mailbox.recovery = true →
      (manages s write node = true → 0x100 ≤ n → n ≤ 0x147 → write = false →
        exec .mgmtRegisterAccess s = .next (s.send (.mgmtRegisterAccess node n write v tag))) ∧
      (manages s write node = false ∨ write = true ∨ n < 0x100 ∨ 0x147 < n → ∃ t, exec .mgmtRegisterAccess s = .next t ∧
        told t node 18 (base + 8 * n) 0 tag)) ∧
    (∀ node n write v tag, s.now = .mgmtRegisterAccess node n write v tag → n < 0x400 → s.mailbox.recovery = false →
      (manages s write node = false ∨ assigned n = false → ∃ t, exec .mgmtRegisterAccess s = .next t ∧
        told t node 18 (base + 8 * n) 0 tag) ∧
      (manages s write node = true → assigned n = true → write = false → n ∉ [0x161, 0x162, 0x189] → ∃ t,
        exec .mgmtRegisterAccess s = .next t ∧ told t node 16 (base + 8 * n) (s.sysreg n) tag ∧
        t.sysregs = s.sysregs ∧ t.mem = s.mem) ∧
      (manages s write node = true → write = false → n ∈ [0x161, 0x162, 0x189] → ∃ t,
        exec .mgmtRegisterAccess s = .next t ∧ told t node 16 (base + 8 * n) (Config.freeValue s.freeNo) tag ∧
        t.sysregs = s.sysregs ∧ t.mem = s.mem) ∧
      (manages s write node = true → assigned n = true → write = true → n < 0x150 ∨ 0x1B0 ≤ n → n ≠ 0x1D0 → n ≠ 0x218 →
        ∃ t, exec .mgmtRegisterAccess s = .next t ∧ told t node 17 (base + 8 * n) 0 tag ∧
        (∀ j, j < 64 → (t.sysreg n).getLsbD j =
          if (plainMask n).testBit j then v.getLsbD j else (s.sysreg n).getLsbD j) ∧
        ∀ m, m ≠ n → t.sysreg m = s.sysreg m)) ∧
    (∀ node c v, s.now = .mgmtCounterWrite node c v → c < 1024 → s.mailbox.recovery = false → manages s true node = true →
      ∃ t, exec .mgmtCounterWrite s = .next t ∧ tget 0 t.counters c = v ∧
        (∀ k, k ≠ c → tget 0 t.counters k = tget 0 s.counters k) ∧ told t node 17 (base + 0x10000 + 4 * c) 0 0) ∧
    (∀ node tag, s.now = .dacdataRead node tag → (manages s false node = false ∨ s.stopped = false → ∃ t,
        exec .dacdataRead s = .next t ∧ told t node 18 (base + 0x30008) 0 tag) ∧
      (manages s false node = true → s.stopped = true →
        (dacWarp s = none → ∃ t, exec .dacdataRead s = .next t ∧ told t node 16 (base + 0x30008) 0 tag) ∧
        ∀ wk, dacWarp s = some wk → (dacItem s).kind ≠ 6 → (dacItem s).exists_ (s.warp wk) = true → ∃ t,
          exec .dacdataRead s = .next t ∧ t.store = s.store ∧ t.warps = s.warps ∧
          told t node 16 (base + 0x30008) (BitVec.ofNat 64 (((dacItem s).value s wk (dacLane s)).toNat +
            if (dacItem s).poisoned s wk (dacLane s) then 2 ^ 63 else 0)) tag)) ∧
    (∀ node v, s.now = .dacdataWrite node v → (manages s true node = false ∨ s.stopped = false → ∃ t,
        exec .dacdataWrite s = .next t ∧ told t node 18 (base + 0x30008) 0 0) ∧
      (∀ wk k, manages s true node = true → s.stopped = true → dacWarp s = some wk →
        (dacItem s).key (wk / 128) (s.warp wk) (dacLane s) = some k → (dacItem s).exists_ (s.warp wk) = true → ∃ t,
          exec .dacdataWrite s = .next t ∧ told t node 17 (base + 0x30008) 0 0 ∧ t.word k = v ∧
          t.isEmpty k = false ∧ t.isPoison k = false ∧ WordsKept s t [k] ∧ t.warps = s.warps ∧ t.mem = s.mem)) ∧
    (∀ node v op e, (op, e) ∈ [(0, Event.dacctlQuery node v), (1, .dacctlStop node v), (2, .dacctlResume node v),
        (3, .dacctlStep node v), (4, .dacctlExit node v)] → s.now = e →
      (manages s true node = false → ∃ t, exec e.row s = .next t ∧ told t node 18 (base + 0x30010) 0 0) ∧
      (∀ wk, manages s true node = true → dacWarp s = some wk → (s.warp wk).ended = false →
        (s.core (wk / 128)).serving ≠ some (wk % 128) → ∃ t, exec e.row s = .next t ∧
        (op ≠ 4 → told t node 17 (base + 0x30010) 0 0) ∧
        (op = 0 → t.warp wk = s.warp wk) ∧ (op = 1 → (t.warp wk).stopped = true) ∧
        (op = 2 → (t.warp wk).stopped = false ∧ (t.warp wk).asleep = false ∨ t.warp wk = s.warp wk) ∧
        (op = 3 → (t.warp wk).stopped = false ∧ (t.warp wk).stepping = true) ∧
        (op = 4 → ∀ l x, l < 32 → (s.warp wk).lanes[l]? = some x → v.getLsbD (32 + l) = true →
          ∃ y, (t.warp wk).lanes[l]? = some y ∧ y.exited = true))) ∧
    (∀ node cmd e, (cmd, e) ∈ [(1, Event.mailboxAttest node), (2, .mailboxUnlock node)] → s.now = e →
      (manages s true node = false ∨ s.mailbox.status = 1 → ∃ t, exec e.row s = .next t ∧
        told t node 18 (base + 0x20000) 0 0) ∧
      (manages s true node = true → s.mailbox.status ≠ 1 → ∃ t, exec e.row s = .next t ∧
        told t node 17 (base + 0x20000) 0 0 ∧ t.mailbox = { s.mailbox with status := 1, command := cmd })) ∧
    ∀ node ok svn digest, s.now = .recoveryImageLoad node ok svn digest →
      let accepted := manages s true node = true ∧ s.mailbox.recovery = true ∧ ok = true ∧ Config.minimumVersion ≤ svn
      (¬ accepted → ∃ t, exec .recoveryImageLoad s = .next t ∧ told t node 18 (base + 0x20100) 0 0) ∧
      (accepted → ∃ t, exec .recoveryImageLoad s = .next t ∧ told t node 17 (base + 0x20100) 0 0 ∧
        t.mailbox.recovery = false ∧ t.mailbox.measured = s.mailbox.measured ++ [digest] ∧ t.sysreg 0x211 = 7)

/-! ## Encoding, the step and what every step keeps (R41 to R59, R110 to R118, R400) -/

/-- An instruction whose fields the encoding admits is what its words decode to, whatever words follow; and words
that decode to an instruction are the words of that instruction. -/
def Obligations.EncodingsAgree : Prop :=
  (∀ i, WellFormed i → ∀ rest, decodeWords (encode i ++ rest) = .ok (i, rest)) ∧
  (∀ ws i rest, decodeWords ws = .ok (i, rest) → WellFormed i ∧ ws = encode i ++ rest)

/-- The words that the manual works out or lists, one of each family, decode to the instructions that it names, with
the fields of its drawings. -/
def Obligations.DecodedWords : Prop :=
  (∀ e ∈ ([(0x0808_00C0, 0x2020_208D, .ffma (gridLong 0 2 8 3 2 8 0 0 1 0)),
     (0xC004_00C0, 0x2004_E435, .lop true (gridLong 6 0 4 3 2 1 0 0 7 2)),
     (0x0000_0000, 0xA02A_E005, .isub (gridLong 0 0 0 0 10 10 1 0 7 0)),
     (0x2146_5020, 0x8822_6041, .bfx (gridLong 1 0 0x146 0x140 0x208 0x208 1 0 3 0)),
     (0x000C_0C00, 0x200C_F0C1, .cvt (gridLong 0 0 12 0x30 2 3 0 0 7 8)),
     (0x03FF_FFFF, 0xC000_E101, .bra (gridLong 0 0 0x3FF 0x3FF 0x3FC 0 0 0 7 0)),
     (0x0000_0000, 0x200C_E541, .vote (gridLong 0 0 0 0 2 3 0 0 7 2)),
     (0x2003_1000, 0x2018_E961, .ld (gridLong 1 0 3 0x40 2 6 0 0 7 4)),
     (0x0000_4000, 0x2052_E16D, .st (gridLong 0 0 0 0x100 2 0x14 1 0 7 0)),
     (0x0003_00A0, 0x4004_E1C1, .mins (gridLong 0 0 3 2 0x204 1 0 0 7 0)),
     (0x0000_0020, 0x8000_03B1, .mmaBmp (gridLong 0 0 0 0 0x208 0 0 0 0 0)),
     (0x0140_8100, 0x8504_E1D1, .rtrc (gridLong 0 0 0x140 0x204 8 0x141 0 0 7 0)),
     (0x0002_0000, 0x0000_E1D9, .bar (gridLong 0 0 2 0 0 0 0 0 7 0)),
     (0x0003_8260, 0x8000_65E1, .bowait (gridLong 0 0 3 0x209 0x208 0 0 0 3 0)),
     (0x0000_0014, 0x1000_61F1, .tretSkip (gridLong 0 0 0 0 0x141 0 0 0 3 0)),
     (0x0000_50E0, 0x4828_65FD, .launch (gridLong 0 0 0 0x143 0x204 0x20A 0 0 3 0))] : List (Word × Word × Instr)),
    decodeWords [e.2.1, e.1] = .ok (e.2.2, [])) ∧
  decodeWords [0x6850_71A3, 0x2208_5FE0, 0x0001_0000] =
    .ok (.copy (withLiteral 0x0001_0000 (gridLong 1 0 0x208 0x17F 0x206 0x214 0 0 3 8)), []) ∧
  decodeWords [0x0048_241A, 0x001C_0418] =
    .ok (.pair { safe := false, h0 := { guard := 3, op := 0x20, d := 4, b := 9 },
                 h1 := { guard := 3, op := 0, d := 6, b := 0x101 } }, [])

/-- No bit pattern is unpredictable (R58): a word of a reserved major is rejected in both forms, and words that are no
instruction raise the illegal-instruction fault for the whole group that issues, whatever its guard. -/
def Obligations.UnassignedFault : Prop :=
  (∀ (w0 : Word) rest, w0.toNat % 4 = 1 ∨ w0.toNat % 4 = 3 → 2 ≤ rest.length →
    w0.toNat / 4 % 128 ∈ [0x2D, 0x2E, 0x2F, 0x36, 0x37, 0x3C, 0x3D, 0x3E, 0x3F, 0x4D, 0x4E, 0x4F] →
    decodeWords (w0 :: rest) = .error .unassigned) ∧
  (∀ s p core part wk e pc ws r, Chosen s p core part wk e pc → WordsAt p wk pc ws → decodeWords ws = .error r →
    let g := lanesAt (p.warp wk) e pc
    step s = .next (endTurn s ((p.book wk e g).raise wk
      { cause := .illegal, qual := 0, lanes := g, low := lowestLane g, addr := 0, pc := pc }))) ∧
  (∀ ws : List Word, ws ≠ [] → 4 * ws.length = lengthOf (ws.headD 0) →
    (∃ i, WellFormed i ∧ decodeWords ws = .ok (i, [])) ∨ ∃ r, decodeWords ws = .error r)

/-- The step at an issue whose words decode to an instruction: its lanes are aimed at, the issue is booked, and what
follows is the instruction itself, with the count and the safe point of an issue beside it (R27, R110 to R118, R352);
a BAR or FIX issues for the lanes that come to stand there; an instruction that only notes its wait leaves no booking
and the cycle to the partition's next choice; a watchpoint routed to the debug halt stops the package before the
instruction is judged (R372). Before a clock ends every partition with warps has its issue cycle (R113).
A package without power makes no step (R402), a step that delivers, that brings an event about or that lets a
cycle pass does that alone, and the next turn is drawn (R426; which turn comes is the model's free value, log entry
20).
Beside the rules it rests on the model's own readings, log entries 29 (DEDUCED), 67 (DEDUCED). -/
def Obligations.StepRunsDecoded : Prop :=
  (∀ s p core part wk e pc ws i, Chosen s p core part wk e pc → WordsAt p wk pc ws → decodeWords ws = .ok (i, []) →
     let g := lanesAt (p.warp wk) e pc
     let whole := p.aim wk g pc (4 * ws.length)
     let m := effective_ i whole
     let t := (if standsAtBarrier i = true ∧ m ≠ 0 then p.aim wk m pc (4 * ws.length) else whole).countMiss
       (wk / 128) (p.ctxOf wk) pc.toNat
     let u := t.book wk e g
     let unissued := fun (v : State) => notesWait i = true ∧ stillAt v wk g pc = true ∧ v.txns.length = t.txns.length
     let issued := fun (v : State) => v.stopped = true ∨ (v.warp wk).live = false ∨
       (v.warp wk).issued ≠ (p.warp wk).issued
     let goes := ∀ n lanes, haltWatch i whole ≠ .halt n lanes
     (∀ n lanes, haltWatch i whole = .halt n lanes → step s =
       .next (endTurn s (whole.halt 2 n (wk / 128) (p.warp wk).index lanes pc wk))) ∧
     (∀ v, goes → perform i u = .next v → ¬ unissued v → issued (afterIssue wk i (lanesOf m).length v) →
       step s = .next (endTurn s (afterIssue wk i (lanesOf m).length v))) ∧
     (∀ v v', goes → perform i u = .next v → unissued v → perform i t = .next v' →
       (issued v' → step s = .next (endTurn s v')) ∧
       (¬ issued v' → step s = (issueFrom core part 63 v').onNext (endTurn s))) ∧
     (∀ f, goes → perform i u = .fault f → step s = .fault f) ∧
     (∀ r, goes → perform i u = .refused r → step s = .refused r) ∧
     ((∀ x, i ≠ .grpctlQuery x ∧ i ≠ .rsndInvalidateContext x) → perform i u = exec i u)) ∧
  (∀ s,
     (s.powerOff = true → step s = .fault .powerRemoved) ∧
     (s.powerOff = false → s.turn = .cycle → clockEdge s = false ∨ s.stopped = true ∨ busyPartitions s = [] →
       step s = .next (endTurn s (tickCycle s))) ∧
     (s.powerOff = false → s.turn = .cycle → clockEdge s = true → s.stopped = false →
       step s = ((issueRest (busyPartitions s) s).onNext tickCycle).onNext (endTurn s)) ∧
     (∀ k v, s.powerOff = false → s.turn = .deliver k → deliver k s = .next v → step s = .next (endTurn s v)) ∧
     (∀ e v, s.powerOff = false → s.turn = .event e → isMessage e = false → isInner e = false →
       (s.stopped = false ∨ runsStopped e = true) → exec e.row { s with now := e } = .next v →
       step s = .next (endTurn s v)) ∧
     (∀ core part, s.powerOff = false → s.turn = .issue core part → coreRuns s core = false →
       step s = .next (endTurn s s)))

/-- What reset leaves, where the manual gives it: TICK 0 (R349), counters 0 (R338), a handler window whose registers
read zero (R366; zero in every other word of a store is the model's), no translation cached (R315, R400), every line's
clock 0 (R355), all four ways of the sounding tables with context 0, enabled (R326), the control registers' reset
columns (R156, R361, R391), and the last step of reset in RSTSTAT (R400). The same with the capability registers of
PF-KF9-P448 leaves 7 clusters of 16 cores on each die (R11).
Beside the rules it rests on the model's own readings, log entry 15 (DESIGN CHOICE). -/
def Obligations.ResetValues : Prop :=
  let s := State.reset
  s.tick = 0 ∧ (∀ n, tget 0 s.counters n = 0) ∧
  (∀ k, s.word k = 0) ∧ (∀ core, s.warp (windowKey core) = {}) ∧
  (∀ k, tget [] s.caches k = []) ∧ (∀ n, (s.line n).clock = 0) ∧
  (∀ c, tget 0 s.ways c = if c = 0 then 15 else 0) ∧ s.predict = [0] ∧
  (∀ d, d < 4 → s.sysreg (0x150 + d) = 0x26) ∧
  s.sysreg 0x198 = 12 ∧ s.sysreg 0x1A0 = 12 ∧
  s.sysreg 0x1F0 = BitVec.ofNat 64 (7 * 2 ^ 61 + Config.hostNode) ∧
  (∀ n, 1 ≤ n → n < 16 → s.sysreg (0x1F0 + n) = 0) ∧
  s.sysreg 0x211 = 7 ∧ s.stopped = false ∧ s.halted = false ∧ s.powerOff = false ∧
  let p := State.resetOf Config.partP448
  bitsOf (p.sysreg 0x100) 26 6 = 28 ∧ bitsOf (p.sysreg 0x100) 16 10 = 448 ∧ bitsOf (p.sysreg 0x100) 8 8 = 2 ∧
  ∀ c, p.hasCore c = decide (c < 512 ∧ c / 16 % 8 < 7)

/-- Reset's state has the forms that every step keeps.
Beside the rules it rests on the model's own readings, log entry 5 (DESIGN CHOICE). -/
def Obligations.ResetCanonical : Prop := Canonical State.reset

/-- Every step keeps the forms that other statements take as premises: memory and the tables stay in their one form,
and cached translations start at multiples of the smallest page.
Beside the rules it rests on the model's own readings, log entry 5 (DESIGN CHOICE). -/
def Obligations.StepKeepsCanonical : Prop :=
  ∀ s t, Canonical s → step s = .next t → Canonical t
end

