-- ==== Sys2Proof/Laws/Sparse.lean ====
section
/-! SUPPORT. Reading a sparse table or set after a write to it. -/

namespace Sys2Proof.Machine

variable {β : Type}

@[simp] theorem tget_tput_same (d : β) (t : Table β) (k : Nat) (v : β) : tget d (tput t k v) k = v := by
  induction t with
  | nil => simp [tput, tget]
  | cons e t ih =>
    obtain ⟨j, w⟩ := e
    by_cases h : k < j
    · simp [tput, tget, h]
    · by_cases e : j = k <;> simp [tput, tget, h, e, ih]

theorem tget_tput_ne (d : β) (t : Table β) {k j : Nat} (v : β) (h : k ≠ j) :
    tget d (tput t k v) j = tget d t j := by
  induction t with
  | nil => simp [tput, tget, h]
  | cons e t ih =>
    obtain ⟨i, w⟩ := e
    by_cases hk : k < i
    · simp [tput, tget, hk, h]
    · by_cases e : i = k
      · simp [tput, tget, e, h]
      · simp only [tput, hk, e, if_false, tget, ih]

@[simp] theorem tfind_tput_same (t : Table β) (k : Nat) (v : β) : tfind (tput t k v) k = some v := by
  induction t with
  | nil => simp [tput, tfind]
  | cons e t ih =>
    obtain ⟨j, w⟩ := e
    by_cases h : k < j
    · simp [tput, tfind, h]
    · by_cases e : j = k <;> simp [tput, tfind, h, e, ih]

theorem tfind_tput_ne (t : Table β) {k j : Nat} (v : β) (h : k ≠ j) :
    tfind (tput t k v) j = tfind t j := by
  induction t with
  | nil => simp [tput, tfind, h]
  | cons e t ih =>
    obtain ⟨i, w⟩ := e
    by_cases hk : k < i
    · simp [tput, tfind, hk, h]
    · by_cases e : i = k
      · simp [tput, tfind, e, h]
      · simp only [tput, hk, e, if_false, tfind, ih]

theorem mem_nput (t : List Nat) (k j : Nat) : j ∈ nput t k ↔ j = k ∨ j ∈ t := by
  induction t with
  | nil => simp [nput]
  | cons i t ih =>
    by_cases h : k < i
    · simp [nput, h]
    · by_cases e : i = k
      · subst e; simp [nput]
      · simp [nput, h, e, ih]; tauto

@[simp] theorem nmem_nput (t : List Nat) (k j : Nat) : nmem (nput t k) j = (decide (j = k) || nmem t j) := by
  rw [Bool.eq_iff_iff]; simp [nmem, mem_nput]

@[simp] theorem nmem_ndel (t : List Nat) (k j : Nat) : nmem (ndel t k) j = (decide (j ≠ k) && nmem t j) := by
  rw [Bool.eq_iff_iff]; simp [nmem, ndel]; tauto

theorem nmem_foldl_nput (ks t : List Nat) (j : Nat) :
    nmem (ks.foldl nput t) j = (ks.contains j || nmem t j) := by
  induction ks generalizing t with
  | nil => simp
  | cons k ks ih =>
    rw [List.foldl_cons, ih]; rw [Bool.eq_iff_iff]; simp; tauto

theorem getElem?_lupd (f : β → β) (t : List β) (i j : Nat) :
    (lupd f t i)[j]? = if i = j then t[j]?.map f else t[j]? := by
  induction t generalizing i j with
  | nil => simp [lupd]
  | cons v t ih =>
    cases i <;> cases j <;> simp [lupd, ih]

theorem lget_eq (d : β) (t : List β) (i : Nat) : lget d t i = t[i]?.getD d := by
  induction t generalizing i with
  | nil => simp [lget]
  | cons v t ih => cases i <;> simp [lget, ih]

end Sys2Proof.Machine
end

