-- ==== Sys2Proof/Laws/State.lean ====
section
/-! SUPPORT. What each named update of the state does to each field: one lemma per field per update, true by
definition. -/

namespace Sys2Proof.Machine

variable (s : State)

@[simp] theorem State.setWarp_warps (k : Nat) (w : Warp) : (s.setWarp k w).warps = tput s.warps k w := rfl
@[simp] theorem State.setWarp_turn (k : Nat) (w : Warp) : (s.setWarp k w).turn = s.turn := rfl
@[simp] theorem State.setWarp_now (k : Nat) (w : Warp) : (s.setWarp k w).now = s.now := rfl
@[simp] theorem State.setWarp_cur (k : Nat) (w : Warp) : (s.setWarp k w).cur = s.cur := rfl
@[simp] theorem State.setWarp_steps (k : Nat) (w : Warp) : (s.setWarp k w).steps = s.steps := rfl
@[simp] theorem State.setWarp_freeNo (k : Nat) (w : Warp) : (s.setWarp k w).freeNo = s.freeNo := rfl
@[simp] theorem State.setWarp_agenda (k : Nat) (w : Warp) : (s.setWarp k w).agenda = s.agenda := rfl
@[simp] theorem State.setWarp_clk (k : Nat) (w : Warp) : (s.setWarp k w).clk = s.clk := rfl
@[simp] theorem State.setWarp_tick (k : Nat) (w : Warp) : (s.setWarp k w).tick = s.tick := rfl
@[simp] theorem State.setWarp_store (k : Nat) (w : Warp) : (s.setWarp k w).store = s.store := rfl
@[simp] theorem State.setWarp_empty (k : Nat) (w : Warp) : (s.setWarp k w).empty = s.empty := rfl
@[simp] theorem State.setWarp_poison (k : Nat) (w : Warp) : (s.setWarp k w).poison = s.poison := rfl
@[simp] theorem State.setWarp_mem (k : Nat) (w : Warp) : (s.setWarp k w).mem = s.mem := rfl
@[simp] theorem State.setWarp_memPoison (k : Nat) (w : Warp) : (s.setWarp k w).memPoison = s.memPoison := rfl
@[simp] theorem State.setWarp_near (k : Nat) (w : Warp) : (s.setWarp k w).near = s.near := rfl
@[simp] theorem State.setWarp_acqs (k : Nat) (w : Warp) : (s.setWarp k w).acqs = s.acqs := rfl
@[simp] theorem State.setWarp_engines (k : Nat) (w : Warp) : (s.setWarp k w).engines = s.engines := rfl
@[simp] theorem State.setWarp_registry (k : Nat) (w : Warp) : (s.setWarp k w).registry = s.registry := rfl
@[simp] theorem State.setWarp_lostLog (k : Nat) (w : Warp) : (s.setWarp k w).lostLog = s.lostLog := rfl
@[simp] theorem State.setWarp_timers (k : Nat) (w : Warp) : (s.setWarp k w).timers = s.timers := rfl
@[simp] theorem State.setWarp_sleepers (k : Nat) (w : Warp) : (s.setWarp k w).sleepers = s.sleepers := rfl
@[simp] theorem State.setWarp_fenced (k : Nat) (w : Warp) : (s.setWarp k w).fenced = s.fenced := rfl
@[simp] theorem State.setWarp_blocks (k : Nat) (w : Warp) : (s.setWarp k w).blocks = s.blocks := rfl
@[simp] theorem State.setWarp_launches (k : Nat) (w : Warp) : (s.setWarp k w).launches = s.launches := rfl
@[simp] theorem State.setWarp_queues (k : Nat) (w : Warp) : (s.setWarp k w).queues = s.queues := rfl
@[simp] theorem State.setWarp_nextQueue (k : Nat) (w : Warp) : (s.setWarp k w).nextQueue = s.nextQueue := rfl
@[simp] theorem State.setWarp_takes (k : Nat) (w : Warp) : (s.setWarp k w).takes = s.takes := rfl
@[simp] theorem State.setWarp_placed (k : Nat) (w : Warp) : (s.setWarp k w).placed = s.placed := rfl
@[simp] theorem State.setWarp_cores (k : Nat) (w : Warp) : (s.setWarp k w).cores = s.cores := rfl
@[simp] theorem State.setWarp_clusters (k : Nat) (w : Warp) : (s.setWarp k w).clusters = s.clusters := rfl
@[simp] theorem State.setWarp_ring (k : Nat) (w : Warp) : (s.setWarp k w).ring = s.ring := rfl
@[simp] theorem State.setWarp_bindings (k : Nat) (w : Warp) : (s.setWarp k w).bindings = s.bindings := rfl
@[simp] theorem State.setWarp_counters (k : Nat) (w : Warp) : (s.setWarp k w).counters = s.counters := rfl
@[simp] theorem State.setWarp_txns (k : Nat) (w : Warp) : (s.setWarp k w).txns = s.txns := rfl
@[simp] theorem State.setWarp_samples (k : Nat) (w : Warp) : (s.setWarp k w).samples = s.samples := rfl
@[simp] theorem State.setWarp_prods (k : Nat) (w : Warp) : (s.setWarp k w).prods = s.prods := rfl
@[simp] theorem State.setWarp_copies (k : Nat) (w : Warp) : (s.setWarp k w).copies = s.copies := rfl
@[simp] theorem State.setWarp_colls (k : Nat) (w : Warp) : (s.setWarp k w).colls = s.colls := rfl
@[simp] theorem State.setWarp_collSeq (k : Nat) (w : Warp) : (s.setWarp k w).collSeq = s.collSeq := rfl
@[simp] theorem State.setWarp_rays (k : Nat) (w : Warp) : (s.setWarp k w).rays = s.rays := rfl
@[simp] theorem State.setWarp_sounding (k : Nat) (w : Warp) : (s.setWarp k w).sounding = s.sounding := rfl
@[simp] theorem State.setWarp_ways (k : Nat) (w : Warp) : (s.setWarp k w).ways = s.ways := rfl
@[simp] theorem State.setWarp_predict (k : Nat) (w : Warp) : (s.setWarp k w).predict = s.predict := rfl
@[simp] theorem State.setWarp_lastWay (k : Nat) (w : Warp) : (s.setWarp k w).lastWay = s.lastWay := rfl
@[simp] theorem State.setWarp_fresh (k : Nat) (w : Warp) : (s.setWarp k w).fresh = s.fresh := rfl
@[simp] theorem State.setWarp_caches (k : Nat) (w : Warp) : (s.setWarp k w).caches = s.caches := rfl
@[simp] theorem State.setWarp_pins (k : Nat) (w : Warp) : (s.setWarp k w).pins = s.pins := rfl
@[simp] theorem State.setWarp_hostBias (k : Nat) (w : Warp) : (s.setWarp k w).hostBias = s.hostBias := rfl
@[simp] theorem State.setWarp_flip (k : Nat) (w : Warp) : (s.setWarp k w).flip = s.flip := rfl
@[simp] theorem State.setWarp_lows (k : Nat) (w : Warp) : (s.setWarp k w).lows = s.lows := rfl
@[simp] theorem State.setWarp_xlSince (k : Nat) (w : Warp) : (s.setWarp k w).xlSince = s.xlSince := rfl
@[simp] theorem State.setWarp_xlWords (k : Nat) (w : Warp) : (s.setWarp k w).xlWords = s.xlWords := rfl
@[simp] theorem State.setWarp_sysregs (k : Nat) (w : Warp) : (s.setWarp k w).sysregs = s.sysregs := rfl
@[simp] theorem State.setWarp_selects (k : Nat) (w : Warp) : (s.setWarp k w).selects = s.selects := rfl
@[simp] theorem State.setWarp_stopped (k : Nat) (w : Warp) : (s.setWarp k w).stopped = s.stopped := rfl
@[simp] theorem State.setWarp_haltWarp (k : Nat) (w : Warp) : (s.setWarp k w).haltWarp = s.haltWarp := rfl
@[simp] theorem State.setWarp_halted (k : Nat) (w : Warp) : (s.setWarp k w).halted = s.halted := rfl
@[simp] theorem State.setWarp_powerOff (k : Nat) (w : Warp) : (s.setWarp k w).powerOff = s.powerOff := rfl
@[simp] theorem State.setWarp_mailbox (k : Nat) (w : Warp) : (s.setWarp k w).mailbox = s.mailbox := rfl
@[simp] theorem State.setWarp_servo (k : Nat) (w : Warp) : (s.setWarp k w).servo = s.servo := rfl
@[simp] theorem State.setWarp_power (k : Nat) (w : Warp) : (s.setWarp k w).power = s.power := rfl
@[simp] theorem State.setWarp_locks (k : Nat) (w : Warp) : (s.setWarp k w).locks = s.locks := rfl
@[simp] theorem State.setWarp_lockQueue (k : Nat) (w : Warp) : (s.setWarp k w).lockQueue = s.lockQueue := rfl
@[simp] theorem State.setWarp_dacsel (k : Nat) (w : Warp) : (s.setWarp k w).dacsel = s.dacsel := rfl
@[simp] theorem State.setWarp_dacadr (k : Nat) (w : Warp) : (s.setWarp k w).dacadr = s.dacadr := rfl
@[simp] theorem State.setWarp_heldLinks (k : Nat) (w : Warp) : (s.setWarp k w).heldLinks = s.heldLinks := rfl
@[simp] theorem State.setWarp_heldMsgs (k : Nat) (w : Warp) : (s.setWarp k w).heldMsgs = s.heldMsgs := rfl
@[simp] theorem State.setWarp_ports (k : Nat) (w : Warp) : (s.setWarp k w).ports = s.ports := rfl
@[simp] theorem State.setWarp_fabricOut (k : Nat) (w : Warp) : (s.setWarp k w).fabricOut = s.fabricOut := rfl

@[simp] theorem State.modWarp_warps (k : Nat) (f : Warp → Warp) : (s.modWarp k f).warps = tput s.warps k (f (s.warp k)) := rfl
@[simp] theorem State.modWarp_turn (k : Nat) (f : Warp → Warp) : (s.modWarp k f).turn = s.turn := rfl
@[simp] theorem State.modWarp_now (k : Nat) (f : Warp → Warp) : (s.modWarp k f).now = s.now := rfl
@[simp] theorem State.modWarp_cur (k : Nat) (f : Warp → Warp) : (s.modWarp k f).cur = s.cur := rfl
@[simp] theorem State.modWarp_steps (k : Nat) (f : Warp → Warp) : (s.modWarp k f).steps = s.steps := rfl
@[simp] theorem State.modWarp_freeNo (k : Nat) (f : Warp → Warp) : (s.modWarp k f).freeNo = s.freeNo := rfl
@[simp] theorem State.modWarp_agenda (k : Nat) (f : Warp → Warp) : (s.modWarp k f).agenda = s.agenda := rfl
@[simp] theorem State.modWarp_clk (k : Nat) (f : Warp → Warp) : (s.modWarp k f).clk = s.clk := rfl
@[simp] theorem State.modWarp_tick (k : Nat) (f : Warp → Warp) : (s.modWarp k f).tick = s.tick := rfl
@[simp] theorem State.modWarp_store (k : Nat) (f : Warp → Warp) : (s.modWarp k f).store = s.store := rfl
@[simp] theorem State.modWarp_empty (k : Nat) (f : Warp → Warp) : (s.modWarp k f).empty = s.empty := rfl
@[simp] theorem State.modWarp_poison (k : Nat) (f : Warp → Warp) : (s.modWarp k f).poison = s.poison := rfl
@[simp] theorem State.modWarp_mem (k : Nat) (f : Warp → Warp) : (s.modWarp k f).mem = s.mem := rfl
@[simp] theorem State.modWarp_memPoison (k : Nat) (f : Warp → Warp) : (s.modWarp k f).memPoison = s.memPoison := rfl
@[simp] theorem State.modWarp_near (k : Nat) (f : Warp → Warp) : (s.modWarp k f).near = s.near := rfl
@[simp] theorem State.modWarp_acqs (k : Nat) (f : Warp → Warp) : (s.modWarp k f).acqs = s.acqs := rfl
@[simp] theorem State.modWarp_engines (k : Nat) (f : Warp → Warp) : (s.modWarp k f).engines = s.engines := rfl
@[simp] theorem State.modWarp_registry (k : Nat) (f : Warp → Warp) : (s.modWarp k f).registry = s.registry := rfl
@[simp] theorem State.modWarp_lostLog (k : Nat) (f : Warp → Warp) : (s.modWarp k f).lostLog = s.lostLog := rfl
@[simp] theorem State.modWarp_timers (k : Nat) (f : Warp → Warp) : (s.modWarp k f).timers = s.timers := rfl
@[simp] theorem State.modWarp_sleepers (k : Nat) (f : Warp → Warp) : (s.modWarp k f).sleepers = s.sleepers := rfl
@[simp] theorem State.modWarp_fenced (k : Nat) (f : Warp → Warp) : (s.modWarp k f).fenced = s.fenced := rfl
@[simp] theorem State.modWarp_blocks (k : Nat) (f : Warp → Warp) : (s.modWarp k f).blocks = s.blocks := rfl
@[simp] theorem State.modWarp_launches (k : Nat) (f : Warp → Warp) : (s.modWarp k f).launches = s.launches := rfl
@[simp] theorem State.modWarp_queues (k : Nat) (f : Warp → Warp) : (s.modWarp k f).queues = s.queues := rfl
@[simp] theorem State.modWarp_nextQueue (k : Nat) (f : Warp → Warp) : (s.modWarp k f).nextQueue = s.nextQueue := rfl
@[simp] theorem State.modWarp_takes (k : Nat) (f : Warp → Warp) : (s.modWarp k f).takes = s.takes := rfl
@[simp] theorem State.modWarp_placed (k : Nat) (f : Warp → Warp) : (s.modWarp k f).placed = s.placed := rfl
@[simp] theorem State.modWarp_cores (k : Nat) (f : Warp → Warp) : (s.modWarp k f).cores = s.cores := rfl
@[simp] theorem State.modWarp_clusters (k : Nat) (f : Warp → Warp) : (s.modWarp k f).clusters = s.clusters := rfl
@[simp] theorem State.modWarp_ring (k : Nat) (f : Warp → Warp) : (s.modWarp k f).ring = s.ring := rfl
@[simp] theorem State.modWarp_bindings (k : Nat) (f : Warp → Warp) : (s.modWarp k f).bindings = s.bindings := rfl
@[simp] theorem State.modWarp_counters (k : Nat) (f : Warp → Warp) : (s.modWarp k f).counters = s.counters := rfl
@[simp] theorem State.modWarp_txns (k : Nat) (f : Warp → Warp) : (s.modWarp k f).txns = s.txns := rfl
@[simp] theorem State.modWarp_samples (k : Nat) (f : Warp → Warp) : (s.modWarp k f).samples = s.samples := rfl
@[simp] theorem State.modWarp_prods (k : Nat) (f : Warp → Warp) : (s.modWarp k f).prods = s.prods := rfl
@[simp] theorem State.modWarp_copies (k : Nat) (f : Warp → Warp) : (s.modWarp k f).copies = s.copies := rfl
@[simp] theorem State.modWarp_colls (k : Nat) (f : Warp → Warp) : (s.modWarp k f).colls = s.colls := rfl
@[simp] theorem State.modWarp_collSeq (k : Nat) (f : Warp → Warp) : (s.modWarp k f).collSeq = s.collSeq := rfl
@[simp] theorem State.modWarp_rays (k : Nat) (f : Warp → Warp) : (s.modWarp k f).rays = s.rays := rfl
@[simp] theorem State.modWarp_sounding (k : Nat) (f : Warp → Warp) : (s.modWarp k f).sounding = s.sounding := rfl
@[simp] theorem State.modWarp_ways (k : Nat) (f : Warp → Warp) : (s.modWarp k f).ways = s.ways := rfl
@[simp] theorem State.modWarp_predict (k : Nat) (f : Warp → Warp) : (s.modWarp k f).predict = s.predict := rfl
@[simp] theorem State.modWarp_lastWay (k : Nat) (f : Warp → Warp) : (s.modWarp k f).lastWay = s.lastWay := rfl
@[simp] theorem State.modWarp_fresh (k : Nat) (f : Warp → Warp) : (s.modWarp k f).fresh = s.fresh := rfl
@[simp] theorem State.modWarp_caches (k : Nat) (f : Warp → Warp) : (s.modWarp k f).caches = s.caches := rfl
@[simp] theorem State.modWarp_pins (k : Nat) (f : Warp → Warp) : (s.modWarp k f).pins = s.pins := rfl
@[simp] theorem State.modWarp_hostBias (k : Nat) (f : Warp → Warp) : (s.modWarp k f).hostBias = s.hostBias := rfl
@[simp] theorem State.modWarp_flip (k : Nat) (f : Warp → Warp) : (s.modWarp k f).flip = s.flip := rfl
@[simp] theorem State.modWarp_lows (k : Nat) (f : Warp → Warp) : (s.modWarp k f).lows = s.lows := rfl
@[simp] theorem State.modWarp_xlSince (k : Nat) (f : Warp → Warp) : (s.modWarp k f).xlSince = s.xlSince := rfl
@[simp] theorem State.modWarp_xlWords (k : Nat) (f : Warp → Warp) : (s.modWarp k f).xlWords = s.xlWords := rfl
@[simp] theorem State.modWarp_sysregs (k : Nat) (f : Warp → Warp) : (s.modWarp k f).sysregs = s.sysregs := rfl
@[simp] theorem State.modWarp_selects (k : Nat) (f : Warp → Warp) : (s.modWarp k f).selects = s.selects := rfl
@[simp] theorem State.modWarp_stopped (k : Nat) (f : Warp → Warp) : (s.modWarp k f).stopped = s.stopped := rfl
@[simp] theorem State.modWarp_haltWarp (k : Nat) (f : Warp → Warp) : (s.modWarp k f).haltWarp = s.haltWarp := rfl
@[simp] theorem State.modWarp_halted (k : Nat) (f : Warp → Warp) : (s.modWarp k f).halted = s.halted := rfl
@[simp] theorem State.modWarp_powerOff (k : Nat) (f : Warp → Warp) : (s.modWarp k f).powerOff = s.powerOff := rfl
@[simp] theorem State.modWarp_mailbox (k : Nat) (f : Warp → Warp) : (s.modWarp k f).mailbox = s.mailbox := rfl
@[simp] theorem State.modWarp_servo (k : Nat) (f : Warp → Warp) : (s.modWarp k f).servo = s.servo := rfl
@[simp] theorem State.modWarp_power (k : Nat) (f : Warp → Warp) : (s.modWarp k f).power = s.power := rfl
@[simp] theorem State.modWarp_locks (k : Nat) (f : Warp → Warp) : (s.modWarp k f).locks = s.locks := rfl
@[simp] theorem State.modWarp_lockQueue (k : Nat) (f : Warp → Warp) : (s.modWarp k f).lockQueue = s.lockQueue := rfl
@[simp] theorem State.modWarp_dacsel (k : Nat) (f : Warp → Warp) : (s.modWarp k f).dacsel = s.dacsel := rfl
@[simp] theorem State.modWarp_dacadr (k : Nat) (f : Warp → Warp) : (s.modWarp k f).dacadr = s.dacadr := rfl
@[simp] theorem State.modWarp_heldLinks (k : Nat) (f : Warp → Warp) : (s.modWarp k f).heldLinks = s.heldLinks := rfl
@[simp] theorem State.modWarp_heldMsgs (k : Nat) (f : Warp → Warp) : (s.modWarp k f).heldMsgs = s.heldMsgs := rfl
@[simp] theorem State.modWarp_ports (k : Nat) (f : Warp → Warp) : (s.modWarp k f).ports = s.ports := rfl
@[simp] theorem State.modWarp_fabricOut (k : Nat) (f : Warp → Warp) : (s.modWarp k f).fabricOut = s.fabricOut := rfl

@[simp] theorem State.setCore_cores (k : Nat) (v : Core) : (s.setCore k v).cores = tput s.cores k v := rfl
@[simp] theorem State.setCore_turn (k : Nat) (v : Core) : (s.setCore k v).turn = s.turn := rfl
@[simp] theorem State.setCore_now (k : Nat) (v : Core) : (s.setCore k v).now = s.now := rfl
@[simp] theorem State.setCore_cur (k : Nat) (v : Core) : (s.setCore k v).cur = s.cur := rfl
@[simp] theorem State.setCore_steps (k : Nat) (v : Core) : (s.setCore k v).steps = s.steps := rfl
@[simp] theorem State.setCore_freeNo (k : Nat) (v : Core) : (s.setCore k v).freeNo = s.freeNo := rfl
@[simp] theorem State.setCore_agenda (k : Nat) (v : Core) : (s.setCore k v).agenda = s.agenda := rfl
@[simp] theorem State.setCore_clk (k : Nat) (v : Core) : (s.setCore k v).clk = s.clk := rfl
@[simp] theorem State.setCore_tick (k : Nat) (v : Core) : (s.setCore k v).tick = s.tick := rfl
@[simp] theorem State.setCore_store (k : Nat) (v : Core) : (s.setCore k v).store = s.store := rfl
@[simp] theorem State.setCore_empty (k : Nat) (v : Core) : (s.setCore k v).empty = s.empty := rfl
@[simp] theorem State.setCore_poison (k : Nat) (v : Core) : (s.setCore k v).poison = s.poison := rfl
@[simp] theorem State.setCore_mem (k : Nat) (v : Core) : (s.setCore k v).mem = s.mem := rfl
@[simp] theorem State.setCore_memPoison (k : Nat) (v : Core) : (s.setCore k v).memPoison = s.memPoison := rfl
@[simp] theorem State.setCore_near (k : Nat) (v : Core) : (s.setCore k v).near = s.near := rfl
@[simp] theorem State.setCore_acqs (k : Nat) (v : Core) : (s.setCore k v).acqs = s.acqs := rfl
@[simp] theorem State.setCore_engines (k : Nat) (v : Core) : (s.setCore k v).engines = s.engines := rfl
@[simp] theorem State.setCore_registry (k : Nat) (v : Core) : (s.setCore k v).registry = s.registry := rfl
@[simp] theorem State.setCore_lostLog (k : Nat) (v : Core) : (s.setCore k v).lostLog = s.lostLog := rfl
@[simp] theorem State.setCore_timers (k : Nat) (v : Core) : (s.setCore k v).timers = s.timers := rfl
@[simp] theorem State.setCore_sleepers (k : Nat) (v : Core) : (s.setCore k v).sleepers = s.sleepers := rfl
@[simp] theorem State.setCore_fenced (k : Nat) (v : Core) : (s.setCore k v).fenced = s.fenced := rfl
@[simp] theorem State.setCore_warps (k : Nat) (v : Core) : (s.setCore k v).warps = s.warps := rfl
@[simp] theorem State.setCore_blocks (k : Nat) (v : Core) : (s.setCore k v).blocks = s.blocks := rfl
@[simp] theorem State.setCore_launches (k : Nat) (v : Core) : (s.setCore k v).launches = s.launches := rfl
@[simp] theorem State.setCore_queues (k : Nat) (v : Core) : (s.setCore k v).queues = s.queues := rfl
@[simp] theorem State.setCore_nextQueue (k : Nat) (v : Core) : (s.setCore k v).nextQueue = s.nextQueue := rfl
@[simp] theorem State.setCore_takes (k : Nat) (v : Core) : (s.setCore k v).takes = s.takes := rfl
@[simp] theorem State.setCore_placed (k : Nat) (v : Core) : (s.setCore k v).placed = s.placed := rfl
@[simp] theorem State.setCore_clusters (k : Nat) (v : Core) : (s.setCore k v).clusters = s.clusters := rfl
@[simp] theorem State.setCore_ring (k : Nat) (v : Core) : (s.setCore k v).ring = s.ring := rfl
@[simp] theorem State.setCore_bindings (k : Nat) (v : Core) : (s.setCore k v).bindings = s.bindings := rfl
@[simp] theorem State.setCore_counters (k : Nat) (v : Core) : (s.setCore k v).counters = s.counters := rfl
@[simp] theorem State.setCore_txns (k : Nat) (v : Core) : (s.setCore k v).txns = s.txns := rfl
@[simp] theorem State.setCore_samples (k : Nat) (v : Core) : (s.setCore k v).samples = s.samples := rfl
@[simp] theorem State.setCore_prods (k : Nat) (v : Core) : (s.setCore k v).prods = s.prods := rfl
@[simp] theorem State.setCore_copies (k : Nat) (v : Core) : (s.setCore k v).copies = s.copies := rfl
@[simp] theorem State.setCore_colls (k : Nat) (v : Core) : (s.setCore k v).colls = s.colls := rfl
@[simp] theorem State.setCore_collSeq (k : Nat) (v : Core) : (s.setCore k v).collSeq = s.collSeq := rfl
@[simp] theorem State.setCore_rays (k : Nat) (v : Core) : (s.setCore k v).rays = s.rays := rfl
@[simp] theorem State.setCore_sounding (k : Nat) (v : Core) : (s.setCore k v).sounding = s.sounding := rfl
@[simp] theorem State.setCore_ways (k : Nat) (v : Core) : (s.setCore k v).ways = s.ways := rfl
@[simp] theorem State.setCore_predict (k : Nat) (v : Core) : (s.setCore k v).predict = s.predict := rfl
@[simp] theorem State.setCore_lastWay (k : Nat) (v : Core) : (s.setCore k v).lastWay = s.lastWay := rfl
@[simp] theorem State.setCore_fresh (k : Nat) (v : Core) : (s.setCore k v).fresh = s.fresh := rfl
@[simp] theorem State.setCore_caches (k : Nat) (v : Core) : (s.setCore k v).caches = s.caches := rfl
@[simp] theorem State.setCore_pins (k : Nat) (v : Core) : (s.setCore k v).pins = s.pins := rfl
@[simp] theorem State.setCore_hostBias (k : Nat) (v : Core) : (s.setCore k v).hostBias = s.hostBias := rfl
@[simp] theorem State.setCore_flip (k : Nat) (v : Core) : (s.setCore k v).flip = s.flip := rfl
@[simp] theorem State.setCore_lows (k : Nat) (v : Core) : (s.setCore k v).lows = s.lows := rfl
@[simp] theorem State.setCore_xlSince (k : Nat) (v : Core) : (s.setCore k v).xlSince = s.xlSince := rfl
@[simp] theorem State.setCore_xlWords (k : Nat) (v : Core) : (s.setCore k v).xlWords = s.xlWords := rfl
@[simp] theorem State.setCore_sysregs (k : Nat) (v : Core) : (s.setCore k v).sysregs = s.sysregs := rfl
@[simp] theorem State.setCore_selects (k : Nat) (v : Core) : (s.setCore k v).selects = s.selects := rfl
@[simp] theorem State.setCore_stopped (k : Nat) (v : Core) : (s.setCore k v).stopped = s.stopped := rfl
@[simp] theorem State.setCore_haltWarp (k : Nat) (v : Core) : (s.setCore k v).haltWarp = s.haltWarp := rfl
@[simp] theorem State.setCore_halted (k : Nat) (v : Core) : (s.setCore k v).halted = s.halted := rfl
@[simp] theorem State.setCore_powerOff (k : Nat) (v : Core) : (s.setCore k v).powerOff = s.powerOff := rfl
@[simp] theorem State.setCore_mailbox (k : Nat) (v : Core) : (s.setCore k v).mailbox = s.mailbox := rfl
@[simp] theorem State.setCore_servo (k : Nat) (v : Core) : (s.setCore k v).servo = s.servo := rfl
@[simp] theorem State.setCore_power (k : Nat) (v : Core) : (s.setCore k v).power = s.power := rfl
@[simp] theorem State.setCore_locks (k : Nat) (v : Core) : (s.setCore k v).locks = s.locks := rfl
@[simp] theorem State.setCore_lockQueue (k : Nat) (v : Core) : (s.setCore k v).lockQueue = s.lockQueue := rfl
@[simp] theorem State.setCore_dacsel (k : Nat) (v : Core) : (s.setCore k v).dacsel = s.dacsel := rfl
@[simp] theorem State.setCore_dacadr (k : Nat) (v : Core) : (s.setCore k v).dacadr = s.dacadr := rfl
@[simp] theorem State.setCore_heldLinks (k : Nat) (v : Core) : (s.setCore k v).heldLinks = s.heldLinks := rfl
@[simp] theorem State.setCore_heldMsgs (k : Nat) (v : Core) : (s.setCore k v).heldMsgs = s.heldMsgs := rfl
@[simp] theorem State.setCore_ports (k : Nat) (v : Core) : (s.setCore k v).ports = s.ports := rfl
@[simp] theorem State.setCore_fabricOut (k : Nat) (v : Core) : (s.setCore k v).fabricOut = s.fabricOut := rfl

@[simp] theorem State.setBlock_blocks (k : Nat) (v : Block) : (s.setBlock k v).blocks = tput s.blocks k v := rfl
@[simp] theorem State.setBlock_turn (k : Nat) (v : Block) : (s.setBlock k v).turn = s.turn := rfl
@[simp] theorem State.setBlock_now (k : Nat) (v : Block) : (s.setBlock k v).now = s.now := rfl
@[simp] theorem State.setBlock_cur (k : Nat) (v : Block) : (s.setBlock k v).cur = s.cur := rfl
@[simp] theorem State.setBlock_steps (k : Nat) (v : Block) : (s.setBlock k v).steps = s.steps := rfl
@[simp] theorem State.setBlock_freeNo (k : Nat) (v : Block) : (s.setBlock k v).freeNo = s.freeNo := rfl
@[simp] theorem State.setBlock_agenda (k : Nat) (v : Block) : (s.setBlock k v).agenda = s.agenda := rfl
@[simp] theorem State.setBlock_clk (k : Nat) (v : Block) : (s.setBlock k v).clk = s.clk := rfl
@[simp] theorem State.setBlock_tick (k : Nat) (v : Block) : (s.setBlock k v).tick = s.tick := rfl
@[simp] theorem State.setBlock_store (k : Nat) (v : Block) : (s.setBlock k v).store = s.store := rfl
@[simp] theorem State.setBlock_empty (k : Nat) (v : Block) : (s.setBlock k v).empty = s.empty := rfl
@[simp] theorem State.setBlock_poison (k : Nat) (v : Block) : (s.setBlock k v).poison = s.poison := rfl
@[simp] theorem State.setBlock_mem (k : Nat) (v : Block) : (s.setBlock k v).mem = s.mem := rfl
@[simp] theorem State.setBlock_memPoison (k : Nat) (v : Block) : (s.setBlock k v).memPoison = s.memPoison := rfl
@[simp] theorem State.setBlock_near (k : Nat) (v : Block) : (s.setBlock k v).near = s.near := rfl
@[simp] theorem State.setBlock_acqs (k : Nat) (v : Block) : (s.setBlock k v).acqs = s.acqs := rfl
@[simp] theorem State.setBlock_engines (k : Nat) (v : Block) : (s.setBlock k v).engines = s.engines := rfl
@[simp] theorem State.setBlock_registry (k : Nat) (v : Block) : (s.setBlock k v).registry = s.registry := rfl
@[simp] theorem State.setBlock_lostLog (k : Nat) (v : Block) : (s.setBlock k v).lostLog = s.lostLog := rfl
@[simp] theorem State.setBlock_timers (k : Nat) (v : Block) : (s.setBlock k v).timers = s.timers := rfl
@[simp] theorem State.setBlock_sleepers (k : Nat) (v : Block) : (s.setBlock k v).sleepers = s.sleepers := rfl
@[simp] theorem State.setBlock_fenced (k : Nat) (v : Block) : (s.setBlock k v).fenced = s.fenced := rfl
@[simp] theorem State.setBlock_warps (k : Nat) (v : Block) : (s.setBlock k v).warps = s.warps := rfl
@[simp] theorem State.setBlock_launches (k : Nat) (v : Block) : (s.setBlock k v).launches = s.launches := rfl
@[simp] theorem State.setBlock_queues (k : Nat) (v : Block) : (s.setBlock k v).queues = s.queues := rfl
@[simp] theorem State.setBlock_nextQueue (k : Nat) (v : Block) : (s.setBlock k v).nextQueue = s.nextQueue := rfl
@[simp] theorem State.setBlock_takes (k : Nat) (v : Block) : (s.setBlock k v).takes = s.takes := rfl
@[simp] theorem State.setBlock_placed (k : Nat) (v : Block) : (s.setBlock k v).placed = s.placed := rfl
@[simp] theorem State.setBlock_cores (k : Nat) (v : Block) : (s.setBlock k v).cores = s.cores := rfl
@[simp] theorem State.setBlock_clusters (k : Nat) (v : Block) : (s.setBlock k v).clusters = s.clusters := rfl
@[simp] theorem State.setBlock_ring (k : Nat) (v : Block) : (s.setBlock k v).ring = s.ring := rfl
@[simp] theorem State.setBlock_bindings (k : Nat) (v : Block) : (s.setBlock k v).bindings = s.bindings := rfl
@[simp] theorem State.setBlock_counters (k : Nat) (v : Block) : (s.setBlock k v).counters = s.counters := rfl
@[simp] theorem State.setBlock_txns (k : Nat) (v : Block) : (s.setBlock k v).txns = s.txns := rfl
@[simp] theorem State.setBlock_samples (k : Nat) (v : Block) : (s.setBlock k v).samples = s.samples := rfl
@[simp] theorem State.setBlock_prods (k : Nat) (v : Block) : (s.setBlock k v).prods = s.prods := rfl
@[simp] theorem State.setBlock_copies (k : Nat) (v : Block) : (s.setBlock k v).copies = s.copies := rfl
@[simp] theorem State.setBlock_colls (k : Nat) (v : Block) : (s.setBlock k v).colls = s.colls := rfl
@[simp] theorem State.setBlock_collSeq (k : Nat) (v : Block) : (s.setBlock k v).collSeq = s.collSeq := rfl
@[simp] theorem State.setBlock_rays (k : Nat) (v : Block) : (s.setBlock k v).rays = s.rays := rfl
@[simp] theorem State.setBlock_sounding (k : Nat) (v : Block) : (s.setBlock k v).sounding = s.sounding := rfl
@[simp] theorem State.setBlock_ways (k : Nat) (v : Block) : (s.setBlock k v).ways = s.ways := rfl
@[simp] theorem State.setBlock_predict (k : Nat) (v : Block) : (s.setBlock k v).predict = s.predict := rfl
@[simp] theorem State.setBlock_lastWay (k : Nat) (v : Block) : (s.setBlock k v).lastWay = s.lastWay := rfl
@[simp] theorem State.setBlock_fresh (k : Nat) (v : Block) : (s.setBlock k v).fresh = s.fresh := rfl
@[simp] theorem State.setBlock_caches (k : Nat) (v : Block) : (s.setBlock k v).caches = s.caches := rfl
@[simp] theorem State.setBlock_pins (k : Nat) (v : Block) : (s.setBlock k v).pins = s.pins := rfl
@[simp] theorem State.setBlock_hostBias (k : Nat) (v : Block) : (s.setBlock k v).hostBias = s.hostBias := rfl
@[simp] theorem State.setBlock_flip (k : Nat) (v : Block) : (s.setBlock k v).flip = s.flip := rfl
@[simp] theorem State.setBlock_lows (k : Nat) (v : Block) : (s.setBlock k v).lows = s.lows := rfl
@[simp] theorem State.setBlock_xlSince (k : Nat) (v : Block) : (s.setBlock k v).xlSince = s.xlSince := rfl
@[simp] theorem State.setBlock_xlWords (k : Nat) (v : Block) : (s.setBlock k v).xlWords = s.xlWords := rfl
@[simp] theorem State.setBlock_sysregs (k : Nat) (v : Block) : (s.setBlock k v).sysregs = s.sysregs := rfl
@[simp] theorem State.setBlock_selects (k : Nat) (v : Block) : (s.setBlock k v).selects = s.selects := rfl
@[simp] theorem State.setBlock_stopped (k : Nat) (v : Block) : (s.setBlock k v).stopped = s.stopped := rfl
@[simp] theorem State.setBlock_haltWarp (k : Nat) (v : Block) : (s.setBlock k v).haltWarp = s.haltWarp := rfl
@[simp] theorem State.setBlock_halted (k : Nat) (v : Block) : (s.setBlock k v).halted = s.halted := rfl
@[simp] theorem State.setBlock_powerOff (k : Nat) (v : Block) : (s.setBlock k v).powerOff = s.powerOff := rfl
@[simp] theorem State.setBlock_mailbox (k : Nat) (v : Block) : (s.setBlock k v).mailbox = s.mailbox := rfl
@[simp] theorem State.setBlock_servo (k : Nat) (v : Block) : (s.setBlock k v).servo = s.servo := rfl
@[simp] theorem State.setBlock_power (k : Nat) (v : Block) : (s.setBlock k v).power = s.power := rfl
@[simp] theorem State.setBlock_locks (k : Nat) (v : Block) : (s.setBlock k v).locks = s.locks := rfl
@[simp] theorem State.setBlock_lockQueue (k : Nat) (v : Block) : (s.setBlock k v).lockQueue = s.lockQueue := rfl
@[simp] theorem State.setBlock_dacsel (k : Nat) (v : Block) : (s.setBlock k v).dacsel = s.dacsel := rfl
@[simp] theorem State.setBlock_dacadr (k : Nat) (v : Block) : (s.setBlock k v).dacadr = s.dacadr := rfl
@[simp] theorem State.setBlock_heldLinks (k : Nat) (v : Block) : (s.setBlock k v).heldLinks = s.heldLinks := rfl
@[simp] theorem State.setBlock_heldMsgs (k : Nat) (v : Block) : (s.setBlock k v).heldMsgs = s.heldMsgs := rfl
@[simp] theorem State.setBlock_ports (k : Nat) (v : Block) : (s.setBlock k v).ports = s.ports := rfl
@[simp] theorem State.setBlock_fabricOut (k : Nat) (v : Block) : (s.setBlock k v).fabricOut = s.fabricOut := rfl

@[simp] theorem State.setLaunch_launches (k : Nat) (v : Launch) : (s.setLaunch k v).launches = tput s.launches k v := rfl
@[simp] theorem State.setLaunch_turn (k : Nat) (v : Launch) : (s.setLaunch k v).turn = s.turn := rfl
@[simp] theorem State.setLaunch_now (k : Nat) (v : Launch) : (s.setLaunch k v).now = s.now := rfl
@[simp] theorem State.setLaunch_cur (k : Nat) (v : Launch) : (s.setLaunch k v).cur = s.cur := rfl
@[simp] theorem State.setLaunch_steps (k : Nat) (v : Launch) : (s.setLaunch k v).steps = s.steps := rfl
@[simp] theorem State.setLaunch_freeNo (k : Nat) (v : Launch) : (s.setLaunch k v).freeNo = s.freeNo := rfl
@[simp] theorem State.setLaunch_agenda (k : Nat) (v : Launch) : (s.setLaunch k v).agenda = s.agenda := rfl
@[simp] theorem State.setLaunch_clk (k : Nat) (v : Launch) : (s.setLaunch k v).clk = s.clk := rfl
@[simp] theorem State.setLaunch_tick (k : Nat) (v : Launch) : (s.setLaunch k v).tick = s.tick := rfl
@[simp] theorem State.setLaunch_store (k : Nat) (v : Launch) : (s.setLaunch k v).store = s.store := rfl
@[simp] theorem State.setLaunch_empty (k : Nat) (v : Launch) : (s.setLaunch k v).empty = s.empty := rfl
@[simp] theorem State.setLaunch_poison (k : Nat) (v : Launch) : (s.setLaunch k v).poison = s.poison := rfl
@[simp] theorem State.setLaunch_mem (k : Nat) (v : Launch) : (s.setLaunch k v).mem = s.mem := rfl
@[simp] theorem State.setLaunch_memPoison (k : Nat) (v : Launch) : (s.setLaunch k v).memPoison = s.memPoison := rfl
@[simp] theorem State.setLaunch_near (k : Nat) (v : Launch) : (s.setLaunch k v).near = s.near := rfl
@[simp] theorem State.setLaunch_acqs (k : Nat) (v : Launch) : (s.setLaunch k v).acqs = s.acqs := rfl
@[simp] theorem State.setLaunch_engines (k : Nat) (v : Launch) : (s.setLaunch k v).engines = s.engines := rfl
@[simp] theorem State.setLaunch_registry (k : Nat) (v : Launch) : (s.setLaunch k v).registry = s.registry := rfl
@[simp] theorem State.setLaunch_lostLog (k : Nat) (v : Launch) : (s.setLaunch k v).lostLog = s.lostLog := rfl
@[simp] theorem State.setLaunch_timers (k : Nat) (v : Launch) : (s.setLaunch k v).timers = s.timers := rfl
@[simp] theorem State.setLaunch_sleepers (k : Nat) (v : Launch) : (s.setLaunch k v).sleepers = s.sleepers := rfl
@[simp] theorem State.setLaunch_fenced (k : Nat) (v : Launch) : (s.setLaunch k v).fenced = s.fenced := rfl
@[simp] theorem State.setLaunch_warps (k : Nat) (v : Launch) : (s.setLaunch k v).warps = s.warps := rfl
@[simp] theorem State.setLaunch_blocks (k : Nat) (v : Launch) : (s.setLaunch k v).blocks = s.blocks := rfl
@[simp] theorem State.setLaunch_queues (k : Nat) (v : Launch) : (s.setLaunch k v).queues = s.queues := rfl
@[simp] theorem State.setLaunch_nextQueue (k : Nat) (v : Launch) : (s.setLaunch k v).nextQueue = s.nextQueue := rfl
@[simp] theorem State.setLaunch_takes (k : Nat) (v : Launch) : (s.setLaunch k v).takes = s.takes := rfl
@[simp] theorem State.setLaunch_placed (k : Nat) (v : Launch) : (s.setLaunch k v).placed = s.placed := rfl
@[simp] theorem State.setLaunch_cores (k : Nat) (v : Launch) : (s.setLaunch k v).cores = s.cores := rfl
@[simp] theorem State.setLaunch_clusters (k : Nat) (v : Launch) : (s.setLaunch k v).clusters = s.clusters := rfl
@[simp] theorem State.setLaunch_ring (k : Nat) (v : Launch) : (s.setLaunch k v).ring = s.ring := rfl
@[simp] theorem State.setLaunch_bindings (k : Nat) (v : Launch) : (s.setLaunch k v).bindings = s.bindings := rfl
@[simp] theorem State.setLaunch_counters (k : Nat) (v : Launch) : (s.setLaunch k v).counters = s.counters := rfl
@[simp] theorem State.setLaunch_txns (k : Nat) (v : Launch) : (s.setLaunch k v).txns = s.txns := rfl
@[simp] theorem State.setLaunch_samples (k : Nat) (v : Launch) : (s.setLaunch k v).samples = s.samples := rfl
@[simp] theorem State.setLaunch_prods (k : Nat) (v : Launch) : (s.setLaunch k v).prods = s.prods := rfl
@[simp] theorem State.setLaunch_copies (k : Nat) (v : Launch) : (s.setLaunch k v).copies = s.copies := rfl
@[simp] theorem State.setLaunch_colls (k : Nat) (v : Launch) : (s.setLaunch k v).colls = s.colls := rfl
@[simp] theorem State.setLaunch_collSeq (k : Nat) (v : Launch) : (s.setLaunch k v).collSeq = s.collSeq := rfl
@[simp] theorem State.setLaunch_rays (k : Nat) (v : Launch) : (s.setLaunch k v).rays = s.rays := rfl
@[simp] theorem State.setLaunch_sounding (k : Nat) (v : Launch) : (s.setLaunch k v).sounding = s.sounding := rfl
@[simp] theorem State.setLaunch_ways (k : Nat) (v : Launch) : (s.setLaunch k v).ways = s.ways := rfl
@[simp] theorem State.setLaunch_predict (k : Nat) (v : Launch) : (s.setLaunch k v).predict = s.predict := rfl
@[simp] theorem State.setLaunch_lastWay (k : Nat) (v : Launch) : (s.setLaunch k v).lastWay = s.lastWay := rfl
@[simp] theorem State.setLaunch_fresh (k : Nat) (v : Launch) : (s.setLaunch k v).fresh = s.fresh := rfl
@[simp] theorem State.setLaunch_caches (k : Nat) (v : Launch) : (s.setLaunch k v).caches = s.caches := rfl
@[simp] theorem State.setLaunch_pins (k : Nat) (v : Launch) : (s.setLaunch k v).pins = s.pins := rfl
@[simp] theorem State.setLaunch_hostBias (k : Nat) (v : Launch) : (s.setLaunch k v).hostBias = s.hostBias := rfl
@[simp] theorem State.setLaunch_flip (k : Nat) (v : Launch) : (s.setLaunch k v).flip = s.flip := rfl
@[simp] theorem State.setLaunch_lows (k : Nat) (v : Launch) : (s.setLaunch k v).lows = s.lows := rfl
@[simp] theorem State.setLaunch_xlSince (k : Nat) (v : Launch) : (s.setLaunch k v).xlSince = s.xlSince := rfl
@[simp] theorem State.setLaunch_xlWords (k : Nat) (v : Launch) : (s.setLaunch k v).xlWords = s.xlWords := rfl
@[simp] theorem State.setLaunch_sysregs (k : Nat) (v : Launch) : (s.setLaunch k v).sysregs = s.sysregs := rfl
@[simp] theorem State.setLaunch_selects (k : Nat) (v : Launch) : (s.setLaunch k v).selects = s.selects := rfl
@[simp] theorem State.setLaunch_stopped (k : Nat) (v : Launch) : (s.setLaunch k v).stopped = s.stopped := rfl
@[simp] theorem State.setLaunch_haltWarp (k : Nat) (v : Launch) : (s.setLaunch k v).haltWarp = s.haltWarp := rfl
@[simp] theorem State.setLaunch_halted (k : Nat) (v : Launch) : (s.setLaunch k v).halted = s.halted := rfl
@[simp] theorem State.setLaunch_powerOff (k : Nat) (v : Launch) : (s.setLaunch k v).powerOff = s.powerOff := rfl
@[simp] theorem State.setLaunch_mailbox (k : Nat) (v : Launch) : (s.setLaunch k v).mailbox = s.mailbox := rfl
@[simp] theorem State.setLaunch_servo (k : Nat) (v : Launch) : (s.setLaunch k v).servo = s.servo := rfl
@[simp] theorem State.setLaunch_power (k : Nat) (v : Launch) : (s.setLaunch k v).power = s.power := rfl
@[simp] theorem State.setLaunch_locks (k : Nat) (v : Launch) : (s.setLaunch k v).locks = s.locks := rfl
@[simp] theorem State.setLaunch_lockQueue (k : Nat) (v : Launch) : (s.setLaunch k v).lockQueue = s.lockQueue := rfl
@[simp] theorem State.setLaunch_dacsel (k : Nat) (v : Launch) : (s.setLaunch k v).dacsel = s.dacsel := rfl
@[simp] theorem State.setLaunch_dacadr (k : Nat) (v : Launch) : (s.setLaunch k v).dacadr = s.dacadr := rfl
@[simp] theorem State.setLaunch_heldLinks (k : Nat) (v : Launch) : (s.setLaunch k v).heldLinks = s.heldLinks := rfl
@[simp] theorem State.setLaunch_heldMsgs (k : Nat) (v : Launch) : (s.setLaunch k v).heldMsgs = s.heldMsgs := rfl
@[simp] theorem State.setLaunch_ports (k : Nat) (v : Launch) : (s.setLaunch k v).ports = s.ports := rfl
@[simp] theorem State.setLaunch_fabricOut (k : Nat) (v : Launch) : (s.setLaunch k v).fabricOut = s.fabricOut := rfl

@[simp] theorem State.setCluster_clusters (k : Nat) (v : Cluster) : (s.setCluster k v).clusters = tput s.clusters k v := rfl
@[simp] theorem State.setCluster_ring (k : Nat) (v : Cluster) : (s.setCluster k v).ring = s.ring := rfl
@[simp] theorem State.setCluster_turn (k : Nat) (v : Cluster) : (s.setCluster k v).turn = s.turn := rfl
@[simp] theorem State.setCluster_now (k : Nat) (v : Cluster) : (s.setCluster k v).now = s.now := rfl
@[simp] theorem State.setCluster_cur (k : Nat) (v : Cluster) : (s.setCluster k v).cur = s.cur := rfl
@[simp] theorem State.setCluster_steps (k : Nat) (v : Cluster) : (s.setCluster k v).steps = s.steps := rfl
@[simp] theorem State.setCluster_freeNo (k : Nat) (v : Cluster) : (s.setCluster k v).freeNo = s.freeNo := rfl
@[simp] theorem State.setCluster_agenda (k : Nat) (v : Cluster) : (s.setCluster k v).agenda = s.agenda := rfl
@[simp] theorem State.setCluster_clk (k : Nat) (v : Cluster) : (s.setCluster k v).clk = s.clk := rfl
@[simp] theorem State.setCluster_tick (k : Nat) (v : Cluster) : (s.setCluster k v).tick = s.tick := rfl
@[simp] theorem State.setCluster_store (k : Nat) (v : Cluster) : (s.setCluster k v).store = s.store := rfl
@[simp] theorem State.setCluster_empty (k : Nat) (v : Cluster) : (s.setCluster k v).empty = s.empty := rfl
@[simp] theorem State.setCluster_poison (k : Nat) (v : Cluster) : (s.setCluster k v).poison = s.poison := rfl
@[simp] theorem State.setCluster_mem (k : Nat) (v : Cluster) : (s.setCluster k v).mem = s.mem := rfl
@[simp] theorem State.setCluster_memPoison (k : Nat) (v : Cluster) : (s.setCluster k v).memPoison = s.memPoison := rfl
@[simp] theorem State.setCluster_near (k : Nat) (v : Cluster) : (s.setCluster k v).near = s.near := rfl
@[simp] theorem State.setCluster_acqs (k : Nat) (v : Cluster) : (s.setCluster k v).acqs = s.acqs := rfl
@[simp] theorem State.setCluster_engines (k : Nat) (v : Cluster) : (s.setCluster k v).engines = s.engines := rfl
@[simp] theorem State.setCluster_registry (k : Nat) (v : Cluster) : (s.setCluster k v).registry = s.registry := rfl
@[simp] theorem State.setCluster_lostLog (k : Nat) (v : Cluster) : (s.setCluster k v).lostLog = s.lostLog := rfl
@[simp] theorem State.setCluster_timers (k : Nat) (v : Cluster) : (s.setCluster k v).timers = s.timers := rfl
@[simp] theorem State.setCluster_sleepers (k : Nat) (v : Cluster) : (s.setCluster k v).sleepers = s.sleepers := rfl
@[simp] theorem State.setCluster_fenced (k : Nat) (v : Cluster) : (s.setCluster k v).fenced = s.fenced := rfl
@[simp] theorem State.setCluster_warps (k : Nat) (v : Cluster) : (s.setCluster k v).warps = s.warps := rfl
@[simp] theorem State.setCluster_blocks (k : Nat) (v : Cluster) : (s.setCluster k v).blocks = s.blocks := rfl
@[simp] theorem State.setCluster_launches (k : Nat) (v : Cluster) : (s.setCluster k v).launches = s.launches := rfl
@[simp] theorem State.setCluster_queues (k : Nat) (v : Cluster) : (s.setCluster k v).queues = s.queues := rfl
@[simp] theorem State.setCluster_nextQueue (k : Nat) (v : Cluster) : (s.setCluster k v).nextQueue = s.nextQueue := rfl
@[simp] theorem State.setCluster_takes (k : Nat) (v : Cluster) : (s.setCluster k v).takes = s.takes := rfl
@[simp] theorem State.setCluster_placed (k : Nat) (v : Cluster) : (s.setCluster k v).placed = s.placed := rfl
@[simp] theorem State.setCluster_cores (k : Nat) (v : Cluster) : (s.setCluster k v).cores = s.cores := rfl
@[simp] theorem State.setCluster_bindings (k : Nat) (v : Cluster) : (s.setCluster k v).bindings = s.bindings := rfl
@[simp] theorem State.setCluster_counters (k : Nat) (v : Cluster) : (s.setCluster k v).counters = s.counters := rfl
@[simp] theorem State.setCluster_txns (k : Nat) (v : Cluster) : (s.setCluster k v).txns = s.txns := rfl
@[simp] theorem State.setCluster_samples (k : Nat) (v : Cluster) : (s.setCluster k v).samples = s.samples := rfl
@[simp] theorem State.setCluster_prods (k : Nat) (v : Cluster) : (s.setCluster k v).prods = s.prods := rfl
@[simp] theorem State.setCluster_copies (k : Nat) (v : Cluster) : (s.setCluster k v).copies = s.copies := rfl
@[simp] theorem State.setCluster_colls (k : Nat) (v : Cluster) : (s.setCluster k v).colls = s.colls := rfl
@[simp] theorem State.setCluster_collSeq (k : Nat) (v : Cluster) : (s.setCluster k v).collSeq = s.collSeq := rfl
@[simp] theorem State.setCluster_rays (k : Nat) (v : Cluster) : (s.setCluster k v).rays = s.rays := rfl
@[simp] theorem State.setCluster_sounding (k : Nat) (v : Cluster) : (s.setCluster k v).sounding = s.sounding := rfl
@[simp] theorem State.setCluster_ways (k : Nat) (v : Cluster) : (s.setCluster k v).ways = s.ways := rfl
@[simp] theorem State.setCluster_predict (k : Nat) (v : Cluster) : (s.setCluster k v).predict = s.predict := rfl
@[simp] theorem State.setCluster_lastWay (k : Nat) (v : Cluster) : (s.setCluster k v).lastWay = s.lastWay := rfl
@[simp] theorem State.setCluster_fresh (k : Nat) (v : Cluster) : (s.setCluster k v).fresh = s.fresh := rfl
@[simp] theorem State.setCluster_caches (k : Nat) (v : Cluster) : (s.setCluster k v).caches = s.caches := rfl
@[simp] theorem State.setCluster_pins (k : Nat) (v : Cluster) : (s.setCluster k v).pins = s.pins := rfl
@[simp] theorem State.setCluster_hostBias (k : Nat) (v : Cluster) : (s.setCluster k v).hostBias = s.hostBias := rfl
@[simp] theorem State.setCluster_flip (k : Nat) (v : Cluster) : (s.setCluster k v).flip = s.flip := rfl
@[simp] theorem State.setCluster_lows (k : Nat) (v : Cluster) : (s.setCluster k v).lows = s.lows := rfl
@[simp] theorem State.setCluster_xlSince (k : Nat) (v : Cluster) : (s.setCluster k v).xlSince = s.xlSince := rfl
@[simp] theorem State.setCluster_xlWords (k : Nat) (v : Cluster) : (s.setCluster k v).xlWords = s.xlWords := rfl
@[simp] theorem State.setCluster_sysregs (k : Nat) (v : Cluster) : (s.setCluster k v).sysregs = s.sysregs := rfl
@[simp] theorem State.setCluster_selects (k : Nat) (v : Cluster) : (s.setCluster k v).selects = s.selects := rfl
@[simp] theorem State.setCluster_stopped (k : Nat) (v : Cluster) : (s.setCluster k v).stopped = s.stopped := rfl
@[simp] theorem State.setCluster_haltWarp (k : Nat) (v : Cluster) : (s.setCluster k v).haltWarp = s.haltWarp := rfl
@[simp] theorem State.setCluster_halted (k : Nat) (v : Cluster) : (s.setCluster k v).halted = s.halted := rfl
@[simp] theorem State.setCluster_powerOff (k : Nat) (v : Cluster) : (s.setCluster k v).powerOff = s.powerOff := rfl
@[simp] theorem State.setCluster_mailbox (k : Nat) (v : Cluster) : (s.setCluster k v).mailbox = s.mailbox := rfl
@[simp] theorem State.setCluster_servo (k : Nat) (v : Cluster) : (s.setCluster k v).servo = s.servo := rfl
@[simp] theorem State.setCluster_power (k : Nat) (v : Cluster) : (s.setCluster k v).power = s.power := rfl
@[simp] theorem State.setCluster_locks (k : Nat) (v : Cluster) : (s.setCluster k v).locks = s.locks := rfl
@[simp] theorem State.setCluster_lockQueue (k : Nat) (v : Cluster) : (s.setCluster k v).lockQueue = s.lockQueue := rfl
@[simp] theorem State.setCluster_dacsel (k : Nat) (v : Cluster) : (s.setCluster k v).dacsel = s.dacsel := rfl
@[simp] theorem State.setCluster_dacadr (k : Nat) (v : Cluster) : (s.setCluster k v).dacadr = s.dacadr := rfl
@[simp] theorem State.setCluster_heldLinks (k : Nat) (v : Cluster) : (s.setCluster k v).heldLinks = s.heldLinks := rfl
@[simp] theorem State.setCluster_heldMsgs (k : Nat) (v : Cluster) : (s.setCluster k v).heldMsgs = s.heldMsgs := rfl
@[simp] theorem State.setCluster_ports (k : Nat) (v : Cluster) : (s.setCluster k v).ports = s.ports := rfl
@[simp] theorem State.setCluster_fabricOut (k : Nat) (v : Cluster) : (s.setCluster k v).fabricOut = s.fabricOut := rfl

@[simp] theorem State.setSysreg_sysregs (n : Nat) (v : DWord) : (s.setSysreg n v).sysregs = tput s.sysregs n v := rfl
@[simp] theorem State.setSysreg_turn (n : Nat) (v : DWord) : (s.setSysreg n v).turn = s.turn := rfl
@[simp] theorem State.setSysreg_now (n : Nat) (v : DWord) : (s.setSysreg n v).now = s.now := rfl
@[simp] theorem State.setSysreg_cur (n : Nat) (v : DWord) : (s.setSysreg n v).cur = s.cur := rfl
@[simp] theorem State.setSysreg_steps (n : Nat) (v : DWord) : (s.setSysreg n v).steps = s.steps := rfl
@[simp] theorem State.setSysreg_freeNo (n : Nat) (v : DWord) : (s.setSysreg n v).freeNo = s.freeNo := rfl
@[simp] theorem State.setSysreg_agenda (n : Nat) (v : DWord) : (s.setSysreg n v).agenda = s.agenda := rfl
@[simp] theorem State.setSysreg_clk (n : Nat) (v : DWord) : (s.setSysreg n v).clk = s.clk := rfl
@[simp] theorem State.setSysreg_tick (n : Nat) (v : DWord) : (s.setSysreg n v).tick = s.tick := rfl
@[simp] theorem State.setSysreg_store (n : Nat) (v : DWord) : (s.setSysreg n v).store = s.store := rfl
@[simp] theorem State.setSysreg_empty (n : Nat) (v : DWord) : (s.setSysreg n v).empty = s.empty := rfl
@[simp] theorem State.setSysreg_poison (n : Nat) (v : DWord) : (s.setSysreg n v).poison = s.poison := rfl
@[simp] theorem State.setSysreg_mem (n : Nat) (v : DWord) : (s.setSysreg n v).mem = s.mem := rfl
@[simp] theorem State.setSysreg_memPoison (n : Nat) (v : DWord) : (s.setSysreg n v).memPoison = s.memPoison := rfl
@[simp] theorem State.setSysreg_near (n : Nat) (v : DWord) : (s.setSysreg n v).near = s.near := rfl
@[simp] theorem State.setSysreg_acqs (n : Nat) (v : DWord) : (s.setSysreg n v).acqs = s.acqs := rfl
@[simp] theorem State.setSysreg_engines (n : Nat) (v : DWord) : (s.setSysreg n v).engines = s.engines := rfl
@[simp] theorem State.setSysreg_registry (n : Nat) (v : DWord) : (s.setSysreg n v).registry = s.registry := rfl
@[simp] theorem State.setSysreg_lostLog (n : Nat) (v : DWord) : (s.setSysreg n v).lostLog = s.lostLog := rfl
@[simp] theorem State.setSysreg_timers (n : Nat) (v : DWord) : (s.setSysreg n v).timers = s.timers := rfl
@[simp] theorem State.setSysreg_sleepers (n : Nat) (v : DWord) : (s.setSysreg n v).sleepers = s.sleepers := rfl
@[simp] theorem State.setSysreg_fenced (n : Nat) (v : DWord) : (s.setSysreg n v).fenced = s.fenced := rfl
@[simp] theorem State.setSysreg_warps (n : Nat) (v : DWord) : (s.setSysreg n v).warps = s.warps := rfl
@[simp] theorem State.setSysreg_blocks (n : Nat) (v : DWord) : (s.setSysreg n v).blocks = s.blocks := rfl
@[simp] theorem State.setSysreg_launches (n : Nat) (v : DWord) : (s.setSysreg n v).launches = s.launches := rfl
@[simp] theorem State.setSysreg_queues (n : Nat) (v : DWord) : (s.setSysreg n v).queues = s.queues := rfl
@[simp] theorem State.setSysreg_nextQueue (n : Nat) (v : DWord) : (s.setSysreg n v).nextQueue = s.nextQueue := rfl
@[simp] theorem State.setSysreg_takes (n : Nat) (v : DWord) : (s.setSysreg n v).takes = s.takes := rfl
@[simp] theorem State.setSysreg_placed (n : Nat) (v : DWord) : (s.setSysreg n v).placed = s.placed := rfl
@[simp] theorem State.setSysreg_cores (n : Nat) (v : DWord) : (s.setSysreg n v).cores = s.cores := rfl
@[simp] theorem State.setSysreg_clusters (n : Nat) (v : DWord) : (s.setSysreg n v).clusters = s.clusters := rfl
@[simp] theorem State.setSysreg_ring (n : Nat) (v : DWord) : (s.setSysreg n v).ring = s.ring := rfl
@[simp] theorem State.setSysreg_bindings (n : Nat) (v : DWord) : (s.setSysreg n v).bindings = s.bindings := rfl
@[simp] theorem State.setSysreg_counters (n : Nat) (v : DWord) : (s.setSysreg n v).counters = s.counters := rfl
@[simp] theorem State.setSysreg_txns (n : Nat) (v : DWord) : (s.setSysreg n v).txns = s.txns := rfl
@[simp] theorem State.setSysreg_samples (n : Nat) (v : DWord) : (s.setSysreg n v).samples = s.samples := rfl
@[simp] theorem State.setSysreg_prods (n : Nat) (v : DWord) : (s.setSysreg n v).prods = s.prods := rfl
@[simp] theorem State.setSysreg_copies (n : Nat) (v : DWord) : (s.setSysreg n v).copies = s.copies := rfl
@[simp] theorem State.setSysreg_colls (n : Nat) (v : DWord) : (s.setSysreg n v).colls = s.colls := rfl
@[simp] theorem State.setSysreg_collSeq (n : Nat) (v : DWord) : (s.setSysreg n v).collSeq = s.collSeq := rfl
@[simp] theorem State.setSysreg_rays (n : Nat) (v : DWord) : (s.setSysreg n v).rays = s.rays := rfl
@[simp] theorem State.setSysreg_sounding (n : Nat) (v : DWord) : (s.setSysreg n v).sounding = s.sounding := rfl
@[simp] theorem State.setSysreg_ways (n : Nat) (v : DWord) : (s.setSysreg n v).ways = s.ways := rfl
@[simp] theorem State.setSysreg_predict (n : Nat) (v : DWord) : (s.setSysreg n v).predict = s.predict := rfl
@[simp] theorem State.setSysreg_lastWay (n : Nat) (v : DWord) : (s.setSysreg n v).lastWay = s.lastWay := rfl
@[simp] theorem State.setSysreg_fresh (n : Nat) (v : DWord) : (s.setSysreg n v).fresh = s.fresh := rfl
@[simp] theorem State.setSysreg_caches (n : Nat) (v : DWord) : (s.setSysreg n v).caches = s.caches := rfl
@[simp] theorem State.setSysreg_pins (n : Nat) (v : DWord) : (s.setSysreg n v).pins = s.pins := rfl
@[simp] theorem State.setSysreg_hostBias (n : Nat) (v : DWord) : (s.setSysreg n v).hostBias = s.hostBias := rfl
@[simp] theorem State.setSysreg_flip (n : Nat) (v : DWord) : (s.setSysreg n v).flip = s.flip := rfl
@[simp] theorem State.setSysreg_lows (n : Nat) (v : DWord) : (s.setSysreg n v).lows = s.lows := rfl
@[simp] theorem State.setSysreg_xlSince (n : Nat) (v : DWord) : (s.setSysreg n v).xlSince = s.xlSince := rfl
@[simp] theorem State.setSysreg_xlWords (n : Nat) (v : DWord) : (s.setSysreg n v).xlWords = s.xlWords := rfl
@[simp] theorem State.setSysreg_selects (n : Nat) (v : DWord) : (s.setSysreg n v).selects = s.selects := rfl
@[simp] theorem State.setSysreg_stopped (n : Nat) (v : DWord) : (s.setSysreg n v).stopped = s.stopped := rfl
@[simp] theorem State.setSysreg_haltWarp (n : Nat) (v : DWord) : (s.setSysreg n v).haltWarp = s.haltWarp := rfl
@[simp] theorem State.setSysreg_halted (n : Nat) (v : DWord) : (s.setSysreg n v).halted = s.halted := rfl
@[simp] theorem State.setSysreg_powerOff (n : Nat) (v : DWord) : (s.setSysreg n v).powerOff = s.powerOff := rfl
@[simp] theorem State.setSysreg_mailbox (n : Nat) (v : DWord) : (s.setSysreg n v).mailbox = s.mailbox := rfl
@[simp] theorem State.setSysreg_servo (n : Nat) (v : DWord) : (s.setSysreg n v).servo = s.servo := rfl
@[simp] theorem State.setSysreg_power (n : Nat) (v : DWord) : (s.setSysreg n v).power = s.power := rfl
@[simp] theorem State.setSysreg_locks (n : Nat) (v : DWord) : (s.setSysreg n v).locks = s.locks := rfl
@[simp] theorem State.setSysreg_lockQueue (n : Nat) (v : DWord) : (s.setSysreg n v).lockQueue = s.lockQueue := rfl
@[simp] theorem State.setSysreg_dacsel (n : Nat) (v : DWord) : (s.setSysreg n v).dacsel = s.dacsel := rfl
@[simp] theorem State.setSysreg_dacadr (n : Nat) (v : DWord) : (s.setSysreg n v).dacadr = s.dacadr := rfl
@[simp] theorem State.setSysreg_heldLinks (n : Nat) (v : DWord) : (s.setSysreg n v).heldLinks = s.heldLinks := rfl
@[simp] theorem State.setSysreg_heldMsgs (n : Nat) (v : DWord) : (s.setSysreg n v).heldMsgs = s.heldMsgs := rfl
@[simp] theorem State.setSysreg_ports (n : Nat) (v : DWord) : (s.setSysreg n v).ports = s.ports := rfl
@[simp] theorem State.setSysreg_fabricOut (n : Nat) (v : DWord) : (s.setSysreg n v).fabricOut = s.fabricOut := rfl

@[simp] theorem State.send_agenda (e : Event) : (s.send e).agenda = s.agenda ++ [e] := rfl
@[simp] theorem State.send_turn (e : Event) : (s.send e).turn = s.turn := rfl
@[simp] theorem State.send_now (e : Event) : (s.send e).now = s.now := rfl
@[simp] theorem State.send_cur (e : Event) : (s.send e).cur = s.cur := rfl
@[simp] theorem State.send_steps (e : Event) : (s.send e).steps = s.steps := rfl
@[simp] theorem State.send_freeNo (e : Event) : (s.send e).freeNo = s.freeNo := rfl
@[simp] theorem State.send_clk (e : Event) : (s.send e).clk = s.clk := rfl
@[simp] theorem State.send_tick (e : Event) : (s.send e).tick = s.tick := rfl
@[simp] theorem State.send_store (e : Event) : (s.send e).store = s.store := rfl
@[simp] theorem State.send_empty (e : Event) : (s.send e).empty = s.empty := rfl
@[simp] theorem State.send_poison (e : Event) : (s.send e).poison = s.poison := rfl
@[simp] theorem State.send_mem (e : Event) : (s.send e).mem = s.mem := rfl
@[simp] theorem State.send_memPoison (e : Event) : (s.send e).memPoison = s.memPoison := rfl
@[simp] theorem State.send_near (e : Event) : (s.send e).near = s.near := rfl
@[simp] theorem State.send_acqs (e : Event) : (s.send e).acqs = s.acqs := rfl
@[simp] theorem State.send_engines (e : Event) : (s.send e).engines = s.engines := rfl
@[simp] theorem State.send_registry (e : Event) : (s.send e).registry = s.registry := rfl
@[simp] theorem State.send_lostLog (e : Event) : (s.send e).lostLog = s.lostLog := rfl
@[simp] theorem State.send_timers (e : Event) : (s.send e).timers = s.timers := rfl
@[simp] theorem State.send_sleepers (e : Event) : (s.send e).sleepers = s.sleepers := rfl
@[simp] theorem State.send_fenced (e : Event) : (s.send e).fenced = s.fenced := rfl
@[simp] theorem State.send_warps (e : Event) : (s.send e).warps = s.warps := rfl
@[simp] theorem State.send_blocks (e : Event) : (s.send e).blocks = s.blocks := rfl
@[simp] theorem State.send_launches (e : Event) : (s.send e).launches = s.launches := rfl
@[simp] theorem State.send_queues (e : Event) : (s.send e).queues = s.queues := rfl
@[simp] theorem State.send_nextQueue (e : Event) : (s.send e).nextQueue = s.nextQueue := rfl
@[simp] theorem State.send_takes (e : Event) : (s.send e).takes = s.takes := rfl
@[simp] theorem State.send_placed (e : Event) : (s.send e).placed = s.placed := rfl
@[simp] theorem State.send_cores (e : Event) : (s.send e).cores = s.cores := rfl
@[simp] theorem State.send_clusters (e : Event) : (s.send e).clusters = s.clusters := rfl
@[simp] theorem State.send_ring (e : Event) : (s.send e).ring = s.ring := rfl
@[simp] theorem State.send_bindings (e : Event) : (s.send e).bindings = s.bindings := rfl
@[simp] theorem State.send_counters (e : Event) : (s.send e).counters = s.counters := rfl
@[simp] theorem State.send_txns (e : Event) : (s.send e).txns = s.txns := rfl
@[simp] theorem State.send_samples (e : Event) : (s.send e).samples = s.samples := rfl
@[simp] theorem State.send_prods (e : Event) : (s.send e).prods = s.prods := rfl
@[simp] theorem State.send_copies (e : Event) : (s.send e).copies = s.copies := rfl
@[simp] theorem State.send_colls (e : Event) : (s.send e).colls = s.colls := rfl
@[simp] theorem State.send_collSeq (e : Event) : (s.send e).collSeq = s.collSeq := rfl
@[simp] theorem State.send_rays (e : Event) : (s.send e).rays = s.rays := rfl
@[simp] theorem State.send_sounding (e : Event) : (s.send e).sounding = s.sounding := rfl
@[simp] theorem State.send_ways (e : Event) : (s.send e).ways = s.ways := rfl
@[simp] theorem State.send_predict (e : Event) : (s.send e).predict = s.predict := rfl
@[simp] theorem State.send_lastWay (e : Event) : (s.send e).lastWay = s.lastWay := rfl
@[simp] theorem State.send_fresh (e : Event) : (s.send e).fresh = s.fresh := rfl
@[simp] theorem State.send_caches (e : Event) : (s.send e).caches = s.caches := rfl
@[simp] theorem State.send_pins (e : Event) : (s.send e).pins = s.pins := rfl
@[simp] theorem State.send_hostBias (e : Event) : (s.send e).hostBias = s.hostBias := rfl
@[simp] theorem State.send_flip (e : Event) : (s.send e).flip = s.flip := rfl
@[simp] theorem State.send_lows (e : Event) : (s.send e).lows = s.lows := rfl
@[simp] theorem State.send_xlSince (e : Event) : (s.send e).xlSince = s.xlSince := rfl
@[simp] theorem State.send_xlWords (e : Event) : (s.send e).xlWords = s.xlWords := rfl
@[simp] theorem State.send_sysregs (e : Event) : (s.send e).sysregs = s.sysregs := rfl
@[simp] theorem State.send_selects (e : Event) : (s.send e).selects = s.selects := rfl
@[simp] theorem State.send_stopped (e : Event) : (s.send e).stopped = s.stopped := rfl
@[simp] theorem State.send_haltWarp (e : Event) : (s.send e).haltWarp = s.haltWarp := rfl
@[simp] theorem State.send_halted (e : Event) : (s.send e).halted = s.halted := rfl
@[simp] theorem State.send_powerOff (e : Event) : (s.send e).powerOff = s.powerOff := rfl
@[simp] theorem State.send_mailbox (e : Event) : (s.send e).mailbox = s.mailbox := rfl
@[simp] theorem State.send_servo (e : Event) : (s.send e).servo = s.servo := rfl
@[simp] theorem State.send_power (e : Event) : (s.send e).power = s.power := rfl
@[simp] theorem State.send_locks (e : Event) : (s.send e).locks = s.locks := rfl
@[simp] theorem State.send_lockQueue (e : Event) : (s.send e).lockQueue = s.lockQueue := rfl
@[simp] theorem State.send_dacsel (e : Event) : (s.send e).dacsel = s.dacsel := rfl
@[simp] theorem State.send_dacadr (e : Event) : (s.send e).dacadr = s.dacadr := rfl
@[simp] theorem State.send_heldLinks (e : Event) : (s.send e).heldLinks = s.heldLinks := rfl
@[simp] theorem State.send_heldMsgs (e : Event) : (s.send e).heldMsgs = s.heldMsgs := rfl
@[simp] theorem State.send_ports (e : Event) : (s.send e).ports = s.ports := rfl
@[simp] theorem State.send_fabricOut (e : Event) : (s.send e).fabricOut = s.fabricOut := rfl

@[simp] theorem State.land_store (x : Landing) : (s.land x).store = tput s.store x.key x.value := rfl
@[simp] theorem State.land_empty (x : Landing) : (s.land x).empty = ndel s.empty x.key := rfl
@[simp] theorem State.land_poison (x : Landing) :
    (s.land x).poison = if x.poison then nput s.poison x.key else ndel s.poison x.key := rfl
@[simp] theorem State.land_turn (x : Landing) : (s.land x).turn = s.turn := rfl
@[simp] theorem State.land_now (x : Landing) : (s.land x).now = s.now := rfl
@[simp] theorem State.land_cur (x : Landing) : (s.land x).cur = s.cur := rfl
@[simp] theorem State.land_steps (x : Landing) : (s.land x).steps = s.steps := rfl
@[simp] theorem State.land_freeNo (x : Landing) : (s.land x).freeNo = s.freeNo := rfl
@[simp] theorem State.land_agenda (x : Landing) : (s.land x).agenda = s.agenda := rfl
@[simp] theorem State.land_clk (x : Landing) : (s.land x).clk = s.clk := rfl
@[simp] theorem State.land_tick (x : Landing) : (s.land x).tick = s.tick := rfl
@[simp] theorem State.land_mem (x : Landing) : (s.land x).mem = s.mem := rfl
@[simp] theorem State.land_memPoison (x : Landing) : (s.land x).memPoison = s.memPoison := rfl
@[simp] theorem State.land_near (x : Landing) : (s.land x).near = s.near := rfl
@[simp] theorem State.land_acqs (x : Landing) : (s.land x).acqs = s.acqs := rfl
@[simp] theorem State.land_engines (x : Landing) : (s.land x).engines = s.engines := rfl
@[simp] theorem State.land_registry (x : Landing) : (s.land x).registry = s.registry := rfl
@[simp] theorem State.land_lostLog (x : Landing) : (s.land x).lostLog = s.lostLog := rfl
@[simp] theorem State.land_timers (x : Landing) : (s.land x).timers = s.timers := rfl
@[simp] theorem State.land_sleepers (x : Landing) : (s.land x).sleepers = s.sleepers := rfl
@[simp] theorem State.land_fenced (x : Landing) : (s.land x).fenced = s.fenced := rfl
@[simp] theorem State.land_warps (x : Landing) : (s.land x).warps = s.warps := rfl
@[simp] theorem State.land_blocks (x : Landing) : (s.land x).blocks = s.blocks := rfl
@[simp] theorem State.land_launches (x : Landing) : (s.land x).launches = s.launches := rfl
@[simp] theorem State.land_queues (x : Landing) : (s.land x).queues = s.queues := rfl
@[simp] theorem State.land_nextQueue (x : Landing) : (s.land x).nextQueue = s.nextQueue := rfl
@[simp] theorem State.land_takes (x : Landing) : (s.land x).takes = s.takes := rfl
@[simp] theorem State.land_placed (x : Landing) : (s.land x).placed = s.placed := rfl
@[simp] theorem State.land_cores (x : Landing) : (s.land x).cores = s.cores := rfl
@[simp] theorem State.land_clusters (x : Landing) : (s.land x).clusters = s.clusters := rfl
@[simp] theorem State.land_ring (x : Landing) : (s.land x).ring = s.ring := rfl
@[simp] theorem State.land_bindings (x : Landing) : (s.land x).bindings = s.bindings := rfl
@[simp] theorem State.land_counters (x : Landing) : (s.land x).counters = s.counters := rfl
@[simp] theorem State.land_txns (x : Landing) : (s.land x).txns = s.txns := rfl
@[simp] theorem State.land_samples (x : Landing) : (s.land x).samples = s.samples := rfl
@[simp] theorem State.land_prods (x : Landing) : (s.land x).prods = s.prods := rfl
@[simp] theorem State.land_copies (x : Landing) : (s.land x).copies = s.copies := rfl
@[simp] theorem State.land_colls (x : Landing) : (s.land x).colls = s.colls := rfl
@[simp] theorem State.land_collSeq (x : Landing) : (s.land x).collSeq = s.collSeq := rfl
@[simp] theorem State.land_rays (x : Landing) : (s.land x).rays = s.rays := rfl
@[simp] theorem State.land_sounding (x : Landing) : (s.land x).sounding = s.sounding := rfl
@[simp] theorem State.land_ways (x : Landing) : (s.land x).ways = s.ways := rfl
@[simp] theorem State.land_predict (x : Landing) : (s.land x).predict = s.predict := rfl
@[simp] theorem State.land_lastWay (x : Landing) : (s.land x).lastWay = s.lastWay := rfl
@[simp] theorem State.land_fresh (x : Landing) : (s.land x).fresh = s.fresh := rfl
@[simp] theorem State.land_caches (x : Landing) : (s.land x).caches = s.caches := rfl
@[simp] theorem State.land_pins (x : Landing) : (s.land x).pins = s.pins := rfl
@[simp] theorem State.land_hostBias (x : Landing) : (s.land x).hostBias = s.hostBias := rfl
@[simp] theorem State.land_flip (x : Landing) : (s.land x).flip = s.flip := rfl
@[simp] theorem State.land_lows (x : Landing) : (s.land x).lows = s.lows := rfl
@[simp] theorem State.land_xlSince (x : Landing) : (s.land x).xlSince = s.xlSince := rfl
@[simp] theorem State.land_xlWords (x : Landing) : (s.land x).xlWords = s.xlWords := rfl
@[simp] theorem State.land_sysregs (x : Landing) : (s.land x).sysregs = s.sysregs := rfl
@[simp] theorem State.land_selects (x : Landing) : (s.land x).selects = s.selects := rfl
@[simp] theorem State.land_stopped (x : Landing) : (s.land x).stopped = s.stopped := rfl
@[simp] theorem State.land_haltWarp (x : Landing) : (s.land x).haltWarp = s.haltWarp := rfl
@[simp] theorem State.land_halted (x : Landing) : (s.land x).halted = s.halted := rfl
@[simp] theorem State.land_powerOff (x : Landing) : (s.land x).powerOff = s.powerOff := rfl
@[simp] theorem State.land_mailbox (x : Landing) : (s.land x).mailbox = s.mailbox := rfl
@[simp] theorem State.land_servo (x : Landing) : (s.land x).servo = s.servo := rfl
@[simp] theorem State.land_power (x : Landing) : (s.land x).power = s.power := rfl
@[simp] theorem State.land_locks (x : Landing) : (s.land x).locks = s.locks := rfl
@[simp] theorem State.land_lockQueue (x : Landing) : (s.land x).lockQueue = s.lockQueue := rfl
@[simp] theorem State.land_dacsel (x : Landing) : (s.land x).dacsel = s.dacsel := rfl
@[simp] theorem State.land_dacadr (x : Landing) : (s.land x).dacadr = s.dacadr := rfl
@[simp] theorem State.land_heldLinks (x : Landing) : (s.land x).heldLinks = s.heldLinks := rfl
@[simp] theorem State.land_heldMsgs (x : Landing) : (s.land x).heldMsgs = s.heldMsgs := rfl
@[simp] theorem State.land_ports (x : Landing) : (s.land x).ports = s.ports := rfl
@[simp] theorem State.land_fabricOut (x : Landing) : (s.land x).fabricOut = s.fabricOut := rfl

@[simp] theorem State.markEmpty_empty (ks : List Nat) : (s.markEmpty ks).empty = ks.foldl nput s.empty := rfl
@[simp] theorem State.markEmpty_turn (ks : List Nat) : (s.markEmpty ks).turn = s.turn := rfl
@[simp] theorem State.markEmpty_now (ks : List Nat) : (s.markEmpty ks).now = s.now := rfl
@[simp] theorem State.markEmpty_cur (ks : List Nat) : (s.markEmpty ks).cur = s.cur := rfl
@[simp] theorem State.markEmpty_steps (ks : List Nat) : (s.markEmpty ks).steps = s.steps := rfl
@[simp] theorem State.markEmpty_freeNo (ks : List Nat) : (s.markEmpty ks).freeNo = s.freeNo := rfl
@[simp] theorem State.markEmpty_agenda (ks : List Nat) : (s.markEmpty ks).agenda = s.agenda := rfl
@[simp] theorem State.markEmpty_clk (ks : List Nat) : (s.markEmpty ks).clk = s.clk := rfl
@[simp] theorem State.markEmpty_tick (ks : List Nat) : (s.markEmpty ks).tick = s.tick := rfl
@[simp] theorem State.markEmpty_store (ks : List Nat) : (s.markEmpty ks).store = s.store := rfl
@[simp] theorem State.markEmpty_poison (ks : List Nat) : (s.markEmpty ks).poison = s.poison := rfl
@[simp] theorem State.markEmpty_mem (ks : List Nat) : (s.markEmpty ks).mem = s.mem := rfl
@[simp] theorem State.markEmpty_memPoison (ks : List Nat) : (s.markEmpty ks).memPoison = s.memPoison := rfl
@[simp] theorem State.markEmpty_near (ks : List Nat) : (s.markEmpty ks).near = s.near := rfl
@[simp] theorem State.markEmpty_acqs (ks : List Nat) : (s.markEmpty ks).acqs = s.acqs := rfl
@[simp] theorem State.markEmpty_engines (ks : List Nat) : (s.markEmpty ks).engines = s.engines := rfl
@[simp] theorem State.markEmpty_registry (ks : List Nat) : (s.markEmpty ks).registry = s.registry := rfl
@[simp] theorem State.markEmpty_lostLog (ks : List Nat) : (s.markEmpty ks).lostLog = s.lostLog := rfl
@[simp] theorem State.markEmpty_timers (ks : List Nat) : (s.markEmpty ks).timers = s.timers := rfl
@[simp] theorem State.markEmpty_sleepers (ks : List Nat) : (s.markEmpty ks).sleepers = s.sleepers := rfl
@[simp] theorem State.markEmpty_fenced (ks : List Nat) : (s.markEmpty ks).fenced = s.fenced := rfl
@[simp] theorem State.markEmpty_warps (ks : List Nat) : (s.markEmpty ks).warps = s.warps := rfl
@[simp] theorem State.markEmpty_blocks (ks : List Nat) : (s.markEmpty ks).blocks = s.blocks := rfl
@[simp] theorem State.markEmpty_launches (ks : List Nat) : (s.markEmpty ks).launches = s.launches := rfl
@[simp] theorem State.markEmpty_queues (ks : List Nat) : (s.markEmpty ks).queues = s.queues := rfl
@[simp] theorem State.markEmpty_nextQueue (ks : List Nat) : (s.markEmpty ks).nextQueue = s.nextQueue := rfl
@[simp] theorem State.markEmpty_takes (ks : List Nat) : (s.markEmpty ks).takes = s.takes := rfl
@[simp] theorem State.markEmpty_placed (ks : List Nat) : (s.markEmpty ks).placed = s.placed := rfl
@[simp] theorem State.markEmpty_cores (ks : List Nat) : (s.markEmpty ks).cores = s.cores := rfl
@[simp] theorem State.markEmpty_clusters (ks : List Nat) : (s.markEmpty ks).clusters = s.clusters := rfl
@[simp] theorem State.markEmpty_ring (ks : List Nat) : (s.markEmpty ks).ring = s.ring := rfl
@[simp] theorem State.markEmpty_bindings (ks : List Nat) : (s.markEmpty ks).bindings = s.bindings := rfl
@[simp] theorem State.markEmpty_counters (ks : List Nat) : (s.markEmpty ks).counters = s.counters := rfl
@[simp] theorem State.markEmpty_txns (ks : List Nat) : (s.markEmpty ks).txns = s.txns := rfl
@[simp] theorem State.markEmpty_samples (ks : List Nat) : (s.markEmpty ks).samples = s.samples := rfl
@[simp] theorem State.markEmpty_prods (ks : List Nat) : (s.markEmpty ks).prods = s.prods := rfl
@[simp] theorem State.markEmpty_copies (ks : List Nat) : (s.markEmpty ks).copies = s.copies := rfl
@[simp] theorem State.markEmpty_colls (ks : List Nat) : (s.markEmpty ks).colls = s.colls := rfl
@[simp] theorem State.markEmpty_collSeq (ks : List Nat) : (s.markEmpty ks).collSeq = s.collSeq := rfl
@[simp] theorem State.markEmpty_rays (ks : List Nat) : (s.markEmpty ks).rays = s.rays := rfl
@[simp] theorem State.markEmpty_sounding (ks : List Nat) : (s.markEmpty ks).sounding = s.sounding := rfl
@[simp] theorem State.markEmpty_ways (ks : List Nat) : (s.markEmpty ks).ways = s.ways := rfl
@[simp] theorem State.markEmpty_predict (ks : List Nat) : (s.markEmpty ks).predict = s.predict := rfl
@[simp] theorem State.markEmpty_lastWay (ks : List Nat) : (s.markEmpty ks).lastWay = s.lastWay := rfl
@[simp] theorem State.markEmpty_fresh (ks : List Nat) : (s.markEmpty ks).fresh = s.fresh := rfl
@[simp] theorem State.markEmpty_caches (ks : List Nat) : (s.markEmpty ks).caches = s.caches := rfl
@[simp] theorem State.markEmpty_pins (ks : List Nat) : (s.markEmpty ks).pins = s.pins := rfl
@[simp] theorem State.markEmpty_hostBias (ks : List Nat) : (s.markEmpty ks).hostBias = s.hostBias := rfl
@[simp] theorem State.markEmpty_flip (ks : List Nat) : (s.markEmpty ks).flip = s.flip := rfl
@[simp] theorem State.markEmpty_lows (ks : List Nat) : (s.markEmpty ks).lows = s.lows := rfl
@[simp] theorem State.markEmpty_xlSince (ks : List Nat) : (s.markEmpty ks).xlSince = s.xlSince := rfl
@[simp] theorem State.markEmpty_xlWords (ks : List Nat) : (s.markEmpty ks).xlWords = s.xlWords := rfl
@[simp] theorem State.markEmpty_sysregs (ks : List Nat) : (s.markEmpty ks).sysregs = s.sysregs := rfl
@[simp] theorem State.markEmpty_selects (ks : List Nat) : (s.markEmpty ks).selects = s.selects := rfl
@[simp] theorem State.markEmpty_stopped (ks : List Nat) : (s.markEmpty ks).stopped = s.stopped := rfl
@[simp] theorem State.markEmpty_haltWarp (ks : List Nat) : (s.markEmpty ks).haltWarp = s.haltWarp := rfl
@[simp] theorem State.markEmpty_halted (ks : List Nat) : (s.markEmpty ks).halted = s.halted := rfl
@[simp] theorem State.markEmpty_powerOff (ks : List Nat) : (s.markEmpty ks).powerOff = s.powerOff := rfl
@[simp] theorem State.markEmpty_mailbox (ks : List Nat) : (s.markEmpty ks).mailbox = s.mailbox := rfl
@[simp] theorem State.markEmpty_servo (ks : List Nat) : (s.markEmpty ks).servo = s.servo := rfl
@[simp] theorem State.markEmpty_power (ks : List Nat) : (s.markEmpty ks).power = s.power := rfl
@[simp] theorem State.markEmpty_locks (ks : List Nat) : (s.markEmpty ks).locks = s.locks := rfl
@[simp] theorem State.markEmpty_lockQueue (ks : List Nat) : (s.markEmpty ks).lockQueue = s.lockQueue := rfl
@[simp] theorem State.markEmpty_dacsel (ks : List Nat) : (s.markEmpty ks).dacsel = s.dacsel := rfl
@[simp] theorem State.markEmpty_dacadr (ks : List Nat) : (s.markEmpty ks).dacadr = s.dacadr := rfl
@[simp] theorem State.markEmpty_heldLinks (ks : List Nat) : (s.markEmpty ks).heldLinks = s.heldLinks := rfl
@[simp] theorem State.markEmpty_heldMsgs (ks : List Nat) : (s.markEmpty ks).heldMsgs = s.heldMsgs := rfl
@[simp] theorem State.markEmpty_ports (ks : List Nat) : (s.markEmpty ks).ports = s.ports := rfl
@[simp] theorem State.markEmpty_fabricOut (ks : List Nat) : (s.markEmpty ks).fabricOut = s.fabricOut := rfl

@[simp] theorem State.markFull_empty (ks : List Nat) : (s.markFull ks).empty = ks.foldl ndel s.empty := rfl
@[simp] theorem State.markFull_turn (ks : List Nat) : (s.markFull ks).turn = s.turn := rfl
@[simp] theorem State.markFull_now (ks : List Nat) : (s.markFull ks).now = s.now := rfl
@[simp] theorem State.markFull_cur (ks : List Nat) : (s.markFull ks).cur = s.cur := rfl
@[simp] theorem State.markFull_steps (ks : List Nat) : (s.markFull ks).steps = s.steps := rfl
@[simp] theorem State.markFull_freeNo (ks : List Nat) : (s.markFull ks).freeNo = s.freeNo := rfl
@[simp] theorem State.markFull_agenda (ks : List Nat) : (s.markFull ks).agenda = s.agenda := rfl
@[simp] theorem State.markFull_clk (ks : List Nat) : (s.markFull ks).clk = s.clk := rfl
@[simp] theorem State.markFull_tick (ks : List Nat) : (s.markFull ks).tick = s.tick := rfl
@[simp] theorem State.markFull_store (ks : List Nat) : (s.markFull ks).store = s.store := rfl
@[simp] theorem State.markFull_poison (ks : List Nat) : (s.markFull ks).poison = s.poison := rfl
@[simp] theorem State.markFull_mem (ks : List Nat) : (s.markFull ks).mem = s.mem := rfl
@[simp] theorem State.markFull_memPoison (ks : List Nat) : (s.markFull ks).memPoison = s.memPoison := rfl
@[simp] theorem State.markFull_near (ks : List Nat) : (s.markFull ks).near = s.near := rfl
@[simp] theorem State.markFull_acqs (ks : List Nat) : (s.markFull ks).acqs = s.acqs := rfl
@[simp] theorem State.markFull_engines (ks : List Nat) : (s.markFull ks).engines = s.engines := rfl
@[simp] theorem State.markFull_registry (ks : List Nat) : (s.markFull ks).registry = s.registry := rfl
@[simp] theorem State.markFull_lostLog (ks : List Nat) : (s.markFull ks).lostLog = s.lostLog := rfl
@[simp] theorem State.markFull_timers (ks : List Nat) : (s.markFull ks).timers = s.timers := rfl
@[simp] theorem State.markFull_sleepers (ks : List Nat) : (s.markFull ks).sleepers = s.sleepers := rfl
@[simp] theorem State.markFull_fenced (ks : List Nat) : (s.markFull ks).fenced = s.fenced := rfl
@[simp] theorem State.markFull_warps (ks : List Nat) : (s.markFull ks).warps = s.warps := rfl
@[simp] theorem State.markFull_blocks (ks : List Nat) : (s.markFull ks).blocks = s.blocks := rfl
@[simp] theorem State.markFull_launches (ks : List Nat) : (s.markFull ks).launches = s.launches := rfl
@[simp] theorem State.markFull_queues (ks : List Nat) : (s.markFull ks).queues = s.queues := rfl
@[simp] theorem State.markFull_nextQueue (ks : List Nat) : (s.markFull ks).nextQueue = s.nextQueue := rfl
@[simp] theorem State.markFull_takes (ks : List Nat) : (s.markFull ks).takes = s.takes := rfl
@[simp] theorem State.markFull_placed (ks : List Nat) : (s.markFull ks).placed = s.placed := rfl
@[simp] theorem State.markFull_cores (ks : List Nat) : (s.markFull ks).cores = s.cores := rfl
@[simp] theorem State.markFull_clusters (ks : List Nat) : (s.markFull ks).clusters = s.clusters := rfl
@[simp] theorem State.markFull_ring (ks : List Nat) : (s.markFull ks).ring = s.ring := rfl
@[simp] theorem State.markFull_bindings (ks : List Nat) : (s.markFull ks).bindings = s.bindings := rfl
@[simp] theorem State.markFull_counters (ks : List Nat) : (s.markFull ks).counters = s.counters := rfl
@[simp] theorem State.markFull_txns (ks : List Nat) : (s.markFull ks).txns = s.txns := rfl
@[simp] theorem State.markFull_samples (ks : List Nat) : (s.markFull ks).samples = s.samples := rfl
@[simp] theorem State.markFull_prods (ks : List Nat) : (s.markFull ks).prods = s.prods := rfl
@[simp] theorem State.markFull_copies (ks : List Nat) : (s.markFull ks).copies = s.copies := rfl
@[simp] theorem State.markFull_colls (ks : List Nat) : (s.markFull ks).colls = s.colls := rfl
@[simp] theorem State.markFull_collSeq (ks : List Nat) : (s.markFull ks).collSeq = s.collSeq := rfl
@[simp] theorem State.markFull_rays (ks : List Nat) : (s.markFull ks).rays = s.rays := rfl
@[simp] theorem State.markFull_sounding (ks : List Nat) : (s.markFull ks).sounding = s.sounding := rfl
@[simp] theorem State.markFull_ways (ks : List Nat) : (s.markFull ks).ways = s.ways := rfl
@[simp] theorem State.markFull_predict (ks : List Nat) : (s.markFull ks).predict = s.predict := rfl
@[simp] theorem State.markFull_lastWay (ks : List Nat) : (s.markFull ks).lastWay = s.lastWay := rfl
@[simp] theorem State.markFull_fresh (ks : List Nat) : (s.markFull ks).fresh = s.fresh := rfl
@[simp] theorem State.markFull_caches (ks : List Nat) : (s.markFull ks).caches = s.caches := rfl
@[simp] theorem State.markFull_pins (ks : List Nat) : (s.markFull ks).pins = s.pins := rfl
@[simp] theorem State.markFull_hostBias (ks : List Nat) : (s.markFull ks).hostBias = s.hostBias := rfl
@[simp] theorem State.markFull_flip (ks : List Nat) : (s.markFull ks).flip = s.flip := rfl
@[simp] theorem State.markFull_lows (ks : List Nat) : (s.markFull ks).lows = s.lows := rfl
@[simp] theorem State.markFull_xlSince (ks : List Nat) : (s.markFull ks).xlSince = s.xlSince := rfl
@[simp] theorem State.markFull_xlWords (ks : List Nat) : (s.markFull ks).xlWords = s.xlWords := rfl
@[simp] theorem State.markFull_sysregs (ks : List Nat) : (s.markFull ks).sysregs = s.sysregs := rfl
@[simp] theorem State.markFull_selects (ks : List Nat) : (s.markFull ks).selects = s.selects := rfl
@[simp] theorem State.markFull_stopped (ks : List Nat) : (s.markFull ks).stopped = s.stopped := rfl
@[simp] theorem State.markFull_haltWarp (ks : List Nat) : (s.markFull ks).haltWarp = s.haltWarp := rfl
@[simp] theorem State.markFull_halted (ks : List Nat) : (s.markFull ks).halted = s.halted := rfl
@[simp] theorem State.markFull_powerOff (ks : List Nat) : (s.markFull ks).powerOff = s.powerOff := rfl
@[simp] theorem State.markFull_mailbox (ks : List Nat) : (s.markFull ks).mailbox = s.mailbox := rfl
@[simp] theorem State.markFull_servo (ks : List Nat) : (s.markFull ks).servo = s.servo := rfl
@[simp] theorem State.markFull_power (ks : List Nat) : (s.markFull ks).power = s.power := rfl
@[simp] theorem State.markFull_locks (ks : List Nat) : (s.markFull ks).locks = s.locks := rfl
@[simp] theorem State.markFull_lockQueue (ks : List Nat) : (s.markFull ks).lockQueue = s.lockQueue := rfl
@[simp] theorem State.markFull_dacsel (ks : List Nat) : (s.markFull ks).dacsel = s.dacsel := rfl
@[simp] theorem State.markFull_dacadr (ks : List Nat) : (s.markFull ks).dacadr = s.dacadr := rfl
@[simp] theorem State.markFull_heldLinks (ks : List Nat) : (s.markFull ks).heldLinks = s.heldLinks := rfl
@[simp] theorem State.markFull_heldMsgs (ks : List Nat) : (s.markFull ks).heldMsgs = s.heldMsgs := rfl
@[simp] theorem State.markFull_ports (ks : List Nat) : (s.markFull ks).ports = s.ports := rfl
@[simp] theorem State.markFull_fabricOut (ks : List Nat) : (s.markFull ks).fabricOut = s.fabricOut := rfl

@[simp] theorem State.setLine_registry (n : Nat) (v : Line) : (s.setLine n v).registry = tput s.registry n v := rfl
@[simp] theorem State.setLine_turn (n : Nat) (v : Line) : (s.setLine n v).turn = s.turn := rfl
@[simp] theorem State.setLine_now (n : Nat) (v : Line) : (s.setLine n v).now = s.now := rfl
@[simp] theorem State.setLine_cur (n : Nat) (v : Line) : (s.setLine n v).cur = s.cur := rfl
@[simp] theorem State.setLine_steps (n : Nat) (v : Line) : (s.setLine n v).steps = s.steps := rfl
@[simp] theorem State.setLine_freeNo (n : Nat) (v : Line) : (s.setLine n v).freeNo = s.freeNo := rfl
@[simp] theorem State.setLine_agenda (n : Nat) (v : Line) : (s.setLine n v).agenda = s.agenda := rfl
@[simp] theorem State.setLine_clk (n : Nat) (v : Line) : (s.setLine n v).clk = s.clk := rfl
@[simp] theorem State.setLine_tick (n : Nat) (v : Line) : (s.setLine n v).tick = s.tick := rfl
@[simp] theorem State.setLine_store (n : Nat) (v : Line) : (s.setLine n v).store = s.store := rfl
@[simp] theorem State.setLine_empty (n : Nat) (v : Line) : (s.setLine n v).empty = s.empty := rfl
@[simp] theorem State.setLine_poison (n : Nat) (v : Line) : (s.setLine n v).poison = s.poison := rfl
@[simp] theorem State.setLine_mem (n : Nat) (v : Line) : (s.setLine n v).mem = s.mem := rfl
@[simp] theorem State.setLine_memPoison (n : Nat) (v : Line) : (s.setLine n v).memPoison = s.memPoison := rfl
@[simp] theorem State.setLine_near (n : Nat) (v : Line) : (s.setLine n v).near = s.near := rfl
@[simp] theorem State.setLine_acqs (n : Nat) (v : Line) : (s.setLine n v).acqs = s.acqs := rfl
@[simp] theorem State.setLine_engines (n : Nat) (v : Line) : (s.setLine n v).engines = s.engines := rfl
@[simp] theorem State.setLine_lostLog (n : Nat) (v : Line) : (s.setLine n v).lostLog = s.lostLog := rfl
@[simp] theorem State.setLine_timers (n : Nat) (v : Line) : (s.setLine n v).timers = s.timers := rfl
@[simp] theorem State.setLine_sleepers (n : Nat) (v : Line) : (s.setLine n v).sleepers = s.sleepers := rfl
@[simp] theorem State.setLine_fenced (n : Nat) (v : Line) : (s.setLine n v).fenced = s.fenced := rfl
@[simp] theorem State.setLine_warps (n : Nat) (v : Line) : (s.setLine n v).warps = s.warps := rfl
@[simp] theorem State.setLine_blocks (n : Nat) (v : Line) : (s.setLine n v).blocks = s.blocks := rfl
@[simp] theorem State.setLine_launches (n : Nat) (v : Line) : (s.setLine n v).launches = s.launches := rfl
@[simp] theorem State.setLine_queues (n : Nat) (v : Line) : (s.setLine n v).queues = s.queues := rfl
@[simp] theorem State.setLine_nextQueue (n : Nat) (v : Line) : (s.setLine n v).nextQueue = s.nextQueue := rfl
@[simp] theorem State.setLine_takes (n : Nat) (v : Line) : (s.setLine n v).takes = s.takes := rfl
@[simp] theorem State.setLine_placed (n : Nat) (v : Line) : (s.setLine n v).placed = s.placed := rfl
@[simp] theorem State.setLine_cores (n : Nat) (v : Line) : (s.setLine n v).cores = s.cores := rfl
@[simp] theorem State.setLine_clusters (n : Nat) (v : Line) : (s.setLine n v).clusters = s.clusters := rfl
@[simp] theorem State.setLine_ring (n : Nat) (v : Line) : (s.setLine n v).ring = s.ring := rfl
@[simp] theorem State.setLine_bindings (n : Nat) (v : Line) : (s.setLine n v).bindings = s.bindings := rfl
@[simp] theorem State.setLine_counters (n : Nat) (v : Line) : (s.setLine n v).counters = s.counters := rfl
@[simp] theorem State.setLine_txns (n : Nat) (v : Line) : (s.setLine n v).txns = s.txns := rfl
@[simp] theorem State.setLine_samples (n : Nat) (v : Line) : (s.setLine n v).samples = s.samples := rfl
@[simp] theorem State.setLine_prods (n : Nat) (v : Line) : (s.setLine n v).prods = s.prods := rfl
@[simp] theorem State.setLine_copies (n : Nat) (v : Line) : (s.setLine n v).copies = s.copies := rfl
@[simp] theorem State.setLine_colls (n : Nat) (v : Line) : (s.setLine n v).colls = s.colls := rfl
@[simp] theorem State.setLine_collSeq (n : Nat) (v : Line) : (s.setLine n v).collSeq = s.collSeq := rfl
@[simp] theorem State.setLine_rays (n : Nat) (v : Line) : (s.setLine n v).rays = s.rays := rfl
@[simp] theorem State.setLine_sounding (n : Nat) (v : Line) : (s.setLine n v).sounding = s.sounding := rfl
@[simp] theorem State.setLine_ways (n : Nat) (v : Line) : (s.setLine n v).ways = s.ways := rfl
@[simp] theorem State.setLine_predict (n : Nat) (v : Line) : (s.setLine n v).predict = s.predict := rfl
@[simp] theorem State.setLine_lastWay (n : Nat) (v : Line) : (s.setLine n v).lastWay = s.lastWay := rfl
@[simp] theorem State.setLine_fresh (n : Nat) (v : Line) : (s.setLine n v).fresh = s.fresh := rfl
@[simp] theorem State.setLine_caches (n : Nat) (v : Line) : (s.setLine n v).caches = s.caches := rfl
@[simp] theorem State.setLine_pins (n : Nat) (v : Line) : (s.setLine n v).pins = s.pins := rfl
@[simp] theorem State.setLine_hostBias (n : Nat) (v : Line) : (s.setLine n v).hostBias = s.hostBias := rfl
@[simp] theorem State.setLine_flip (n : Nat) (v : Line) : (s.setLine n v).flip = s.flip := rfl
@[simp] theorem State.setLine_lows (n : Nat) (v : Line) : (s.setLine n v).lows = s.lows := rfl
@[simp] theorem State.setLine_xlSince (n : Nat) (v : Line) : (s.setLine n v).xlSince = s.xlSince := rfl
@[simp] theorem State.setLine_xlWords (n : Nat) (v : Line) : (s.setLine n v).xlWords = s.xlWords := rfl
@[simp] theorem State.setLine_sysregs (n : Nat) (v : Line) : (s.setLine n v).sysregs = s.sysregs := rfl
@[simp] theorem State.setLine_selects (n : Nat) (v : Line) : (s.setLine n v).selects = s.selects := rfl
@[simp] theorem State.setLine_stopped (n : Nat) (v : Line) : (s.setLine n v).stopped = s.stopped := rfl
@[simp] theorem State.setLine_haltWarp (n : Nat) (v : Line) : (s.setLine n v).haltWarp = s.haltWarp := rfl
@[simp] theorem State.setLine_halted (n : Nat) (v : Line) : (s.setLine n v).halted = s.halted := rfl
@[simp] theorem State.setLine_powerOff (n : Nat) (v : Line) : (s.setLine n v).powerOff = s.powerOff := rfl
@[simp] theorem State.setLine_mailbox (n : Nat) (v : Line) : (s.setLine n v).mailbox = s.mailbox := rfl
@[simp] theorem State.setLine_servo (n : Nat) (v : Line) : (s.setLine n v).servo = s.servo := rfl
@[simp] theorem State.setLine_power (n : Nat) (v : Line) : (s.setLine n v).power = s.power := rfl
@[simp] theorem State.setLine_locks (n : Nat) (v : Line) : (s.setLine n v).locks = s.locks := rfl
@[simp] theorem State.setLine_lockQueue (n : Nat) (v : Line) : (s.setLine n v).lockQueue = s.lockQueue := rfl
@[simp] theorem State.setLine_dacsel (n : Nat) (v : Line) : (s.setLine n v).dacsel = s.dacsel := rfl
@[simp] theorem State.setLine_dacadr (n : Nat) (v : Line) : (s.setLine n v).dacadr = s.dacadr := rfl
@[simp] theorem State.setLine_heldLinks (n : Nat) (v : Line) : (s.setLine n v).heldLinks = s.heldLinks := rfl
@[simp] theorem State.setLine_heldMsgs (n : Nat) (v : Line) : (s.setLine n v).heldMsgs = s.heldMsgs := rfl
@[simp] theorem State.setLine_ports (n : Nat) (v : Line) : (s.setLine n v).ports = s.ports := rfl
@[simp] theorem State.setLine_fabricOut (n : Nat) (v : Line) : (s.setLine n v).fabricOut = s.fabricOut := rfl

@[simp] theorem State.setNear_near (c p : Nat) (v : NearWord) : (s.setNear c p v).near = tput s.near (nearKey c p) v := rfl
@[simp] theorem State.setNear_acqs (c p : Nat) (v : NearWord) : (s.setNear c p v).acqs = s.acqs := rfl
@[simp] theorem State.setNear_turn (c p : Nat) (v : NearWord) : (s.setNear c p v).turn = s.turn := rfl
@[simp] theorem State.setNear_now (c p : Nat) (v : NearWord) : (s.setNear c p v).now = s.now := rfl
@[simp] theorem State.setNear_cur (c p : Nat) (v : NearWord) : (s.setNear c p v).cur = s.cur := rfl
@[simp] theorem State.setNear_steps (c p : Nat) (v : NearWord) : (s.setNear c p v).steps = s.steps := rfl
@[simp] theorem State.setNear_freeNo (c p : Nat) (v : NearWord) : (s.setNear c p v).freeNo = s.freeNo := rfl
@[simp] theorem State.setNear_agenda (c p : Nat) (v : NearWord) : (s.setNear c p v).agenda = s.agenda := rfl
@[simp] theorem State.setNear_clk (c p : Nat) (v : NearWord) : (s.setNear c p v).clk = s.clk := rfl
@[simp] theorem State.setNear_tick (c p : Nat) (v : NearWord) : (s.setNear c p v).tick = s.tick := rfl
@[simp] theorem State.setNear_store (c p : Nat) (v : NearWord) : (s.setNear c p v).store = s.store := rfl
@[simp] theorem State.setNear_empty (c p : Nat) (v : NearWord) : (s.setNear c p v).empty = s.empty := rfl
@[simp] theorem State.setNear_poison (c p : Nat) (v : NearWord) : (s.setNear c p v).poison = s.poison := rfl
@[simp] theorem State.setNear_mem (c p : Nat) (v : NearWord) : (s.setNear c p v).mem = s.mem := rfl
@[simp] theorem State.setNear_memPoison (c p : Nat) (v : NearWord) : (s.setNear c p v).memPoison = s.memPoison := rfl
@[simp] theorem State.setNear_engines (c p : Nat) (v : NearWord) : (s.setNear c p v).engines = s.engines := rfl
@[simp] theorem State.setNear_registry (c p : Nat) (v : NearWord) : (s.setNear c p v).registry = s.registry := rfl
@[simp] theorem State.setNear_lostLog (c p : Nat) (v : NearWord) : (s.setNear c p v).lostLog = s.lostLog := rfl
@[simp] theorem State.setNear_timers (c p : Nat) (v : NearWord) : (s.setNear c p v).timers = s.timers := rfl
@[simp] theorem State.setNear_sleepers (c p : Nat) (v : NearWord) : (s.setNear c p v).sleepers = s.sleepers := rfl
@[simp] theorem State.setNear_fenced (c p : Nat) (v : NearWord) : (s.setNear c p v).fenced = s.fenced := rfl
@[simp] theorem State.setNear_warps (c p : Nat) (v : NearWord) : (s.setNear c p v).warps = s.warps := rfl
@[simp] theorem State.setNear_blocks (c p : Nat) (v : NearWord) : (s.setNear c p v).blocks = s.blocks := rfl
@[simp] theorem State.setNear_launches (c p : Nat) (v : NearWord) : (s.setNear c p v).launches = s.launches := rfl
@[simp] theorem State.setNear_queues (c p : Nat) (v : NearWord) : (s.setNear c p v).queues = s.queues := rfl
@[simp] theorem State.setNear_nextQueue (c p : Nat) (v : NearWord) : (s.setNear c p v).nextQueue = s.nextQueue := rfl
@[simp] theorem State.setNear_takes (c p : Nat) (v : NearWord) : (s.setNear c p v).takes = s.takes := rfl
@[simp] theorem State.setNear_placed (c p : Nat) (v : NearWord) : (s.setNear c p v).placed = s.placed := rfl
@[simp] theorem State.setNear_cores (c p : Nat) (v : NearWord) : (s.setNear c p v).cores = s.cores := rfl
@[simp] theorem State.setNear_clusters (c p : Nat) (v : NearWord) : (s.setNear c p v).clusters = s.clusters := rfl
@[simp] theorem State.setNear_ring (c p : Nat) (v : NearWord) : (s.setNear c p v).ring = s.ring := rfl
@[simp] theorem State.setNear_bindings (c p : Nat) (v : NearWord) : (s.setNear c p v).bindings = s.bindings := rfl
@[simp] theorem State.setNear_counters (c p : Nat) (v : NearWord) : (s.setNear c p v).counters = s.counters := rfl
@[simp] theorem State.setNear_txns (c p : Nat) (v : NearWord) : (s.setNear c p v).txns = s.txns := rfl
@[simp] theorem State.setNear_samples (c p : Nat) (v : NearWord) : (s.setNear c p v).samples = s.samples := rfl
@[simp] theorem State.setNear_prods (c p : Nat) (v : NearWord) : (s.setNear c p v).prods = s.prods := rfl
@[simp] theorem State.setNear_copies (c p : Nat) (v : NearWord) : (s.setNear c p v).copies = s.copies := rfl
@[simp] theorem State.setNear_colls (c p : Nat) (v : NearWord) : (s.setNear c p v).colls = s.colls := rfl
@[simp] theorem State.setNear_collSeq (c p : Nat) (v : NearWord) : (s.setNear c p v).collSeq = s.collSeq := rfl
@[simp] theorem State.setNear_rays (c p : Nat) (v : NearWord) : (s.setNear c p v).rays = s.rays := rfl
@[simp] theorem State.setNear_sounding (c p : Nat) (v : NearWord) : (s.setNear c p v).sounding = s.sounding := rfl
@[simp] theorem State.setNear_ways (c p : Nat) (v : NearWord) : (s.setNear c p v).ways = s.ways := rfl
@[simp] theorem State.setNear_predict (c p : Nat) (v : NearWord) : (s.setNear c p v).predict = s.predict := rfl
@[simp] theorem State.setNear_lastWay (c p : Nat) (v : NearWord) : (s.setNear c p v).lastWay = s.lastWay := rfl
@[simp] theorem State.setNear_fresh (c p : Nat) (v : NearWord) : (s.setNear c p v).fresh = s.fresh := rfl
@[simp] theorem State.setNear_caches (c p : Nat) (v : NearWord) : (s.setNear c p v).caches = s.caches := rfl
@[simp] theorem State.setNear_pins (c p : Nat) (v : NearWord) : (s.setNear c p v).pins = s.pins := rfl
@[simp] theorem State.setNear_hostBias (c p : Nat) (v : NearWord) : (s.setNear c p v).hostBias = s.hostBias := rfl
@[simp] theorem State.setNear_flip (c p : Nat) (v : NearWord) : (s.setNear c p v).flip = s.flip := rfl
@[simp] theorem State.setNear_lows (c p : Nat) (v : NearWord) : (s.setNear c p v).lows = s.lows := rfl
@[simp] theorem State.setNear_xlSince (c p : Nat) (v : NearWord) : (s.setNear c p v).xlSince = s.xlSince := rfl
@[simp] theorem State.setNear_xlWords (c p : Nat) (v : NearWord) : (s.setNear c p v).xlWords = s.xlWords := rfl
@[simp] theorem State.setNear_sysregs (c p : Nat) (v : NearWord) : (s.setNear c p v).sysregs = s.sysregs := rfl
@[simp] theorem State.setNear_selects (c p : Nat) (v : NearWord) : (s.setNear c p v).selects = s.selects := rfl
@[simp] theorem State.setNear_stopped (c p : Nat) (v : NearWord) : (s.setNear c p v).stopped = s.stopped := rfl
@[simp] theorem State.setNear_haltWarp (c p : Nat) (v : NearWord) : (s.setNear c p v).haltWarp = s.haltWarp := rfl
@[simp] theorem State.setNear_halted (c p : Nat) (v : NearWord) : (s.setNear c p v).halted = s.halted := rfl
@[simp] theorem State.setNear_powerOff (c p : Nat) (v : NearWord) : (s.setNear c p v).powerOff = s.powerOff := rfl
@[simp] theorem State.setNear_mailbox (c p : Nat) (v : NearWord) : (s.setNear c p v).mailbox = s.mailbox := rfl
@[simp] theorem State.setNear_servo (c p : Nat) (v : NearWord) : (s.setNear c p v).servo = s.servo := rfl
@[simp] theorem State.setNear_power (c p : Nat) (v : NearWord) : (s.setNear c p v).power = s.power := rfl
@[simp] theorem State.setNear_locks (c p : Nat) (v : NearWord) : (s.setNear c p v).locks = s.locks := rfl
@[simp] theorem State.setNear_lockQueue (c p : Nat) (v : NearWord) : (s.setNear c p v).lockQueue = s.lockQueue := rfl
@[simp] theorem State.setNear_dacsel (c p : Nat) (v : NearWord) : (s.setNear c p v).dacsel = s.dacsel := rfl
@[simp] theorem State.setNear_dacadr (c p : Nat) (v : NearWord) : (s.setNear c p v).dacadr = s.dacadr := rfl
@[simp] theorem State.setNear_heldLinks (c p : Nat) (v : NearWord) : (s.setNear c p v).heldLinks = s.heldLinks := rfl
@[simp] theorem State.setNear_heldMsgs (c p : Nat) (v : NearWord) : (s.setNear c p v).heldMsgs = s.heldMsgs := rfl
@[simp] theorem State.setNear_ports (c p : Nat) (v : NearWord) : (s.setNear c p v).ports = s.ports := rfl
@[simp] theorem State.setNear_fabricOut (c p : Nat) (v : NearWord) : (s.setNear c p v).fabricOut = s.fabricOut := rfl

@[simp] theorem State.setEngine_engines (a p : Nat) (v : EngineWord) : (s.setEngine a p v).engines = tput s.engines (nearKey a p) v := rfl
@[simp] theorem State.setEngine_turn (a p : Nat) (v : EngineWord) : (s.setEngine a p v).turn = s.turn := rfl
@[simp] theorem State.setEngine_now (a p : Nat) (v : EngineWord) : (s.setEngine a p v).now = s.now := rfl
@[simp] theorem State.setEngine_cur (a p : Nat) (v : EngineWord) : (s.setEngine a p v).cur = s.cur := rfl
@[simp] theorem State.setEngine_steps (a p : Nat) (v : EngineWord) : (s.setEngine a p v).steps = s.steps := rfl
@[simp] theorem State.setEngine_freeNo (a p : Nat) (v : EngineWord) : (s.setEngine a p v).freeNo = s.freeNo := rfl
@[simp] theorem State.setEngine_agenda (a p : Nat) (v : EngineWord) : (s.setEngine a p v).agenda = s.agenda := rfl
@[simp] theorem State.setEngine_clk (a p : Nat) (v : EngineWord) : (s.setEngine a p v).clk = s.clk := rfl
@[simp] theorem State.setEngine_tick (a p : Nat) (v : EngineWord) : (s.setEngine a p v).tick = s.tick := rfl
@[simp] theorem State.setEngine_store (a p : Nat) (v : EngineWord) : (s.setEngine a p v).store = s.store := rfl
@[simp] theorem State.setEngine_empty (a p : Nat) (v : EngineWord) : (s.setEngine a p v).empty = s.empty := rfl
@[simp] theorem State.setEngine_poison (a p : Nat) (v : EngineWord) : (s.setEngine a p v).poison = s.poison := rfl
@[simp] theorem State.setEngine_mem (a p : Nat) (v : EngineWord) : (s.setEngine a p v).mem = s.mem := rfl
@[simp] theorem State.setEngine_memPoison (a p : Nat) (v : EngineWord) : (s.setEngine a p v).memPoison = s.memPoison := rfl
@[simp] theorem State.setEngine_near (a p : Nat) (v : EngineWord) : (s.setEngine a p v).near = s.near := rfl
@[simp] theorem State.setEngine_acqs (a p : Nat) (v : EngineWord) : (s.setEngine a p v).acqs = s.acqs := rfl
@[simp] theorem State.setEngine_registry (a p : Nat) (v : EngineWord) : (s.setEngine a p v).registry = s.registry := rfl
@[simp] theorem State.setEngine_lostLog (a p : Nat) (v : EngineWord) : (s.setEngine a p v).lostLog = s.lostLog := rfl
@[simp] theorem State.setEngine_timers (a p : Nat) (v : EngineWord) : (s.setEngine a p v).timers = s.timers := rfl
@[simp] theorem State.setEngine_sleepers (a p : Nat) (v : EngineWord) : (s.setEngine a p v).sleepers = s.sleepers := rfl
@[simp] theorem State.setEngine_fenced (a p : Nat) (v : EngineWord) : (s.setEngine a p v).fenced = s.fenced := rfl
@[simp] theorem State.setEngine_warps (a p : Nat) (v : EngineWord) : (s.setEngine a p v).warps = s.warps := rfl
@[simp] theorem State.setEngine_blocks (a p : Nat) (v : EngineWord) : (s.setEngine a p v).blocks = s.blocks := rfl
@[simp] theorem State.setEngine_launches (a p : Nat) (v : EngineWord) : (s.setEngine a p v).launches = s.launches := rfl
@[simp] theorem State.setEngine_queues (a p : Nat) (v : EngineWord) : (s.setEngine a p v).queues = s.queues := rfl
@[simp] theorem State.setEngine_nextQueue (a p : Nat) (v : EngineWord) : (s.setEngine a p v).nextQueue = s.nextQueue := rfl
@[simp] theorem State.setEngine_takes (a p : Nat) (v : EngineWord) : (s.setEngine a p v).takes = s.takes := rfl
@[simp] theorem State.setEngine_placed (a p : Nat) (v : EngineWord) : (s.setEngine a p v).placed = s.placed := rfl
@[simp] theorem State.setEngine_cores (a p : Nat) (v : EngineWord) : (s.setEngine a p v).cores = s.cores := rfl
@[simp] theorem State.setEngine_clusters (a p : Nat) (v : EngineWord) : (s.setEngine a p v).clusters = s.clusters := rfl
@[simp] theorem State.setEngine_ring (a p : Nat) (v : EngineWord) : (s.setEngine a p v).ring = s.ring := rfl
@[simp] theorem State.setEngine_bindings (a p : Nat) (v : EngineWord) : (s.setEngine a p v).bindings = s.bindings := rfl
@[simp] theorem State.setEngine_counters (a p : Nat) (v : EngineWord) : (s.setEngine a p v).counters = s.counters := rfl
@[simp] theorem State.setEngine_txns (a p : Nat) (v : EngineWord) : (s.setEngine a p v).txns = s.txns := rfl
@[simp] theorem State.setEngine_samples (a p : Nat) (v : EngineWord) : (s.setEngine a p v).samples = s.samples := rfl
@[simp] theorem State.setEngine_prods (a p : Nat) (v : EngineWord) : (s.setEngine a p v).prods = s.prods := rfl
@[simp] theorem State.setEngine_copies (a p : Nat) (v : EngineWord) : (s.setEngine a p v).copies = s.copies := rfl
@[simp] theorem State.setEngine_colls (a p : Nat) (v : EngineWord) : (s.setEngine a p v).colls = s.colls := rfl
@[simp] theorem State.setEngine_collSeq (a p : Nat) (v : EngineWord) : (s.setEngine a p v).collSeq = s.collSeq := rfl
@[simp] theorem State.setEngine_rays (a p : Nat) (v : EngineWord) : (s.setEngine a p v).rays = s.rays := rfl
@[simp] theorem State.setEngine_sounding (a p : Nat) (v : EngineWord) : (s.setEngine a p v).sounding = s.sounding := rfl
@[simp] theorem State.setEngine_ways (a p : Nat) (v : EngineWord) : (s.setEngine a p v).ways = s.ways := rfl
@[simp] theorem State.setEngine_predict (a p : Nat) (v : EngineWord) : (s.setEngine a p v).predict = s.predict := rfl
@[simp] theorem State.setEngine_lastWay (a p : Nat) (v : EngineWord) : (s.setEngine a p v).lastWay = s.lastWay := rfl
@[simp] theorem State.setEngine_fresh (a p : Nat) (v : EngineWord) : (s.setEngine a p v).fresh = s.fresh := rfl
@[simp] theorem State.setEngine_caches (a p : Nat) (v : EngineWord) : (s.setEngine a p v).caches = s.caches := rfl
@[simp] theorem State.setEngine_pins (a p : Nat) (v : EngineWord) : (s.setEngine a p v).pins = s.pins := rfl
@[simp] theorem State.setEngine_hostBias (a p : Nat) (v : EngineWord) : (s.setEngine a p v).hostBias = s.hostBias := rfl
@[simp] theorem State.setEngine_flip (a p : Nat) (v : EngineWord) : (s.setEngine a p v).flip = s.flip := rfl
@[simp] theorem State.setEngine_lows (a p : Nat) (v : EngineWord) : (s.setEngine a p v).lows = s.lows := rfl
@[simp] theorem State.setEngine_xlSince (a p : Nat) (v : EngineWord) : (s.setEngine a p v).xlSince = s.xlSince := rfl
@[simp] theorem State.setEngine_xlWords (a p : Nat) (v : EngineWord) : (s.setEngine a p v).xlWords = s.xlWords := rfl
@[simp] theorem State.setEngine_sysregs (a p : Nat) (v : EngineWord) : (s.setEngine a p v).sysregs = s.sysregs := rfl
@[simp] theorem State.setEngine_selects (a p : Nat) (v : EngineWord) : (s.setEngine a p v).selects = s.selects := rfl
@[simp] theorem State.setEngine_stopped (a p : Nat) (v : EngineWord) : (s.setEngine a p v).stopped = s.stopped := rfl
@[simp] theorem State.setEngine_haltWarp (a p : Nat) (v : EngineWord) : (s.setEngine a p v).haltWarp = s.haltWarp := rfl
@[simp] theorem State.setEngine_halted (a p : Nat) (v : EngineWord) : (s.setEngine a p v).halted = s.halted := rfl
@[simp] theorem State.setEngine_powerOff (a p : Nat) (v : EngineWord) : (s.setEngine a p v).powerOff = s.powerOff := rfl
@[simp] theorem State.setEngine_mailbox (a p : Nat) (v : EngineWord) : (s.setEngine a p v).mailbox = s.mailbox := rfl
@[simp] theorem State.setEngine_servo (a p : Nat) (v : EngineWord) : (s.setEngine a p v).servo = s.servo := rfl
@[simp] theorem State.setEngine_power (a p : Nat) (v : EngineWord) : (s.setEngine a p v).power = s.power := rfl
@[simp] theorem State.setEngine_locks (a p : Nat) (v : EngineWord) : (s.setEngine a p v).locks = s.locks := rfl
@[simp] theorem State.setEngine_lockQueue (a p : Nat) (v : EngineWord) : (s.setEngine a p v).lockQueue = s.lockQueue := rfl
@[simp] theorem State.setEngine_dacsel (a p : Nat) (v : EngineWord) : (s.setEngine a p v).dacsel = s.dacsel := rfl
@[simp] theorem State.setEngine_dacadr (a p : Nat) (v : EngineWord) : (s.setEngine a p v).dacadr = s.dacadr := rfl
@[simp] theorem State.setEngine_heldLinks (a p : Nat) (v : EngineWord) : (s.setEngine a p v).heldLinks = s.heldLinks := rfl
@[simp] theorem State.setEngine_heldMsgs (a p : Nat) (v : EngineWord) : (s.setEngine a p v).heldMsgs = s.heldMsgs := rfl
@[simp] theorem State.setEngine_ports (a p : Nat) (v : EngineWord) : (s.setEngine a p v).ports = s.ports := rfl
@[simp] theorem State.setEngine_fabricOut (a p : Nat) (v : EngineWord) : (s.setEngine a p v).fabricOut = s.fabricOut := rfl

@[simp] theorem State.homePut_mem (p : Nat) (v : Word) (b : Bool) : (s.homePut p v b).mem = memPutWord s.mem p v := rfl
@[simp] theorem State.homePut_memPoison (p : Nat) (v : Word) (b : Bool) :
    (s.homePut p v b).memPoison = if b then nput s.memPoison p else ndel s.memPoison p := rfl
@[simp] theorem State.homePut_turn (p : Nat) (v : Word) (b : Bool) : (s.homePut p v b).turn = s.turn := rfl
@[simp] theorem State.homePut_now (p : Nat) (v : Word) (b : Bool) : (s.homePut p v b).now = s.now := rfl
@[simp] theorem State.homePut_cur (p : Nat) (v : Word) (b : Bool) : (s.homePut p v b).cur = s.cur := rfl
@[simp] theorem State.homePut_steps (p : Nat) (v : Word) (b : Bool) : (s.homePut p v b).steps = s.steps := rfl
@[simp] theorem State.homePut_freeNo (p : Nat) (v : Word) (b : Bool) : (s.homePut p v b).freeNo = s.freeNo := rfl
@[simp] theorem State.homePut_agenda (p : Nat) (v : Word) (b : Bool) : (s.homePut p v b).agenda = s.agenda := rfl
@[simp] theorem State.homePut_clk (p : Nat) (v : Word) (b : Bool) : (s.homePut p v b).clk = s.clk := rfl
@[simp] theorem State.homePut_tick (p : Nat) (v : Word) (b : Bool) : (s.homePut p v b).tick = s.tick := rfl
@[simp] theorem State.homePut_store (p : Nat) (v : Word) (b : Bool) : (s.homePut p v b).store = s.store := rfl
@[simp] theorem State.homePut_empty (p : Nat) (v : Word) (b : Bool) : (s.homePut p v b).empty = s.empty := rfl
@[simp] theorem State.homePut_poison (p : Nat) (v : Word) (b : Bool) : (s.homePut p v b).poison = s.poison := rfl
@[simp] theorem State.homePut_near (p : Nat) (v : Word) (b : Bool) : (s.homePut p v b).near = s.near := rfl
@[simp] theorem State.homePut_acqs (p : Nat) (v : Word) (b : Bool) : (s.homePut p v b).acqs = s.acqs := rfl
@[simp] theorem State.homePut_engines (p : Nat) (v : Word) (b : Bool) : (s.homePut p v b).engines = s.engines := rfl
@[simp] theorem State.homePut_registry (p : Nat) (v : Word) (b : Bool) : (s.homePut p v b).registry = s.registry := rfl
@[simp] theorem State.homePut_lostLog (p : Nat) (v : Word) (b : Bool) : (s.homePut p v b).lostLog = s.lostLog := rfl
@[simp] theorem State.homePut_timers (p : Nat) (v : Word) (b : Bool) : (s.homePut p v b).timers = s.timers := rfl
@[simp] theorem State.homePut_sleepers (p : Nat) (v : Word) (b : Bool) : (s.homePut p v b).sleepers = s.sleepers := rfl
@[simp] theorem State.homePut_fenced (p : Nat) (v : Word) (b : Bool) : (s.homePut p v b).fenced = s.fenced := rfl
@[simp] theorem State.homePut_warps (p : Nat) (v : Word) (b : Bool) : (s.homePut p v b).warps = s.warps := rfl
@[simp] theorem State.homePut_blocks (p : Nat) (v : Word) (b : Bool) : (s.homePut p v b).blocks = s.blocks := rfl
@[simp] theorem State.homePut_launches (p : Nat) (v : Word) (b : Bool) : (s.homePut p v b).launches = s.launches := rfl
@[simp] theorem State.homePut_queues (p : Nat) (v : Word) (b : Bool) : (s.homePut p v b).queues = s.queues := rfl
@[simp] theorem State.homePut_nextQueue (p : Nat) (v : Word) (b : Bool) : (s.homePut p v b).nextQueue = s.nextQueue := rfl
@[simp] theorem State.homePut_takes (p : Nat) (v : Word) (b : Bool) : (s.homePut p v b).takes = s.takes := rfl
@[simp] theorem State.homePut_placed (p : Nat) (v : Word) (b : Bool) : (s.homePut p v b).placed = s.placed := rfl
@[simp] theorem State.homePut_cores (p : Nat) (v : Word) (b : Bool) : (s.homePut p v b).cores = s.cores := rfl
@[simp] theorem State.homePut_clusters (p : Nat) (v : Word) (b : Bool) : (s.homePut p v b).clusters = s.clusters := rfl
@[simp] theorem State.homePut_ring (p : Nat) (v : Word) (b : Bool) : (s.homePut p v b).ring = s.ring := rfl
@[simp] theorem State.homePut_bindings (p : Nat) (v : Word) (b : Bool) : (s.homePut p v b).bindings = s.bindings := rfl
@[simp] theorem State.homePut_counters (p : Nat) (v : Word) (b : Bool) : (s.homePut p v b).counters = s.counters := rfl
@[simp] theorem State.homePut_txns (p : Nat) (v : Word) (b : Bool) : (s.homePut p v b).txns = s.txns := rfl
@[simp] theorem State.homePut_samples (p : Nat) (v : Word) (b : Bool) : (s.homePut p v b).samples = s.samples := rfl
@[simp] theorem State.homePut_prods (p : Nat) (v : Word) (b : Bool) : (s.homePut p v b).prods = s.prods := rfl
@[simp] theorem State.homePut_copies (p : Nat) (v : Word) (b : Bool) : (s.homePut p v b).copies = s.copies := rfl
@[simp] theorem State.homePut_colls (p : Nat) (v : Word) (b : Bool) : (s.homePut p v b).colls = s.colls := rfl
@[simp] theorem State.homePut_collSeq (p : Nat) (v : Word) (b : Bool) : (s.homePut p v b).collSeq = s.collSeq := rfl
@[simp] theorem State.homePut_rays (p : Nat) (v : Word) (b : Bool) : (s.homePut p v b).rays = s.rays := rfl
@[simp] theorem State.homePut_sounding (p : Nat) (v : Word) (b : Bool) : (s.homePut p v b).sounding = s.sounding := rfl
@[simp] theorem State.homePut_ways (p : Nat) (v : Word) (b : Bool) : (s.homePut p v b).ways = s.ways := rfl
@[simp] theorem State.homePut_predict (p : Nat) (v : Word) (b : Bool) : (s.homePut p v b).predict = s.predict := rfl
@[simp] theorem State.homePut_lastWay (p : Nat) (v : Word) (b : Bool) : (s.homePut p v b).lastWay = s.lastWay := rfl
@[simp] theorem State.homePut_fresh (p : Nat) (v : Word) (b : Bool) : (s.homePut p v b).fresh = s.fresh := rfl
@[simp] theorem State.homePut_caches (p : Nat) (v : Word) (b : Bool) : (s.homePut p v b).caches = s.caches := rfl
@[simp] theorem State.homePut_pins (p : Nat) (v : Word) (b : Bool) : (s.homePut p v b).pins = s.pins := rfl
@[simp] theorem State.homePut_hostBias (p : Nat) (v : Word) (b : Bool) : (s.homePut p v b).hostBias = s.hostBias := rfl
@[simp] theorem State.homePut_flip (p : Nat) (v : Word) (b : Bool) : (s.homePut p v b).flip = s.flip := rfl
@[simp] theorem State.homePut_lows (p : Nat) (v : Word) (b : Bool) : (s.homePut p v b).lows = s.lows := rfl
@[simp] theorem State.homePut_xlSince (p : Nat) (v : Word) (b : Bool) : (s.homePut p v b).xlSince = s.xlSince := rfl
@[simp] theorem State.homePut_xlWords (p : Nat) (v : Word) (b : Bool) : (s.homePut p v b).xlWords = s.xlWords := rfl
@[simp] theorem State.homePut_sysregs (p : Nat) (v : Word) (b : Bool) : (s.homePut p v b).sysregs = s.sysregs := rfl
@[simp] theorem State.homePut_selects (p : Nat) (v : Word) (b : Bool) : (s.homePut p v b).selects = s.selects := rfl
@[simp] theorem State.homePut_stopped (p : Nat) (v : Word) (b : Bool) : (s.homePut p v b).stopped = s.stopped := rfl
@[simp] theorem State.homePut_haltWarp (p : Nat) (v : Word) (b : Bool) : (s.homePut p v b).haltWarp = s.haltWarp := rfl
@[simp] theorem State.homePut_halted (p : Nat) (v : Word) (b : Bool) : (s.homePut p v b).halted = s.halted := rfl
@[simp] theorem State.homePut_powerOff (p : Nat) (v : Word) (b : Bool) : (s.homePut p v b).powerOff = s.powerOff := rfl
@[simp] theorem State.homePut_mailbox (p : Nat) (v : Word) (b : Bool) : (s.homePut p v b).mailbox = s.mailbox := rfl
@[simp] theorem State.homePut_servo (p : Nat) (v : Word) (b : Bool) : (s.homePut p v b).servo = s.servo := rfl
@[simp] theorem State.homePut_power (p : Nat) (v : Word) (b : Bool) : (s.homePut p v b).power = s.power := rfl
@[simp] theorem State.homePut_locks (p : Nat) (v : Word) (b : Bool) : (s.homePut p v b).locks = s.locks := rfl
@[simp] theorem State.homePut_lockQueue (p : Nat) (v : Word) (b : Bool) : (s.homePut p v b).lockQueue = s.lockQueue := rfl
@[simp] theorem State.homePut_dacsel (p : Nat) (v : Word) (b : Bool) : (s.homePut p v b).dacsel = s.dacsel := rfl
@[simp] theorem State.homePut_dacadr (p : Nat) (v : Word) (b : Bool) : (s.homePut p v b).dacadr = s.dacadr := rfl
@[simp] theorem State.homePut_heldLinks (p : Nat) (v : Word) (b : Bool) : (s.homePut p v b).heldLinks = s.heldLinks := rfl
@[simp] theorem State.homePut_heldMsgs (p : Nat) (v : Word) (b : Bool) : (s.homePut p v b).heldMsgs = s.heldMsgs := rfl
@[simp] theorem State.homePut_ports (p : Nat) (v : Word) (b : Bool) : (s.homePut p v b).ports = s.ports := rfl
@[simp] theorem State.homePut_fabricOut (p : Nat) (v : Word) (b : Bool) : (s.homePut p v b).fabricOut = s.fabricOut := rfl

end Sys2Proof.Machine
end

