-- ==== Sys2Proof/Laws/Issue.lean ====
section
/-! SUPPORT. What the shared operations of an issue do: reading and changing warps and lanes, landing results,
passing an instruction, and the issue itself up to an instruction's own effect. -/

namespace Sys2Proof.Machine

open Sys2Proof.Safety

/-! ## Warps -/

@[simp] theorem warp_setWarp_same (s : State) (k : Nat) (w : Warp) : (s.setWarp k w).warp k = w := by
  simp [State.warp, State.setWarp]

theorem warp_setWarp_ne (s : State) {k j : Nat} (w : Warp) (h : j ≠ k) : (s.setWarp k w).warp j = s.warp j := by
  simp [State.warp, State.setWarp, tget_tput_ne _ _ _ h.symm]

@[simp] theorem warp_modWarp_same (s : State) (k : Nat) (f : Warp → Warp) :
    (s.modWarp k f).warp k = f (s.warp k) := by simp [State.modWarp]

theorem warp_modWarp_ne (s : State) {k j : Nat} (f : Warp → Warp) (h : j ≠ k) :
    (s.modWarp k f).warp j = s.warp j := warp_setWarp_ne s _ h

/-! ## Lanes -/

theorem lanes_modLane (w : Warp) (l j : Nat) (f : Lane → Lane) :
    (w.modLane l f).lanes[j]? = if l = j then w.lanes[j]?.map f else w.lanes[j]? := by
  simp [Warp.modLane, getElem?_lupd]

theorem length_lupd {β : Type} (f : β → β) (t : List β) (i : Nat) : (lupd f t i).length = t.length := by
  induction t generalizing i with
  | nil => simp [lupd]
  | cons v t ih => cases i <;> simp [lupd, ih]

@[simp] theorem length_modLane (w : Warp) (l : Nat) (f : Lane → Lane) :
    (w.modLane l f).lanes.length = w.lanes.length := length_lupd f w.lanes l

theorem lanes_modLanes (w : Warp) (m : LaneMask) (f : Lane → Lane) (j : Nat) :
    (w.modLanes m f).lanes[j]? = w.lanes[j]?.map (fun v => if m.getLsbD j then f v else v) := by
  simp [Warp.modLanes, List.getElem?_zipIdx]
  cases w.lanes[j]? <;> simp

@[simp] theorem length_modLanes (w : Warp) (m : LaneMask) (f : Lane → Lane) :
    (w.modLanes m f).lanes.length = w.lanes.length := by simp [Warp.modLanes]

/-! ## Masks -/

theorem mem_lanesOf (m : LaneMask) (l : Nat) : l ∈ lanesOf m ↔ m.getLsbD l := by
  simp only [lanesOf, List.mem_filter]
  constructor
  · exact fun h => h.2
  · intro h
    refine ⟨?_, h⟩
    have : l < 32 := by
      by_contra hl
      rw [BitVec.getLsbD_of_ge m l (by omega)] at h
      exact absurd h (by decide)
    interval_cases l <;> decide

theorem lanesOf_lt (m : LaneMask) (l : Nat) (h : l ∈ lanesOf m) : l < 32 := by
  have h := (mem_lanesOf m l).1 h
  by_contra hl
  rw [BitVec.getLsbD_of_ge m l (by omega)] at h
  exact absurd h (by decide)

theorem lanesOf_nodup (m : LaneMask) : (lanesOf m).Nodup :=
  List.Nodup.filter _ (by decide)

/-! ## Landing results -/

theorem landAll_cons (s : State) (x : Landing) (xs : List Landing) :
    s.landAll (x :: xs) = (s.land x).landAll xs := rfl

/-- Landing results changes store words and nothing else. -/
theorem landAll_rest (s : State) (xs : List Landing) :
    s.landAll xs = { s with store := (s.landAll xs).store, empty := (s.landAll xs).empty
                            poison := (s.landAll xs).poison } := by
  induction xs generalizing s with
  | nil => rfl
  | cons x xs ih => rw [landAll_cons, ih]; rfl

theorem landAll_kept (s : State) (xs : List Landing) (k : Nat) (h : k ∉ xs.map Landing.key) :
    (s.landAll xs).word k = s.word k ∧ (s.landAll xs).isEmpty k = s.isEmpty k ∧
      (s.landAll xs).isPoison k = s.isPoison k := by
  induction xs generalizing s with
  | nil => simp [State.landAll]
  | cons x xs ih =>
    simp only [List.map_cons, List.mem_cons, not_or] at h
    rw [landAll_cons]
    obtain ⟨a, b, c⟩ := ih (s.land x) h.2
    refine ⟨a.trans ?_, b.trans ?_, c.trans ?_⟩
    · simp [State.word, tget_tput_ne _ _ _ (Ne.symm h.1)]
    · simp [State.isEmpty, h.1]
    · simp only [State.isPoison, State.land_poison]
      split <;> simp [h.1]

theorem landAll_landed (s : State) (xs : List Landing) (hd : (xs.map Landing.key).Nodup) (x : Landing)
    (hx : x ∈ xs) : (s.landAll xs).word x.key = x.value ∧ (s.landAll xs).isEmpty x.key = false ∧
      (s.landAll xs).isPoison x.key = x.poison := by
  induction xs generalizing s with
  | nil => simp at hx
  | cons y ys ih =>
    simp only [List.map_cons, List.nodup_cons] at hd
    rw [landAll_cons]
    rcases List.mem_cons.1 hx with e | h
    · subst e
      obtain ⟨a, b, c⟩ := landAll_kept (s.land x) ys x.key hd.1
      refine ⟨a.trans ?_, b.trans ?_, c.trans ?_⟩
      · simp [State.word]
      · simp [State.isEmpty]
      · simp only [State.isPoison, State.land_poison]
        split <;> simp_all
    · exact ih _ hd.2 h

@[simp] theorem landAll_warp (s : State) (xs : List Landing) (k : Nat) : (s.landAll xs).warp k = s.warp k := by
  rw [landAll_rest]; rfl

/-! ## Passing an instruction -/

theorem advance_eq (s : State) (cx : Ctx) : s.advance cx = s.modWarp cx.wk (fun w =>
    s.unlatched cx.pc cx.wk (w.modLanes cx.group (passed cx))) := rfl

/-! ## The issue (R40, R59, R365) -/

/-- With nothing against it an issue performs the instruction's own effect. -/
theorem issueWith_effect (x : Long) (sh : Shape) (priv fget : Bool) (act : Ctx → State → State) (s : State)
    (hd : decodeFault priv fget (Ctx.of x sh s) s = none) (ha : (Ctx.of x sh s).act ≠ 0)
    (he : emptyFault fget (Ctx.of x sh s) s = none) (hp : poisonFault fget (Ctx.of x sh s) s = none) :
    issueWith x sh priv fget [] [] act s = act (Ctx.of x sh s) s := by
  simp only [issueWith, firstFault, hd, if_neg ha, List.nil_append, he, hp]

/-- An issue whose guard is false in every lane only passes the instruction (R40). -/
theorem issueWith_idle (x : Long) (sh : Shape) (priv fget : Bool) (pre early : List (Ctx → State → Option Trap))
    (act : Ctx → State → State) (s : State)
    (hd : firstFault (Ctx.of x sh s) s (decodeFault priv fget :: pre) = none)
    (ha : (Ctx.of x sh s).act = 0) :
    issueWith x sh priv fget pre early act s = s.advance (Ctx.of x sh s) := by
  simp only [issueWith, hd, ha, if_true]

end Sys2Proof.Machine
end

