-- ==== Sys2Proof/Laws/Lanewise.lean ====
section
/-! SUPPORT. What a lanewise instruction does, said once: its results land in distinct words, its predicates,
flags and random states change lane by lane, and its group passes. -/

namespace Sys2Proof.Machine

open Sys2Proof.Safety

/-! ## Keys of register words (R23) -/

theorem vkeys_nodup (core : Nat) (w : Warp) (r n l : Nat) : (vkeys core w r n l).Nodup := by
  refine List.Nodup.map ?_ List.nodup_range
  intro i j h; simp only [vkey] at h; omega

theorem skeys_nodup (core : Nat) (w : Warp) (r n : Nat) : (skeys core w r n).Nodup := by
  refine List.Nodup.map ?_ List.nodup_range
  intro i j h; simp only [skey] at h; omega

theorem codeKeys_nodup (core : Nat) (w : Warp) (code n l : Nat) : (codeKeys core w code n l).Nodup := by
  unfold codeKeys
  split
  · exact vkeys_nodup _ _ _ _ _
  · exact skeys_nodup _ _ _ _
  · simp

/-- The register words of an operand code by its range (R43). -/
theorem codeKeys_eq (core : Nat) (w : Warp) (code n l : Nat) : codeKeys core w code n l =
    if code < 0x140 then vkeys core w code n l else if 0x200 ≤ code then skeys core w (code - 0x200) n else [] := by
  unfold codeKeys codeOf
  split_ifs <;> first | rfl | omega

/-- Distinct lanes write distinct words, unless the destination is a uniform register. -/
theorem codeKeys_disjoint (core : Nat) (w : Warp) (code n l m : Nat) (hl : l < 32) (hm : m < 32) (h : l ≠ m)
    (hv : code < 0x200) : List.Disjoint (codeKeys core w code n l) (codeKeys core w code n m) := by
  intro k h1 h2
  rw [codeKeys_eq] at h1 h2
  split at h1
  · rename_i hc
    rw [if_pos hc] at h2
    simp only [vkeys, upTo, List.mem_map, List.mem_range, vkey] at h1 h2
    obtain ⟨i, -, hi⟩ := h1; obtain ⟨j, -, hj⟩ := h2
    omega
  · rw [if_neg (by omega)] at h1; simp at h1

theorem length_codeKeys_le (core : Nat) (w : Warp) (code n l : Nat) : (codeKeys core w code n l).length ≤ n := by
  unfold codeKeys; split <;> simp [vkeys, skeys, upTo]

/-! ## Values as words (R19) -/

@[simp] theorem length_wordsOf (n v : Nat) : (wordsOf n v).length = n := by
  induction n generalizing v with
  | zero => rfl
  | succ n ih => simp [wordsOf, ih]

theorem ofWords_wordsOf (n v : Nat) : ofWords (wordsOf n v) = v % 2 ^ (32 * n) := by
  induction n generalizing v with
  | zero => simp [wordsOf, ofWords, Nat.mod_one]
  | succ n ih =>
    simp only [wordsOf, ofWords, ih, BitVec.toNat_ofNat]
    rw [show 32 * (n + 1) = 32 + 32 * n by ring, pow_add, Nat.mod_mul]

theorem wordsOf_take (m n v : Nat) (h : m ≤ n) : (wordsOf n v).take m = wordsOf m v := by
  induction m generalizing n v with
  | zero => simp [wordsOf]
  | succ m ih =>
    cases n with
    | zero => omega
    | succ n => simp [wordsOf, ih n _ (by omega)]

/-! ## Landings -/

theorem landings_keys (cx : Ctx) (w : Warp) (code n l v : Nat) (bad : Bool) :
    (landings cx w code n l v bad).map Landing.key = codeKeys cx.core w code n l := by
  have := length_codeKeys_le cx.core w code n l
  simp only [landings, List.map_map, Function.comp_def]
  rw [show (fun x : Nat × Word => x.1) = Prod.fst from rfl, List.map_fst_zip]
  simpa using this

/-- Words that hold the landings of a number hold the number. -/
theorem holds_landings (t : State) (cx : Ctx) (w : Warp) (code n l v : Nat)
    (h : ∀ x ∈ landings cx w code n l v false,
      t.word x.key = x.value ∧ t.isEmpty x.key = false ∧ t.isPoison x.key = x.poison) :
    Holds t (codeKeys cx.core w code n l) v := by
  have hle := length_codeKeys_le cx.core w code n l
  generalize hk : codeKeys cx.core w code n l = ks at *
  have key : ∀ (ks : List Nat) (n v : Nat), ks.length ≤ n →
      (∀ x ∈ ((ks.zip (wordsOf n v)).map (fun (k, x) => (⟨k, x, false⟩ : Landing))),
        t.word x.key = x.value ∧ t.isEmpty x.key = false ∧ t.isPoison x.key = x.poison) →
      ks.map t.word = wordsOf ks.length v ∧ ∀ k ∈ ks, t.isEmpty k = false ∧ t.isPoison k = false := by
    intro ks
    induction ks with
    | nil => intro n v _ _; simp [wordsOf]
    | cons k ks ih =>
      intro n v hn hx
      cases n with
      | zero => simp at hn
      | succ n =>
        simp only [wordsOf, List.zip_cons_cons, List.map_cons, List.mem_cons, forall_eq_or_imp] at hx
        obtain ⟨a, b⟩ := ih n (v / 2 ^ 32) (by simpa using hn) hx.2
        refine ⟨?_, ?_⟩
        · simp [wordsOf, a, hx.1.1]
        · intro j hj
          rcases List.mem_cons.1 hj with e | e
          · subst e; exact ⟨hx.1.2.1, hx.1.2.2⟩
          · exact b j e
  obtain ⟨a, b⟩ := key ks n v hle (by simpa [landings, hk] using h)
  refine ⟨?_, b⟩
  rw [State.regs, a, ofWords_wordsOf]

/-! ## Changing lanes one after the other -/

theorem foldl_modLane_lanes (f : Nat → Lane → Lane) (ls : List Nat) (hn : ls.Nodup) (w : Warp) (j : Nat) :
    (ls.foldl (fun w l => w.modLane l (f l)) w).lanes[j]? =
      w.lanes[j]?.map (fun v => if j ∈ ls then f j v else v) := by
  induction ls generalizing w with
  | nil => simp
  | cons l ls ih =>
    simp only [List.nodup_cons] at hn
    rw [List.foldl_cons, ih hn.2, lanes_modLane]
    by_cases h : l = j
    · subst h; simp [hn.1, Option.map_map, Function.comp_def]
    · have : j ≠ l := fun e => h e.symm
      simp [h, this]

/-- Changing lanes leaves the rest of the warp. -/
theorem foldl_modLane_rest (f : Nat → Lane → Lane) (ls : List Nat) (w : Warp) :
    ls.foldl (fun w l => w.modLane l (f l)) w =
      { w with lanes := (ls.foldl (fun w l => w.modLane l (f l)) w).lanes } := by
  induction ls generalizing w with
  | nil => rfl
  | cons l ls ih => rw [List.foldl_cons, ih]; rfl

theorem foldl_modLane_length (f : Nat → Lane → Lane) (ls : List Nat) (w : Warp) :
    (ls.foldl (fun w l => w.modLane l (f l)) w).lanes.length = w.lanes.length := by
  induction ls generalizing w with
  | nil => rfl
  | cons l ls ih => rw [List.foldl_cons, ih]; simp

/-! ## The landings of an instruction's results -/

/-- The words that an instruction's results land in. -/
theorem regLandings_keys (cx : Ctx) (w : Warp) (g : Nat → LaneOut) (ls : List Nat) :
    (regLandings cx w (ls.map (fun l => (l, g l)))).map Landing.key =
      ls.flatMap (fun l => codeKeys cx.core w cx.x.dN (cx.sh.dst.writes cx.sh cx.x) l) := by
  induction ls with
  | nil => rfl
  | cons l ls ih =>
    simp only [regLandings, List.map_cons, List.flatMap_cons, List.map_append, landings_keys] at ih ⊢
    rw [ih]

/-- Those words are distinct when only a uniform instruction names a uniform register (R48). -/
theorem regLandings_nodup (cx : Ctx) (w : Warp) (hu : cx.uni = false → cx.x.dN < 0x200) :
    ((evalLanes cx).flatMap (fun l =>
      codeKeys cx.core w cx.x.dN (cx.sh.dst.writes cx.sh cx.x) l)).Nodup := by
  unfold evalLanes
  split
  · simp [codeKeys_nodup]
  · rename_i h
    rw [List.nodup_flatMap]
    refine ⟨fun l _ => codeKeys_nodup _ _ _ _ _, ?_⟩
    refine List.Nodup.pairwise_of_forall_ne (lanesOf_nodup _) ?_
    intro a ha b hb hab
    exact codeKeys_disjoint _ _ _ _ _ _ (lanesOf_lt _ _ ha) (lanesOf_lt _ _ hb) hab (hu (by simpa using h))

/-- Landed results are held by their words, and no other word has changed. -/
theorem landAll_results (cx : Ctx) (s : State) (w : Warp) (g : Nat → LaneOut)
    (hu : cx.uni = false → cx.x.dN < 0x200) :
    (∀ l ∈ evalLanes cx,
      Holds (s.landAll (regLandings cx w ((evalLanes cx).map (fun l => (l, g l)))))
        (codeKeys cx.core w cx.x.dN (cx.sh.dst.writes cx.sh cx.x) l) (g l).value) ∧
    WordsKept s (s.landAll (regLandings cx w ((evalLanes cx).map (fun l => (l, g l))))) (dstKeys cx w) := by
  have hk := regLandings_keys cx w g (evalLanes cx)
  have hn := regLandings_nodup cx w hu
  rw [← hk] at hn
  refine ⟨?_, ?_⟩
  · intro l hl
    apply holds_landings
    intro x hx
    have hbad : x.poison = false := by
      simp only [landings, List.mem_map] at hx
      obtain ⟨e, -, rfl⟩ := hx; rfl
    obtain ⟨a, b, c⟩ := landAll_landed s _ hn x (by
      simp only [regLandings, List.mem_flatMap, List.mem_map]
      exact ⟨(l, g l), ⟨l, hl, rfl⟩, hx⟩)
    exact ⟨a, b, c⟩
  · intro k hk'
    apply landAll_kept
    rw [hk]; exact hk'

/-! ## Predicates, draws and flags -/

/-- What writing a predicate for every evaluated lane does to a warp (R22, R47). -/
theorem foldl_putPred (cx : Ctx) (code : Nat) (g : Nat → LaneOut) (p : LaneOut → Bool) (w : Warp)
    (hu : cx.uni = true ↔ 0x200 ≤ code) :
    let w' := ((evalLanes cx).map (fun l => (l, g l))).foldl (fun w (e : Nat × LaneOut) =>
      w.putPred code e.1 (p e.2)) w
    (∀ j, w'.lanes[j]? = w.lanes[j]?.map (laneWithPred cx code (fun l => p (g l)) j)) ∧
      w'.lanes.length = w.lanes.length ∧
      w' = { warpWithPred code (p (g 0)) w with lanes := w'.lanes } := by
  intro w'
  by_cases h : 0x200 ≤ code
  · have hw : w' = w.setQpred (code - 0x200) (p (g 0)) := by
      simp only [w', evalLanes, hu.2 h, if_true, List.map_cons, List.map_nil, List.foldl_cons, List.foldl_nil,
        Warp.putPred, h]
    have hl : w'.lanes = w.lanes := by
      rw [hw]; unfold Warp.setQpred; split <;> rfl
    refine ⟨?_, by rw [hl], ?_⟩
    · intro j
      have : laneWithPred cx code (fun l => p (g l)) j = id := by
        funext v; simp only [laneWithPred, show ¬ code < 0x200 by omega, false_and, if_false, id]
      rw [hl, this, Option.map_id, id]
    · rw [hl, hw]; simp only [warpWithPred, h, if_true]
      unfold Warp.setQpred; split <;> rfl
  · have hun : cx.uni = false := by
      cases hc : cx.uni with
      | false => rfl
      | true => exact absurd (hu.1 hc) h
    have hw : w' = (lanesOf cx.act).foldl
        (fun w l => w.modLane l ((fun l x => x.setPred (code % 8) (p (g l))) l)) w := by
      simp only [w', evalLanes, hun, Bool.false_eq_true, if_false, List.foldl_map, Warp.putPred, h]
    refine ⟨?_, ?_, ?_⟩
    · intro j
      rw [hw, foldl_modLane_lanes _ _ (lanesOf_nodup _)]
      congr 1; funext v
      simp only [laneWithPred, mem_lanesOf, show code < 0x200 by omega, true_and]
    · rw [hw, foldl_modLane_length]
    · rw [hw, foldl_modLane_rest]; simp only [warpWithPred, h, if_false]

/-- What stepping the random states of the evaluated lanes does to a warp (R72). -/
theorem foldl_draws (cx : Ctx) (n : Nat) (hn : n ≠ 0) (g : Nat → LaneOut) (w : Warp) :
    let w' := ((evalLanes cx).map (fun l => (l, g l))).foldl (fun w (e : Nat × LaneOut) =>
      w.modLane (rngLane cx e.1) (fun v => { v with rngs := rngSteps n v.rngs })) w
    (∀ j, w'.lanes[j]? = w.lanes[j]?.map (drawn cx n j)) ∧ w'.lanes.length = w.lanes.length ∧
      w' = { w with lanes := w'.lanes } := by
  intro w'
  have hw : w' = ((evalLanes cx).map (rngLane cx)).foldl
      (fun w l => w.modLane l ((fun _ v => { v with rngs := rngSteps n v.rngs }) l)) w := by
    simp only [w', List.foldl_map]
  have hd : ((evalLanes cx).map (rngLane cx)).Nodup := by
    unfold evalLanes rngLane
    split
    · simp
    · simpa using lanesOf_nodup cx.act
  refine ⟨?_, ?_, ?_⟩
  · intro j
    rw [hw, foldl_modLane_lanes _ _ hd]
    congr 1; funext v
    unfold drawn evalLanes rngLane
    by_cases hc : cx.uni = true
    · simp [hc, hn]
    · simp [hc, hn, mem_lanesOf]
  · rw [hw, foldl_modLane_length]
  · rw [hw, foldl_modLane_rest]

theorem foldl_flags (outs : List (Nat × LaneOut)) (m : FlagMask) :
    outs.foldl (fun m (e : Nat × LaneOut) => m ||| e.2.flags) m =
      m ||| outs.foldl (fun m (e : Nat × LaneOut) => m ||| e.2.flags) 0 := by
  induction outs generalizing m with
  | nil => simp
  | cons e outs ih =>
    rw [List.foldl_cons, List.foldl_cons, ih, ih (0 ||| e.2.flags)]
    simp [BitVec.or_assoc]

/-- The carry-out's predicate code (R87). -/
def carryCode (cx : Ctx) : Nat := if cx.uni then 0x200 + cx.x.cN / 8 % 8 else cx.x.cN / 8 % 8

/-- Whether an instruction writes a carry-out (R87). -/
def writesCarry (cx : Ctx) : Bool := cx.sh.c = .carry && cx.x.cN / 8 % 8 ≠ 7

/-- What a lanewise instruction does to lane l beside passing it: its predicate, its carry, its draws. -/
def afterLane (cx : Ctx) (draws : Nat) (g : Nat → LaneOut) (l : Nat) (v : Lane) : Lane :=
  let v := if cx.sh.dst = .pdst then laneWithPred cx cx.x.dN (fun l => (g l).pred) l v else v
  let v := if writesCarry cx then laneWithPred cx (carryCode cx) (fun l => (g l).carry) l v else v
  drawn cx draws l v

/-- What it does to the uniform predicates. -/
def afterUniform (cx : Ctx) (g : Nat → LaneOut) (w : Warp) : Warp :=
  let w := if cx.sh.dst = .pdst then warpWithPred cx.x.dN (g 0).pred w else w
  if writesCarry cx then warpWithPred (carryCode cx) (g 0).carry w else w

theorem warpWithPred_lanes (code : Nat) (b : Bool) (w : Warp) (ls : List Lane) :
    warpWithPred code b { w with lanes := ls } = { warpWithPred code b w with lanes := ls } := by
  unfold warpWithPred Warp.setQpred; split <;> [split <;> rfl; rfl]

theorem carryCode_uniform (cx : Ctx) : cx.uni = true ↔ 0x200 ≤ carryCode cx := by
  unfold carryCode; cases cx.uni <;> simp; omega

theorem warpWithPred_only (code : Nat) (b : Bool) (w : Warp) : warpWithPred code b w =
    { w with qpreds := (warpWithPred code b w).qpreds, qbusy := (warpWithPred code b w).qbusy } := by
  unfold warpWithPred Warp.setQpred; split <;> [split <;> rfl; rfl]

/-- The warp after a lanewise instruction's predicates, draws and flags. -/
theorem warpAfter_spec (cx : Ctx) (draws : Nat) (g : Nat → LaneOut) (w : Warp)
    (hu : cx.sh.dst = .pdst → (cx.uni = true ↔ 0x200 ≤ cx.x.dN)) :
    let outs := (evalLanes cx).map (fun l => (l, g l))
    let w' := warpAfter cx draws outs w
    (∀ j, w'.lanes[j]? = w.lanes[j]?.map (afterLane cx draws g j)) ∧ w'.lanes.length = w.lanes.length ∧
      w' = { afterUniform cx g w with
        lanes := w'.lanes
        flags := w.flags ||| outs.foldl (fun m (e : Nat × LaneOut) => m ||| e.2.flags) 0 } := by
  intro outs w'
  -- the three stages of warpAfter
  let w1 : Warp := if cx.sh.dst = .pdst then
    outs.foldl (fun w (e : Nat × LaneOut) => w.putPred cx.x.dN e.1 e.2.pred) w else w
  let w2 : Warp := if writesCarry cx then
    outs.foldl (fun w (e : Nat × LaneOut) => w.putPred (carryCode cx) e.1 e.2.carry) w1 else w1
  let w3 : Warp := if draws = 0 then w2 else
    outs.foldl (fun w (e : Nat × LaneOut) =>
      w.modLane (rngLane cx e.1) (fun v => { v with rngs := rngSteps draws v.rngs })) w2
  have hw : w' = { w3 with flags := outs.foldl (fun m (e : Nat × LaneOut) => m ||| e.2.flags) w3.flags } := rfl
  have h1 : (∀ j, w1.lanes[j]? = w.lanes[j]?.map (fun v =>
      if cx.sh.dst = .pdst then laneWithPred cx cx.x.dN (fun l => (g l).pred) j v else v)) ∧
      w1.lanes.length = w.lanes.length ∧
      w1 = { (if cx.sh.dst = .pdst then warpWithPred cx.x.dN (g 0).pred w else w) with lanes := w1.lanes } := by
    by_cases h : cx.sh.dst = .pdst
    · obtain ⟨a, b, c⟩ := foldl_putPred cx cx.x.dN g (fun o => o.pred) w (hu h)
      simp only [w1, h, if_true]
      exact ⟨a, b, c⟩
    · simp [w1, h]
  have h2 : (∀ j, w2.lanes[j]? = w1.lanes[j]?.map (fun v =>
      if writesCarry cx then laneWithPred cx (carryCode cx) (fun l => (g l).carry) j v else v)) ∧
      w2.lanes.length = w1.lanes.length ∧
      w2 = { (if writesCarry cx then warpWithPred (carryCode cx) (g 0).carry w1 else w1) with
        lanes := w2.lanes } := by
    by_cases h : writesCarry cx = true
    · obtain ⟨a, b, c⟩ := foldl_putPred cx (carryCode cx) g (fun o => o.carry) w1 (carryCode_uniform cx)
      simp only [w2, h, if_true]
      exact ⟨a, b, c⟩
    · simp [w2, h]
  have h3 : (∀ j, w3.lanes[j]? = w2.lanes[j]?.map (drawn cx draws j)) ∧
      w3.lanes.length = w2.lanes.length ∧ w3 = { w2 with lanes := w3.lanes } := by
    by_cases h : draws = 0
    · have : ∀ j, drawn cx 0 j = id := by intro j; funext v; simp [drawn]
      simp [w3, h, this]
    · obtain ⟨a, b, c⟩ := foldl_draws cx draws h g w2
      simp only [w3, h, if_false]
      exact ⟨a, b, c⟩
  have hf3 : w3.flags = w.flags := by
    have e1 : ∀ (c : Nat) (b : Bool) (w : Warp), (warpWithPred c b w).flags = w.flags := by
      intro c b w; rw [warpWithPred_only]
    rw [h3.2.2, h2.2.2]
    show (if writesCarry cx then warpWithPred (carryCode cx) (g 0).carry w1 else w1).flags = _
    have : w1.flags = w.flags := by
      rw [h1.2.2]
      show (if cx.sh.dst = .pdst then warpWithPred cx.x.dN (g 0).pred w else w).flags = _
      split <;> simp [e1]
    split <;> simp [e1, this]
  refine ⟨?_, ?_, ?_⟩
  · intro j
    rw [hw]
    show w3.lanes[j]? = _
    rw [h3.1, h2.1, h1.1]
    cases w.lanes[j]? <;> rfl
  · rw [hw]
    show w3.lanes.length = _
    rw [h3.2.1, h2.2.1, h1.2.1]
  · rw [hw]
    rw [foldl_flags, hf3]
    have e : w3 = { afterUniform cx g w with lanes := w3.lanes } := by
      rw [h3.2.2]
      show { w2 with lanes := w3.lanes } = _
      rw [h2.2.2]
      unfold afterUniform
      rw [h1.2.2]
      by_cases hc : writesCarry cx = true <;> by_cases hp : cx.sh.dst = .pdst <;>
        simp only [hc, hp, if_true, if_false, warpWithPred_lanes, Bool.false_eq_true]
    show { w3 with flags := _ } = _
    rw [e]

/-! ## Completion -/

/-- Passing an instruction, lane by lane. -/
theorem advance_spec (s : State) (cx : Ctx) :
    (∀ j, ((s.advance cx).warp cx.wk).lanes[j]? =
      (s.warp cx.wk).lanes[j]?.map (fun v => if cx.group.getLsbD j then passed cx v else v)) ∧
    ((s.advance cx).warp cx.wk).lanes.length = (s.warp cx.wk).lanes.length ∧
    (s.advance cx).warp cx.wk = { s.warp cx.wk with
      lanes := ((s.advance cx).warp cx.wk).lanes
      latch := latchAfter cx s ((s.advance cx).warp cx.wk) } := by
  rw [advance_eq, warp_modWarp_same]
  have hl : ((s.warp cx.wk).modLanes cx.group (passed cx)).latch = (s.warp cx.wk).latch := rfl
  have hu : s.unlatched cx.pc cx.wk ((s.warp cx.wk).modLanes cx.group (passed cx)) =
      { (s.warp cx.wk).modLanes cx.group (passed cx) with
        latch := latchAfter cx s ((s.warp cx.wk).modLanes cx.group (passed cx)) } := by
    unfold State.unlatched Warp.unlatch latchAfter
    rw [hl]
    by_cases ha : s.accessAt cx.wk cx.pc = true
    · simp [ha]; rfl
    · simp only [ha, Bool.false_eq_true, if_false]
      by_cases h : (s.warp cx.wk).latch = some cx.pc ∧
          ((s.warp cx.wk).modLanes cx.group (passed cx)).heldAt cx.pc = false
      · simp [h.1, h.2]
      · rw [if_neg (by simpa using h), if_neg (fun h' => h ⟨h'.1, h'.2.1⟩)]; rfl
  rw [hu]
  exact ⟨fun j => lanes_modLanes _ _ _ j, length_modLanes _ _ _, rfl⟩

/-- Results landed, the issuing warp changed and its group passed: the shape of every instruction that writes at
issue. -/
theorem completes_of (i : Instr) (s : State) (g : Nat → LaneOut) (fw : Warp → Warp) (value : Nat → Nat)
    (flags : FlagMask) (change : Nat → Lane → Lane) (uniform : Warp → Warp)
    (hu : (issueCx i s).uni = false → (issueCx i s).x.dN < 0x200)
    (hv : ∀ l ∈ evalLanes (issueCx i s), (g l).value = value l)
    (hl : ∀ j, (fw (s.warp (issueCx i s).wk)).lanes[j]? =
      (s.warp (issueCx i s).wk).lanes[j]?.map (change j))
    (hn : (fw (s.warp (issueCx i s).wk)).lanes.length = (s.warp (issueCx i s).wk).lanes.length)
    (hw : fw (s.warp (issueCx i s).wk) = { uniform (s.warp (issueCx i s).wk) with
      lanes := (fw (s.warp (issueCx i s).wk)).lanes
      flags := (s.warp (issueCx i s).wk).flags ||| flags })
    (ho : ∀ w, uniform w = { w with qpreds := (uniform w).qpreds, qbusy := (uniform w).qbusy }) :
    Completes i s
      (((s.landAll (regLandings (issueCx i s) (s.warp (issueCx i s).wk)
        ((evalLanes (issueCx i s)).map (fun l => (l, g l))))).modWarp (issueCx i s).wk fw).advance
          (issueCx i s)) value flags change uniform := by
  generalize hcx : issueCx i s = cx at *
  obtain ⟨hres, hkept⟩ := landAll_results cx s (s.warp cx.wk) g hu
  generalize hs1 : s.landAll (regLandings cx (s.warp cx.wk) ((evalLanes cx).map (fun l => (l, g l)))) = s1 at *
  have hr : s1 = { s with store := s1.store, empty := s1.empty, poison := s1.poison } := by
    rw [← hs1]; exact landAll_rest s _
  have hw1 : ∀ k, s1.warp k = s.warp k := by intro k; rw [← hs1]; exact landAll_warp s _ k
  obtain ⟨ha, hb, hc⟩ := advance_spec (s1.modWarp cx.wk fw) cx
  rw [warp_modWarp_same, hw1] at ha hb hc
  constructor
  · intro l hl'
    rw [hcx] at hl'
    have := hres l hl'
    rw [hv l hl'] at this
    show Holds _ (let cx := issueCx i s; codeKeys cx.core (s.warp cx.wk) cx.x.dN (cx.sh.dst.writes cx.sh cx.x) l) _
    rw [hcx]
    exact this
  · rw [hcx]; exact hkept
  · rw [hcx]
    refine ⟨by rw [hb, hn], ?_⟩
    intro l v hv'
    rw [ha, hl, hv']
    rfl
  · rw [hcx, hc]; show (fw (s.warp cx.wk)).qpreds = _; rw [hw]
  · rw [hcx, hc]; show (fw (s.warp cx.wk)).qbusy = _; rw [hw]
  · rw [hcx]
    simp only [WarpKept]
    have ht : (s1.modWarp cx.wk fw).accessAt cx.wk cx.pc = s.accessAt cx.wk cx.pc := by
      show s1.accessAt cx.wk cx.pc = _; rw [hr]; rfl
    have e : ∀ w', latchAfter cx (s1.modWarp cx.wk fw) w' = latchAfter cx s w' := by
      intro w'
      have hf : (fw (s.warp cx.wk)).latch = (s.warp cx.wk).latch := by rw [hw, ho]
      simp only [latchAfter, warp_modWarp_same, hw1, ht, hf]
    rw [e] at hc
    generalize ((s1.modWarp cx.wk fw).advance cx).warp cx.wk = w' at hc ⊢
    have q : w'.qpreds = (uniform (s.warp cx.wk)).qpreds := by rw [hc]; show (fw (s.warp cx.wk)).qpreds = _; rw [hw]
    have r : w'.qbusy = (uniform (s.warp cx.wk)).qbusy := by rw [hc]; show (fw (s.warp cx.wk)).qbusy = _; rw [hw]
    refine hc.trans ?_
    rw [q, r, hw, ho]
  · rw [hcx]
    refine ⟨?_, ?_, ?_⟩
    · intro k hk
      rw [advance_eq, warp_modWarp_ne _ _ hk, warp_modWarp_ne _ _ hk, hw1]
    · intro a; rw [advance_eq]; show memByte s1.mem a = _; rw [hr]
    · rw [advance_eq]; show { s1 with warps := _ } = _; rw [hr]; rfl

/-- A lanewise instruction completes: the rule of its lanes gives its results, predicates, carries and flags. -/
theorem lanewise_completes (i : Instr) (draws : Nat) (f : LaneIn → LaneOut) (s : State)
    (hu : (issueCx i s).uni = false → (issueCx i s).x.dN < 0x200)
    (hp : (issueCx i s).sh.dst = .pdst → ((issueCx i s).uni = true ↔ 0x200 ≤ (issueCx i s).x.dN)) :
    let cx := issueCx i s
    let g := fun l => f (laneIn cx s l)
    Completes i s (lanewise draws f cx s) (fun l => (g l).value)
      (((evalLanes cx).map (fun l => (l, g l))).foldl (fun m (e : Nat × LaneOut) => m ||| e.2.flags) 0)
      (afterLane cx draws g) (afterUniform cx g) := by
  intro cx g
  obtain ⟨a, b, c⟩ := warpAfter_spec cx draws g (s.warp cx.wk) hp
  refine completes_of i s g (warpAfter cx draws ((evalLanes cx).map (fun l => (l, g l)))) _ _ _ _ hu
    (fun l _ => rfl) a b c ?_
  intro w
  unfold afterUniform
  split <;> split <;> first | rfl | (rw [warpWithPred_only]; try rw [warpWithPred_only cx.x.dN])

end Sys2Proof.Machine
end

