-- ==== Sys2Proof/Laws/Memory.lean ====
section
/-! SUPPORT. Memory: a write keeps the canonical form, and a read finds what was written (R2, R166). -/

namespace Sys2Proof.Machine

/-- No byte is listed below a sorted list's bound. -/
theorem memByte_below (k j : Nat) (hj : j ≤ k) (m : List Host.Cell) (hs : memSorted (some k) m) :
    memByte m j = unlistedByte := by
  induction m generalizing k with
  | nil => simp [memByte]
  | cons e m ih =>
    obtain ⟨i, w⟩ := e
    simp only [memSorted, Bool.and_eq_true, decide_eq_true_eq] at hs
    have : i ≠ j := by omega
    simp only [memByte, this, if_false]
    exact ih i (by omega) hs.2

theorem memByte_memDrop (m : List Host.Cell) (lo : Option Nat) (h : memSorted lo m) (a b : Nat) :
    memByte (memDrop m a) b = if a = b then unlistedByte else memByte m b := by
  induction m generalizing lo with
  | nil => simp [memDrop, memByte]
  | cons e m ih =>
    obtain ⟨k, v⟩ := e
    simp only [memSorted, Bool.and_eq_true] at h
    obtain ⟨-, h2⟩ := h
    have absent : ∀ j, j ≤ k → ∀ m', memSorted (some k) m' → memByte m' j = unlistedByte :=
      fun j hj m' hs => memByte_below k j hj m' hs
    by_cases hk : k = a
    · subst hk
      by_cases hb : k = b
      · subst hb; simp [memDrop, absent k (le_refl _) m h2]
      · simp [memDrop, memByte, hb]
    · by_cases ha : a < k
      · by_cases hb : a = b
        · subst hb
          have : k ≠ a := hk
          simp [memDrop, hk, ha, memByte, absent a (by omega) m h2]
        · simp [memDrop, hk, ha, hb]
      · simp only [memDrop, hk, ha, if_false, memByte]
        by_cases hb : k = b
        · subst hb; simp [Ne.symm hk]
        · simp [hb, ih (some k) h2]

theorem memByte_memList (m : List Host.Cell) (a b : Nat) (v : Byte) :
    memByte (memList m a v) b = if a = b then v else memByte m b := by
  induction m with
  | nil => simp [memList, memByte]
  | cons e m ih =>
    obtain ⟨k, w⟩ := e
    by_cases ha : a < k
    · simp [memList, memByte, ha]
    · by_cases hk : k = a
      · subst hk; by_cases hb : k = b <;> simp [memList, memByte, hb]
      · by_cases hb : k = b
        · subst hb; simp [memList, memByte, ha, hk, Ne.symm hk]
        · simp [memList, memByte, ha, hk, hb, ih]

/-- A read after a write of one byte. -/
theorem memByte_memPut (m : List Host.Cell) (h : Memory.wf m) (a b : Nat) (v : Byte) :
    memByte (memPut m a v) b = if a = b then v else memByte m b := by
  unfold memPut
  split
  · rename_i e; rw [memByte_memDrop m .none h]; simp [e]
  · exact memByte_memList m a b v

theorem memDrop_sorted (m : List Host.Cell) (lo : Option Nat) (a : Nat) (h : memSorted lo m) :
    memSorted lo (memDrop m a) := by
  induction m generalizing lo with
  | nil => simp [memDrop, memSorted]
  | cons e m ih =>
    obtain ⟨k, v⟩ := e
    have weaken : ∀ m' i, i ≤ k → memSorted (some k) m' → memSorted (some i) m' := by
      intro m' i hi
      cases m' with
      | nil => simp [memSorted]
      | cons e m' =>
        intro hs
        simp only [memSorted, Bool.and_eq_true, decide_eq_true_eq] at hs ⊢
        exact ⟨⟨by omega, hs.1.2⟩, hs.2⟩
    unfold memDrop
    simp only [memSorted, Bool.and_eq_true] at h
    split
    · cases lo with
      | none =>
        cases m with
        | nil => simp [memSorted]
        | cons e m =>
          have := h.2
          simp only [memSorted, Bool.and_eq_true] at this ⊢
          exact ⟨⟨trivial, this.1.2⟩, this.2⟩
      | some j =>
        have := h.1.1
        simp only [decide_eq_true_eq] at this
        exact weaken m j (by omega) h.2
    · split
      · simp only [memSorted, Bool.and_eq_true]; exact h
      · simp only [memSorted, Bool.and_eq_true]; exact ⟨h.1, ih _ h.2⟩

theorem memList_sorted (m : List Host.Cell) (lo : Option Nat) (a : Nat) (v : Byte) (hv : v ≠ unlistedByte)
    (hlo : ∀ j, lo = some j → j < a) (h : memSorted lo m) : memSorted lo (memList m a v) := by
  induction m generalizing lo with
  | nil =>
    cases lo with
    | none => simp [memList, memSorted, hv]
    | some j => simp [memList, memSorted, hv, hlo j rfl]
  | cons e m ih =>
    obtain ⟨k, w⟩ := e
    unfold memList
    simp only [memSorted, Bool.and_eq_true, decide_eq_true_eq] at h
    split
    · rename_i hk
      cases lo with
      | none => simp [memSorted, hv, hk, h.1.2, h.2]
      | some j => simp [memSorted, hv, hk, h.1.2, h.2, hlo j rfl]
    · split
      · rename_i e; subst e
        cases lo with
        | none => simp [memSorted, hv, h.2]
        | some j => simp [memSorted, hv, h.2, hlo j rfl]
      · rename_i h1 h2
        have := ih (some k) (by intro j hj; cases hj; omega) h.2
        cases lo with
        | none => simp [memSorted, h.1.2, this]
        | some j =>
          have h3 := h.1.1
          simp only [decide_eq_true_eq] at h3
          simp [memSorted, h.1.2, this, h3]

/-- A write of one byte keeps the canonical form. -/
theorem memPut_wf (m : List Host.Cell) (a : Nat) (v : Byte) (h : Memory.wf m) : Memory.wf (memPut m a v) := by
  unfold memPut
  split
  · exact memDrop_sorted m .none a h
  · rename_i hv; exact memList_sorted m .none a v hv (by intro j hj; cases hj) h

/-- A write of one word keeps the canonical form. -/
theorem memPutWord_wf (m : List Host.Cell) (p : Nat) (v : Word) (h : Memory.wf m) :
    Memory.wf (memPutWord m p v) :=
  memPut_wf _ _ _ (memPut_wf _ _ _ (memPut_wf _ _ _ (memPut_wf _ _ _ h)))

/-- A word written at its home keeps the canonical form. -/
theorem homePut_wf (s : State) (p : Nat) (v : Word) (b : Bool) (h : Memory.wf s.mem) :
    Memory.wf (s.homePut p v b).mem := memPutWord_wf s.mem p v h

/-- Every byte outside a written word reads as before. -/
theorem memByte_memPutWord_ne (m : List Host.Cell) (h : Memory.wf m) (p a : Nat) (v : Word) (ha : a / 4 ≠ p) :
    memByte (memPutWord m p v) a = memByte m a := by
  have h1 := memPut_wf m (4 * p) (v.setWidth 8) h
  have h2 := memPut_wf _ (4 * p + 1) ((v >>> 8).setWidth 8) h1
  have h3 := memPut_wf _ (4 * p + 2) ((v >>> 16).setWidth 8) h2
  unfold memPutWord
  rw [memByte_memPut _ h3, memByte_memPut _ h2, memByte_memPut _ h1, memByte_memPut _ h,
    if_neg (by omega), if_neg (by omega), if_neg (by omega), if_neg (by omega)]

end Sys2Proof.Machine
end

