-- ==== Sys2Proof/Tests/Slice0.lean ====
section
/-! SUPPORT. Tests of the model, and for each statement a concrete state and operands that meet its hypotheses. Words and
values come from the manual's drawings, tables and examples. -/

namespace Sys2Proof.Tests

open Sys2Proof Sys2Proof.Machine Sys2Proof.Safety Sys2Proof.Rules

set_option maxRecDepth 20000
set_option Elab.async false

/-- The state that an outcome goes on in. -/
def nextOf (o : Out) : State :=
  match o with
  | .next t => t
  | _ => State.reset

/-- One warp of two lanes stands at address 0 (R21): lane 0 issues, lane 1 waits at another address. Its block has a
scratchpad at local address 0x8000, a tile at 0x100000 and an arena at 0x800. -/
def ready : State :=
  let s := State.reset.withFetchWord 32 0xFC
  { s with
    blocks := tput s.blocks 1 { probeBlock with
      spBase := 0x8000, spSize := 0x1000, accBase := 0x100000, tiles := 1, arena := 0x800, arenaN := 0x400 }
    warps := tput s.warps 0 { probeWarp with
      lanes := lupd (fun v => { v with exited := false, pc := 64, rngs := 2, start := 2 }) probeWarp.lanes 1 }
    cur := { core := 0, berth := 0, lanes := 1, pc := 0, len := 8 } }

/-- The same with both lanes at the instruction. -/
def readyBoth : State := { ready.modWarp 0 (fun w => w.modLanes 3 (fun v => { v with pc := 0 })) with
  cur := { core := 0, berth := 0, lanes := 3, pc := 0, len := 8 } }

/-- A state with register words set; vector register n of lane l is word 32 n + l here, uniform register n is word
0x800 + n (R20). -/
def withRegs (s : State) (t : List (Nat × Word)) : State :=
  { s with store := t.foldl (fun m e => tput m e.1 e.2) s.store }

/-- The handler window of core 0 serves a trap of berth 0 (R366, R367): lane 0 took the trap `cause` at address 0. -/
def serving (cause : Nat) : State :=
  { ready with
    warps := tput (tput ready.warps 0 { ready.warp 0 with fault := some { cause := .trap, lanes := 1, low := 0 } })
      (windowKey 0) { live := true, block := 1, vregs := 64, sregs := 128, vbase := 0x400000, sbase := 0x402000
                      lanes := laneNumbers.map (fun _ => { exited := false, pc := 0x80, rngs := 1, start := 1 })
                      fmts := lrep fmtStart 8 }
    cores := tput ready.cores 0 { serving := some 0, trapc := BitVec.ofNat 64 (2 ^ 32 + cause) }
    cur := { core := 0, berth := 64, lanes := 0xFFFFFFFF, pc := 0x80, len := 8 } }

/-- The check of `Goes`, by evaluation. -/
def goes (i : Instr) (privileged : Bool) (s : State) : Bool :=
  decide (decodeFault privileged i.isFget (issueCx i s) s = none) && decide ((issueCx i s).act ≠ 0) &&
  decide (emptyFault i.isFget (issueCx i s) s = none) && decide (poisonFault i.isFget (issueCx i s) s = none)

/-- A result that is there and passes a test. -/
def okAnd {ε α : Type} (r : Except ε α) (f : α → Bool) : Bool :=
  match r with
  | .ok a => f a
  | .error _ => false

theorem goes_iff (i : Instr) (p : Bool) (s : State) : goes i p s = true ↔ Goes i p s := by
  simp only [goes, Bool.and_eq_true, decide_eq_true_eq]
  exact ⟨fun h => ⟨h.1.1.1, h.1.1.2, h.1.2, h.2⟩, fun h => ⟨⟨⟨h.decoded, h.active⟩, h.full⟩, h.clean⟩⟩

/-! ## Computing in each lane -/

/-- v4 := v1, v2, v3. -/
def vvv : Long := gridLong 0 0 3 2 1 4 0 0 7 0

theorem witness_IntegerResults : (integers ++ orders).all (fun e => goes (e.1 vvv) false ready) ∧ vvv.mN = 0 ∧
    goes (.iaddc (gridLong 0 0 0 2 1 4 0 0 7 0)) false ready ∧
    goes (.isubb (gridLong 0 0 0x3F 0x202 0x201 0x204 0 0 3 0)) false ready := by decide +kernel

theorem witness_BitAndCompareResults : (bits ++ moves).all (fun e => goes (e.1 vvv) false ready) ∧
    goes (.lop true vvv) false ready ∧ compares.all (fun e => goes (e.1 vvv) false ready) := by decide +kernel

theorem witness_FloatResults : (roundedFloats ++ exactFloats).all (fun e => goes (e.1 vvv) false ready) ∧
    conversions.all (fun e => goes (e.1.1 vvv) false ready && (e.2 vvv).all (fun u =>
      fmtFits u.1 (fmtOfReg (lget fmtStart (ready.warp 0).fmts u.2)))) := by decide +kernel

theorem witness_PackResults :
    goes (.pack (gridLong 0 0 8 2 1 4 0 0 7 0)) false ready ∧
    (layoutC (gridLong 0 0 8 2 1 4 0 0 7 0)).1 = 8 ∧ fmtFits 8 (fmtOfReg (lget fmtStart (ready.warp 0).fmts 0)) ∧
    goes (.unpk (gridLong 0 0 8 2 1 4 0 0 7 0)) false ready := by decide +kernel

theorem witness_FunctionResults : functions.all (fun e => goes (e.1 vvv) false ready) := by decide +kernel

theorem witness_DivisionResults : goes (.idiv vvv) false ready ∧ goes (.irem vvv) false ready ∧ vvv.tN < 4 := by
  decide +kernel

/-- A result of a kind that is to land in v4. -/
def landing (kind : ProdKind) (e : Event) : State :=
  { ready with prods := [(9, { kind := kind, warp := 0, words := [⟨128, 7, false⟩] })], now := e }

theorem witness_ResultsLand :
    tfind (landing .sfu (.sfuResultLanding 0 0)).prods 9 = some { kind := .sfu, warp := 0, words := [⟨128, 7, false⟩] } ∧
    ((landing .sfu (.sfuResultLanding 0 0)).prods.find? (fun e => e.2.warp = 0 && e.2.kind = .sfu)).isSome ∧
    (landing .shfl (.shflResultLanding 9)).now = .shflResultLanding 9 ∧
    (landing .mnext (.producerResultArrival 9)).now = .producerResultArrival 9 ∧
    (ready.warp 0).ended = false := by decide +kernel

/-- A source that is the constant n. -/
def inline (d n : Nat) : Long := gridLong 0 0 0 0 (0x140 + n) d 0 0 3 0

theorem witness_SpecialRegisters :
    goes (.movs (gridLong 0 0 0 0 0x180 4 0 0 7 0)) false ready ∧
    goes (.partset (inline 0 5)) false ready ∧ goes (.partset (inline 0 6)) false ready ∧
    goes (.sets (gridLong 0 0 0 0 1 0x190 0 0 7 0)) false ready ∧
    [0x185, 0x186, 0x198, 0x19F].all (fun d => goes (.sets (inline d 5)) false ready) ∧
    fmtRegOk 0x00070418 = true ∧ fmtRegOk 0 = false ∧
    specialValue ready 0 0 (ready.warp 0) 1 0 = some 1 := by decide +kernel

theorem witness_StateMoves :
    goes (.pmovToRegister (gridLong 0 0 0 0 0 4 0 0 7 0)) false ready ∧
    goes (.pmovToPredicates (gridLong 0 0 0 2 1 0 0 0 7 0)) false ready ∧
    goes (.pmovToPredicates (gridLong 0 0 0 0x202 0x201 0x200 0 0 3 0)) false ready ∧
    goes (.flgrd (gridLong 0 0 0 0 0 4 0 0 7 0)) false ready ∧ goes (.flgclr (inline 0 3)) false ready ∧
    goes (.rng (gridLong 0 0 0 0 0 4 0 0 7 0)) false ready ∧ goes (.rngseed (gridLong 0 0 0 0 1 0 0 0 7 0)) false ready := by
  decide +kernel

/-! ## Short and pair forms -/

theorem witness_ShortResults :
    shorts.all (fun e => goes (e.long (e.fields ⟨2, 1, 4, false, 3⟩)) false ready) ∧
    (let h0 := halfIssue { guard := 3, op := 0x20, d := 4, b := 9 } false ready
     let h1 := halfIssue { guard := 3, op := 0, d := 6, b := 0x101 } false ready
     halfFault h0 ready = none ∧ halfFault h1 ready = none ∧
     ((h0.toList ++ h1.toList).flatMap (fun h => dstKeys h.1 (ready.warp 0))).Nodup) := by decide +kernel

/-- A guard p0 that is false. -/
def unguarded : Long := gridLong 0 0 3 2 1 4 0 0 0 0

theorem witness_NopsOnlyPass :
    goes (.nop unguarded) false ready = false ∧ goes (.nop (gridLong 0 0 0 0 0 0 0 0 7 0)) false ready ∧
    goes (.safe (gridLong 0 0 0 0 0 0 1 0 7 0)) false ready ∧
    (guarded unguarded).all (fun i =>
      decide (decodeFault false i.isFget (issueCx i ready) ready = none) && decide ((issueCx i ready).act = 0)) ∧
    (layered (gridLong 0 0 8 2 1 4 0 0 0 0)).all (fun e =>
      decide (decodeFault false false (issueCx e.1 ready) ready = none) && decide ((issueCx e.1 ready).act = 0)) ∧
    (layered (gridLong 0 0 8 8 1 4 0 0 0 0)).all (fun e => e.2.all (fun u =>
      fmtFits u.1 (fmtOfReg (lget fmtStart (ready.warp 0).fmts u.2)))) := by
  decide +kernel

/-! ## Control flow and traps -/

/-- Lane 1 has exited, so that lane 0 is the last. -/
def lastLane : State := ready.modWarp 0 (fun w => w.modLanes 2 (fun v => { v with exited := true }))

theorem witness_Transfers :
    goes (.bra (gridLong 0 0 0x3FF 0x3FF 0x3FC 0 0 0 7 0)) false ready ∧
    goes (.call (gridLong 0 0 0 0 4 4 0 0 7 0)) false ready ∧
    [.brx (gridLong 0 0 0 0 2 0 0 0 7 0), .callx (gridLong 0 0 0 0 2 4 0 0 7 0),
      .ret (gridLong 0 0 0 0 2 0 0 0 7 0)].all (fun i => goes i false (withRegs ready [(64, 0x42)])) ∧
    goes (.exit (gridLong 0 0 0 0 0 0 0 0 7 0)) false ready ∧ ((ready.warp 0).lane 1).exited = false ∧
    goes (.exit (gridLong 0 0 0 0 0 0 0 0 7 0)) false lastLane ∧ lastLane.outstanding 0 = false ∧
    (lastLane.warp 0).live = true ∧ (lastLane.warp 0).fault = none := by decide +kernel

theorem witness_YieldAndSleep :
    goes (.yield (gridLong 0 0 0 0 0 0 0 0 7 0)) false ready ∧
    goes (.sleep (gridLong 0 0 0 0 0x145 0 0 0 7 0)) false ready ∧ (ready.warp 0).wakeLatch = false ∧
    goes (.sleep (gridLong 0 0 0 0 0x145 0 0 0 7 0)) false (ready.modWarp 0 (fun w => { w with wakeLatch := true })) ∧
    (let x := gridLong 0 0 0 0 0x145 0 0 0 7 0
     goes (.tkwait x) false ready ∧ ready.tick.toNat < ready.opA (issueCx (.tkwait x) ready) 0 ∧
     ready.opA (issueCx (.tkwait x) ready) 0 ≤ ({ ready with tick := 5 } : State).tick.toNat) := by decide +kernel

theorem witness_WarpsWake :
    goes (.wake (gridLong 0 0 0 0 0x141 0 0 0 7 0)) false (ready.modWarp 0 (fun w => { w with asleep := true })) ∧
    ready.warpOf 1 0 = some 0 := by decide +kernel

theorem witness_TrapInstructions :
    goes (.trap (gridLong 0 0 0 0 0x145 0 0 0 7 0)) false ready ∧
    goes (.bkpt (gridLong 0 0 0 0 0 0 0 0 7 0)) false ready := by decide +kernel

/-- A handler is installed for context 0. -/
def handled : State := ready.setSysreg 0x1B0 (BitVec.ofNat 64 (2 ^ 63 + 0x100))

theorem witness_TrapEntryAndReturn :
    (handled.warp 0).live = true ∧ (handled.core 0).serving = none ∧
    (handled.sysreg (0x1B0 + (handled.block 1).ctx)).getLsbD 63 = true ∧
    (handled.sysreg 0x1C8).getLsbD 8 = false ∧ (∀ k ∈ List.range 64, (handled.warp k).fault = none) ∧
    [.tretRetry (inline 0 0), .tretSkip (inline 0 1), .tretHold (inline 0 2), .tretDiscard (inline 0 3)].all
      (fun i => goes i true (serving 0x10)) ∧
    ((serving 0x10).core 0).serving = some 0 ∧ ((serving 0x10).warp 0).ended = false ∧
    fetchWord (serving 0x10) 0 0 false 0 = .ok 0xFC ∧ ((serving 0x10).block 1).over = false ∧
    lget 127 ((serving 0x10).block 1).berths 0 = 0 := by decide +kernel

/-! ## Tiles -/

theorem witness_LaneGroupResults :
    [.vote (gridLong 0 0 0 0 2 3 0 0 7 0), .vote (gridLong 0 0 0 0 2 3 0 0 7 1), .vote (gridLong 0 0 0 0 2 3 0 0 7 2),
      .vote (gridLong 0 0 0 0 2 3 0 0 7 3), .matchLanes (gridLong 0 0 0 0 2 3 0 0 7 0),
      .matchLanes (gridLong 0 0 0 0 2 3 0 0 7 1), .elect (gridLong 0 0 0 0 0 3 0 0 7 0),
      .redux (gridLong 0 0 0 0 2 3 0 0 7 5), .scan (gridLong 0 0 0 0 2 3 0 0 7 13)].all
      (fun i => goes i false readyBoth) ∧
    (List.range 6).all (fun k => goes (.lmask (gridLong 0 0 0 0 (0x140 + k) 3 0 0 7 0)) false readyBoth) := by
  decide +kernel

theorem witness_ShuffleResults : goes (.shfl (gridLong 0 0 3 2 1 4 0 0 7 3)) false readyBoth := by decide +kernel

/-! ## Memory -/

/-- The checks of `Allowed`, by evaluation. -/
def allowed (cx : Ctx) (s : State) (load store : Bool) (z : Nat) (accs : List LaneAcc) : Bool :=
  decide (cx.x.space = 0 → watch s cx load store (accs.map (fun a => (a.lane, a.addr, z))) = .none) &&
  decide (accessFault s cx accs = none) && decide (s.accessHeld cx store z (placesOf accs) = false)

theorem allowed_iff (cx : Ctx) (s : State) (l w : Bool) (z : Nat) (accs : List LaneAcc) :
    allowed cx s l w z accs = true ↔ Allowed cx s l w z accs := by
  simp only [allowed, Allowed, Bool.and_eq_true, decide_eq_true_eq, and_assoc]

/-- Every page that is cached starts at a multiple of 64 KiB. -/
theorem aligned_of (s : State) (h : ∀ e ∈ s.caches, ∀ c ∈ e.2, c.base % 2 ^ 16 = 0) : PagesAligned s := by
  have key : ∀ (t : Table (List Cached)) k, (∀ e ∈ t, ∀ c ∈ e.2, c.base % 2 ^ 16 = 0) →
      ∀ c ∈ tget [] t k, c.base % 2 ^ 16 = 0 := by
    intro t k
    induction t with
    | nil => simp [tget]
    | cons e t ih =>
      obtain ⟨j, v⟩ := e
      intro h c hc
      simp only [tget] at hc
      split at hc
      · exact h (j, v) (by simp) c hc
      · exact ih (fun e he => h e (by simp [he])) c hc
  exact fun k => key s.caches k h

theorem ready_aligned : PagesAligned ready := aligned_of ready (by decide)

theorem ready_wf : Memory.wf ready.mem := by decide +kernel

/-- v2:3 of lane 0 holds an address in memory, or v2 one in the scratchpad. -/
def at_ (a : Nat) : State := withRegs ready [(64, BitVec.ofNat 32 a)]

/-- A memory operand g[v2:3] or l[v2], of order and space `m`. -/
def access (d m : Nat) : Long := gridLong 0 0 0 0 2 d 0 0 7 m

theorem witness_Loads :
    ([(.ld (access 6 0), false, 0x100), (.ld (access 6 1), false, 0x8000), (.ldu (gridLong 0 0 0 0 0x202 0x206 0 0 3 0), false, 0),
      (.gath (gridLong 0 0 0 3 2 6 0 0 7 0), true, 0x100)] : List (Instr × Bool × Nat)).all (fun e =>
      let s := at_ e.2.2
      let cx := issueCx e.1 s
      goes e.1 false s && allowed cx s true false 4 (laneAccs cx s 4 wantLoad (addressOf e.2.1 cx s))) := by
  decide +kernel

/-- An access of lane 0 is under way. -/
def pending (x : Txn) : State :=
  { ready with txns := [(5, x)], now := .loadDataArrival 5 }

def loading (kind : TxnKind) : Txn :=
  { kind := kind, warp := 0, pc := 0, len := 8, x := access 6 0, lanes := 1
    words := [{ lane := 0, index := 0, word := 0x40, va := 0x100, ready := true, value := 9 }]
    addrs := [(0, 0x100)] }

theorem witness_Loads_land :
    ((pending (loading .ld)).warp 0).ended = false ∧ (loading .ld).laneList (loading .ld).cx = [0] ∧
    (loading .gath).words.all (fun y => y.ready && !y.lost && !y.poison) ∧
    (codeKeys 0 (ready.warp 0) 6 1 0).Nodup := by decide +kernel

theorem witness_StoresComplete :
    ([(.st (access 6 0), false, 0x100), (.st (access 6 1), false, 0x8000),
      (.scat (gridLong 0 0 0 3 2 6 0 0 7 0), true, 0x100)] : List (Instr × Bool × Nat)).all (fun e =>
      let s := at_ e.2.2
      let cx := issueCx e.1 s
      let accs := laneAccs cx s 4 wantStore (addressOf e.2.1 cx s)
      goes e.1 false s && allowed cx s false true 4 accs && decide (orderedWords s cx 4 (placesOf accs) = [])) := by
  decide +kernel

/-- An ordered block, and a higher or a lower block of its launch (R222). -/
def orderedAt (index : Nat) : State :=
  let s := at_ 0x100
  let higher : Block := { launch := 1, core := 1, index := index, warps := 1, berths := [0], ordered := true }
  { s with
    blocks := tput (tput s.blocks 1 { s.block 1 with ordered := true, index := 4 }) 2 higher
    caches := tput s.caches 0 [{ probePage with leaf := probePage.leaf ||| 0x400 }] }

/-- The word that a store of half a word names, in an ordered page, and how it stands. -/
def standings (n : NearWord) : List Standing :=
  let s := { orderedAt 5 with near := [(0x40, n)] }
  let cx := issueCx (.st (gridLong 4 0 0 0 2 6 0 0 7 0)) s
  (orderedWords s cx 1 (placesOf (laneAccs cx s 1 wantStore (addressOf false cx s)))).map (standingOf s 0)

theorem witness_StoresComplete_ordered :
    (let s := orderedAt 5
     let cx := issueCx (.st (gridLong 4 0 0 0 2 6 0 0 7 0)) s
     (s.blockOf cx).ordered = true ∧ goes (.st (gridLong 4 0 0 0 2 6 0 0 7 0)) false s ∧
     allowed cx s false true 1 (laneAccs cx s 1 wantStore (addressOf false cx s))) ∧
    standings { held := true, reg := true } = [.held] ∧ standings { claim := 2 } = [.refused] ∧
    standings { claim := 3 } = [.lost] ∧ standings { reqPend := true } = [.asked] ∧ standings {} = [.unasked] := by
  decide +kernel

theorem witness_TileAccesses :
    (let s := at_ 0x100
     let i : Instr := .stt (gridLong 0 0 0 0 2 6 0 0 7 0)
     let cx := issueCx i s
     let base := addressOf false cx s 0
     let elements := laneAccs cx s 4 wantStore (fun l => (base + 16 + l * 4) % 2 ^ 64)
     goes i false s ∧ allowed cx s false true 4 elements ∧ base % 16 = 0 ∧ orderedWords s cx 4 (placesOf elements) = []) ∧
    (let s := at_ 0x100
     let i : Instr := .stt (gridLong 0 0 8 0 2 6 0 0 7 0)
     let cx := issueCx i s
     let version : LaneAcc := ⟨0, 0x100, checkLane s cx 0 16 ⟨needBoth, false⟩ 0x100⟩
     let elements := laneAccs cx s 4 wantStore (fun l => (0x100 + 16 + l * 4 : Nat))
     goes i false s ∧ cx.x.cN / 8 % 2 = 1 ∧ watch s cx true true [(0, 0x100, 4), (0, 0x110, 4)] = .none ∧
     accessFault s cx (version :: elements) = none ∧ s.accessHeld cx true 4 (placesOf elements) = false ∧
     s.accessHeld cx true 4 (placesOf [version]) = false) ∧
    (let s := at_ 0x8000
     let i : Instr := .ldt (gridLong 0 0 8 0 2 6 0 0 7 1)
     let cx := issueCx i s
     let version : LaneAcc := ⟨0, 0x8000, checkLane s cx 1 16 wantLoad 0x8000⟩
     let elements := laneAccs cx s 4 wantLoad (fun l => 0x8010 + l * 4)
     goes i false s ∧ accessFault s cx (version :: elements) = none ∧
     s.accessHeld cx false 4 (placesOf elements) = false ∧ s.accessHeld cx false 4 (placesOf [version]) = false) := by
  decide +kernel

/-- An STT.aon of lane 0 between its steps, its version in the scratchpad or at a home. -/
def tiling (phase : Nat) (global : Bool) : Txn :=
  let page : Phys := { pa := 0x100, leaf := 0x1F, base := 0, size := 2 ^ 16 }
  { loading .stt with
    words := [], phase := phase, args := [(0, 0, 7)]
    vplace := some (if global then .glob page 0x100 else .loc 0 0x8000)
    places := if global then [] else [(0, .loc 0 0x8010)], todo := if global then [32] else []
    addrs := [(32, 0x100)] }

theorem witness_TileAccesses_land :
    (let s := pending (tiling 0 false)
     s.isPoison (storeKey 0 0x8000) = false ∧ (s.word (storeKey 0 0x8000)).getLsbD 0 = false ∧
     ((withRegs s [(0x2000, 1)]).word (storeKey 0 0x8000)).getLsbD 0 = true ∧ s.unacked 0 = false ∧
     s.engineBusy 0 = false ∧ ((ready.warp 0).lane 1).exited = false) ∧
    (let s := { pending (tiling 1 true) with now := .homeAtomic 5 32 }
     (tiling 0 true).addr 32 / 4 = 0x40 ∧ (s.line 2).pulling = none ∧ (s.line 2).stalled = [] ∧ s.lineLocked 2 = false ∧
     s.comingHome 0x40 = false ∧ (s.near_ 0 0x40).reqPend = false ∧ s.owner 0x40 = .unowned ∧
     nmem s.memPoison 0x40 = false ∧ (s.homeCopy 0x40).getLsbD 0 = false ∧
     (({ s with mem := memPutWord s.mem 0x40 1 } : State).homeCopy 0x40).getLsbD 0 = true) ∧
    ([0, 1, 2] : List Nat).all (fun phase =>
      let x : Txn := { loading .ldt with
        phase := phase, vplace := some (.loc 0 0x8000)
        words := [{ lane := 0, index := 1000, word := 0x2000, va := 0x8000, ready := true, value := 2 }] }
      x.vplace.isSome && x.words.all (fun y => y.ready && !y.lost && !y.poison) &&
        decide ((pending x).now = .loadDataArrival 5 ∧ x.tries < 255)) := by
  decide +kernel

/-- An atomic at g[v2:3] or l[v2]: operation 0 in C bits 7..3. -/
theorem witness_AtomicsIssue :
    ([(.atom (gridLong 0 0 0 4 2 6 0 0 7 1), 0x8000, wantAtomic), (.red (gridLong 0 0 0 4 2 0 0 0 7 1), 0x8000, wantAtomic),
      (.cas (gridLong 0 0 0 4 2 6 0 0 7 1), 0x8000, wantAtomic), (.atom (gridLong 0 0 0 4 2 6 0 0 7 0), 0x100, wantAtomic),
      (.cas (gridLong 0 0 0 4 2 6 0 0 7 0), 0x100, wantAtomic)] : List (Instr × Nat × Want)).all (fun e =>
      let s := at_ e.2.1
      let cx := issueCx e.1 s
      goes e.1 false s && allowed cx s true true 4 (laneAccs cx s 4 e.2.2 (fun l => s.opA cx l))) ∧
    (let i : Instr := .red (gridLong 0 0 0 4 2 0 0 0 7 0)
     goes i false (orderedAt 5) ∧ accessFault (orderedAt 5) (issueCx i (orderedAt 5))
       (laneAccs (issueCx i (orderedAt 5)) (orderedAt 5) 4 wantAtomic (fun _ => 0x100)) = none ∧
     ((orderedAt 5).block 1).fixer.length + 1 ≤ 512) ∧
    goes (.fatom (gridLong 0 0 0 4 2 6 0 0 7 0)) false (orderedAt 5) ∧
    goes (.atom (gridLong 0 0 0 4 2 6 0 0 7 0)) false (orderedAt 5) := by decide +kernel

/-- A native fabric atomic: the page at 0 lies in window 0, which is in use and whose port has lanes (R390, R399). -/
def fabricAt (a : Nat) : State :=
  let s := at_ a
  { (s.setSysreg 0x1E0 (BitVec.ofNat 64 (2 ^ 63 + 9))) with
    caches := tput s.caches 0 [{ probePage with leaf := 0x1F + BitVec.ofNat 64 0xC000000000000 }] }

theorem witness_AtomicsIssue_fabric :
    (let s := fabricAt 0x100
     let i : Instr := .fatom (gridLong 0 0 0 4 2 6 0 0 7 0)
     let cx := issueCx i s
     let accs := laneAccs cx s 4 wantAtomic (fun _ => 0x100)
     goes i false s ∧ allowed cx s true true 4 accs ∧ lockRefused .fatom cx s accs = none ∧
     (placesOf accs).all (fun e => match e.2 with | .glob p _ => regionOf p.pa = .fabric | _ => false)) := by
  decide +kernel

def performing (kind : TxnKind) : Txn :=
  { kind := kind, warp := 0, pc := 0, len := 8, x := gridLong 0 0 0 4 2 6 0 0 7 0, lanes := 1, words := []
    args := [(0, 0, 3)], todo := [0], addrs := [(0, 0x100)] }

theorem witness_AtomicsPerform :
    (let s := { pending (performing .atom) with now := .homeAtomic 5 0 }
     (s.line 2).pulling = none ∧ (s.line 2).stalled = [] ∧ s.lineLocked 2 = false ∧ s.comingHome 0x40 = false ∧
     (s.near_ 0 0x40).reqPend = false ∧ s.away 0x40 = false ∧ s.latest 0x40 = some (0, false) ∧
     (performing .atom).addr 0 = 0x100 ∧
     ({ s with registry := [(2, { pulling := some 0 })] }.line 2).pulling.isSome = true ∧
     ({ s with registry := [(2, { stalled := [.read 0x40 4] })] }.line 2).stalled = [.read 0x40 4] ∧
     ({ s with locks := [⟨8, 2, 0⟩] } : State).lineLocked 2 = true ∧
     (List.range 8).any (fun c => 
       let v : Line := { slots := [some { agent := 4, age := 0 }, .none, .none, .none], codes := lrep (BitVec.ofNat 3 c) 32 }
       ({ s with registry := [(2, v)] } : State).owner 0x40 = .agent 4)) ∧
    (let r : Txn := { performing .fatom with todo := [], olds := [(0, 4)] }
     ((pending r).warp 0).ended = false ∧ r.refused = [] ∧ r.words.all (fun y => !y.lost && !y.poison)) := by
  decide +kernel

theorem witness_CacheControls :
    goes (.fence (gridLong 0 0 2 0 0 0 0 0 7 12)) false ready ∧ goes (.inva (gridLong 0 0 2 0 0 0 0 0 7 1)) false ready ∧
    (let x := gridLong 0 0 2 0x144 2 0 0 0 7 0
     let r := gridLong 0 0 2 0x141 0x204 0 0 0 7 0
     let s := withRegs ready [(0x804, 0x100), (0x806, 4)]
     goes (.invr r) false s ∧ goes (.wbr r) false s ∧ goes (.regr x) false (at_ 0x100) ∧
     goes (.pref x) false (at_ 0x100) ∧ goes (.regr x) false (at_ 0x102) ∧
     okAnd (regionPages (issueCx (.wbr r) s) s) (fun ps => !ps.isEmpty) ∧
     okAnd (pagesOf (at_ 0x100) (issueCx (.regr x) (at_ 0x100)) needBoth 0x100 4)
       (fun ps => ps.all (fun p => leafHome p.1.leaf ≠ 3))) := by decide +kernel

theorem witness_Allocations :
    (let i : Instr := .dalloc (gridLong 0 0 0 0 0x150 6 0 0 7 0)
     let cx := issueCx i ready
     let accs := [(⟨0, 0x800, checkLane ready cx 0 4 ⟨needBoth, false⟩ 0x800⟩ : LaneAcc)]
     goes i false ready ∧ allowed cx ready false true 16 accs ∧ orderedWords ready cx 16 (placesOf accs) = []) ∧
    (let i : Instr := .dfree (gridLong 0 0 0 0 2 0 0 0 7 0)
     goes i false ready ∧ goes i false (at_ 0x810) ∧ goes i false (at_ 0x10)) := by decide +kernel

/-! ## Engines -/

/-- COPY l[s8], g[s4:5], 16, s0 with the completion 0: warp 0 is the producer. -/
def copying : State := withRegs ready [(0x808, 0x8000), (0x804, 0x100)]

theorem witness_EnginesAccept :
    (let i : Instr := .copy (gridLong 0 0 0x200 0x150 0x204 0x208 0 0 3 0)
     let cx := issueCx i copying
     goes i false copying ∧ (copying.warp cx.wk).index = (copying.blockOf cx).prodw ∧
     okAnd (planRange copying cx (.loc 0 0x8000) (.glob 0x100) 16) (fun p => !noRoom copying 0 false p.spans) ∧
     noRoom copying 0 false (endRanges (.loc 0 0x8000) (.glob 0x100) 16) = false ∧
     noRoom (copying.setCore 0 { holds := lrep ⟨0, 0, 0, true, 0, 0⟩ 32 }) 0 false (endRanges (.loc 0 0x8000) (.glob 0x100) 16) ∧
     okAnd (planRange copying cx (.loc 0 0x8002) (.glob 0x100) 16) (fun _ => true) = false) ∧
    [.copyt (gridLong 0 0 0x200 0x210 0x204 0x208 0 0 3 0), .copyl (gridLong 0 0 0x200 0 0x141 0x208 0 0 3 0),
      .fput (gridLong 0 0 0x200 0x150 0x208 0x204 0 0 3 0), .fget (gridLong 0 0 0x200 0x150 0x204 0x208 0 0 3 0)].all
      (fun i => goes i false copying) ∧
    (let cx := issueCx (.copyl (gridLong 0 0 0x200 0 0x141 0x208 0 0 3 0)) copying
     okAnd (planList cx (withRegs copying [(0x2000, 16), (0x2002, 0x8040), (0x2004, 0x100)])) (fun _ => true) ||
       !okAnd (planList cx copying) (fun _ => true)) := by decide +kernel

/-- The group table at 0 names group 0 with one member, this package; the descriptor at l:0x8000 asks for one element
of type 2 from address 0x100 to address 0x200. -/
def gathering : State :=
  let s := withRegs ready [(0x808, 0x8000), (0x2000, 2), (0x2001, 12), (0x2002, 0x100), (0x2004, 0x200), (0x2006, 1)]
  { s.setSysreg 0x168 (BitVec.ofNat 64 (2 ^ 63)) with
    mem := memPutWord (memPutWord s.mem 0 1) 2 0x40
    caches := tput s.caches deviceCore [probePage] }

theorem witness_EnginesAccept_collectives :
    ([.collAllReduce, .collReduceScatter, .collAllGather, .collAllToAll] : List (Long → Instr)).all (fun e =>
      let i := e (gridLong 0 0 0x200 0 0 0x208 0 0 3 0)
      let cx := issueCx i gathering
      let d := collDesc gathering 0 0x8000
      goes i false gathering && decide (copyRights cx gathering = none) &&
      !localBad (gathering.blockOf cx) 0x8000 32 && d.clean && decide (d.type = 2 ∧ d.chunk = 12 ∧ d.count = 1) &&
      groupSteady gathering 0 && decide (groupMiss gathering 0 = none) && (groupOf gathering 0).isSome && decide (compFault cx gathering 0 = none) &&
      okAnd (bufferWords gathering cx needLoad 0x100 4) (fun _ => true) &&
      okAnd (bufferWords gathering cx needStore 0x200 4) (fun _ => true) &&
      decide (openColls gathering (collDie 0) < 8)) := by decide +kernel

def copied (mode : CopyMode) (moves : List Move) (e : Event) : State :=
  { ready with copies := [(5, { mode := mode, moves := moves, block := 1 })], now := e, tick := 10 }

def oneMove : Move := ⟨0, 0x8000, [(1, 0x100, 0), (1, 0x101, 1), (1, 0x102, 2), (1, 0x103, 3)]⟩

theorem witness_EnginesProceed :
    (copied .held [] (.copyAtRelease 5)).unacked 0 = false ∧ startsBefore (copied .ready [] (.copyStart 5)) 5 {} = false ∧
    ((copied .running [oneMove] (.engineWriteback 5)).copies.all (fun e => e.2.moves.length = 1 ∧ e.2.port = none)) ∧
    (copied .running [] (.copyCompletion 5)).engines = [] ∧
    ((copied .running [oneMove] (.portGrant 0)).copies.filter (fun e => e.2.port = some 0)) = [] ∧
    awaitsAssist { performing .atom with addrs := [(0, 0xC000000000100)] } 0 = true := by decide +kernel

def collecting (c : Coll) (e : Event) : State := { ready with colls := [(5, c)], now := e, tick := 90000000 }

theorem witness_EnginesProceed_collectives :
    (let c : Coll := { members := [1], count := 2, chunk := 12, type := 2, srcs := [(0, 0x100)], dsts := [(0, 0x200)] }
     tfind (collecting c (.collChunk 5)).colls 5 = some c ∧ (collecting c (.collChunk 5)).unacked 0 = false ∧
     chunkReady (collecting c (.collChunk 5)) (assistOf c.iodie) 5 c = true ∧ c.chunkBursts ≤ 1 ∧
     (writeElements (assistOf c.iodie) 5 { c with matched := true } 1 0 (collecting c (.collChunk 5))).isSome ∧
     (collecting c (.collChunk 5)).engineOpen 5 = false) ∧
    (collecting { mode := .ending 0 } (.collCompletion 5)).engines = [] ∧
    (collecting { members := [1, 2] } (.collPeerTimeout 5)).tick.toNat = 90000000 ∧
    ((collecting { mode := .held 0 } (.holdLimitExpiry 5)).sysreg 0x169).toNat % 2 ^ 32 = 0 := by decide +kernel

/-! ## Registration messages and units -/

/-- Word 0x40 is owned as the code says (R208): core 0 in slot 0. -/
def owned (code : BitVec 3) (e : Event) : State :=
  { ready with
    registry := [(2, { slots := [some { agent := 0, age := 0 }, .none, .none, .none], codes := lrep code 32 })]
    near := [(0x40, { held := true, reg := true, value := 9 })], now := e }

theorem witness_HomesAndOwnersAnswer :
    (owned 0 (.read 0x40 4)).owner 0x40 = .unowned ∧
    (List.range 8).any (fun c => (owned (BitVec.ofNat 3 c) (.read 0x40 4)).owner 0x40 = .agent 0) ∧
    (List.range 8).any (fun c => (owned (BitVec.ofNat 3 c) (.read 0x40 4)).owner 0x40 = .lost) ∧
    (owned 0 (.reg 0x40 4 true 0)).flipping 0x40 = false ∧ ((owned 0 (.reg 0x40 4 true 0)).line 2).freeSlot.isSome ∧
    ((owned 0 (.wb 0x40 0 7 false)).line 2).orderAt 0 = none ∧ agentKind 0 = 0 ∧ coreOfAgent 0 = 0 ∧
    ((owned 0 (.fwd 0x40 0 4)).near_ 0 0x40).held = true ∧ ((owned 0 (.fwd 0x40 0 4)).near_ 0 0x40).reg = true ∧
    coreOfAgent 4 ≠ 0 ∧ clockBelow 3 (ready.near_ 0 0x40).clock = false ∧ (ready.sysreg 0x198).getLsbD 63 = false ∧
    readerAge (readerCode 0 0) = ready.acquires 0 ∧ readerAge (readerCode 0 0) < (acquire 0 0 ready).acquires 0 ∧
    coreOfAgent (readerCode 4 3) = 1 ∧ agentKind (readerCode 4 3) = 0 ∧ readerAge (readerCode 4 3) = 3 ∧
    answerKind homeSource = 0 ∧ answerKind regSource = 1 ∧ answerAgent regSource = homeSource ∧
    ready.fenced = [] ∧ (ready.engine 4 0x40).host = false ∧ (ready.line 2).pulling = none ∧ (ready.line 2).stalled = [] ∧
    ((owned 0 (.fwd 0x40 0 4)).near_ 0 0x40).kept = false ∧ ((owned 0 (.fwd 0x40 0 4)).near_ 0 0x40).err = false ∧
    (let y : Timer := { word := 0x40, owner := 0, kind := 4, other := 5, limit := 0 }
     ({ ready with timers := [(0, y)] } : State).timers.any (fun e =>
       e.2.word = 0x40 && e.2.owner = 0 && e.2.kind = 4 && e.2.other ≠ homeSource)) = true := by
  decide +kernel

/-- An acquire at a scope counts for the cores in it and for no other (R185, R201). -/
theorem test_acquire_counts :
    (acquire 3 17 ready).acquires 16 = 1 ∧ (acquire 3 17 ready).acquires 15 = 0 ∧
    (acquire 4 17 ready).acquires 127 = 1 ∧ (acquire 4 17 ready).acquires 128 = 0 ∧
    (acquire 5 17 ready).acquires 1023 = 1 ∧ (acquire 0 17 ready).acquires 16 = 0 := by decide +kernel

/-- Core 0 sleeps. -/
def asleep (e : Event) : State := { ready.modWarp 0 (fun w => { w with asleep := true }) with now := e }

/-- Tables at 0, 0x20000, 0x40000 and 0x60000 map virtual address 0 to a 64 KiB page (R310, R311). -/
def mapped : State :=
  { ready.setSysreg 0x178 1 with
    mem := memPutWord (memPutWord (memPutWord (memPutWord [] 0 0x20001) 0x8000 0x40001) 0x10000 0x60001) 0x18000 0x1F }

theorem witness_UnitsUpkeep :
    (let y : Timer := { word := 0x40, owner := 0, kind := 0, other := 4, limit := 0 }
     tfind ({ ready with timers := [(7, y)] } : State).timers 7 = some y ∧ y.limit ≤ ready.clk) ∧
    mayGate (asleep (.sleepBitBroadcast 0 true)) 0 = true ∧ ((asleep (.corePowerGate 0)).core 0).gated = false ∧
    wakes (ready.setCore 0 { ready.core 0 with gated := true }) 0 = true ∧
    okAnd (walk (ready.setSysreg 0x178 1) 0 0 0) (fun _ => true) = false ∧
    okAnd (walk mapped 0 0 0) (fun c => c.size = 2 ^ 16) := by decide +kernel

/-! ## The matrix unit -/

/-- A parameter block at l:0x8000 for 16 x 16 x 32 signed bytes, its operands behind it. -/
def multiplying : State :=
  withRegs (at_ 0x8000) [(0x2000, 0x201010), (0x2002, 0x8100), (0x2003, 0x200001), (0x2005, 0x8400), (0x2006, 0x200001)]

/-- The operation and its ranges, where the checks pass. -/
def begun (b : Begun) : Option (MatOp × List Hold) :=
  match b with
  | .ok op hs => some (op, hs)
  | _ => none

theorem witness_MatrixInstructions :
    (let x := gridLong 0 0 0 0 2 0 0 0 7 0
     goes (.mma x) false multiplying ∧ mBusy (multiplying.warp 0).mstat = false ∧
     (begun (begin_ multiplying 0 0 0 0x8000 0 0 0 0 0 false true)).isSome ∧
     (begun (begin_ multiplying 0 1 0 0x8000 0 0 0 0 0 false true)).isNone) := by decide +kernel

/-- The operation stands first in core 0's queue, and its cluster has the token. -/
def stepping (e : Event) (step : Nat) : State :=
  match begun (begin_ multiplying 0 0 0 0x8000 0 0 0 0 0 false true) with
  | some (op, _) =>
    { (multiplying.setCore 0 { matrix := [{ op with step := step }] }).setCluster 0 { token := true } with now := e }
  | none => multiplying

theorem witness_MatrixInstructions_state :
    goes (.mcmp (gridLong 0 0 0 8 1 4 0 0 7 0)) false ready ∧ goes (.mbmp (gridLong 0 0 0 8 1 4 0 0 7 0)) false ready ∧
    goes (.mstep (gridLong 0 0 0 0 0 0x204 0 0 3 0)) false ready ∧ goes (.mtok (gridLong 0 0 0 0 0 0x204 0 0 3 0)) false ready ∧
    goes (.mclr (gridLong 0 0 0 0 0x140 0 0 0 7 0)) false ready ∧
    goes (.macc (gridLong 0 0 2 1 0x140 4 0 0 7 0)) false ready ∧ (ready.block 1).tiles = 1 ∧
    tileOps ready 0 1 0 = [] ∧ tileOps (stepping (.matrixStep 0) 0) 0 1 0 ≠ [] ∧ (ready.word (storeKey 0 0x100000)) = 0 ∧
    goes (.macc (gridLong 0 0 2 1 0x140 4 0 0 7 0)) false (stepping (.matrixStep 0) 0) ∧ goes (.mstepSet (gridLong 0 0 0 0x140 0x141 0 0 0 3 0)) false ready ∧
    goes (.mstepSet (gridLong 0 0 0 0x142 0x141 0 0 0 3 0)) false ready ∧
    mResume (2 ^ 14 + 2 ^ 17) = true ∧ mSteps (2 ^ 14 + 2 ^ 17) = 2 := by decide +kernel

theorem witness_MatrixProceeds :
    (match ((stepping (.matrixStep 0) 0).core 0).matrix with
     | [o] => decide (o.groups[o.step]? = some 0) && decide (o.badMask = none) &&
         decide (stepFault o 0 (stepping (.matrixStep 0) 0) = none) && decide (pbN o.pb ≤ 128) &&
         burstFits (stepping (.matrixStep 0) 0) 0 (stepClocks o.form o.pb) && decide (o.zero = false) &&
         decide (pbBar o.pb = none) && decide (o.groups.length = 4)
     | _ => false) = true ∧
    clusterReady (stepping (.pilotTokenRelease 0) 4) 0 = [] ∧
    (let s := stepping (.pilotTokenCapture 0) 0
     let u := { s.setCluster 0 {} with ring := tput s.ring 0 [(0, 0)] }
     (tget [] u.ring 0).find? (fun (e : Nat × Nat) => e.1 = 0 && decide (e.2 ≤ u.clk)) = some (0, 0) ∧
     (u.cluster 0).token = false ∧ clusterReady u 0 ≠ []) ∧
    (let s := stepping (.pilotTokenRelease 0) 4
     (s.cluster 0).token = true ∧ tokensHeld (s.setCluster 0 {}) 0 + (tget [] s.ring 0).length < tokenCount s 0) ∧
    (begun (restartOp 0 (multiplying.modWarp 0 (fun w => { w with
      restart := ⟨true, 0, 0, 0x8000, 0, 0, 0, 0⟩, mstat := 2 ^ 14 + 2 ^ 18, rerun := true })))).isSome := by
  decide +kernel

/-! ## Manifests, the survivor queue and rays -/

/-- Descriptor g[s4:5] = 0x100 of 12-bit keys and 4-bit offsets (R242), bound as handle 3; a cursor of the block on it
in entry 7, in s8 to s11. -/
def manifested : State :=
  let s := withRegs ready [(0x804, 0x100), (0x808, 0x83000007), (0x80B, 0xFFF)]
  (s.setCluster 0 { bound := [(3, { used := true, desc := 0x100, word0 := 0x40C, live := [default] })]
                    cursors := [(7, ⟨3, 0, 1⟩)] }).setSysreg 0x178 1

def namesBound (s : State) (i : Instr) : Bool :=
  match nameDesc (issueCx i s) s with
  | .bound _ => true
  | _ => false

theorem witness_ManifestInstructions :
    (let s := { manifested with bindings := [(8, ⟨0, 3⟩)] }
     [.mins (gridLong 0 0 3 2 0x204 1 0 0 7 0), .mrem (gridLong 0 0 3 2 0x204 1 0 0 7 0),
       .mdev (gridLong 0 0 0 0x140 0x204 0 0 0 3 0), .mcnt (gridLong 0 0 0 0 0x204 0x20C 0 0 3 0),
       .mopen (gridLong 0 0 0x141 0x140 0x204 0x20C 0 0 3 0)].all (fun i => goes i false s && namesBound s i) ∧
     (tget {} (s.cluster 0).bound 3).used = true ∧ freeCursors (s.cluster 0) ≠ [] ∧
     [.mnext (gridLong 0 0 0 0 0x208 20 0 0 7 0), .mclose (gridLong 0 0 0 0 0x208 0 0 0 3 0)].all
       (fun i => goes i false s) ∧
     tfind (s.cluster 0).cursors (0x83000007 % 2 ^ 8) = some ⟨0x83000007 / 2 ^ 24 % 2 ^ 6, 0, s.blockKey (issueCx .nopShort s)⟩ ∧
     (match firstFrom s 0 false (tget {} (s.cluster 0).bound 3) default 0 with | .over => true | _ => false) = true) ∧
    (let s := { withRegs ready [(0x804, 0x100)] with mem := memPutWord (memPutWord ready.mem 0x40 0x40C) 0x46 1 }
     let i : Instr := .mcnt (gridLong 0 0 0 0 0x204 0x20C 0 0 3 0)
     goes i false s ∧ (match nameDesc (issueCx i s) s with
       | .free w0 pool p => decide (w0 = 0x40C ∧ pool = 1 ∧ p.pa = 0x100) && (bindDesc (issueCx i s) w0 pool p s).isSome
       | _ => false) = true) ∧
    (let s := withRegs ready [(0x804, 0x102)]
     let i : Instr := .mcnt (gridLong 0 0 0 0 0x204 0x20C 0 0 3 0)
     goes i false s ∧ (match nameDesc (issueCx i s) s with | .fail _ => true | _ => false) = true) := by decide +kernel

/-- A record at l:0x8000 of channel 2: rows of 16 bytes, 16 high, 1 slot, the ring at 0x8080 (R263). -/
def queueing : State := withRegs ready [(0x804, 0x8000), (0x806, 0x8400), (0x2000, 0x8080), (0x2001, 0x10), (0x2002, 2)]

/-- The same with the channel bound, so many rows and tiles in it. -/
def queued (rows filled : Nat) : State :=
  queueing.setCluster 0 { channels := [(2, { bound := true, block := 1, recd := 0x8000, ring := 0x8080, shape := 0x10
                                             rows := rows, filled := filled, maps := [lrep 7 16] })] }

theorem witness_SurvivorQueue :
    (let i : Instr := .sqpush (gridLong 0 0 0x141 0x206 0x204 0 0 0 3 0)
     goes i false queueing ∧ (namedChannel queueing (issueCx i queueing) 0x8000).isSome ∧
     recordPoison queueing (issueCx i queueing) 0x8000 = none ∧ localBad (queueing.block 1) 0x8400 512 = false ∧
     (namedChannel ready (issueCx i ready) 0x8004).isNone) ∧
    (let i : Instr := .sqpop (gridLong 0 0 0 0 0x204 6 0 0 7 0)
     goes i false (queued 0 0) ∧ goes i false (queued 0 1)) ∧
    (let i : Instr := .sqflush (gridLong 0 0 0 0 0x204 0x20C 0 0 3 0)
     goes i false (queued 0 0) ∧ goes i false (queued 3 0) ∧
     (match namedChannel (queued 3 0) (issueCx i (queued 3 0)) 0x8000 with
      | some (_, c) => c.bound && decide (c.rows = 3 ∧ c.height = 16) && c.room 13 | none => false) = true) := by
  decide +kernel

def developing (started : Bool) (e : Event) : State :=
  { manifested.modCluster 0 (fun c => { c with develops := [{ handle := 3, unbind := false, take := 0, core := 0, comp := 0, started := started }] }) with
    now := e }

theorem witness_ManifestsProceed :
    (developHeads ((developing false (.develop 0)).cluster 0)).length = 1 ∧
    developHeads ((developing true (.developCompletion 0)).cluster 0) = [] ∧
    ((developing true (.developCompletion 0)).cluster 0).develops.all (fun d => d.started && !compBar d.comp) ∧
    (let p : Push := { id := 4, chan := 2, core := 0, block := 1, rowb := 16, rows := [(0x8400, 0x8080, 0)] }
     p.rowb % 4 = 0 ∧ 0x8080 + p.rowb ≤ 2 ^ 22 ∧ 0x8080 + p.rowb ≤ 0x8400 ∧
     tileWritten (ready.setCluster 0 { pushes := [p] }) { kind := .sqpop, warp := 0, arg := 2, order := 9, arg2 := 0 } = false ∧
     tileWritten ready { kind := .sqpop, warp := 0, arg := 2 } = true) := by decide +kernel

/-- Root record 0x100 and a ray from the origin along x with t from 0 to 1.0 in v8 to v15. -/
def raying : State :=
  withRegs ready [(0x804, 0x100), (8 * 32 + 3 * 32, 0x3F800000), (8 * 32 + 7 * 32, 0x3F800000)]

def ray (mode : RayMode) (cands : List Hit) : Ray where
  mode := mode
  core := 0
  block := 1
  warp := 0
  lane := 0
  slot := 1
  root := 0x100
  flags := 0
  data := [0, 0, 0, 0x3F800000, 0, 0, 0, 0x3F800000]
  cands := cands

theorem witness_RayInstructions :
    (let i : Instr := .rtrc (gridLong 0 0 0x140 0x204 8 0x141 0 0 7 0)
     let cx := issueCx i raying
     goes i false raying ∧ (rayIn raying 1 0 0 1).isNone ∧
     accessFault raying cx [⟨0, 0x100, checkLane raying cx 0 64 wantLoad 0x100⟩] = none) ∧
    (let i : Instr := .rres (gridLong 0 0 0 0 0x141 16 0 0 7 0)
     goes i false raying ∧ (rayIn { raying with rays := [(5, ray .waiting [])] } 1 0 0 1).isSome) ∧
    (let i : Instr := .rahc (gridLong 0 0 0 2 0x141 0 0 0 7 0)
     goes i false raying ∧ goes i false { raying with rays := [(5, ray .candidate [])] }) ∧
    (let i : Instr := .rbver (gridLong 0 0 0 0 0x204 0x20C 0 0 3 0)
     let cx := issueCx i raying
     goes i false raying ∧ raying.lineLocked 2 = false ∧ raying.quiet 0x40 = true ∧ raying.latest 0x40 = some (0, false) ∧
     okAnd (checkLane raying cx 0 64 wantAtomic 0x100) (fun p => match p with | .glob p _ => p.pa = 0x100 | _ => false)) := by
  decide +kernel

/-- RSND with a control word in s4. -/
def sounded (berth : Nat) (control : Word) : State :=
  let s := withRegs (if berth = 64 then serving 0x10 else ready) [(if berth = 64 then 0x402000 / 4 + 4 else 0x804, control)]
  { s with cur := { s.cur with x := gridLong 0 0 0 0 0x204 0x20C 0 0 3 0 } }

theorem witness_SoundingControl :
    ([(0, 0), (0, 4), (64, 1), (64, 0x1102), (64, 0x13), (0, 0x10004), (0, 5)] : List (Nat × Nat)).all (fun e =>
      let s := sounded e.1 (BitVec.ofNat 32 e.2)
      let r : Instr := .rsndInvalidateContext s.cur.x
      goes r false s && decide (s.opA (issueCx r s) 0 = e.2)) := by decide +kernel

theorem witness_RaysProceed :
    (let s := { raying with rays := [(5, ray .waiting [])], now := .rayStart 5 }
     s.unacked 0 = false ∧ (beamOf (ray .waiting []).data).isSome ∧ (beamOf [0, 0, 0, 0, 0, 0, 0, 0]).isNone ∧
     (match engineReads s 0 0 false ((List.range 16).map (fun i => 0x100 + 4 * i)) with | .ok ws => !rootOk ws | _ => true) = true) ∧
    (let s := { raying with rays := [(5, ray .final [])] }
     rayIn s (s.warp 0).block (s.warp 0).index 0 1 = some (5, ray .final [])) := by decide +kernel

/-! ## Synchronisation and time -/

/-- Lane 0 stands at a barrier, lane 1 has exited; the block is ordered, with so many fixer entries (R199, R344). -/
def standing (wait : BarrierWait) (es : List FixEntry) (e : Event) : State :=
  let s := ready.modWarp 0 (fun w => (w.modLanes 2 (fun v => { v with exited := true })).modLanes 1
    (fun v => { v with bar := wait }))
  { s.modBlock 1 (fun b => { b with ordered := true, fixer := es }) with now := e }

def entry : FixEntry := { addr := 0x100, value := 3, op := 0, ty := 0, lane := 0, warp := 0, seq := 1, block := 0 }

theorem witness_BarriersAndFixPoints :
    goes (.bar (gridLong 0 0 2 0 0 0 0 0 7 0)) false ready ∧ goes (.fix (gridLong 0 0 2 0 0 0 0 0 7 0)) false ready ∧
    (let s := standing (.bar 2) [] (.barrierRelease 0)
     (s.warp 0).barrier = some (.bar 2) ∧ gathered s 0 (.bar 2) = true ∧ (s.warp 0).live = true ∧
     participants s 0 (.bar 2) = [0]) ∧
    (ready.warp 0).barrier = none ∧
    (let s := standing (.fix 2) [entry] (.fixPointApply 1)
     (s.warpsOf 1).head? = some 0 ∧ (s.warp 0).barrier = some (.fix 2) ∧ gathered s 0 (.fix 2) = true ∧
     (s.block 1).mode = .running ∧ (s.block 1).fixer ≠ [] ∧ (s.block 1).batch = []) ∧
    (let s := (standing (.fix 2) [] (.fixPointApply 1)).modBlock 1 (fun b => { b with batch := [entry] })
     (s.warpsOf 1).head? = some 0 ∧ (s.warp 0).barrier = some (.fix 2) ∧ gathered s 0 (.fix 2) = true ∧
     (s.block 1).mode = .running ∧ (s.block 1).fixer = [] ∧ (s.block 1).batch = [entry] ∧ (s.near_ 0 0x40).reqPend = false ∧
     s.lowerRetired 1 0 = true ∧ s.quiet 0x40 = true ∧ s.latest 0x40 = some (0, false) ∧
     okAnd (translate s 0 0 false needBoth 0x100) (fun p => p.pa = 0x100)) := by decide +kernel

theorem witness_DependenceCounters :
    goes (.dcinc (gridLong 0 0 0 0x141 0x143 0 0 0 3 0)) false ready ∧
    goes (.dcdec (gridLong 0 0 0 0x141 0x143 0 0 0 3 0)) false ready ∧
    goes (.dcwait (gridLong 0 0 0 0 0x143 0 0 0 7 0)) false ready ∧ tget 0 ready.counters 3 + 1 ≠ (0 : Word) := by
  decide +kernel

/-- A barrier object's address in s4. -/
def objectAt (a : Word) : State := withRegs ready [(0x804, a)]

theorem witness_BarrierObjects :
    [.boinit (gridLong 0 0 2 0x142 0x204 0 0 0 3 0), .boarrv (gridLong 0 0 2 0x142 0x204 0x208 0 0 3 0),
      .bowait (gridLong 0 0 2 0x140 0x204 0 0 0 3 0), .bowait (gridLong 0 0 2 0x142 0x204 0 0 0 3 0),
      .botest (gridLong 0 0 2 0x140 0x204 0x200 0 0 3 0)].all (fun i => goes i false (objectAt 0x8000)) ∧
    (ready.block 1).inScratch 0x8000 = true ∧ ready.inBlock 1 0x8000 = true ∧
    goes (.boinit (gridLong 0 0 2 0x142 0x204 0 0 0 3 0)) false (objectAt 0x8004) ∧
    okAnd (checkLane ready (issueCx (.boinit (gridLong 0 0 2 0x142 0x204 0 0 0 3 0)) ready) 1 16 wantAtomic 0x8004)
      (fun _ => true) = false := by decide +kernel

theorem witness_TickReads :
    goes (.tickrd (gridLong 0 0 0 0 0x140 0x204 0 0 3 0)) false ready ∧
    goes (.tickrd (gridLong 0 0 0 0 0x141 4 0 0 7 0)) false ready ∧
    goes (.movs (gridLong 1 0 0 0 0x191 4 0 0 7 0)) false ready := by decide +kernel

/-- The sheet of a PCRD, due at tick 10, in s16 to s23. -/
def sheet (n : Nat) (kind : ProdKind) : Prod where
  kind := kind
  warp := 0
  words := (List.range n).map (fun i => ⟨0x810 + i, 0, false⟩)
  arg := 0
  arg2 := 10

theorem witness_ClocksAndSheets :
    goes (.pcsel (gridLong 0 0 0 0x141 0x140 0x204 0 0 3 0)) false ready ∧
    goes (.pcsel (gridLong 0 0 0 0x141 0x144 0x204 0 0 3 0)) false ready ∧
    goes (.pcrd (gridLong 0 0 0 0 0x140 0x210 0 0 3 0)) false ready ∧
    (let i : Instr := .lclk (gridLong 0 0 0 0 2 6 0 0 7 0)
     let s := at_ 0x100
     let cx := issueCx i s
     goes i false s ∧ accessFault s cx [⟨0, 0x100, checkLane s cx 0 4 wantLoad 0x100⟩] = none ∧
     watch s cx true false [(0, 0x100, 4)] = .none ∧
     s.accessHeld cx false 4 (placesOf [⟨0, 0x100, checkLane s cx 0 4 wantLoad 0x100⟩]) = false) ∧
    (List.range 512).all (fun c => (ready.core c).events.isEmpty && (ready.core c).counts.isEmpty) ∧
    ((sheet 8 .pcrd).words.map Landing.key).Nodup ∧ ready.selects = [] ∧ presentCores ready ≠ [] ∧
    (ready.core 0).counts = [] ∧ (sheet 1 .lclk).words.length = 1 := by decide +kernel

/-! ## The handler, launches and blocks -/

/-- The handler of core 0 issues with words in s4 to s7 of the window. -/
def handling (w4 : Word) (w5 : Word := 0) : State :=
  withRegs (serving 0x10) [(0x402000 / 4 + 4, w4), (0x402000 / 4 + 5, w5)]

/-- GRPCTL with its control word in s4, of a warp that the handler does not serve. -/
def controlling (berth : Nat) (control : Word) : State :=
  let s := if berth = 64 then handling control else withRegs ready [(0x804, control)]
  { s with cur := { s.cur with x := gridLong 0 0 0 0x140 0x204 0x20C 0 0 3 0 } }

theorem witness_WarpControl :
    (List.range 5).all (fun op =>
      let s := controlling 64 (BitVec.ofNat 32 (op * 2 ^ 8))
      let r : Instr := .grpctlQuery s.cur.x
      goes r true s && decide (s.opA (issueCx r s) 0 / 2 ^ 8 % 8 = op) && decide (s.warpOf 1 0 = some 0) &&
      (s.warp 0).live && !(s.warp 0).ended) ∧
    (controlling 0 0).cur.berth ≠ 64 ∧
    (let i : Instr := .grprd (gridLong 0 0 0 0 0x204 0x20C 0 0 3 0)
     goes i true (handling 0x20400) ∧ targetOf (issueCx i (handling 0x20400)) (handling 0x20400) 0 = some (some 0) ∧
     targetOf (issueCx i (handling 1)) (handling 1) 1 = none ∧ (itemOf 0x20400).exists_ ((handling 0x20400).warp 0) = true ∧
     fitsDst (itemOf 0x20400) 0x20C = true ∧ (itemOf 0x20400).full (handling 0x20400) 0 0 = true) ∧
    (let i : Instr := .grpwr (gridLong 0 0 0 0x141 0x204 0 0 0 7 0)
     goes i true (handling 0x20400) ∧ (itemOf 0x20400).kind = 0 ∧ (itemOf 0x20400).allows (handling 0x20400) 0 0 1 = true ∧
     goes i true (handling 0x100000) ∧ (itemOf 0x100000).kind = 1 ∧
     (itemOf 0x100000).exists_ ((handling 0x100000).warp 0) = true) := by decide +kernel

theorem witness_ContextImages :
    (let i : Instr := .ctxsv (gridLong 0 0 0 0 0x204 0 0 0 3 0)
     let s := (handling 0x200).modBlock 1 (fun b => { b with tiles := 0 })
     goes i true s ∧ goes i true (handling 0x201) ∧ (s.block 1).halting = false ∧
     okAnd (imagePieces (issueCx i s) s 0x200) (fun _ => true) ∧
     okAnd (imagePieces (issueCx i (handling 0x200)) (handling 0x200) 0x200) (fun _ => true) = false ∧
     noProducers s 1 = true ∧ scratchBusy s 1 = false ∧ (s.core 0).serving.map (warpKey 0) = some 0 ∧
     warpKey 0 64 ∉ s.warpsOf 1) ∧
    (let i : Instr := .ctxld (gridLong 0 0 0 0 0x204 0 0 0 3 0)
     goes i true (handling 0x200) ∧ okAnd (loadImage (issueCx i (handling 0x200)) (handling 0x200) 64 0x200)
       (fun ws => !imageFits ((handling 0x200).block 1) ws)) := by decide +kernel

/-- A block whose image is short: one warp without registers, without tile or scratchpad; an image in memory that fits it. -/
def shortBlock (b : Block) : Block := { b with tiles := 0, spSize := 0, vregs := 0, sregs := 0, warps := 1 }

theorem witness_ContextImages_loaded :
    (let i : Instr := .ctxld (gridLong 0 0 0 0 0x204 0 0 0 3 0)
     let h := (handling 0x200).modBlock 1 shortBlock
     let s := { h with mem := memPutWord (memPutWord (memPutWord h.mem 0x80 0x43580001) 0x81 1) 0x84 0 }
     let cx := issueCx i s
     goes i true s ∧ okAnd (loadImage cx s 64 0x200) (fun ws => imageFits (s.block 1) ws && imageNum ws 8 1 = 0) ∧
     okAnd (loadImage cx s (imageWords (s.block 1) 0) 0x200) (fun _ => true) ∧ noProducers s 1 = true ∧ cx.berth = 64 ∧
     (∀ n ∈ (s.block 1).berths, n < 64)) := by decide +kernel

theorem witness_SystemRegisters :
    goes (.sysrd (gridLong 0 0 0 0 0x204 0x208 0 0 3 0)) false (withRegs ready [(0x804, 0x100)]) ∧
    goes (.sysrd (gridLong 0 0 0 0 0x204 0x208 0 0 3 0)) false (handling 0x189) ∧ assigned 0x189 = true ∧
    assigned 0x3FF = false ∧
    (([0x3FF, 0x188, 0x1B8, 0x178, 0x17F, 0x150, 0x153, 0x218] : List Word).all (fun n =>
      goes (.syswr (gridLong 0 0 0 0x141 0x204 0 0 0 3 0)) true (handling n))) ∧ assigned 0x1B8 = true ∧
    (handling 0x188).unacked 0 = false ∧ (handling 0x188).engineBusy 0 = false := by decide +kernel

/-- The queue table is at 0: queue 1 has two slots at 0x400 and takes records; its head is ready (R291). -/
def queues (tail : Word) : State :=
  let s := withRegs ready [(0x804, 0x800), (0x806, 1)]
  { s.setSysreg 0x170 (BitVec.ofNat 64 (2 ^ 63)) with
    mem := memPutWord (memPutWord (memPutWord s.mem 8 0x400) 10 0xC0000001) 11 tail
    caches := tput s.caches deviceCore [probePage] }

theorem witness_LaunchesAccepted :
    (let i : Instr := .launch (gridLong 0 0 0 0x206 0x204 0x208 0 0 3 0)
     goes i false (queues 0) ∧ launchable (queues 0) 1 = true ∧ launchable (queues 0) 2 = false ∧
     okAnd (pagesOf (queues 0) (issueCx i (queues 0)) needLoad 0x800 128)
       (fun ps => decide ((ps.map (fun e => e.2.1)).headD 0 = 0x800)) ∧
     (writeVirtual deviceCore 0 deviceAgent (queues 0) 0x400 (lrep 0 32)).isSome) ∧
    (queues 1).queueStopped 1 = false ∧ (queueDescOf ((descriptorWords (queues 1) 1).getD [])).waiting = 1 ∧
    headReady (queues 1) 1 (queueDescOf ((descriptorWords (queues 1) 1).getD [])) = true ∧
    (nextTake ((queues 1).setQueue 1 { readyAt := some 0 })).isSome ∧ descriptorWords ready 1 = none := by
  decide +kernel

/-- A launch with its record's words. -/
def launched (l : Launch) (e : Event) : State := { ready with launches := tput ready.launches 7 l, now := e, tick := 400000 }

/-- A record of one block of one warp without registers on a die, and one of a gang of two blocks (R293, R296). -/
def single : Launch := { words := lrep 0 8 ++ [0x08000000] ++ lrep 0 7 ++ [1, 0x04000001], blocks := 1 }
def pairGang : Launch := { words := lrep 0 8 ++ [0x10000000] ++ lrep 0 7 ++ [0x24000001, 0x1B000002, 0x12000040], blocks := 2
                           waiting := some 10 }

/-- Every core of die 0 has a near cache of another size than the gang's (R172). -/
def otherwise (l : Launch) (e : Event) : State :=
  { launched l e with cores := (upTo 128).map (fun c => (c, { ncache := 5 })) }

/-- What is empty has a place, wherever the dispatcher wishes it (log entry 11). -/
theorem findRanges_empty : ∀ (l : List (Nat × Nat)) (k : Nat) (used : List (Nat × Nat)),
    (∀ e ∈ l, e.2 = 0 ∧ (e.1 = 4096 ∨ e.1 = 128)) →
    (findRanges (fun k => findRange (Config.placeWish k)) l k used).isSome = true
  | [], _, _, _ => rfl
  | (al, n) :: rest, k, used, h => by
    obtain ⟨h0, hal⟩ := h (al, n) (by simp)
    simp only at h0 hal
    subst h0
    have hfree : rangeFree used ((Config.placeWish k % 0x300000 + al - 1) / al * al) 0 = true := by
      simp only [rangeFree, Bool.and_eq_true, decide_eq_true_eq, List.all_eq_true]
      refine ⟨?_, fun u _ => by simp⟩
      have := Nat.mod_lt (Config.placeWish k) (show 0 < 0x300000 by decide)
      rcases hal with rfl | rfl <;> omega
    have hrest := fun a => findRanges_empty rest (k + 1) ((a, 0) :: used) (fun e he => h e (by simp [he]))
    simp only [findRanges, findRange, hfree, if_true]
    cases hr : findRanges (fun k => findRange (Config.placeWish k)) rest (k + 1) ((((Config.placeWish k % 0x300000 + al - 1) / al * al), 0) :: used) with
    | none => exact absurd (hrest _) (by rw [hr]; simp)
    | some as => rfl

/-- Whether a core can take a block that needs no room. -/
def takesEmpty (s : State) (k : Nat) (l : Launch) (core : Nat) : Bool :=
  let n := needsOf l l.regWord
  let near := (s.core core).ncache
  s.hasCore core && !nmem s.fenced (agentOfCore core) && (near = 0 || near = n.near) &&
  decide (n.warps ≤ (freeBerths s core).length) && !(l.ordered && orderedHere s core) && !keptForGang s core &&
  !reservedElsewhere s k (clusterOfCore core) && (match l.reserved with
    | some cl => clusterOfCore core = cl
    | none => true)

/-- Places for a block that needs no room. -/
theorem findPlaces_single (k : Nat) (used : List (Nat × Nat)) :
    (findPlaces (needsOf single single.regWord) k used).isSome = true := by
  have h := findRanges_empty (lrep (4096, (needsOf single single.regWord).vb) (needsOf single single.regWord).warps ++
    lrep (128, (needsOf single single.regWord).sb) (needsOf single single.regWord).warps ++
    [(4096, (needsOf single single.regWord).sp), (128, (needsOf single single.regWord).tiles * 0x10000)]) k used
    (by decide +kernel)
  obtain ⟨as, h⟩ := Option.isSome_iff_exists.mp h
  simp only [findPlaces, h, Option.isSome_some]

theorem coreTakes_single (s : State) : coreTakes s 7 single = takesEmpty s 7 single := by
  funext core
  have h := findPlaces_single s.fresh (usedRanges s core (needsOf single single.regWord).near)
  refine (?_ : (takesEmpty s 7 single core && _) = takesEmpty s 7 single core)
  rw [h, Bool.and_true]

theorem witness_LaunchesProceed_placement :
    let s := launched single (.blockPlacement 7)
    placesNow s 7 single = true ∧ yields s single = false ∧
    coresFor s 7 single true = some [1] ∧ single.warps = 1 ∧ placesNow s 7 { single with blocks := 0 } = false := by
  have h : coresFor (launched single (.blockPlacement 7)) 7 single true = some [1] := by
    simp only [coresFor, coreTakes_single]
    decide +kernel
  refine ⟨?_, by decide +kernel, h, by decide +kernel, by decide +kernel⟩
  simp only [placesNow, h]
  decide +kernel

/-- A deadline launch that does not fit, of deadline 20 and two variants of a worst case each (R303). -/
def deciding (worst1 worst2 : Nat) : Launch :=
  { words := lrep 0 24 ++ [500000, 0], blocks := 40000, mode := .deciding, variants := [(0, 0, 0, worst1), (0, 0, 0, worst2)] }

theorem witness_LaunchesProceed :
    (let s := otherwise pairGang (.gangReservation 7)
     gangWaits s 7 pairGang = true ∧ pairGang.reserved = none ∧ gangTime s pairGang.waiting = true ∧
     pairGang.gang ≤ (clusterCores s 0).length ∧ reservedElsewhere s 7 0 = false ∧ dieFor pairGang 0 = some 0) ∧
    (let l := { pairGang with reserved := some 0 }
     let s := otherwise l (.gangReservationPreempt 7)
     gangWaits s 7 l = true ∧ l.preempted = false ∧ gangTime s l.waiting = true ∧ (s.blocks.map Prod.fst).Nodup ∧
     (∀ e ∈ s.blocks, e.2.nopre = false)) ∧
    [(10, 10), (100001, 10), (100001, 100001)].all (fun e =>
      let l := deciding e.1 e.2
      let s := launched l (.deadlineDecision 7)
      l.mode = .deciding && !primaryFits 7 s && decide (max (l.deadline - l.word 26) l.ready.toNat ≤ 500000)) ∧
    (let l : Launch := { mode := .deciding }
     primaryFits 7 (launched l (.deadlineDecision 7)) = true) ∧
    (let l : Launch := { mode := .started, blocks := 1, next := 1, ended := 1 }
     let s := launched l (.launchCompletion 7)
     l.mode = .started ∧ l.blocks ≤ l.next ∧ l.next ≤ l.ended ∧ launchUnacked s 7 = false) := by decide +kernel

/-- The block of `ready`, short, in a mode. -/
def switching (mode : BlockMode) (e : Event) : State :=
  { (ready.modWarp 0 (fun w => { w with parked := true })).modBlock 1 (fun b => { shortBlock b with
      mode := mode, clocks := 5000, imageN := 4 * imageWords (shortBlock b) 0 }) with now := e }

theorem witness_LaunchesProceed_switches :
    (let s := (switching .running (.quantumEnd 1)).setSysreg 0x1B8 1
     (s.block 1).mode = .running ∧ (s.sysreg 0x1B8).toNat % 2 ^ 32 = 1 ∧ 1024 ≤ (s.block 1).clocks ∧
     (s.block 1).nopre = false ∧ roomForImage s 1 ≠ none ∧ waitsFor s 0 0 = false) ∧
    (let s := switching .saving (.preemptionSave 1)
     (s.block 1).mode = .saving ∧ savable s 1 = true ∧ roomForImage s 1 = some 0 ∧
     okAnd (writeImage deviceCore 0 deviceAgent { s with caches := tput s.caches deviceCore [probePage] } (saveArea s 0 + 0) ((imageOf (stopMatrix 1 s) 1))) (fun _ => true)) ∧
    (let s := { switching .saved (.blockResume 1) with warps := [], caches := [(deviceCore, [probePage])] }
     mayResume s 1 = true ∧ okAnd (readImage s deviceCore 0 ((s.block 1).imageN / 4) (saveArea s 0 + (s.block 1).image))
       (fun _ => true)) := by decide +kernel

/-- A `NOP.join` at address 0, where lane 0 stands; lane 1 has exited. -/
def joining (e : Event) : State :=
  let s := State.withFetchWord lastLane 64 0x1E119
  { s with warps := lastLane.warps, blocks := lastLane.blocks, now := e }

theorem witness_WarpEvents :
    (let s := joining (.joinRelease 0)
     (s.warp 0).live = true ∧ (List.range 32).all (fun l => ((s.warp 0).lane l).exited || (!((s.warp 0).lane l).released &&
       joinAt s 0 ((s.warp 0).lane l).pc)) ∧ ((s.warp 0).lane 0).exited = false) ∧
    (let s := (ready.modWarp 0 (fun w => { w with idle := 5000 })).modBlock 1 (fun b => { b with wdog := 2 })
     (s.warp 0).live = true ∧ (s.warp 0).ended = false ∧ (s.warp 0).stopped = false ∧ (s.warp 0).fault = none ∧
     (s.block 1).wdog * 1024 ≤ (s.warp 0).idle) ∧
    (let s := (ready.setSysreg 0x1C5 (BitVec.ofNat 64 (2 ^ 63))).setSysreg 0x1C8 0xF0
     breakpointAt s 0 0 = some 1 ∧ s.cur.core * 128 + s.cur.berth = 0 ∧ (s.sysreg 0x1C8).getLsbD 5 = true) ∧
    (let s := ready.modWarp 0 (fun w => { w with asleep := true, sleepTick := 5 })
     (s.warp 0).asleep = true ∧ (s.warp 0).sleepTick = 5 ∧ s.tick = 0) ∧
    (let s := { handled with warps := tput ready.warps 0 { ready.warp 0 with fault := some { cause := .illegal } } }
     (s.core 0).serving = none ∧ s.waiting 0 = some (0, { cause := .illegal }) ∧ (s.sysreg 0x1C8).getLsbD 8 = false ∧
     (s.sysreg (0x1B0 + (s.block (s.warp 0).block).ctx)).getLsbD 63 = true ∧ ready.waiting 0 = none) := by
  decide +kernel

/-! ## The package's edges -/

/-- Entry 0 of the inbound table names node 7 for reading, writing and management (R391). -/
def hosted : State := ready.setSysreg 0x1F0 (BitVec.ofNat 64 (7 * 2 ^ 61 + 7))

theorem witness_TimeAndShutter :
    (1000 * 9 / 5 < 2 ^ 64) ∧ managed hosted = true ∧ managed (hosted.setSysreg 0x1F0 0) = false ∧
    (let s := hosted.setSysreg 0x1D0 (BitVec.ofNat 64 (2 ^ 63))
     (s.sysreg 0x1D0).getLsbD 63 = true ∧ s.stopped = false ∧ (s.sysreg 0x1D1).toNat ≤ s.tick.toNat) ∧
    (let s := { hosted.setSysreg 0x190 (BitVec.ofNat 64 (2 ^ 63)) with servo := { step := true } }
     (s.sysreg 0x190).getLsbD 63 = true ∧ s.servo.step = true ∧ s.tick.toNat < 1000 * 9 / 5) ∧
    (let s := { hosted with stopped := true }
     s.stopped = true ∧ s.halted = false ∧ s.haltWarp = none) := by decide +kernel

theorem witness_PowerAndAlarms :
    ready.power.step = 0 ∧
    (let s := { ready with power := { step := 1, absent := 1 }, tick := 180000000 }
     stepCause s 1 50 20 1000 = false ∧ s.power.absent ≠ 0 ∧ s.power.absent.toNat + 180000000 ≤ s.tick.toNat + 1) ∧
    [0, 1, 2, 3].all (fun r => bitsOf ((ready.setSysreg 0x210 (BitVec.ofNat 64 (r * 2 ^ 62))).sysreg 0x210) 62 2 = r) ∧
    bitsOf ((ready.setSysreg 0x203 0xC0).sysreg (0x200 + 3)) 6 2 = 3 := by decide +kernel

theorem witness_HostWrites :
    managed hosted = true ∧ managed (hosted.setSysreg 0x1F0 0) = false ∧ (hosted.sysreg 0x188).getLsbD 63 = false ∧
    (hosted.sysreg 0x160).getLsbD 63 = false ∧ hosted.flip = none ∧
    (let s := { hosted with flip := some { toHost := false, base := 0, size := 2 ^ 16, limit := 5 }, tick := 5 }
     (s.flip.map (fun f => !f.toHost && decide (f.limit.toNat ≤ s.tick.toNat))) = some true) := by decide +kernel

theorem witness_NodesAnswered :
    admits hosted false 7 = true ∧ admits hosted true 7 = true ∧ admits hosted false 8 = false ∧
    inboundPlace hosted 0x100 4 = true ∧ inboundPlace hosted 0x101 4 = false ∧ inboundPlace hosted 0x100 8 = true ∧
    bitsOf (hosted.sysreg 0x200) 6 2 ≠ 0 ∧ bitsOf ((hosted.setSysreg 0x200 0).sysreg 0x200) 6 2 = 0 ∧
    Memory.wf hosted.mem = true ∧ hosted.stopped = false ∧ hosted.flipping 0x40 = false ∧ hosted.quiet 0x40 = true ∧
    hosted.latest 0x40 = some (0, false) ∧ hosted.latest 0x41 = some (0, false) ∧ nmem hosted.hostBias (0x40 / 2 ^ 14) = false ∧
    hosted.lockQueue = [] ∧ hosted.lineLocked 2 = false ∧ { hosted with locks := [⟨8, 2, 0⟩] }.lineLocked 2 = true ∧
    hosted.heldMsgs = [] := by decide +kernel

theorem witness_ManagementWindow :
    manages hosted false 7 = true ∧ manages hosted true 7 = true ∧ manages hosted false 8 = false ∧
    hosted.mailbox.recovery = false ∧ hosted.mailbox.status ≠ 1 ∧ assigned 0x1B8 = true ∧ assigned 0x3FF = false ∧
    (let s := { hosted with stopped := true, dacsel := BitVec.ofNat 64 (2 * 2 ^ 8) }
     s.stopped = true ∧ dacWarp s = some 0 ∧ (dacItem s).kind = 0 ∧ (dacItem s).exists_ (s.warp 0) = true ∧
     (dacItem s).key 0 (s.warp 0) (dacLane s) = some 64 ∧ (s.warp 0).ended = false ∧ (s.core 0).serving = none) ∧
    dacWarp { hosted with dacsel := BitVec.ofNat 64 (5 * 2 ^ 49) } = none := by decide +kernel

theorem witness_ManagementWindow_recovery :
    let s := { hosted with mailbox := { hosted.mailbox with recovery := true } }
    manages s true 7 = true ∧ manages s false 7 = true ∧ s.mailbox.recovery = true ∧ Config.minimumVersion ≤ Config.minimumVersion :=
  ⟨by decide +kernel, by decide +kernel, rfl, Nat.le_refl _⟩

/-! ## The step -/

/-- The premises of `Chosen` and `WordsAt` about a placed instruction. -/
def standsAt (s : State) (n : Nat) : Bool :=
  let p := (partitionWarps 0 0).foldl (fun s k => parkSafe k s) ((windowKey 0 :: partitionWarps 0 0).foldl noteWaits s)
  !s.powerOff && coreRuns s 0 && decide (chooseWarp p 0 0 = some 0) && decide (candidates p 0 = (1, 0)) &&
  decide (breakpointAt p 0 0 = none) &&
  (List.range n).all (fun j => okAnd (fetchWord p 0 (p.ctxOf 0) false (4 * j)) (fun w => w = memWord s.mem j))

/-- IADD v12, v2, 5 at address 0 (R42, R61). -/
def adding : State := withRegs (State.reset.withFetchWord 64 0x0000_5140_2032_E001) [(64, 7)]

theorem witness_StepRunsDecoded : adding.turn = .issue 0 0 ∧ standsAt adding 2 = true ∧
    decodeWords [memWord adding.mem 0, memWord adding.mem 1] = .ok (.iadd (gridLong 0 0 0 0x145 2 12 1 0 7 0), []) := by
  decide +kernel

/-- The instruction completes and has issued; a watchpoint routed to the debug halt stops it first. -/
theorem witness_StepRunsDecoded_issue :
    (let i : Instr := .iadd (gridLong 0 0 0 0x145 2 12 1 0 7 0)
     let w := adding.aim 0 1 0 8
     (match haltWatch i w with | .halt _ _ => true | _ => false) = false ∧
     ((afterIssue 0 i 1 (nextOf (exec i (w.book 0 1 1)))).warp 0).issued ≠ (adding.warp 0).issued) ∧
    (let s := ((at_ 0x100).setSysreg 0x1C0 (BitVec.ofNat 64 (2 ^ 63 + 2 ^ 62 + 0x100))).setSysreg 0x1C8 1
     (match haltWatch (.ld (access 6 0)) s with | .halt _ _ => true | _ => false) = true) ∧
    clockEdge adding = true ∧ clockEdge { adding with power := { step := 3 }, tick := 1 } = false ∧
    busyPartitions adding = [(0, 0)] := by decide +kernel

theorem witness_UnassignedFault :
    let s := State.reset.withFetchWord 64 (0x2D * 4 + 1)
    s.turn = .issue 0 0 ∧ standsAt s 2 = true ∧ decodeWords [memWord s.mem 0, memWord s.mem 1] = .error .unassigned := by
  decide +kernel

theorem test_step_adds : (nextOf (step adding)).word 384 = 12 ∧ ((nextOf (step adding)).warp 0).lanes.head?.map Lane.pc =
    some 8 := by decide +kernel

/-- A step from a state with the canonical forms. -/
theorem witness_StepKeepsCanonical : Canonical adding ∧ ∃ t, step adding = .next t := by
  refine ⟨⟨by decide +kernel, aligned_of adding (by decide +kernel), by decide +kernel, by decide +kernel⟩, ?_⟩
  have h : (match step adding with | .next _ => true | _ => false) = true := by decide +kernel
  split at h
  · exact ⟨_, by assumption⟩
  · exact absurd h (by decide)

/-! ## Decoding -/

/-- Words of the manual's listing of a kernel with what it writes beside them. -/
def listing : List (List Word × Instr) :=
  [([0x0002_E071, 0x0000_0018], .movs (gridLong 0 0 0 0 0x180 0 1 0 7 0)),
   ([0x8822_6041, 0x2146_5020], .bfx (gridLong 1 0 0x146 0x140 0x208 0x208 1 0 3 0)),
   ([0x080A_6069, 0x0000_5820], .leaw (gridLong 0 0 0 0x160 0x200 0x202 1 0 3 0)),
   ([0x800A_E251, 0x2007_5020], .icmp (gridLong 1 0 7 0x140 0x208 2 1 0 7 1)),
   ([0x5002_4101, 0x0000_0001], .bra (gridLong 0 0 0 0 0x15 0 1 0 2 0)),
   ([0xA826_622B, 0x0000_5FE0, 0x8000_0000], .or (withLiteral 0x8000_0000 (gridLong 0 0 0 0x17F 0x20A 0x209 1 0 3 0))),
   ([0xA002_61E1, 0x0003_50A0], .boinit (gridLong 0 0 3 0x142 0x20A 0 1 0 3 0)),
   ([0x001A_21C1, 0x0140_01E0], .mins (gridLong 0 0 0x140 7 0x200 6 1 0 1 0)),
   ([0x0002_61C5, 0x0000_8260], .mdev (gridLong 0 0 0 0x209 0x200 0 1 0 3 0)),
   ([0x802A_E011, 0x0144_5160], .imad (gridLong 0 0 0x144 0x145 0x208 10 1 0 7 0)),
   ([0x0003_41D9, 0x0003_0000], .bar (gridLong 0 0 3 0 0 0 1 1 2 0)),
   ([0x0002_4115, 0x0000_0000], .exit (gridLong 0 0 0 0 0 0 1 0 2 0)),
   ([0x1842_602D, 0x0000_5254], .shl (gridLong 0 0 0 0x149 0x141 0x210 1 0 3 0)),
   ([0x0832_61CB, 0x017F_8420, 0x0000_03FF], .mopen (withLiteral 0x3FF (gridLong 0 0 0x17F 0x210 0x200 0x20C 1 0 3 0))),
   ([0xC052_E3C9, 0x0000_0020], .mnext (gridLong 0 0 0 0 0x20C 20 1 0 7 0)),
   ([0xC002_65C9, 0x0000_0020], .mclose (gridLong 0 0 0 0 0x20C 0 1 0 3 0)),
   ([0x2056_E16D, 0x0000_4100], .st (gridLong 0 0 0 0x104 2 21 1 0 7 0))]

theorem test_listing_decodes : listing.all (fun e => decide (decodeWords e.1 = .ok (e.2, [])) && decide (WellFormed e.2) &&
    decide (encode e.2 = e.1)) := by decide +kernel

/-- What `EncodingsAgree` assumes, of one instruction and of its words. -/
theorem witness_EncodingsAgree : WellFormed (.mdev (gridLong 0 0 0 0x209 0x200 0 1 0 3 0)) ∧
    decodeWords [0x0002_61C5, 0x0000_8260, 7] = .ok (.mdev (gridLong 0 0 0 0x209 0x200 0 1 0 3 0), [7]) := by
  decide +kernel

/-- Words that the manual works out one field at a time: float, conversion, vote, load, matrix, ray, trap and launch. -/
theorem test_worked_words_decode :
    ([([0x2020_208D, 0x0808_00C0], .ffma (gridLong 0 2 8 3 2 8 0 0 1 0)),
      ([0x200C_F0C1, 0x000C_0C00], .cvt (gridLong 0 0 12 0x30 2 3 0 0 7 8)),
      ([0x200C_E541, 0x0000_0000], .vote (gridLong 0 0 0 0 2 3 0 0 7 2)),
      ([0x2018_E961, 0x2003_1000], .ld (gridLong 1 0 3 0x40 2 6 0 0 7 4)),
      ([0x8000_03B1, 0x0000_0020], .mmaBmp (gridLong 0 0 0 0 0x208 0 0 0 0 0)),
      ([0x8504_E1D1, 0x0140_8100], .rtrc (gridLong 0 0 0x140 0x204 8 0x141 0 0 7 0)),
      ([0x1000_61F1, 0x0000_0014], .tretSkip (gridLong 0 0 0 0 0x141 0 0 0 3 0)),
      ([0x4828_65FD, 0x0000_50E0], .launch (gridLong 0 0 0 0x143 0x204 0x20A 0 0 3 0))] : List (List Word × Instr)).all
      (fun e => decide (decodeWords e.1 = .ok (e.2, []))) := by decide +kernel

/-! ## Ill-formed terms -/

/-- One term for each check that refuses it; two checks are the decoder's own (R41, R58). -/
theorem test_ill_formed :
    [((Instr.exit (gridLong 0 0 1 0 0 0 0 0 7 0)).check, Reject.reservedBits),
     ((Instr.vote (gridLong 0 0 0 0 2 3 0 0 7 9)).check, .modifier),
     ((Instr.fadd (gridLong 7 0 0 2 1 4 0 0 7 0)).check, .typeCode),
     ((Instr.iadd (gridLong 0 0 0 0x1C0 1 4 0 0 7 0)).check, .operandCode),
     ((Instr.leaw (gridLong 0 0 0 0x160 0x201 2 0 0 7 0)).check, .alignment),
     ((Instr.iadd (gridLong 0 0 0 2 1 0x204 0 0 7 0)).check, .uniformRule),
     ((Instr.iadd (gridLong 0 2 0 0x140 1 4 0 0 7 0)).check, .emptyTrap),
     ((Instr.iadd (gridLong 0 0 0 0x17F 1 4 0 0 7 0)).check, .literalUse),
     ((Instr.iadd (withLiteral 5 (gridLong 0 0 0 2 1 4 0 0 7 0))).check, .literalUse),
     ((Instr.pair { safe := false, h0 := { guard := 3, op := 0x20, d := 4, b := 9 },
                    h1 := { guard := 3, op := 0, d := 8, b := 0x101 } }).check, .pairBanks),
     ((Instr.pair { safe := false, h0 := { guard := 3, op := 0x20, d := 4, b := 9 },
                    h1 := { guard := 3, op := 0x3E, d := 6, b := 0x101 } }).check, .unassigned),
     (Instr.reset.check, .notEncoded)].all (fun e => e.1 = some e.2) ∧
    decodeWords [0x0002_E071] = .error .truncated ∧ decodeWords [0x2D * 4 + 1, 0] = .error .unassigned ∧
    (Instr.iadd (gridLong 0 0 0 2 1 4 0 0 7 0)).check = none := by decide +kernel

end Sys2Proof.Tests
end

section
/-! PROOFS. The upkeep of units (R15, R30, R123, R215, R310, R357 to R360) and the values that reset leaves (R400). What
writes at the homes, the logs and the fencing of units leave alone is said once, and the events' lemmas cite it. -/

namespace Sys2Proof.Machine

/-! ## Tables and sets -/

theorem tfind_eq_none {β : Type} (t : Table β) (k : Nat) : tfind t k = none ↔ ∀ e ∈ t, e.1 ≠ k := by
  induction t with
  | nil => simp [tfind]
  | cons e t ih =>
    obtain ⟨j, w⟩ := e
    by_cases h : j = k <;> simp [tfind, h, ih]

@[simp] theorem tfind_tdel_same {β : Type} (t : Table β) (k : Nat) : tfind (tdel t k) k = none := by
  simp [tfind_eq_none, tdel]

/-- A key that a table lacks is in no part of the table either. -/
theorem tfind_none_of_sublist {β : Type} {t u : Table β} {k : Nat} (h : t.Sublist u) (hu : tfind u k = none) :
    tfind t k = none :=
  (tfind_eq_none t k).2 fun e he => (tfind_eq_none u k).1 hu e (h.subset he)

theorem sysreg_setSysreg_same (s : State) (n : Nat) (v : DWord) : (s.setSysreg n v).sysreg n = v := by
  simp [State.sysreg]

theorem sysreg_setSysreg_ne (s : State) {n m : Nat} (v : DWord) (h : m ≠ n) :
    (s.setSysreg n v).sysreg m = s.sysreg m := by
  simp [State.sysreg, tget_tput_ne _ _ _ h.symm]

theorem sysreg_of_sysregs {s t : State} (h : t.sysregs = s.sysregs) (n : Nat) : t.sysreg n = s.sysreg n := by
  rw [State.sysreg, h, State.sysreg]

/-! ## What writes of words and the work of homes leave alone -/

/-- The state without the fields that a write of memory, its registration and the messages about it change (R205 to
R216): where two states agree in this, they differ at the homes only. -/
def State.besideHomes (s : State) : State :=
  { s with mem := [], memPoison := [], near := [], engines := [], registry := [], agenda := [], heldMsgs := []
           timers := [], pins := [], queues := [], fabricOut := [] }

section
variable {s t : State}

theorem fenced_of_besideHomes (h : t.besideHomes = s.besideHomes) : t.fenced = s.fenced :=
  (congrArg State.fenced h :)
theorem sysregs_of_besideHomes (h : t.besideHomes = s.besideHomes) : t.sysregs = s.sysregs :=
  (congrArg State.sysregs h :)

end

variable (s : State)

@[simp] theorem besideHomes_send (e : Event) : (s.send e).besideHomes = s.besideHomes := rfl
@[simp] theorem besideHomes_setLine (n : Nat) (v : Line) : (s.setLine n v).besideHomes = s.besideHomes := rfl
@[simp] theorem besideHomes_homePut (pw : Nat) (v : Word) (b : Bool) :
    (s.homePut pw v b).besideHomes = s.besideHomes := rfl
@[simp] theorem besideHomes_purge (pw : Nat) : (s.purge pw).besideHomes = s.besideHomes := rfl

@[simp] theorem besideHomes_takeHome (pw : Nat) (clock : Bool) : (s.takeHome pw clock).besideHomes = s.besideHomes := by
  simp only [State.takeHome, besideHomes_setLine]
  split
  · split <;> rfl
  · rfl

@[simp] theorem besideHomes_putThrough (a pw : Nat) (v : Word) (b : Bool) :
    (s.putThrough a pw v b).besideHomes = s.besideHomes := by
  simp only [State.putThrough, besideHomes_setLine, besideHomes_homePut, besideHomes_takeHome]
  split
  · rfl
  · exact besideHomes_purge s pw

@[simp] theorem besideHomes_takePin (p : Phys) : (s.takePin p).besideHomes = s.besideHomes := by
  simp only [State.takePin]
  split
  · rfl
  · split <;> rfl

@[simp] theorem besideHomes_wrote (pw : Nat) : (s.wrote pw).besideHomes = s.besideHomes := by
  unfold State.wrote
  split <;> rfl

@[simp] theorem besideHomes_storeThrough (a : Nat) (p : Phys) (w : Word) (b : Bool) :
    (storeThrough a p w b s).besideHomes = s.besideHomes := by
  have h : ((s.takePin p).wrote (p.pa / 4)).besideHomes = s.besideHomes := by simp
  simp only [storeThrough]
  split
  · exact h
  · split
    · exact h
    · simp

/-- Words written by an engine change nothing but the homes. -/
theorem besideHomes_writeVirtual (core ctx a : Nat) (ws : List Word) {s t : State} {va : Nat}
    (h : writeVirtual core ctx a s va ws = some t) : t.besideHomes = s.besideHomes := by
  induction ws generalizing s va with
  | nil => cases h; rfl
  | cons w ws ih =>
    simp only [writeVirtual] at h
    split at h
    · cases h
    · exact (ih h).trans (besideHomes_storeThrough s a _ w false)

@[simp] theorem besideHomes_nextStalled (n : Nat) : (nextStalled n s).besideHomes = s.besideHomes := by
  unfold nextStalled
  split <;> rfl

@[simp] theorem besideHomes_endRecall (n : Nat) : (endRecall n s).besideHomes = s.besideHomes := by
  simp only [endRecall]
  split
  · rfl
  · split
    · split <;> rfl
    · rw [besideHomes_nextStalled, besideHomes_setLine]
      split <;> rfl

@[simp] theorem besideHomes_takeWb (pw a : Nat) (v : Word) (b : Bool) :
    (takeWb pw a v b s).besideHomes = s.besideHomes := by simp [takeWb]

/-- A relation that holds of every step of a fold, and is reflexive and transitive, holds of the fold. -/
theorem foldl_related {α : Type} {R : State → State → Prop} (refl : ∀ s, R s s)
    (trans : ∀ s t u, R s t → R t u → R s u) (f : State → α → State) (hf : ∀ s x, R s (f s x))
    (xs : List α) (s : State) : R s (xs.foldl f s) := by
  induction xs generalizing s with
  | nil => exact refl s
  | cons x xs ih => exact trans _ _ _ (hf s x) (ih _)

/-- A fold whose steps change nothing but the homes changes nothing else. -/
theorem besideHomes_foldl {α : Type} (f : State → α → State) (hf : ∀ s x, (f s x).besideHomes = s.besideHomes)
    (xs : List α) : (xs.foldl f s).besideHomes = s.besideHomes :=
  foldl_related (R := fun s t => t.besideHomes = s.besideHomes) (fun _ => rfl) (fun _ _ _ h k => k.trans h) f hf xs s

@[simp] theorem besideHomes_settleLate (n : Nat) : (settleLate n s).besideHomes = s.besideHomes := by
  refine besideHomes_foldl s _ (fun s x => ?_) _
  obtain ⟨i, v, bad, a⟩ := x
  simp only
  split
  · split
    · exact besideHomes_takeWb ..
    · rfl
  · rfl

@[simp] theorem besideHomes_dropWords (core b : Nat) : (s.dropWords core b).besideHomes = s.besideHomes := by
  refine besideHomes_foldl s _ (fun s pw => ?_) _
  simp only
  split
  · rfl
  · split <;> rfl

/-! ## These writes end timers and start none -/

theorem timers_takeHome (pw : Nat) (clock : Bool) : (s.takeHome pw clock).timers = s.timers := by
  simp only [State.takeHome, State.setLine_timers]
  split
  · split <;> rfl
  · rfl

theorem timers_putThrough (a pw : Nat) (v : Word) (b : Bool) : (s.putThrough a pw v b).timers.Sublist s.timers := by
  simp only [State.putThrough, State.setLine_timers, State.homePut_timers, timers_takeHome]
  split
  · exact .refl _
  · exact List.filter_sublist

theorem timers_takePin (p : Phys) : (s.takePin p).timers = s.timers := by
  simp only [State.takePin]
  split
  · rfl
  · split <;> rfl

theorem timers_wrote (pw : Nat) : (s.wrote pw).timers = s.timers := by
  unfold State.wrote
  split <;> rfl

theorem timers_storeThrough (a : Nat) (p : Phys) (w : Word) (b : Bool) :
    (storeThrough a p w b s).timers.Sublist s.timers := by
  have h : ((s.takePin p).wrote (p.pa / 4)).timers = s.timers := by rw [timers_wrote, timers_takePin]
  rw [← h]
  simp only [storeThrough]
  split
  · exact .refl _
  · split
    · exact .refl _
    · exact timers_putThrough ..

theorem timers_writeVirtual (core ctx a : Nat) (ws : List Word) {s t : State} {va : Nat}
    (h : writeVirtual core ctx a s va ws = some t) : t.timers.Sublist s.timers := by
  induction ws generalizing s va with
  | nil => cases h; exact .refl _
  | cons w ws ih =>
    simp only [writeVirtual] at h
    split at h
    · cases h
    · exact (ih h).trans (timers_storeThrough s a _ w false)

/-! ## Records of the logs (R358, R361, R386) -/

/-- DROP counts in bits 63..32. -/
theorem add_drop_ne (v : DWord) : v + (1 <<< 32) ≠ v := by
  rw [Ne, add_eq_left]
  decide

/-- A record moves HEAD of its ring on, or DROP where there is no writing it, and beside that register changes nothing
but the homes. -/
theorem appendRing_effect (ctl stat : Nat) (ws : List Word) : ∃ (u : State) (v : DWord),
    (s.appendRing ctl stat ws).2 = u.setSysreg stat v ∧
    u.besideHomes = s.besideHomes ∧ u.timers.Sublist s.timers ∧ v ≠ s.sysreg stat := by
  simp only [State.appendRing]
  split
  · exact ⟨s, _, rfl, rfl, .refl _, add_drop_ne _⟩
  next u hu =>
    refine ⟨u, _, rfl, besideHomes_writeVirtual _ _ _ _ hu, timers_writeVirtual _ _ _ _ hu, fun h => ?_⟩
    have low := congrArg (fun x => x.toNat % 2 ^ 32) h
    simp only [bitsOf, BitVec.toNat_ofNat] at low
    omega

/-- An error record changes 0x1A9 and the homes alone (R386). -/
theorem logError_effect (kind detail agent addr : Nat) (virt : Bool) (block ctx warp : Nat) :
    ∃ (u : State) (v : DWord),
    s.logError kind detail agent addr virt block ctx warp = u.setSysreg 0x1A9 v ∧
    u.besideHomes = s.besideHomes ∧ u.timers.Sublist s.timers := by
  unfold State.logError
  split
  · obtain ⟨u, v, h, beside, timers, -⟩ := appendRing_effect s 0x1A8 0x1A9 _
    exact ⟨u, v, h, beside, timers⟩
  · exact ⟨s, _, rfl, rfl, .refl _⟩

/-- With the error log off a record is only counted. -/
theorem logError_off (kind detail agent addr : Nat) (virt : Bool) (block ctx warp : Nat)
    (h : (s.sysreg 0x1A8).getLsbD 63 = false) : s.logError kind detail agent addr virt block ctx warp =
      s.setSysreg 0x1A9 (s.sysreg 0x1A9 + (1 <<< 32)) := by
  simp only [State.logError, h, Bool.false_eq_true, if_false]

/-- The state without the homes and the system registers: logs change nothing in it. -/
def State.besideLogs (s : State) : State := { s.besideHomes with sysregs := [] }

theorem besideLogs_of_besideHomes {s t : State} (h : t.besideHomes = s.besideHomes) : t.besideLogs = s.besideLogs := by
  rw [State.besideLogs, h]; rfl

@[simp] theorem besideLogs_setSysreg (n : Nat) (v : DWord) : (s.setSysreg n v).besideLogs = s.besideLogs := rfl

@[simp] theorem besideLogs_logError (kind detail agent addr : Nat) (virt : Bool) (block ctx warp : Nat) :
    (s.logError kind detail agent addr virt block ctx warp).besideLogs = s.besideLogs := by
  obtain ⟨u, v, h, beside, -⟩ := logError_effect s kind detail agent addr virt block ctx warp
  rw [h, besideLogs_setSysreg, besideLogs_of_besideHomes beside]

theorem timers_logError (kind detail agent addr : Nat) (virt : Bool) (block ctx warp : Nat) :
    (s.logError kind detail agent addr virt block ctx warp).timers.Sublist s.timers := by
  obtain ⟨u, v, h, -, timers⟩ := logError_effect s kind detail agent addr virt block ctx warp
  rw [h]
  exact timers

theorem sysreg_logError_ne (kind detail agent addr : Nat) (virt : Bool) (block ctx warp : Nat) {n : Nat}
    (hn : n ≠ 0x1A9) : (s.logError kind detail agent addr virt block ctx warp).sysreg n = s.sysreg n := by
  obtain ⟨u, v, h, beside, -⟩ := logError_effect s kind detail agent addr virt block ctx warp
  rw [h, sysreg_setSysreg_ne u v hn, sysreg_of_sysregs (sysregs_of_besideHomes beside)]

/-- A record of the replay log or of the tracer moves HEAD or DROP of its own log, and changes nothing else but the
homes and the logs' registers (R358, R361). -/
theorem appendLog_effect (ctl stat : Nat) (ws : List Word) (hs : stat ≠ 0x1A9) :
    (s.appendLog ctl stat ws).sysreg stat ≠ s.sysreg stat ∧
    (s.appendLog ctl stat ws).besideLogs = s.besideLogs := by
  obtain ⟨u, v, h, beside, -, moved⟩ := appendRing_effect s ctl stat ws
  have own : (u.setSysreg stat v).sysreg stat ≠ s.sysreg stat := by rwa [sysreg_setSysreg_same]
  have rest : (u.setSysreg stat v).besideLogs = s.besideLogs := besideLogs_of_besideHomes (t := u) beside
  unfold State.appendLog
  split
  next failed =>
    rw [failed] at h
    subst h
    exact ⟨by rwa [State.logStructure, sysreg_logError_ne _ _ _ _ _ _ _ _ _ hs],
      by rw [State.logStructure, besideLogs_logError, rest]⟩
  next written =>
    rw [written] at h
    subst h
    exact ⟨own, rest⟩

/-! ## Words that are lost (R215, R216) -/

theorem lostLog_of_besideLogs {s t : State} (h : t.besideLogs = s.besideLogs) : t.lostLog = s.lostLog :=
  (congrArg State.lostLog h :)

/-- A word that is lost is logged with the tick of its loss (R217). -/
theorem lostLog_loseWord (pw agent reason : Nat) : (s.loseWord pw agent reason).lostLog =
    tput s.lostLog pw (BitVec.ofNat 64 (reason * 2 ^ 32 + agent), s.tick) :=
  lostLog_of_besideLogs (besideLogs_logError (s.markLost pw agent reason) 4 reason agent (4 * pw) false 0 0 0)

theorem timers_loseWord (pw agent reason : Nat) : (s.loseWord pw agent reason).timers.Sublist s.timers :=
  timers_logError (s.markLost pw agent reason) 4 reason agent (4 * pw) false 0 0 0

theorem withdraw_kept (pw o r : Nat) : (withdraw pw o r s).timers = s.timers ∧ (withdraw pw o r s).tick = s.tick ∧
    (withdraw pw o r s).registry = s.registry := by
  simp only [withdraw]
  split <;> split <;> exact ⟨rfl, rfl, rfl⟩

theorem failWaiting_kept (id pw o reason : Nat) : (failWaiting id pw o reason s).timers = s.timers ∧
    (failWaiting id pw o reason s).lostLog = s.lostLog := by
  unfold failWaiting
  split <;> exact ⟨rfl, rfl⟩

/-- The request of a timer that has expired is withdrawn, and its word is lost if its owner still has it (R215). -/
def timedOut (pw o other reason : Nat) (s : State) : State :=
  let s := withdraw pw o other s
  if s.owner pw = .agent o then s.loseWord pw o reason else s

theorem timedOut_effect (pw o other reason : Nat) :
    (timedOut pw o other reason s).timers.Sublist s.timers ∧
    (s.owner pw = .agent o → (tget (0, 0) (timedOut pw o other reason s).lostLog pw).2 = s.tick) := by
  obtain ⟨timers, tick, registry⟩ := withdraw_kept s pw o other
  have owner : (withdraw pw o other s).owner pw = s.owner pw := by rw [State.owner, State.line, registry]; rfl
  simp only [timedOut, owner]
  split
  · exact ⟨timers ▸ timers_loseWord .., fun _ => by rw [lostLog_loseWord, tget_tput_same, tick]⟩
  next left => exact ⟨timers ▸ .refl _, fun h => absurd h left⟩

theorem expire_running {s : State} {k : Nat} {y : Timer} (hy : tfind s.timers k = some y) (h : s.clk < y.limit) :
    expire k s = s := by
  simp only [expire, hy, h, if_true]

/-- A Fwd times out: its reader is answered Lost (R215, R216). -/
theorem expire_fwd {s : State} {k : Nat} {y : Timer} (hy : tfind s.timers k = some y) (h : y.limit ≤ s.clk)
    (hk : y.kind = 0) : ∃ reason, expire k s = (timedOut y.word y.owner y.other reason
      { s with timers := tdel s.timers k }).send
        (.fillData y.word y.other (BitVec.ofNat 32 reason) false 0 true homeSource) := by
  simp only [expire, hy, if_neg (Nat.not_lt.2 h), hk]
  exact ⟨_, rfl⟩

/-- An Xfer to the home times out: the atomics that await the word fail (R215, R216). -/
theorem expire_home {s : State} {k : Nat} {y : Timer} (hy : tfind s.timers k = some y) (h : y.limit ≤ s.clk)
    (hk : y.kind = 4) : ∃ reason, expire k s = failWaiting y.other y.word y.owner reason
      (timedOut y.word y.owner homeSource reason { s with timers := tdel s.timers k }) := by
  simp only [expire, hy, if_neg (Nat.not_lt.2 h), hk]
  exact ⟨_, rfl⟩

theorem exec_forwardTimerExpiry {s : State} {k : Nat} {y : Timer} (now : s.now = .forwardTimerExpiry k)
    (hy : tfind s.timers k = some y) :
    (s.clk < y.limit → exec .forwardTimerExpiry s = .next s) ∧
    (y.limit ≤ s.clk → y.kind = 0 → ∃ t, exec .forwardTimerExpiry s = .next t ∧ tfind t.timers k = none ∧
      (s.owner y.word = .agent y.owner → (tget (0, 0) t.lostLog y.word).2 = s.tick) ∧
      ∃ why, Event.fillData y.word y.other why false 0 true homeSource ∈ t.agenda) ∧
    (y.limit ≤ s.clk → y.kind = 4 → ∃ t, exec .forwardTimerExpiry s = .next t ∧ tfind t.timers k = none ∧
      (s.owner y.word = .agent y.owner → (tget (0, 0) t.lostLog y.word).2 = s.tick)) := by
  have run : exec .forwardTimerExpiry s = .next (expire k s) := by
    show execForwardTimerExpiry s = _
    rw [execForwardTimerExpiry, now]
  have gone := tfind_tdel_same s.timers k
  rw [run]
  refine ⟨fun h => by rw [expire_running hy h], fun h kind => ?_, fun h kind => ?_⟩
  · obtain ⟨reason, e⟩ := expire_fwd hy h kind
    obtain ⟨timers, lost⟩ := timedOut_effect { s with timers := tdel s.timers k } y.word y.owner y.other reason
    exact ⟨_, rfl, e ▸ tfind_none_of_sublist timers gone, e ▸ lost, BitVec.ofNat 32 reason, by simp [e]⟩
  · obtain ⟨reason, e⟩ := expire_home hy h kind
    obtain ⟨timers, lost⟩ := timedOut_effect { s with timers := tdel s.timers k } y.word y.owner homeSource reason
    obtain ⟨timers', lostLog⟩ := failWaiting_kept
      (timedOut y.word y.owner homeSource reason { s with timers := tdel s.timers k }) y.other y.word y.owner reason
    exact ⟨_, rfl, by rw [e, timers']; exact tfind_none_of_sublist timers gone, by rw [e, lostLog]; exact lost⟩

/-! ## Fenced units (R15) -/

/-- No unit that was fenced is so no longer, and CAPSUM is the same. -/
def FenceKept (s t : State) : Prop :=
  (∀ u, nmem s.fenced u = true → nmem t.fenced u = true) ∧ t.sysreg 0x100 = s.sysreg 0x100

namespace FenceKept

theorem refl (s : State) : FenceKept s s := ⟨fun _ h => h, rfl⟩

theorem trans {s t u : State} (h : FenceKept s t) (k : FenceKept t u) : FenceKept s u :=
  ⟨fun n hn => k.1 n (h.1 n hn), k.2.trans h.2⟩

theorem of_eq {s t : State} (hf : t.fenced = s.fenced) (hr : t.sysregs = s.sysregs) : FenceKept s t :=
  ⟨fun _ h => hf ▸ h, sysreg_of_sysregs hr _⟩

theorem of_besideHomes {s t : State} (h : t.besideHomes = s.besideHomes) : FenceKept s t :=
  of_eq (fenced_of_besideHomes h) (sysregs_of_besideHomes h)

theorem foldl {α : Type} {f : State → α → State} (hf : ∀ s x, FenceKept s (f s x)) (xs : List α) (s : State) :
    FenceKept s (xs.foldl f s) :=
  foldl_related refl (fun _ _ _ => trans) f hf xs s

theorem loseWord (s : State) (pw agent reason : Nat) : FenceKept s (s.loseWord pw agent reason) := by
  refine .trans (t := s.markLost pw agent reason) (of_eq rfl rfl) ⟨fun u h => ?_, ?_⟩
  · have k := congrArg State.fenced
      (besideLogs_logError (s.markLost pw agent reason) 4 reason agent (4 * pw) false 0 0 0)
    exact k ▸ h
  · exact sysreg_logError_ne _ _ _ _ _ _ _ _ _ (by decide)

theorem loseSlot (n agent reason : Nat) (s : State) : FenceKept s (loseSlot n agent reason s) := by
  unfold Machine.loseSlot
  split
  · exact refl s
  · refine foldl (fun s j => ?_) _ _
    split
    · exact loseWord ..
    · exact refl s

theorem fenceAgents (as : List Nat) (s : State) : FenceKept s (fenceAgents as s) := by
  simp only [Machine.fenceAgents]
  refine .trans ?_ (foldl (fun s e => ?_) _ _)
  · exact ⟨fun u h => by simp [nmem_foldl_nput, h], sysreg_of_sysregs rfl _⟩
  · refine foldl (fun s a => ?_) _ _
    exact (loseSlot e.1 a 2 s).trans (of_besideHomes (besideHomes_endRecall ..))

theorem leaveCore (s : State) (core : Nat) : FenceKept s (s.leaveCore core) := by
  unfold State.leaveCore
  split
  · exact refl s
  · exact of_eq rfl rfl

theorem forgetUnits (s : State) (b : Nat) : FenceKept s (s.forgetUnits b) := of_eq rfl rfl

/-- A block that is lost with its core fences no unit and unfences none (R305). -/
theorem loseBlock (s : State) (b : Nat) : FenceKept s (s.loseBlock b 0x09) := by
  simp only [State.loseBlock, State.modCore, ↓reduceIte]
  refine .trans ?_ (leaveCore _ _)
  refine .trans ?_ (foldl (fun s e => ?_) _ _)
  · refine .trans ?_ (of_eq (State.setLaunch_fenced ..) (State.setLaunch_sysregs ..))
    refine .trans ?_ (forgetUnits _ b)
    refine .trans ?_ (of_eq (State.setBlock_fenced ..) (State.setBlock_sysregs ..))
    refine .trans ?_ (of_besideHomes (besideHomes_dropWords ..))
    refine .trans ?_ (of_eq (State.setCore_fenced ..) (State.setCore_sysregs ..))
    refine .trans (t := (s.warpsOf b).foldl _ s) ?_ (of_eq rfl rfl)
    refine foldl (fun s k => ?_) _ _
    exact of_eq rfl rfl
  · split
    · exact refl s
    · exact of_besideHomes (besideHomes_settleLate ..)

theorem fenceCore (c : Nat) (s : State) : FenceKept s (fenceCore c s) := by
  unfold Machine.fenceCore
  refine .trans (t := List.foldl _ (Machine.fenceAgents (agentsOf c) s) _) ?_ (of_eq rfl rfl)
  refine (fenceAgents _ _).trans (foldl (fun s e => ?_) _ _)
  split
  · exact loseBlock ..
  · exact refl s

end FenceKept

theorem fence_keeps (unit : Nat) (s : State) :
    FenceKept { s.setSysreg 0x100 (s.sysreg 0x100 ||| BitVec.ofNat 64 (2 ^ 63)) with fenced := nput s.fenced unit }
      (fence unit s) := by
  unfold fence
  simp only
  split
  · split
    · exact (FenceKept.fenceAgents _ _).trans (.foldl (fun s i => .fenceCore _ s) _ _)
    · exact .refl _
  · split
    · exact .fenceCore _ _
    · exact .fenceAgents _ _

/-- A unit that is fenced off stays on the list, and CAPSUM.FENCED is set. -/
theorem exec_unitFence {s : State} {c : Nat} (now : s.now = .unitFence c) : ∃ t, exec .unitFence s = .next t ∧
    nmem t.fenced c = true ∧ (t.sysreg 0x100).getLsbD 63 = true := by
  have run : exec .unitFence s = .next (fence c s) := by
    show execUnitFence s = _
    rw [execUnitFence, now]
  obtain ⟨fenced, capsum⟩ := fence_keeps c s
  refine ⟨_, run, fenced c (by simp), ?_⟩
  rw [capsum.trans (sysreg_of_sysregs (s := s.setSysreg 0x100 _) rfl _), sysreg_setSysreg_same]
  simp

/-! ## Sleep bits and power gating (R123, R215) -/

theorem exec_sleepBitBroadcast {s : State} {c : Nat} {asleep : Bool} (now : s.now = .sleepBitBroadcast c asleep) :
    exec .sleepBitBroadcast s = .next (sleepBits c asleep s) := by
  show execSleepBitBroadcast s = _
  rw [execSleepBitBroadcast, now]

theorem sleepBits_set {s : State} {c : Nat} (may : mayGate s c = true) (on : (s.core c).gated = false) :
    sleepBits c true s = { s with sleepers := (agentsOf c).foldl nput s.sleepers } := by
  simp only [sleepBits, may, on, Bool.not_false, Bool.and_self, if_true]

theorem sleepBits_clear {s : State} {c : Nat} (on : (s.core c).gated = false) :
    sleepBits c false s = { s with sleepers := (agentsOf c).foldl ndel s.sleepers } := by
  simp only [sleepBits, on, Bool.false_eq_true, if_false]

theorem exec_corePowerGate {s : State} {c : Nat} (now : s.now = .corePowerGate c) (may : mayGate s c = true)
    (bit : nmem s.sleepers (agentOfCore c) = true) :
    exec .corePowerGate s = .next (s.setCore c { s.core c with gated := true }) := by
  show execCorePowerGate s = _
  simp only [execCorePowerGate, now, may, bit, Bool.and_self, if_true, State.modCore]

theorem exec_coreWake {s : State} {c : Nat} (now : s.now = .coreWake c) (off : (s.core c).gated = true)
    (wake : wakes s c = true) : exec .coreWake s =
      .next ((s.setCore c { s.core c with gated := false }).send (.sleepBitBroadcast c false)) := by
  show execCoreWake s = _
  simp only [execCoreWake, now, off, wake, Bool.and_self, if_true, State.modCore]

/-! ## The scrubber (R30, R375) -/

theorem poison_of_besideLogs {s t : State} (h : t.besideLogs = s.besideLogs) : t.poison = s.poison :=
  (congrArg State.poison h :)

theorem store_of_besideLogs {s t : State} (h : t.besideLogs = s.besideLogs) : t.store = s.store :=
  (congrArg State.store h :)

theorem warps_of_besideLogs {s t : State} (h : t.besideLogs = s.besideLogs) : t.warps = s.warps :=
  (congrArg State.warps h :)

/-- Beside the log of its find the scrubber changes at most the poison of the word. -/
theorem besideLogs_scrubWord (c n : Nat) (bad : Bool) : (scrubWord c n bad s).besideLogs =
    { s with poison := if bad then nput s.poison (c * 0x200000 + n) else s.poison : State }.besideLogs := by
  rw [scrubWord, besideLogs_logError]
  cases bad <;> rfl

theorem exec_scrub_store {s : State} {c n : Nat} {bad : Bool} (now : s.now = .scrub c n bad) :
    ∃ t, exec .scrub s = .next t ∧ t.store = s.store ∧ t.warps = s.warps ∧
      ∀ k, t.isPoison k = (s.isPoison k || (bad && decide (k = c * 0x200000 + n))) := by
  have run : exec .scrub s = .next (scrubWord c n bad s) := by
    show execScrub s = _
    rw [execScrub, now]
  have h := besideLogs_scrubWord s c n bad
  have store := store_of_besideLogs h
  have warps := warps_of_besideLogs h
  refine ⟨_, run, store, warps, fun k => ?_⟩
  rw [State.isPoison, poison_of_besideLogs h, State.isPoison]
  cases bad <;> simp [Bool.or_comm]

theorem exec_scrub_memory {s : State} {n : Nat} (now : s.now = .memoryError n)
    (off : (s.sysreg 0x1A8).getLsbD 63 = false) : ∃ t, exec .scrub s = .next t ∧ nmem t.memPoison n = true ∧
      t.mem = s.mem ∧ t.warps = s.warps := by
  have run : exec .scrub s = .next (memoryError n s) := by
    show execScrub s = _
    rw [execScrub, now]
  refine ⟨_, run, ?_⟩
  rw [memoryError, logError_off]
  · exact ⟨by simp, rfl, rfl⟩
  · exact off

theorem exec_scrub_near {s : State} {c n : Nat} (now : s.now = .nearError c n) (held : (s.near_ c n).held = true)
    (filled : (s.near_ c n).fillPend = false) (off : (s.sysreg 0x1A8).getLsbD 63 = false) :
    ∃ t, exec .scrub s = .next t ∧
      t.near_ c n = { s.near_ c n with poison := true, err := (s.near_ c n).reg } ∧ t.warps = s.warps := by
  have run : exec .scrub s = .next (nearError c n s) := by
    show execScrub s = _
    rw [execScrub, now]
  refine ⟨_, run, ?_⟩
  simp only [nearError, held, filled, Bool.not_true, Bool.or_self, Bool.false_eq_true, if_false]
  rw [logError_off]
  · exact ⟨tget_tput_same .., rfl⟩
  · exact off

/-! ## Walks into the translation caches (R310, R314) -/

theorem backed_of_sysregs {s t : State} (h : t.sysregs = s.sysregs) (pa : Nat) : t.backed pa = s.backed pa := by
  have hbm : t.hbmBytes = s.hbmBytes := by simp only [State.hbmBytes, sysreg_of_sysregs h]
  have lpddr : t.lpddrBytes = s.lpddrBytes := by simp only [State.lpddrBytes, sysreg_of_sysregs h]
  rw [State.backed, hbm, lpddr, State.backed]

section
variable {s t : State} (sysregs : t.sysregs = s.sysregs) (pins : t.pins = s.pins) (fenced : t.fenced = s.fenced)
  (ncache : ∀ c, (t.core c).ncache = (s.core c).ncache)
include sysregs pins fenced ncache

theorem leafReason_congr (e : DWord) (base size : Nat) : leafReason t e base size = leafReason s e base size := by
  have room (u : Nat) : pinRoom t u = pinRoom s u := by simp only [pinRoom, ncache]
  have refused : pinRefused t e base size = pinRefused s e base size := by
    simp only [pinRefused, room, State.hasSlice, State.hasCore, sysreg_of_sysregs sysregs, pins, fenced]
  simp only [leafReason, backed_of_sysregs sysregs, refused]

variable {die : Nat} (read : ∀ a, t.walkRead die a = s.walkRead die a)
include read

/-- A walk sees of the state the entries that it reads, the registers, and what pins leave room for. -/
theorem walkFrom_congr (va fuel lvl table : Nat) :
    walkFrom t die va fuel lvl table = walkFrom s die va fuel lvl table := by
  have leaf := leafReason_congr sysregs pins fenced ncache
  induction fuel generalizing lvl table with
  | zero => rfl
  | succ fuel ih => simp only [walkFrom, backed_of_sysregs sysregs, read, leaf, ih]

theorem walk_congr (ctx va : Nat) : walk t die ctx va = walk s die ctx va := by
  simp only [walk, sysreg_of_sysregs sysregs, walkFrom_congr sysregs pins fenced ncache read]

end

/-- Counting an event changes no core but in its counts (R352). -/
theorem count_cores (core ev n : Nat) : ∃ cores, s.count core ev n = { s with cores := cores } ∧
    ∀ c, ((s.count core ev n).core c).ncache = (s.core c).ncache := by
  simp only [State.count]
  split
  · refine ⟨_, rfl, fun c => ?_⟩
    by_cases h : core = c
    · subst h; simp [State.core]
    · simp [State.core, tget_tput_ne _ _ _ h]
  · exact ⟨s.cores, rfl, fun _ => rfl⟩

/-- What is counted is nothing that a walk sees. -/
@[simp] theorem walk_count (core ev n die ctx va : Nat) : walk (s.count core ev n) die ctx va = walk s die ctx va := by
  obtain ⟨cores, h, ncache⟩ := count_cores s core ev n
  rw [h] at ncache ⊢
  exact walk_congr (s := s) (t := { s with cores := cores }) rfl rfl rfl ncache (fun _ => rfl) ctx va

theorem walk_caches (caches : Table (List Cached)) (freeNo die ctx va : Nat) :
    walk { s with caches := caches, freeNo := freeNo } die ctx va = walk s die ctx va :=
  walk_congr (s := s) (t := { s with caches := caches, freeNo := freeNo }) rfl rfl rfl (fun _ => rfl) (fun _ => rfl)
    ctx va

theorem walk_countMiss (core ctx va die ctx' va' : Nat) :
    walk (s.countMiss core ctx va) die ctx' va' = walk s die ctx' va' := by
  simp only [State.countMiss]
  split
  · rfl
  · split <;> simp

theorem walk_evictCached (core ctx va die ctx' va' : Nat) :
    walk (evictCached core ctx va s) die ctx' va' = walk s die ctx' va' := by
  simp only [evictCached]
  split
  · rfl
  · exact walk_caches s _ _ die ctx' va'

/-- Counting a miss leaves everything but the cores' counts. -/
theorem countMiss_kept (core ctx va : Nat) : (s.countMiss core ctx va).caches = s.caches ∧
    (s.countMiss core ctx va).mem = s.mem ∧ (s.countMiss core ctx va).warps = s.warps := by
  have counted (s : State) (ev : Nat) : (s.count core ev 1).caches = s.caches ∧ (s.count core ev 1).mem = s.mem ∧
      (s.count core ev 1).warps = s.warps := by
    obtain ⟨cores, h, -⟩ := count_cores s core ev 1
    rw [h]
    exact ⟨rfl, rfl, rfl⟩
  simp only [State.countMiss]
  split
  · exact ⟨rfl, rfl, rfl⟩
  · split <;> simp only [counted, and_self]

theorem evictCached_kept (core ctx va : Nat) : (evictCached core ctx va s).mem = s.mem ∧
    (evictCached core ctx va s).warps = s.warps := by
  simp only [evictCached]
  split <;> exact ⟨rfl, rfl⟩

theorem cachedIn_evicted (cs : List Cached) (ctx va : Nat) : cachedIn (cs.filter (fun c =>
    !(c.ctx = ctx && decide (c.base ≤ va ∧ va < c.base + c.size)))) ctx va = none := by
  simp only [cachedIn, List.find?_eq_none, List.mem_filter]
  rintro c ⟨-, h⟩
  rw [Bool.not_eq_true'] at h
  rw [h]
  exact Bool.false_ne_true

/-- After an eviction neither the core's cache nor its die's has a translation of the address. -/
theorem evictCached_evicts (core ctx va : Nat) :
    cachedIn (tget [] (evictCached core ctx va s).caches core) ctx va = none ∧
    cachedIn (tget [] (evictCached core ctx va s).caches (1024 + dieOfCore core)) ctx va = none := by
  simp only [evictCached]
  split
  next h => simpa using h
  · refine ⟨?_, by rw [tget_tput_same, cachedIn_evicted]⟩
    by_cases h : 1024 + dieOfCore core = core
    · rw [h, tget_tput_same, cachedIn_evicted]
    · rw [tget_tput_ne _ _ _ h, tget_tput_same, cachedIn_evicted]

theorem mem_cachePut (room wish : Nat) (c : Cached) (cs : List Cached) : c ∈ cachePut room wish c cs :=
  List.mem_cons_self

/-- A translation that is installed is in the core's cache, and in its die's where that is asked for. -/
theorem installCached_installs (core wish : Nat) (die : Bool) (c : Cached) :
    c ∈ tget [] (installCached core wish die c s).caches core ∧
    (die = true → c ∈ tget [] (installCached core wish die c s).caches (1024 + dieOfCore core)) := by
  cases die with
  | false => exact ⟨by simp [installCached, mem_cachePut], fun h => absurd h Bool.false_ne_true⟩
  | true =>
    refine ⟨?_, fun _ => by simp [installCached, mem_cachePut]⟩
    by_cases h : 1024 + dieOfCore core = core
    · simp [installCached, h, mem_cachePut]
    · simp [installCached, tget_tput_ne _ _ _ h, mem_cachePut]

/-- The state in which a walk of a lookup is made: the translations of its address are gone from the caches, and its
miss is counted (R314, R352). -/
def missed (core ctx va : Nat) (s : State) : State :=
  (evictCached core ctx va s.takeFree.2).countMiss core ctx va

theorem walk_missed (core ctx va die : Nat) : walk (missed core ctx va s) die ctx va = walk s die ctx va := by
  rw [missed, walk_countMiss, walk_evictCached]
  exact walk_caches s _ _ die ctx va

theorem missed_kept (core ctx va : Nat) :
    (missed core ctx va s).mem = s.mem ∧ (missed core ctx va s).warps = s.warps := by
  obtain ⟨-, mem, warps⟩ := countMiss_kept (evictCached core ctx va s.takeFree.2) core ctx va
  obtain ⟨mem', warps'⟩ := evictCached_kept s.takeFree.2 core ctx va
  exact ⟨mem.trans mem', warps.trans warps'⟩

theorem missed_evicts (core ctx va : Nat) :
    cachedIn (tget [] (missed core ctx va s).caches core) ctx va = none ∧
    cachedIn (tget [] (missed core ctx va s).caches (1024 + dieOfCore core)) ctx va = none := by
  rw [missed, (countMiss_kept _ core ctx va).1]
  exact evictCached_evicts ..

section
variable {s : State} {c ctx va : Nat}

/-- The open value of a walk says whether it takes the die's translation, ends early, or goes to its end. -/
theorem walkEvent_near {p : Cached} (f : (Config.freeValue s.freeNo).toNat % 4 = 1)
    (near : cachedIn (tget [] s.caches (1024 + dieOfCore c)) ctx va = some p) :
    walkEvent c ctx va s = installCached c ((Config.freeValue s.freeNo).toNat / 4) false p s.takeFree.2 := by
  simp only [walkEvent, State.takeFree, f, near]

theorem walkEvent_early (f : (Config.freeValue s.freeNo).toNat % 4 = 2) :
    (walkEvent c ctx va s).caches = s.caches ∧ (walkEvent c ctx va s).mem = s.mem ∧
      (walkEvent c ctx va s).warps = s.warps := by
  have e : ∃ lows, walkEvent c ctx va s = { s.takeFree.2 with lows := lows } := by
    simp only [walkEvent, State.takeFree, f]
    by_cases root : (s.sysreg (0x178 + ctx % 8)).getLsbD 0
    · exact ⟨_, if_pos root⟩
    · exact ⟨s.lows, if_neg root⟩
  obtain ⟨lows, e⟩ := e
  rw [e]
  exact ⟨rfl, rfl, rfl⟩

/-- Whether a walk goes to its end: nothing ends it early, nor does the die's cache answer. -/
def walksOn (s : State) (c ctx va : Nat) : Prop :=
  let f := (Config.freeValue s.freeNo).toNat % 4
  f = 0 ∨ f = 3 ∨ f = 1 ∧ cachedIn (tget [] s.caches (1024 + dieOfCore c)) ctx va = none

/-- How a walk ends: what it finds is installed, and its low words are forgotten (R312, R314). -/
def walkEnd (s : State) (c ctx va : Nat) : Except Miss Cached → State
  | .ok p => installCached c ((Config.freeValue s.freeNo).toNat / 4) true p { missed c ctx va s with lows := [] }
  | .error _ => { missed c ctx va s with lows := [] }

theorem walkEvent_end (on : walksOn s c ctx va) :
    walkEvent c ctx va s = walkEnd s c ctx va (walk s (dieOfCore c) ctx va) := by
  rw [← walk_missed]
  obtain f | f | ⟨f, near⟩ := on
  · simp only [walkEvent, State.takeFree, f]; rfl
  · simp only [walkEvent, State.takeFree, f]; rfl
  · simp only [walkEvent, State.takeFree, f, near]; rfl

variable (now : s.now = .translationWalk c ctx va)
include now

theorem exec_translationWalk : exec .translationWalk s = .next (walkEvent c ctx va s) := by
  show execTranslationWalk s = _
  rw [execTranslationWalk, now]

theorem exec_translationWalk_ok (on : walksOn s c ctx va) {p : Cached} (found : walk s (dieOfCore c) ctx va = .ok p) :
    ∃ t, exec .translationWalk s = .next t ∧ p ∈ tget [] t.caches c ∧
      p ∈ tget [] t.caches (1024 + dieOfCore c) ∧ t.lows = [] ∧ t.mem = s.mem ∧ t.warps = s.warps := by
  refine ⟨_, exec_translationWalk now, ?_⟩
  rw [walkEvent_end on, found]
  obtain ⟨own, die⟩ := installCached_installs { missed c ctx va s with lows := [] } c
    ((Config.freeValue s.freeNo).toNat / 4) true p
  exact ⟨own, die rfl, rfl, missed_kept s c ctx va⟩

theorem exec_translationWalk_error (on : walksOn s c ctx va) {m : Miss}
    (failed : walk s (dieOfCore c) ctx va = .error m) : ∃ t, exec .translationWalk s = .next t ∧
      cachedIn (tget [] t.caches c) ctx va = none ∧
      cachedIn (tget [] t.caches (1024 + dieOfCore c)) ctx va = none ∧ t.lows = [] ∧ t.mem = s.mem ∧
      t.warps = s.warps := by
  refine ⟨_, exec_translationWalk now, ?_⟩
  rw [walkEvent_end on, failed]
  obtain ⟨own, die⟩ := missed_evicts s c ctx va
  exact ⟨own, die, rfl, missed_kept s c ctx va⟩

theorem exec_translationWalk_near {p : Cached} (f : (Config.freeValue s.freeNo).toNat % 4 = 1)
    (near : cachedIn (tget [] s.caches (1024 + dieOfCore c)) ctx va = some p) :
    ∃ t, exec .translationWalk s = .next t ∧ p ∈ tget [] t.caches c ∧ t.mem = s.mem ∧ t.warps = s.warps := by
  refine ⟨_, exec_translationWalk now, ?_⟩
  rw [walkEvent_near f near]
  exact ⟨(installCached_installs _ c _ false p).1, rfl, rfl⟩

theorem exec_translationWalk_early (f : (Config.freeValue s.freeNo).toNat % 4 = 2) :
    ∃ t, exec .translationWalk s = .next t ∧ t.caches = s.caches ∧ t.mem = s.mem ∧ t.warps = s.warps :=
  ⟨_, exec_translationWalk now, walkEvent_early f⟩

end

/-! ## Records of the replay log and of the tracer (R357 to R360) -/

theorem exec_replayRecord {s : State} {c line writer clock rclk block cw : Nat} {tick : DWord}
    (now : s.now = .replayRecord c line writer clock rclk block cw tick) : ∃ t, exec .replayRecord s = .next t ∧
      t.sysreg 0x199 ≠ s.sysreg 0x199 ∧ t.warps = s.warps ∧ t.store = s.store := by
  have run : ∃ ws, exec .replayRecord s = .next (s.appendLog 0x198 0x199 ws) := by
    show ∃ ws, execReplayRecord s = _
    rw [execReplayRecord, now]
    exact ⟨_, rfl⟩
  obtain ⟨ws, run⟩ := run
  obtain ⟨moved, rest⟩ := appendLog_effect s 0x198 0x199 ws (by decide)
  exact ⟨_, run, moved, warps_of_besideLogs rest, store_of_besideLogs rest⟩

/-- Hop times use up open values alone. -/
theorem hopTimes_effect (hops : List Bool) : ∃ n, (hopTimes hops s).2 = { s with freeNo := n } := by
  induction hops generalizing s with
  | nil => exact ⟨s.freeNo, rfl⟩
  | cons h hops ih =>
    cases h with
    | false => exact ih s
    | true => exact ih s.takeFree.2

theorem samples_of_besideLogs {s t : State} (h : t.besideLogs = s.besideLogs) : t.samples = s.samples :=
  (congrArg State.samples h :)

/-- The sample of a request goes, and its record, with open values for the hops, is appended. -/
theorem tracerSample_appends {s : State} {k : Nat} {x : Sample} (now : s.now = .tracerSample k)
    (hx : tfind s.samples k = some x) : ∃ n ws, exec .tracerSample s = .next
      ({ s with samples := tdel s.samples k, freeNo := n }.appendLog 0x1A0 0x1A1 ws) := by
  have run : ∃ hops ws, exec .tracerSample s = .next
      ((hopTimes hops { s with samples := tdel s.samples k, freeNo := s.freeNo + 1 }).2.appendLog 0x1A0 0x1A1 ws) := by
    show ∃ hops ws, execTracerSample s = _
    simp only [execTracerSample, now, hx]
    exact ⟨_, _, rfl⟩
  obtain ⟨hops, ws, run⟩ := run
  obtain ⟨n, times⟩ := hopTimes_effect { s with samples := tdel s.samples k, freeNo := s.freeNo + 1 } hops
  exact ⟨n, ws, times ▸ run⟩

theorem exec_tracerSample {s : State} {k : Nat} {x : Sample} (now : s.now = .tracerSample k)
    (hx : tfind s.samples k = some x) : ∃ t, exec .tracerSample s = .next t ∧ tfind t.samples k = none ∧
      t.sysreg 0x1A1 ≠ s.sysreg 0x1A1 ∧ t.warps = s.warps ∧ t.store = s.store := by
  obtain ⟨n, ws, run⟩ := tracerSample_appends now hx
  obtain ⟨moved, rest⟩ :=
    appendLog_effect { s with samples := tdel s.samples k, freeNo := n } 0x1A0 0x1A1 ws (by decide)
  have warps := warps_of_besideLogs rest
  have store := store_of_besideLogs rest
  exact ⟨_, run, by rw [samples_of_besideLogs rest, tfind_tdel_same], moved, warps, store⟩

/-! ## The obligations -/

/-- Settles O29: each event's clause is the lemma about its instruction above. -/
theorem unitsUpkeep : Obligations.UnitsUpkeep := by
  intro s c n
  refine ⟨fun k y now hy => exec_forwardTimerExpiry now hy,
    fun now may on => by rw [exec_sleepBitBroadcast now, sleepBits_set may on, agentsOf],
    fun now on => by rw [exec_sleepBitBroadcast now, sleepBits_clear on, agentsOf],
    exec_corePowerGate, exec_coreWake, exec_unitFence, fun bad => exec_scrub_store, exec_scrub_memory, exec_scrub_near,
    fun ctx va now => ⟨fun p => exec_translationWalk_near now, exec_translationWalk_early now, ?_, ?_, ?_⟩,
    fun line writer clock rclk block cw tick => exec_replayRecord, fun k x => exec_tracerSample⟩
  · exact fun p f near => exec_translationWalk_ok now (.inr (.inr ⟨f, near⟩))
  · exact fun p f => exec_translationWalk_ok now (f.imp_right .inl)
  · exact fun m f => exec_translationWalk_error now (f.imp_right .inl)

/-! ## Reset -/

/-- The masks of present cores of a PF-KF9-P448: all 16 in the first 7 clusters of each die (R11, R16). -/
theorem resetP448_cores : ∀ k < 32, ∀ i < 16,
    ((State.resetOf Config.partP448).sysreg (0x110 + k)).getLsbD i = decide (k % 8 < 7) := by
  decide

theorem reset_inbound_rights : ∀ n < 16, 1 ≤ n → State.reset.sysreg (0x1F0 + n) = 0 := by
  decide

theorem hasCore_resetP448 (c : Nat) :
    (State.resetOf Config.partP448).hasCore c = decide (c < 512 ∧ c / 16 % 8 < 7) := by
  by_cases h : c < 512
  · simp only [State.hasCore, resetP448_cores (c / 16) (by omega) (c % 16) (by omega), h, decide_true, Bool.true_and,
      true_and]
  · simp only [State.hasCore, h, decide_false, Bool.false_and, false_and]

/-- Settles O58: reset's tables are empty or short lists, and the capability registers of the cores are read mask by
mask. -/
theorem resetValues : Obligations.ResetValues := by
  refine ⟨rfl, fun _ => rfl, fun _ => rfl, fun _ => rfl, fun _ => rfl, fun _ => rfl, fun c => ?_, rfl, ?_, ?_, ?_, ?_,
    fun n lo hi => reset_inbound_rights n hi lo, ?_, rfl, rfl, rfl, ?_, ?_, ?_, hasCore_resetP448⟩
  · simp [State.reset, State.resetOf, tget, eq_comm]
  all_goals decide

end Sys2Proof.Machine
end

section
/-! PROOFS. Pending results (R26, R107, R127) land. -/

namespace Sys2Proof.Machine

open Sys2Proof.Safety

theorem tfind_tdel_ne {β : Type} (t : Table β) {k j : Nat} (h : j ≠ k) : tfind (tdel t k) j = tfind t j := by
  induction t with
  | nil => rfl
  | cons e t ih =>
    obtain ⟨i, v⟩ := e
    by_cases hk : i = k
    · subst hk; simpa [tdel, tfind, h.symm] using ih
    · by_cases hj : i = j <;> simp_all [tdel, tfind]

/-- A warp with a lane that has not exited does not end (R121). -/
theorem reap_of_unended {s : State} {wk : Nat} (h : (s.warp wk).ended = false) : s.reap wk = s := by
  simp [State.reap, h]

/-- What landing a pending result comes to while its warp has a lane that has not exited. -/
theorem landProd_eq {s : State} {k : Nat} {p : Prod} (hp : tfind s.prods k = some p)
    (unended : (s.warp p.warp).ended = false) :
    s.landProd k = { s.landAll p.words with prods := tdel s.prods k }.raiseFlags p.warp p.flags := by
  have same : (({ s.landAll p.words with prods := tdel s.prods k } : State).raiseFlags p.warp p.flags).warp p.warp =
      { s.warp p.warp with flags := (s.warp p.warp).flags ||| p.flags } := by
    rw [State.raiseFlags, warp_modWarp_same]
    exact congrArg (fun w : Warp => { w with flags := w.flags ||| p.flags }) (landAll_warp s p.words p.warp)
  simp only [State.landProd, hp]
  exact reap_of_unended (by rw [same]; exact unended)

/-- A pending result lands, and nothing else changes while its warp has a lane that has not exited (R26). -/
theorem landProd_landed {s : State} {k : Nat} {p : Prod} (hp : tfind s.prods k = some p)
    (distinct : (p.words.map Landing.key).Nodup) (unended : (s.warp p.warp).ended = false) :
    Safety.Landed s (s.landProd k) k p := by
  rw [landProd_eq hp unended]
  have warp := landAll_warp s p.words
  have rest := landAll_rest s p.words
  have values := landAll_landed s p.words distinct
  have kept := landAll_kept s p.words
  generalize s.landAll p.words = u at *
  refine ⟨values, kept, ⟨tfind_tdel_same _ _, fun j hj => tfind_tdel_ne _ hj⟩, ?_, fun j hj => ?_, fun a => ?_, ?_⟩
  · rw [← warp]; exact warp_modWarp_same ..
  · rw [← warp]; exact warp_modWarp_ne _ _ hj
  · rw [rest]; rfl
  · rw [rest]; rfl

/-- Settles O7: each event lands its result as `landProd` does. -/
theorem resultsLand : Obligations.ResultsLand := by
  intro s k p hp distinct unended
  have landed := landProd_landed hp distinct unended
  refine ⟨fun core berth now warp oldest => ⟨_, ?_, landed⟩, fun now kind clock => ⟨_, ?_, landed⟩,
    fun now kind => ⟨_, ?_, landed⟩⟩
  · show execSfuResultLanding s = _
    simp only [execSfuResultLanding, now, landSfu, ← warp, oldest]
  · show execShflResultLanding s = _
    simp [execShflResultLanding, now, landKind, hp, kind, clock]
  · show execProducerResultArrival s = _
    simp only [execProducerResultArrival, now, resultArrival, hp, kind]

end Sys2Proof.Machine
end

section
/-! PROOFS. The issue of a long form up to its own effect (R40, R59, R365), and the completion of instructions that write
results, lanes or uniform predicates at issue. -/

namespace Sys2Proof.Machine

open Sys2Proof.Safety

/-! ## The issue of a long form -/

theorem issueCx_of_info {i : Instr} {f : Info} (hi : i.info = some f) (s : State) :
    issueCx i s = Ctx.of f.x f.shape s := by simp only [issueCx, hi]

/-- With nothing against it, an issue performs the instruction's own effect. -/
theorem issueOf_of_goes {i : Instr} {priv : Bool} {act : Ctx → State → State} {s : State} {f : Info}
    (hi : i.info = some f) (go : Goes i priv s) : issueOf i priv act s = act (issueCx i s) s := by
  obtain ⟨decoded, active, full, clean⟩ := go
  rw [issueCx_of_info hi] at *
  simp only [issueOf, hi]
  exact issueWith_effect f.x f.shape priv i.isFget act s decoded active full clean

/-- A long form whose guard is false in every lane only passes its group (R40). -/
theorem issueOf_of_idle {i : Instr} {priv : Bool} {act : Ctx → State → State} {s : State} {f : Info}
    (hi : i.info = some f) (decoded : decodeFault priv i.isFget (issueCx i s) s = none)
    (idle : (issueCx i s).act = 0) : issueOf i priv act s = s.advance (issueCx i s) := by
  rw [issueCx_of_info hi] at *
  simp only [issueOf, hi]
  exact issueWith_idle f.x f.shape priv i.isFget [] [] act s (by simp only [firstFault, decoded]) idle

/-! ## Changing a warp twice -/

theorem tput_tput_same {β : Type} (t : Table β) (k : Nat) (v w : β) : tput (tput t k v) k w = tput t k w := by
  induction t with
  | nil => simp [tput]
  | cons e t ih =>
    obtain ⟨j, u⟩ := e
    by_cases h : k < j
    · simp [tput, h]
    · by_cases e : j = k <;> simp [tput, h, e, ih]

theorem modWarp_modWarp (s : State) (k : Nat) (f g : Warp → Warp) :
    (s.modWarp k f).modWarp k g = s.modWarp k (fun w => g (f w)) := by
  show { s with warps := tput (tput s.warps k (f (s.warp k))) k (g ((s.modWarp k f).warp k)) } = _
  rw [tput_tput_same, warp_modWarp_same]; rfl

theorem advance_modWarp_id (s : State) (cx : Ctx) : (s.modWarp cx.wk id).advance cx = s.advance cx := by
  rw [advance_eq, advance_eq, modWarp_modWarp]; rfl

/-! ## Completion -/

section
variable {i : Instr} {s t : State} {fw : Warp → Warp} {value : Nat → Nat} {flags : FlagMask}
  {change : Nat → Lane → Lane} {uniform : Warp → Warp}

/-- The issuing warp changed and its group passed, after writes of the store alone: what becomes of the warps, and that
nothing else changes. -/
theorem advance_changed {cx : Ctx} (stored : t = { s with store := t.store, empty := t.empty, poison := t.poison })
    (lanes : ∀ j, (fw (s.warp cx.wk)).lanes[j]? = (s.warp cx.wk).lanes[j]?.map (change j))
    (length : (fw (s.warp cx.wk)).lanes.length = (s.warp cx.wk).lanes.length)
    (warp : fw (s.warp cx.wk) = { uniform (s.warp cx.wk) with
      lanes := (fw (s.warp cx.wk)).lanes
      flags := (s.warp cx.wk).flags ||| flags })
    (only : ∀ w, uniform w = { w with qpreds := (uniform w).qpreds, qbusy := (uniform w).qbusy }) :
    let u := (t.modWarp cx.wk fw).advance cx
    LanesPassed cx (s.warp cx.wk) (u.warp cx.wk) change ∧
      (u.warp cx.wk).qpreds = (uniform (s.warp cx.wk)).qpreds ∧ (u.warp cx.wk).qbusy = (uniform (s.warp cx.wk)).qbusy ∧
      WarpKept cx s u flags ∧ RestKept cx s u := by
  dsimp only
  have same : ∀ k, t.warp k = s.warp k := fun k => by rw [stored]; rfl
  have access : (t.modWarp cx.wk fw).accessAt cx.wk cx.pc = s.accessAt cx.wk cx.pc := by rw [stored]; rfl
  obtain ⟨passed, count, left⟩ := advance_spec (t.modWarp cx.wk fw) cx
  simp only [warp_modWarp_same, same] at passed count left
  simp only [latchAfter, warp_modWarp_same, same, access] at left
  refine ⟨⟨count.trans length, fun l v hv => ?_⟩, ?_, ?_, ?_, ⟨fun k hk => ?_, fun a => ?_, ?_⟩⟩
  · rw [passed, lanes, hv]; rfl
  · rw [left, warp]
  · rw [left, warp]
  · rw [only] at warp
    rw [WarpKept, left, warp]; rfl
  · rw [advance_eq, warp_modWarp_ne _ _ hk, warp_modWarp_ne _ _ hk, same]
  · rw [stored]; rfl
  · rw [stored]; rfl

/-- Words of the store written, the issuing warp changed and its group passed: the shape of every instruction that is
over at its issue. -/
theorem completes_of_stored (stored : t = { s with store := t.store, empty := t.empty, poison := t.poison })
    (results : ∀ l ∈ evalLanes (issueCx i s), Holds t (dstOf i s l) (value l))
    (words : WordsKept s t (dstKeys (issueCx i s) (s.warp (issueCx i s).wk)))
    (lanes : ∀ j, (fw (s.warp (issueCx i s).wk)).lanes[j]? = (s.warp (issueCx i s).wk).lanes[j]?.map (change j))
    (length : (fw (s.warp (issueCx i s).wk)).lanes.length = (s.warp (issueCx i s).wk).lanes.length)
    (warp : fw (s.warp (issueCx i s).wk) = { uniform (s.warp (issueCx i s).wk) with
      lanes := (fw (s.warp (issueCx i s).wk)).lanes
      flags := (s.warp (issueCx i s).wk).flags ||| flags })
    (only : ∀ w, uniform w = { w with qpreds := (uniform w).qpreds, qbusy := (uniform w).qbusy }) :
    Completes i s ((t.modWarp (issueCx i s).wk fw).advance (issueCx i s)) value flags change uniform := by
  obtain ⟨passed, qpreds, qbusy, warp, rest⟩ := advance_changed stored lanes length warp only
  exact ⟨results, words, passed, qpreds, qbusy, warp, rest⟩

/-- Results written, and beside them nothing but the group's passing. -/
theorem completes_of_results {g : Nat → LaneOut} (code : (issueCx i s).uni = false → (issueCx i s).x.dN < 0x200)
    (values : ∀ l ∈ evalLanes (issueCx i s), (g l).value = value l) :
    Completes i s ((s.landAll (regLandings (issueCx i s) (s.warp (issueCx i s).wk)
      ((evalLanes (issueCx i s)).map (fun l => (l, g l))))).advance (issueCx i s)) value 0 (fun _ v => v) id := by
  obtain ⟨results, words⟩ := landAll_results (issueCx i s) s (s.warp (issueCx i s).wk) g code
  rw [← advance_modWarp_id]
  refine completes_of_stored (landAll_rest s _) (fun l hl => values l hl ▸ results l hl) words ?_ rfl ?_ (fun _ => rfl)
  · simp
  · simp

end

/-- An instruction without a register destination writes no word. -/
theorem dstOf_wordless {i : Instr} {s : State}
    (none : (issueCx i s).sh.dst.writes (issueCx i s).sh (issueCx i s).x = 0) (l : Nat) : dstOf i s l = [] := by
  simp [dstOf, none, codeKeys_eq, vkeys, skeys, upTo]

theorem holds_nil (t : State) (v : Nat) : Holds t [] v := by
  simp [Holds, State.regs, ofWords, Nat.mod_one]

/-- The issuing warp changed and its group passed, and no word written. -/
theorem completes_wordless {i : Instr} {s : State} {fw : Warp → Warp} {value : Nat → Nat} {flags : FlagMask}
    {change : Nat → Lane → Lane} {uniform : Warp → Warp}
    (none : (issueCx i s).sh.dst.writes (issueCx i s).sh (issueCx i s).x = 0)
    (lanes : ∀ j, (fw (s.warp (issueCx i s).wk)).lanes[j]? = (s.warp (issueCx i s).wk).lanes[j]?.map (change j))
    (length : (fw (s.warp (issueCx i s).wk)).lanes.length = (s.warp (issueCx i s).wk).lanes.length)
    (warp : fw (s.warp (issueCx i s).wk) = { uniform (s.warp (issueCx i s).wk) with
      lanes := (fw (s.warp (issueCx i s).wk)).lanes
      flags := (s.warp (issueCx i s).wk).flags ||| flags })
    (only : ∀ w, uniform w = { w with qpreds := (uniform w).qpreds, qbusy := (uniform w).qbusy }) :
    Completes i s ((s.modWarp (issueCx i s).wk fw).advance (issueCx i s)) value flags change uniform :=
  completes_of_stored rfl (fun l _ => by rw [dstOf_wordless none]; exact holds_nil s _)
    (fun _ _ => ⟨rfl, rfl, rfl⟩) lanes length warp only

/-- Lanes of the issuing warp changed one by one: what a fold over the active lanes comes to. -/
theorem completes_lanes {i : Instr} {s : State} {value : Nat → Nat} (f : Nat → Lane → Lane)
    (none : (issueCx i s).sh.dst.writes (issueCx i s).sh (issueCx i s).x = 0) :
    Completes i s ((s.modWarp (issueCx i s).wk (fun w => (lanesOf (issueCx i s).act).foldl
      (fun w l => w.modLane l (f l)) w)).advance (issueCx i s)) value 0
      (fun l v => if (issueCx i s).act.getLsbD l then f l v else v) id := by
  refine completes_wordless none (fun j => ?_) (foldl_modLane_length f _ _) ?_ (fun _ => rfl)
  · simp only [foldl_modLane_lanes f _ (lanesOf_nodup _), mem_lanesOf]
  · simpa using foldl_modLane_rest f _ _

/-- An instruction that only passes its group completes. -/
theorem completes_advance {i : Instr} {s : State} {value : Nat → Nat}
    (none : (issueCx i s).sh.dst.writes (issueCx i s).sh (issueCx i s).x = 0) :
    Completes i s (s.advance (issueCx i s)) value 0 (fun _ v => v) id := by
  rw [← advance_modWarp_id]
  exact completes_wordless none (by simp) rfl (by simp) (fun _ => rfl)

theorem valOut_value (v : Nat) : (valOut v).value = v := rfl

/-- Of the instructions whose destination makes them uniform, a vector one names no uniform register (R48). -/
theorem vector_code {i : Instr} {s : State} (kind : (issueCx i s).uni = decide (0x200 ≤ (issueCx i s).x.dN)) :
    (issueCx i s).uni = false → (issueCx i s).x.dN < 0x200 := by
  simp [kind]

end Sys2Proof.Machine
end

section
/-! PROOFS. Special registers, predicates, FLAGS and random states (R32 to R36, R95 to R97, R108, R109, R132). -/

namespace Sys2Proof.Machine

open Sys2Proof.Safety Sys2Proof.Rules

/-! ## Special registers -/

/-- R32's table. -/
theorem special_of_specialValue {s : State} {core berth : Nat} {w : Warp} {l n : Nat} {v : DWord}
    (h : specialValue s core berth w l n = some v) : s.special core berth w n l = v := by
  have placed : berth < 64 → berth ≠ handlerBerth := fun lt e => by simp [e, handlerBerth] at lt
  unfold specialValue at h
  split at h
  case h_2 | h_12 | h_13 =>
    obtain ⟨lt, ⟨⟩⟩ := Option.ite_none_right_eq_some.1 h
    simp [State.special, placed lt, warpWord]
  case h_11 =>
    cases h
    cases e : (s.block w.block).ordered <;> simp [State.special, ordOf, e]
  case h_19 =>
    dsimp only at h
    split_ifs at h with level fmt
    · obtain ⟨lo, hi⟩ := level
      cases h
      interval_cases n <;> rfl
    · obtain ⟨lo, hi⟩ := fmt
      cases h
      interval_cases n <;> rfl
  all_goals cases h; rfl

/-- R36's conditions, with the sign bit on the side where the statement has it. -/
theorem fmtRegOk_iff (v : Word) : fmtRegOk v = true ↔
    (4 ≤ v.toNat % 16 ∧ v.toNat % 16 ≤ 8) ∧ v.toNat / 2 ^ 8 % 16 ≤ v.toNat % 16 - v.toNat / 16 % 2 ∧
      v.toNat / 2 ^ 20 % 4 ≠ 3 ∧ (v.toNat / 2 ^ 20 % 4 = 0 → 2 ≤ v.toNat / 2 ^ 8 % 16) := by
  have sign : v.toNat / 2 ^ 4 % 2 < 2 := Nat.mod_lt _ (by decide)
  simp only [fmtRegOk, Bool.and_eq_true, decide_eq_true_eq, Bool.not_eq_true', Bool.and_eq_false_imp,
    decide_eq_false_iff_not, Nat.not_lt, show (16 : Nat) = 2 ^ 4 from rfl]
  omega

/-- A zero random state stores 1 (R35). -/
theorem seeded_eq (v : Nat) : seeded v = storedState (BitVec.ofNat 64 v) := by
  have zero : BitVec.ofNat 64 v = 0 ↔ v % 2 ^ 64 = 0 := by
    rw [← BitVec.toNat_inj, BitVec.toNat_ofNat]; rfl
  simp only [seeded, storedState, zero]

section
variable {x : Long} {s : State}

theorem exec_movs (go : Goes (.movs x) false s) :
    exec (.movs x) s = .next (movsLanes (issueCx (.movs x) s) s) :=
  congrArg Host.Outcome.next (issueOf_of_goes rfl go)

theorem exec_partset (go : Goes (.partset x) false s) :
    exec (.partset x) s = .next (partsetWarp (issueCx (.partset x) s) s) :=
  congrArg Host.Outcome.next (issueOf_of_goes rfl go)

theorem exec_sets (go : Goes (.sets x) false s) :
    exec (.sets x) s = .next (setsLanes (issueCx (.sets x) s) s) :=
  congrArg Host.Outcome.next (issueOf_of_goes rfl go)

end

/-- SETS of RNGS (R35, R97): each active lane's own value. -/
theorem setsLanes_rngs {cx : Ctx} {s : State} (n : specialOf cx.x.dN = 0x10) : setsLanes cx s =
    (s.modWarp cx.wk (fun w => (lanesOf cx.act).foldl (fun w l =>
      w.modLane l (fun v => { v with rngs := storedState (BitVec.ofNat 64 (s.opA cx l)) })) w)).advance cx := by
  simp only [setsLanes, n, if_true, seeded_eq]

/-- SETS of another register: once, unless R33 or R36 refuses the value. -/
theorem setsLanes_once {cx : Ctx} {s : State} (n : specialOf cx.x.dN ≠ 0x10) : setsLanes cx s =
    if setsRefused (specialOf cx.x.dN) (s.opA cx 0) then s.raise cx.wk (s.trapOf cx .illegal 0 cx.group 0)
    else (s.modWarp cx.wk (fun w => w.setSpecial (specialOf cx.x.dN) (s.opA cx 0))).advance cx := by
  unfold setsLanes
  dsimp only
  rw [if_neg n]

theorem setsRefused_part (v : Nat) : setsRefused 5 v = true ↔ v % 8 ∈ [0, 6, 7] := by
  simp [setsRefused, or_assoc]

theorem setsRefused_fmt {n : Nat} (lo : 0x18 ≤ n) (hi : n ≤ 0x1F) (v : Nat) :
    setsRefused n v = !fmtRegOk (BitVec.ofNat 32 v) := by
  simp [setsRefused, show n ≠ 5 by omega, lo, hi]

theorem setSpecial_fmt {n : Nat} (lo : 0x18 ≤ n) (w : Warp) (v : Nat) : w.setSpecial n v =
    { w with fmts := lupd (fun _ => BitVec.ofNat 32 v &&& 0x003FCF1F) w.fmts (n - 0x18) } := by
  rw [Warp.setSpecial, if_neg (by omega), if_neg (by omega)]; rfl

theorem partsetWarp_eq (cx : Ctx) (s : State) : partsetWarp cx s =
    if s.opA cx 0 % 8 ∈ [0, 6, 7] then s.raise cx.wk (s.trapOf cx .illegal 0 cx.group 0)
    else (s.modWarp cx.wk (fun w => { w with part := s.opA cx 0 % 8 })).advance cx := by
  simp [partsetWarp, or_assoc]

/-- Settles O8: MOVS lands the register's value, PARTSET and SETS write or refuse, and R36's conditions are arithmetic. -/
theorem specialRegisters : Obligations.SpecialRegisters := by
  refine ⟨⟨fun x s go => ⟨_, exec_movs go, completes_of_results (vector_code rfl) fun _ _ => valOut_value _⟩,
    fun s core berth w l n v => special_of_specialValue⟩, ⟨fun x s go => ?_, fun x s go => ?_⟩, fmtRegOk_iff⟩
  · simp only [exec_partset go, partsetWarp_eq]
    exact ⟨fun ok => by rw [if_neg ok], fun refused => by rw [if_pos refused]⟩
  · intro i cx n v
    have reg : specialOf (issueCx (.sets x) s).x.dN = n := rfl
    have other : n ≠ 0x10 → exec i s = .next (if setsRefused n v then s.raise cx.wk (s.trapOf cx .illegal 0 cx.group 0)
        else (s.modWarp cx.wk (fun w => w.setSpecial n v)).advance cx) := fun ne => by
      rw [exec_sets go, setsLanes_once (reg ▸ ne), reg]
    refine ⟨fun e => ⟨_, by rw [exec_sets go, setsLanes_rngs (reg ▸ e)], completes_lanes _ rfl⟩, fun e ok => ?_,
      fun e refused => ?_, fun e => ?_, fun lo hi ok => ?_, fun lo hi refused => ?_⟩
    · rw [other (by omega), e, if_neg (mt (setsRefused_part v).1 ok)]; rfl
    · rw [other (by omega), e, if_pos ((setsRefused_part v).2 refused)]
    · rw [other (by omega), e]; rfl
    · simp only [other (by omega), setsRefused_fmt lo hi, ok, setSpecial_fmt lo]; rfl
    · simp only [other (by omega), setsRefused_fmt lo hi, refused]; rfl

end Sys2Proof.Machine
end

section
/-! PROOFS. Moves of predicates, FLAGS and random states (R35, R72, R95, R108, R109). -/

namespace Sys2Proof.Machine

open Sys2Proof.Safety Sys2Proof.Rules

/-! ## Predicates as numbers (R95) -/

/-- p0 to p6 in their bits, and p7, which reads true, in bit 7. -/
theorem sum_preds : ∀ p : BitVec 7,
    (upTo 8).foldl (fun a i => a + (if (if i = 7 then true else p.getLsbD i) then 2 ^ i else 0)) 0 = p.toNat + 128 := by
  decide

/-- q0 to q2 in their bits, and q3, which reads true, in bit 3. -/
theorem sum_qpreds : ∀ q : BitVec 3,
    (upTo 4).foldl (fun a i => a + (if (if i = 3 then true else q.getLsbD i) then 2 ^ i else 0)) 0 = q.toNat + 8 := by
  decide

/-! ## Bits set one by one -/

theorem getLsbD_setBit {n i j : Nat} (v : BitVec n) (b : Bool) (hj : j < n) :
    (setBit v i b).getLsbD j = if i = j then b else v.getLsbD j := by
  have one : (BitVec.ofNat n (2 ^ i)).getLsbD j = decide (i = j) := by
    rw [BitVec.getLsbD_ofNat, Nat.testBit_two_pow]
    simp only [hj, decide_true, Bool.true_and]
  cases b with
  | false =>
    rw [show setBit v i false = v &&& ~~~BitVec.ofNat n (2 ^ i) from rfl, BitVec.getLsbD_and, BitVec.getLsbD_not, one]
    by_cases e : i = j <;> simp [e, hj]
  | true =>
    rw [show setBit v i true = v ||| BitVec.ofNat n (2 ^ i) from rfl, BitVec.getLsbD_or, one]
    by_cases e : i = j <;> simp [e]

/-- The bits of v, of which those that m names come from f. -/
def setBits {n : Nat} (m : Nat) (f : Nat → Bool) (v : BitVec n) : BitVec n :=
  (upTo n).foldl (fun v i => if m.testBit i then setBit v i (f i) else v) v

theorem getLsbD_foldl_setBit {n : Nat} (m : Nat) (f : Nat → Bool) (is : List Nat) (v : BitVec n) {j : Nat} (hj : j < n) :
    (is.foldl (fun v i => if m.testBit i then setBit v i (f i) else v) v).getLsbD j =
      if j ∈ is ∧ m.testBit j then f j else v.getLsbD j := by
  induction is generalizing v with
  | nil => simp
  | cons i is ih =>
    rw [List.foldl_cons, ih]
    by_cases set : m.testBit i = true
    · rw [if_pos set, getLsbD_setBit v (f i) hj]
      by_cases e : i = j
      · subst e; simp [set]
      · simp [e, Ne.symm e]
    · have other : m.testBit j = true → j ≠ i := fun h e => set (e ▸ h)
      by_cases h : m.testBit j = true <;> simp_all

theorem getLsbD_setBits {n : Nat} (m : Nat) (f : Nat → Bool) (v : BitVec n) {j : Nat} (hj : j < n) :
    (setBits m f v).getLsbD j = if m.testBit j then f j else v.getLsbD j := by
  rw [setBits, getLsbD_foldl_setBit m f (upTo n) v hj]
  simp [upTo, hj]

theorem setBits_testBit {n : Nat} (m a : Nat) (v : BitVec n) : setBits m a.testBit v =
    (v &&& ~~~ BitVec.ofNat n m) ||| (BitVec.ofNat n a &&& BitVec.ofNat n m) := by
  refine BitVec.eq_of_getLsbD_eq fun j hj => ?_
  rw [getLsbD_setBits m _ v hj]
  simp only [BitVec.getLsbD_or, BitVec.getLsbD_and, BitVec.getLsbD_not, BitVec.getLsbD_ofNat, hj]
  cases m.testBit j <;> simp

theorem setBits_false {n : Nat} (m : Nat) (v : BitVec n) :
    setBits m (fun _ => false) v = v &&& ~~~ BitVec.ofNat n m := by
  refine BitVec.eq_of_getLsbD_eq fun j hj => ?_
  rw [getLsbD_setBits m _ v hj]
  simp only [BitVec.getLsbD_and, BitVec.getLsbD_not, BitVec.getLsbD_ofNat, hj]
  cases m.testBit j <;> simp

/-! ## PMOV -/

/-- Predicates p0 to p6 of a lane that m names, set from a (R95). -/
def Lane.setPreds (m a : Nat) (v : Lane) : Lane :=
  { v with preds := setBits m a.testBit v.preds, busy := setBits m (fun _ => false) v.busy }

/-- The same of the uniform predicates q0 to q2. -/
def Warp.setQpreds (m a : Nat) (w : Warp) : Warp :=
  { w with qpreds := setBits m a.testBit w.qpreds, qbusy := setBits m (fun _ => false) w.qbusy }

theorem lupd_lupd {β : Type} (f g : β → β) (t : List β) (i : Nat) :
    lupd g (lupd f t i) i = lupd (fun v => g (f v)) t i := by
  induction t generalizing i with
  | nil => rfl
  | cons v t ih => cases i <;> simp [lupd, ih]

theorem lupd_id {β : Type} (t : List β) (i : Nat) : lupd (fun v => v) t i = t := by
  induction t generalizing i with
  | nil => rfl
  | cons v t ih => cases i <;> simp [lupd, ih]

/-- A lane changed step by step is the lane changed by all steps. -/
theorem foldl_modLane_same (l : Nat) (f : Nat → Lane → Lane) (is : List Nat) (w : Warp) :
    is.foldl (fun w i => w.modLane l (f i)) w = w.modLane l (fun v => is.foldl (fun v i => f i v) v) := by
  induction is generalizing w with
  | nil => simp only [List.foldl_nil, Warp.modLane, lupd_id]
  | cons i is ih =>
    rw [List.foldl_cons, ih]
    simp only [Warp.modLane, lupd_lupd, List.foldl_cons]

theorem foldl_setPred (m a : Nat) (is : List Nat) (low : ∀ i ∈ is, i < 7) (v : Lane) :
    is.foldl (fun v i => if m.testBit i then v.setPred (i % 8) (a.testBit i) else v) v =
      { v with preds := is.foldl (fun p i => if m.testBit i then setBit p i (a.testBit i) else p) v.preds
               busy := is.foldl (fun p i => if m.testBit i then setBit p i false else p) v.busy } := by
  induction is generalizing v with
  | nil => rfl
  | cons i is ih =>
    obtain ⟨hi, low⟩ := List.forall_mem_cons.1 low
    rw [List.foldl_cons, ih low]
    simp only [List.foldl_cons, Lane.setPred, show i % 8 = i by omega, if_neg (show i ≠ 7 by omega)]
    split <;> rfl

theorem foldl_setQpred (m a : Nat) (is : List Nat) (low : ∀ i ∈ is, i < 3) (w : Warp) :
    is.foldl (fun w i => if m.testBit i then w.setQpred i (a.testBit i) else w) w =
      { w with qpreds := is.foldl (fun p i => if m.testBit i then setBit p i (a.testBit i) else p) w.qpreds
               qbusy := is.foldl (fun p i => if m.testBit i then setBit p i false else p) w.qbusy } := by
  induction is generalizing w with
  | nil => rfl
  | cons i is ih =>
    obtain ⟨hi, low⟩ := List.forall_mem_cons.1 low
    rw [List.foldl_cons, ih low]
    simp only [List.foldl_cons, Warp.setQpred, if_neg (show i ≠ 3 by omega)]
    split <;> rfl

/-- PMOV to the predicates of a lane (R95). -/
theorem foldl_putPred_lane (m a l : Nat) (w : Warp) :
    (upTo 7).foldl (fun w i => if m.testBit i then w.putPred i l (a.testBit i) else w) w =
      w.modLane l (Lane.setPreds m a) := by
  have low : ∀ i ∈ upTo 7, i < 7 := fun i hi => List.mem_range.1 hi
  have steps : ∀ (w : Warp), ∀ i ∈ upTo 7, (if m.testBit i then w.putPred i l (a.testBit i) else w) =
      w.modLane l (fun v => if m.testBit i then v.setPred (i % 8) (a.testBit i) else v) := fun w i hi => by
    split
    · rw [Warp.putPred, if_neg (by have := low i hi; omega)]
    · rw [Warp.modLane, lupd_id]
  rw [List.foldl_ext _ _ w (fun w i hi => steps w i hi), foldl_modLane_same]
  simp only [foldl_setPred m a (upTo 7) low]
  rfl

/-- PMOV to the uniform predicates (R95). -/
theorem foldl_putPred_uniform (m a l : Nat) (w : Warp) :
    (upTo 3).foldl (fun w i => if m.testBit i then w.putPred (0x200 + i) l (a.testBit i) else w) w =
      w.setQpreds m a := by
  simp only [Warp.putPred, Nat.le_add_right, if_true, Nat.add_sub_cancel_left]
  exact foldl_setQpred m a (upTo 3) (fun i hi => List.mem_range.1 hi) w

/-- What PMOV to predicates does to the issuing warp. -/
theorem pmovIn_eq (cx : Ctx) (s : State) : pmovIn cx s =
    if cx.uni then (s.modWarp cx.wk (Warp.setQpreds (s.opB cx 0) (s.opA cx 0))).advance cx
    else (s.modWarp cx.wk (fun w => (lanesOf cx.act).foldl (fun w l =>
      w.modLane l (Lane.setPreds (s.opB cx l) (s.opA cx l))) w)).advance cx := by
  cases uni : cx.uni <;>
    simp [pmovIn, evalLanes, uni, foldl_putPred_lane, foldl_putPred_uniform]

section
variable {x : Long} {s : State}

theorem exec_pmovToRegister (go : Goes (.pmovToRegister x) false s) :
    exec (.pmovToRegister x) s = .next (pmovOut (issueCx (.pmovToRegister x) s) s) :=
  congrArg Host.Outcome.next (issueOf_of_goes rfl go)

theorem exec_pmovToPredicates (go : Goes (.pmovToPredicates x) false s) :
    exec (.pmovToPredicates x) s = .next (pmovIn (issueCx (.pmovToPredicates x) s) s) :=
  congrArg Host.Outcome.next (issueOf_of_goes rfl go)

theorem exec_flgrd (go : Goes (.flgrd x) false s) :
    exec (.flgrd x) s = .next (flgrdLanes (issueCx (.flgrd x) s) s) :=
  congrArg Host.Outcome.next (issueOf_of_goes rfl go)

theorem exec_flgclr (go : Goes (.flgclr x) false s) :
    exec (.flgclr x) s = .next (flgclrWarp (issueCx (.flgclr x) s) s) :=
  congrArg Host.Outcome.next (issueOf_of_goes rfl go)

theorem exec_rng (go : Goes (.rng x) false s) :
    exec (.rng x) s = .next (rngLanes (issueCx (.rng x) s) s) :=
  congrArg Host.Outcome.next (issueOf_of_goes rfl go)

theorem exec_rngseed (go : Goes (.rngseed x) false s) :
    exec (.rngseed x) s = .next (rngseedLanes (issueCx (.rngseed x) s) s) :=
  congrArg Host.Outcome.next (issueOf_of_goes rfl go)

end

/-- A seed xor a lane's start value (R109). -/
theorem rngseedLanes_eq (cx : Ctx) (s : State) : rngseedLanes cx s =
    (s.modWarp cx.wk (fun w => (lanesOf cx.act).foldl (fun w l => w.modLane l (fun v =>
      { v with rngs := storedState (BitVec.ofNat 64 (s.opA cx l) ^^^ v.start) })) w)).advance cx := by
  simp only [rngseedLanes, seeded_eq, BitVec.ofNat_xor, BitVec.ofNat_toNat, BitVec.setWidth_eq]

theorem pmovOut_value (cx : Ctx) (w : Warp) (l : Nat) :
    (if cx.uni then (upTo 4).foldl (fun a i => a + (if w.qpred i then 2 ^ i else 0)) 0
      else (upTo 8).foldl (fun a i => a + (if (w.lane l).pred i then 2 ^ i else 0)) 0) =
    if cx.uni then w.qpreds.toNat + 8 else (w.lane l).preds.toNat + 128 :=
  if_congr Iff.rfl (sum_qpreds w.qpreds) (sum_preds (w.lane l).preds)

theorem pmovToPredicates_completes (x : Long) (s : State) :
    let cx := issueCx (.pmovToPredicates x) s
    Completes (.pmovToPredicates x) s (pmovIn cx s) (fun _ => 0) 0
      (fun l v => if ¬ cx.uni ∧ cx.act.getLsbD l then v.setPreds (s.opB cx l) (s.opA cx l) else v)
      (fun w => if cx.uni then w.setQpreds (s.opB cx 0) (s.opA cx 0) else w) := by
  intro cx
  rw [pmovIn_eq]
  cases uni : cx.uni with
  | true => exact completes_wordless rfl (by simp [Warp.setQpreds]) rfl (by simp [Warp.setQpreds]) fun _ => rfl
  | false =>
    simp only [Bool.false_eq_true, if_false, not_false_eq_true, true_and]
    exact completes_lanes (fun l => Lane.setPreds (s.opB cx l) (s.opA cx l)) rfl

/-- Settles O9: each instruction's words, lanes and predicates are those of its lemma above. -/
theorem stateMoves : Obligations.StateMoves := by
  refine ⟨⟨fun x s go => ⟨_, exec_pmovToRegister go, ?_⟩, fun x s go => ⟨_, exec_pmovToPredicates go, ?_⟩⟩,
    ⟨fun x s go => ⟨_, exec_flgrd go, completes_of_results (vector_code rfl) fun _ _ => valOut_value _⟩,
      fun x s go => exec_flgclr go⟩,
    ⟨fun x s go code => ⟨_, exec_rng go, ?_⟩, fun x s go => ⟨_, ?_, completes_lanes _ rfl⟩⟩⟩
  · exact completes_of_results (vector_code rfl) fun l _ => (valOut_value _).trans (pmovOut_value _ _ l)
  · simpa only [Lane.setPreds, Warp.setQpreds, setBits_testBit, setBits_false] using pmovToPredicates_completes x s
  · obtain ⟨results, words⟩ := landAll_results (issueCx (.rng x) s) s (s.warp (issueCx (.rng x) s).wk) _
      (fun _ => Nat.lt_trans code (by decide))
    exact completes_of_stored (landAll_rest s _) results words (fun j => lanes_modLanes _ _ _ j)
      (length_modLanes _ _ _) (by simp [Warp.modLanes]) fun _ => rfl
  · rw [exec_rngseed go, rngseedLanes_eq]

end Sys2Proof.Machine
end

section
/-! PROOFS. Instructions that only pass their group (R40, R56, R67, R85, R118, R122). -/

namespace Sys2Proof.Machine

open Sys2Proof.Safety Sys2Proof.Rules

/-! ## A guard that is false in every lane (R40) -/

/-- Where R59's checks pass, an issue without an active lane only passes its group. -/
def PassesIdle (i : Instr) : Prop :=
  ∀ s, decodeFault false i.isFget (issueCx i s) s = none → (issueCx i s).act = 0 →
    exec i s = .next (s.advance (issueCx i s))

/-- R59's rows 5 and 6, field by field: no register beyond the allocation, and no handler's register elsewhere. -/
theorem decodeFault_eq_none (cx : Ctx) (s : State) : decodeFault false false cx s = none ↔
    (∀ e ∈ cx.fields, beyond (s.warp cx.wk) e.2.1 (max (readCount cx false e.1) (e.1.writes cx.sh cx.x)) = false) ∧
      (cx.handler = true ∨ ∀ e ∈ cx.fields, (0 < readCount cx false e.1 ∨ e.1 = .spec) →
        ∀ n, codeOf e.2.1 = .special n → privilegedSpecial n = false) := by
  have checks : ∀ (p q : Bool) (t u : Trap), (if p then some t else if q then some u else none) = none ↔
      p = false ∧ q = false := fun p q t u => by cases p <;> cases q <;> simp
  have privilege : ∀ e : Fld × Nat × Bool, ((decide (0 < readCount cx false e.1) || decide (e.1 = .spec)) &&
      (match codeOf e.2.1 with | .special n => privilegedSpecial n | _ => false)) = false ↔
      ((0 < readCount cx false e.1 ∨ e.1 = .spec) → ∀ n, codeOf e.2.1 = .special n → privilegedSpecial n = false) := by
    intro e
    cases codeOf e.2.1 <;> simp
  refine (checks _ _ _ _).trans (and_congr ?_ ?_)
  · simp only [List.any_eq_false, Bool.not_eq_true]
  · rw [Bool.false_or, Bool.and_eq_false_iff, Bool.not_eq_false', List.any_eq_false, or_comm]
    simp only [Bool.not_eq_true]
    exact or_congr_right (forall₂_congr fun e _ => privilege e)

theorem beyond_none (w : Warp) (code : Nat) : beyond w code 0 = false := by
  unfold beyond
  split <;> simp

theorem ctx_of_kind {x : Long} {sh sh' : Shape} (kind : sh'.kind = sh.kind) (s : State) :
    { Ctx.of x sh' s with sh := sh } = Ctx.of x sh s := by
  have uniform : sh'.uniform x = sh.uniform x := by unfold Shape.uniform; rw [kind]
  simp only [Ctx.of, uniform]

theorem passesIdle_of_issueOf {i : Instr} {f : Info} {act : Ctx → State → State} (hi : i.info = some f)
    (run : ∀ s, exec i s = .next (issueOf i false act s)) : PassesIdle i := fun s decoded idle => by
  rw [run, issueOf_of_idle hi decoded idle]

theorem passesIdle_of_copyIssue {i : Instr} {f : Info} {full : Ctx → State → Bool} {act : Ctx → State → State}
    (hi : i.info = some f) (run : ∀ s, exec i s = .next (copyIssue i full act s)) : PassesIdle i :=
  fun s decoded idle => by
    rw [issueCx_of_info hi] at *
    rw [run]
    simp only [copyIssue, hi]
    rw [issueWith_idle _ _ _ _ _ _ _ _ (by simp only [firstFault, decoded]) idle]
    simp [idle]

/-- The issue of an instruction that checks its registers by its own shape and its operands by a shape with fewer fields. -/
theorem passesIdle_of_fewer {i : Instr} {f : Info} {sh : Shape} {act : Ctx → State → State} (hi : i.info = some f)
    (fget : i.isFget = false) (kind : sh.kind = f.shape.kind)
    (fewer : ∀ s, decodeFault false false (Ctx.of f.x f.shape s) s = none →
      decodeFault false false (Ctx.of f.x sh s) s = none)
    (run : ∀ s, exec i s = .next (issueWith f.x sh false false
      [fun cx s => decodeFault false false { cx with sh := f.shape } s] [] act s)) : PassesIdle i :=
  fun s decoded idle => by
    rw [issueCx_of_info hi, ← ctx_of_kind kind] at *
    rw [fget] at decoded
    rw [run, issueWith_idle _ _ _ _ _ _ _ _ ?_ idle]
    · rfl
    · have own := decoded
      rw [ctx_of_kind kind] at own
      simp only [firstFault, fewer s own, decoded]

/-- A matrix operation's operands are the unit's to read. -/
theorem passesIdle_of_mmaIssue {i : Instr} {f : Info} {form : Nat} (hi : i.info = some f) (fget : i.isFget = false)
    (run : ∀ s, exec i s = .next (mmaIssue i form s)) : PassesIdle i := by
  refine passesIdle_of_fewer (sh := { f.shape with dst := .zero, a := .zero, b := .zero, c := .zero }) hi fget rfl
    (fun s _ => ?_) (fun s => by rw [run s]; simp only [mmaIssue, hi]; rfl)
  simp [decodeFault_eq_none, Ctx.fields, Ctx.of, readCount, Fld.reads, Fld.writes, beyond_none]

/-- The pay and the offset of an element are operands where the widths of its manifest say so. -/
theorem passesIdle_of_landIssue {i : Instr} {f : Info} {remove : Bool} (hi : i.info = some f) (fget : i.isFget = false)
    (dst : f.shape.dst = .key) (a : f.shape.a = .spair) (run : ∀ s, exec i s = .next (landIssue i remove s)) :
    PassesIdle i := by
  refine passesIdle_of_fewer (sh := { f.shape with b := .zero, c := .zero }) (act := landGroup remove f.shape) hi fget rfl
    (fun s own => ?_) (fun s => by rw [run s]; simp only [landIssue, hi])
  rw [decodeFault_eq_none] at own ⊢
  simp only [Ctx.fields, Ctx.of, List.forall_mem_cons, dst, a, readCount, Fld.reads, Fld.writes] at own ⊢
  obtain ⟨⟨d, a, -⟩, priv⟩ := own
  refine ⟨⟨d, a, by simp [beyond_none]⟩, priv.imp_right fun ⟨d, a, _⟩ => ⟨d, a, by simp⟩⟩

/-- A check of the tile after the guard. -/
theorem passesIdle_of_early {i : Instr} {f : Info} {early : List (Ctx → State → Option Trap)}
    {act : Ctx → State → State} (hi : i.info = some f) (fget : i.isFget = false)
    (run : ∀ s, exec i s = .next (issueWith f.x f.shape false false [] early act s)) : PassesIdle i :=
  fun s decoded idle => by
    rw [issueCx_of_info hi] at *
    rw [fget] at decoded
    rw [run, issueWith_idle _ _ _ _ _ _ _ _ (by simp only [firstFault, decoded]) idle]

theorem guarded_idle (x : Long) : ∀ i ∈ guarded x, PassesIdle i := by
  simp only [guarded, List.forall_mem_cons, List.not_mem_nil, false_imp_iff, implies_true, and_true]
  and_intros
  any_goals exact passesIdle_of_issueOf rfl fun _ => rfl
  any_goals exact passesIdle_of_copyIssue rfl fun _ => rfl
  any_goals exact passesIdle_of_mmaIssue rfl rfl fun _ => rfl
  any_goals exact passesIdle_of_landIssue rfl rfl rfl rfl fun _ => rfl
  any_goals exact passesIdle_of_early rfl rfl fun _ => rfl

/-- What checks the formats that it names before the guard only passes its group where they fit (R67). -/
theorem exec_idle_of_formats {i : Instr} {f : Info} {uses : List (Nat × Nat)} {act : Ctx → State → State} {s : State}
    (hi : i.info = some f)
    (run : ∀ s, exec i s = .next (issueWith f.x f.shape false false [formatFault uses] [] act s))
    (decoded : decodeFault false false (issueCx i s) s = none) (fit : FormatsFit i s uses)
    (idle : (issueCx i s).act = 0) : exec i s = .next (s.advance (issueCx i s)) := by
  have formats : formatFault uses (issueCx i s) s = none := if_pos (List.all_eq_true.2 fit)
  rw [issueCx_of_info hi] at *
  rw [run, issueWith_idle _ _ _ _ _ _ _ _ (by simp only [firstFault, decoded, formats]) idle]

/-- Conversions and compressions check the formats that they name before the guard (R67). -/
theorem layered_idle (x : Long) : ∀ e ∈ layered x, ∀ s, decodeFault false false (issueCx e.1 s) s = none →
    FormatsFit e.1 s e.2 → (issueCx e.1 s).act = 0 → exec e.1 s = .next (s.advance (issueCx e.1 s)) := by
  simp only [layered, List.forall_mem_cons, List.not_mem_nil, false_imp_iff, implies_true, and_true]
  and_intros
  all_goals exact fun _ => exec_idle_of_formats rfl fun _ => rfl

/-! ## NOP and SAFE (R118, R122) -/

theorem exec_nop {x : Long} {s : State} (go : Goes (.nop x) false s) :
    exec (.nop x) s = .next (s.advance (issueCx (.nop x) s)) :=
  congrArg Host.Outcome.next (issueOf_of_goes (act := fun cx s => s.advance cx) rfl go)

theorem exec_safe {x : Long} {s : State} (go : Goes (.safe x) false s) :
    exec (.safe x) s = .next (s.advance (issueCx (.safe x) s)) :=
  congrArg Host.Outcome.next (issueOf_of_goes (act := fun cx s => s.advance cx) rfl go)

/-- What an instruction that only passes its group leaves. -/
theorem advance_passes (cx : Ctx) (s : State) : LanesPassed cx (s.warp cx.wk) ((s.advance cx).warp cx.wk) (fun _ v => v) ∧
    WarpKept cx s (s.advance cx) 0 ∧ WordsKept s (s.advance cx) [] ∧ RestKept cx s (s.advance cx) := by
  rw [← advance_modWarp_id]
  obtain ⟨passed, -, -, warp, rest⟩ := advance_changed (s := s) (t := s) (cx := cx) (fw := id) (flags := 0)
    (change := fun _ v => v) (uniform := id) rfl (by simp) rfl (by simp) fun _ => rfl
  exact ⟨passed, warp, fun _ _ => ⟨rfl, rfl, rfl⟩, rest⟩

/-- The context of the short NOP, which has no fields. -/
def nopCx (s : State) : Ctx :=
  Ctx.of { (default : Long) with form := .short, guard := 7 } ⟨.vec, .none, [], .none, .zero, .zero, .zero, .zero⟩ s

theorem lanesWith_fieldless (s : State) (p : Bool → Nat → Bool) : lanesWith (nopCx s) false s p = 0 := by
  simp [lanesWith, nopCx, Ctx.of, Ctx.fields, sourceKeys, readCount, Fld.reads, codeKeys_eq, vkeys, skeys, upTo]
  decide

/-- The short NOP passes its group from every state: it has no field that a check could refuse. -/
theorem exec_nopShort (s : State) : exec .nopShort s = .next (s.advance (nopCx s)) := by
  have decoded : decodeFault false false (nopCx s) s = none := by
    simp [decodeFault_eq_none, nopCx, Ctx.fields, Ctx.of, readCount, Fld.reads, Fld.writes, beyond_none]
  have full : emptyFault false (nopCx s) s = none := if_pos (lanesWith_fieldless s _)
  have clean : poisonFault false (nopCx s) s = none := if_pos (lanesWith_fieldless s _)
  refine congrArg Host.Outcome.next ?_
  by_cases idle : (nopCx s).act = 0
  · exact issueWith_idle _ _ _ _ _ _ _ _ (by simp only [firstFault]; rw [← nopCx, decoded]) idle
  · exact issueWith_effect _ _ _ _ _ _ decoded idle full clean

/-- Passing an instruction asks of its issue for the warp, the group and the addresses alone. -/
theorem advance_congr {cx cx' : Ctx} (s : State) (wk : cx'.wk = cx.wk) (group : cx'.group = cx.group)
    (pc : cx'.pc = cx.pc) (len : cx'.len = cx.len) : s.advance cx' = s.advance cx := by
  simp only [State.advance, State.advanceLanes, wk, group, pc, len]

/-- Settles O11: what is issued only passes its group, and `completes_advance` says what that leaves. -/
theorem nopsOnlyPass : Obligations.NopsOnlyPass := by
  refine ⟨⟨fun x s go => ⟨_, exec_nop go, completes_advance rfl⟩, fun x s go => ⟨_, exec_safe go, completes_advance rfl⟩,
    fun s => ⟨_, exec_nopShort s, fun cx wk group pc len => ?_⟩⟩, fun x s i hi => guarded_idle x i hi s,
    fun x s e he => layered_idle x e he s⟩
  rw [advance_congr (cx := cx) s wk.symm group.symm pc.symm len.symm]
  exact advance_passes cx s

end Sys2Proof.Machine
end

section
/-! PROOFS. A step at decoded words (R27, R41, R110 to R118, R372, R402, R426): the fetch, the issue of the group, the
choice of the partition, and the step around it. -/

namespace Sys2Proof.Machine

open Sys2Proof.Rules

/-! ## Fetch and decoding (R41) -/

theorem lengthOf_cases (w : Word) : lengthOf w = 4 ∨ lengthOf w = 8 ∨ lengthOf w = 12 := by
  unfold lengthOf
  split <;> simp

/-- The words that stand at an address are what is fetched there. -/
theorem fetchInstr_of_wordsAt {s : State} {wk : Nat} {pc : DWord} {ws : List Word} (at_ : WordsAt s wk pc ws) :
    fetchInstr s (wk / 128) (s.ctxOf wk) (decide (wk % 128 = handlerBerth)) pc.toNat = .ok ws := by
  obtain ⟨some_, length, words⟩ := at_
  obtain ⟨w0, rest, rfl⟩ := List.exists_cons_of_ne_nil some_
  have first := words 0 (by simp)
  simp only [List.headD_cons, List.length_cons, Nat.mul_zero, Nat.add_zero, List.getD_cons_zero] at length first
  match rest, length with
  | [], length => simp [fetchInstr, first, ← length]
  | [w1], length =>
    have second := words 1 (by simp)
    simp only [Nat.mul_one, List.getD_cons_succ, List.getD_cons_zero] at second
    simp [fetchInstr, first, second, ← length]
  | [w1, w2], length =>
    have second := words 1 (by simp)
    have third := words 2 (by simp)
    simp only [Nat.mul_one, List.getD_cons_succ, List.getD_cons_zero] at second third
    simp [fetchInstr, first, second, third, ← length]
  | _ :: _ :: _ :: _, length =>
    have := lengthOf_cases w0
    simp only [List.length_cons] at length
    omega

theorem findInstr_of_wordsAt {s : State} {wk : Nat} {pc : DWord} {ws : List Word} {i : Instr} (at_ : WordsAt s wk pc ws)
    (decoded : decodeWords ws = .ok (i, [])) : findInstr s wk pc = .instr i (4 * ws.length) := by
  simp only [findInstr, fetchInstr_of_wordsAt at_, decoded]

/-! ## The step around an issue (R113, R402, R426) -/

theorem step_of_power {s : State} (power : s.powerOff = false) : step s = (runTurn s).onNext (endTurn s) := by
  simp [step, turnStep, power]

/-- Whether a warp has issued, or can no longer: the partition's cycle is over (R113). -/
def Spent (wk : Nat) (p v : State) : Prop :=
  v.stopped = true ∨ (v.warp wk).live = false ∨ (v.warp wk).issued ≠ (p.warp wk).issued

section
variable {s p : State} {core part wk : Nat} {e : LaneMask} {pc : DWord}

/-- The step of a chosen warp: its group issues, and what has not issued leaves the cycle to the next choice. -/
theorem step_of_chosen (chosen : Chosen s p core part wk e pc) : step s =
    (Out.thenDo (issueGroup wk e pc p) (fun v => if v.stopped || !(v.warp wk).live ||
      (v.warp wk).issued ≠ (p.warp wk).issued then .next v else issueFrom core part 63 v)).onNext (endTurn s) := by
  obtain ⟨power, ⟨turn, runs⟩, noted, choice, group, lanes, -⟩ := chosen
  rw [step_of_power power]
  simp only [runTurn, turn, issueTurn, runs, Bool.not_true, Bool.false_eq_true, if_false, ← noted]
  rw [issueFrom, choice]
  simp only [issueWarp, group, if_neg lanes]

theorem step_of_spent {v : State} (chosen : Chosen s p core part wk e pc) (run : issueGroup wk e pc p = .next v)
    (spent : Spent wk p v) : step s = .next (endTurn s v) := by
  rw [step_of_chosen chosen, run]
  simp only [Out.thenDo]
  rw [if_pos (by simpa [Spent, or_assoc] using spent)]
  rfl

theorem step_of_unspent {v : State} (chosen : Chosen s p core part wk e pc) (run : issueGroup wk e pc p = .next v)
    (unspent : ¬ Spent wk p v) : step s = (issueFrom core part 63 v).onNext (endTurn s) := by
  rw [step_of_chosen chosen, run]
  simp only [Out.thenDo]
  rw [if_neg (by simpa [Spent, or_assoc] using unspent)]

section
variable {ws : List Word} {i : Instr} (free : breakpointAt p wk pc = none) (at_ : WordsAt p wk pc ws)
  (decoded : decodeWords ws = .ok (i, []))
include free at_ decoded

/-- A watchpoint routed to the debug halt comes before the instruction (R372). -/
theorem issueGroup_of_halt {n : Nat} {lanes : LaneMask}
    (halt : haltWatch i (p.aim wk (lanesAt (p.warp wk) e pc) pc (4 * ws.length)) = .halt n lanes) :
    issueGroup wk e pc p = .next ((p.aim wk (lanesAt (p.warp wk) e pc) pc (4 * ws.length)).halt 2 n (wk / 128)
      (p.warp wk).index lanes pc wk) := by
  simp only [issueGroup, free, findInstr_of_wordsAt at_ decoded, halt]

theorem issueGroup_of_goes
    (goes : ∀ n lanes, haltWatch i (p.aim wk (lanesAt (p.warp wk) e pc) pc (4 * ws.length)) ≠ .halt n lanes) :
    issueGroup wk e pc p = issueInstr wk i e (lanesAt (p.warp wk) e pc) pc (4 * ws.length) p := by
  simp only [issueGroup, free, findInstr_of_wordsAt at_ decoded]

end

end

theorem bindOp_of_ne {i : Instr} (own : ∀ x, i ≠ .grpctlQuery x ∧ i ≠ .rsndInvalidateContext x) (s : State) :
    bindOp i s = (i, s) := by
  unfold bindOp
  split
  · exact absurd rfl (own _).1
  · exact absurd rfl (own _).2
  · rfl

theorem issueTurn_stopped {s : State} {core part : Nat} (stopped : coreRuns s core = false) :
    issueTurn core part s = .next s := by
  simp [issueTurn, stopped]

/-- Settles O57: the step around a chosen warp, then each kind of turn by what `runTurn` makes of it. -/
theorem stepRunsDecoded : Obligations.StepRunsDecoded := by
  refine ⟨fun s p core part wk e pc ws i chosen at_ decoded => ?_, fun s => ⟨fun off => ?_, fun power turn none => ?_,
    fun power turn edge runs => ?_, fun k v power turn run => ?_, fun e v power turn message inner runs run => ?_,
    fun core part power turn stopped => ?_⟩⟩
  · intro g whole m t u unissued issued goes
    have instr : goes → issueGroup wk e pc p = issueInstr wk i e g pc (4 * ws.length) p :=
      issueGroup_of_goes chosen.free at_ decoded
    have target : issueInstr wk i e g pc (4 * ws.length) p = match perform i u with
        | .next v => if notesWait i && stillAt v wk g pc && v.txns.length = t.txns.length then perform i t
            else .next (afterIssue wk i (lanesOf m).length v)
        | r => r := by
      simp only [issueInstr, Bool.and_eq_true, decide_eq_true_eq, and_assoc]
      rfl
    refine ⟨fun n lanes halt => ?_, fun v go run no spent => ?_, fun v v' go run un again => ⟨fun spent => ?_, fun unspent => ?_⟩,
      fun f go run => ?_, fun r go run => ?_, fun own => ?_⟩
    · exact step_of_spent chosen (issueGroup_of_halt chosen.free at_ decoded halt) (.inl rfl)
    · refine step_of_spent chosen ?_ spent
      rw [instr go, target, run]
      dsimp only
      rw [if_neg (by simpa [unissued, and_assoc] using no)]
    · refine step_of_spent chosen ?_ spent
      rw [instr go, target, run]
      dsimp only
      rw [if_pos (by simpa [unissued, and_assoc] using un), again]
    · refine step_of_unspent chosen ?_ unspent
      rw [instr go, target, run]
      dsimp only
      rw [if_pos (by simpa [unissued, and_assoc] using un), again]
    · rw [step_of_chosen chosen, instr go, target, run]; rfl
    · rw [step_of_chosen chosen, instr go, target, run]; rfl
    · rw [perform, bindOp_of_ne own]
  · simp [step, turnStep, off]
  · rw [step_of_power power, runTurn, turn]
    rcases none with still | stopped | idle
    · simp [cycle, still]; rfl
    · simp [cycle, stopped]; rfl
    · simp [cycle, idle, issueRest]; rfl
  · rw [step_of_power power, runTurn, turn]
    simp [cycle, edge, runs]
  · rw [step_of_power power, runTurn, turn]
    simp only [run]; rfl
  · rw [step_of_power power, runTurn, turn]
    have act : (isMessage e || isInner e || (s.stopped && !runsStopped e)) = false := by
      rcases runs with h | h <;> simp [message, inner, h]
    simp only [happen, act, Bool.false_eq_true, if_false, run]; rfl
  · rw [step_of_power power, runTurn, turn]
    simp only [issueTurn_stopped stopped]; rfl

end Sys2Proof.Machine
end

section
/-! PROOFS. What the requests of an access change while it is issued (R210, R352, R357 to R359), and the access itself
where no check stops it (R182, R184). -/

namespace Sys2Proof.Machine

open Sys2Proof.Safety

/-- Requests of a warp have gone out and been counted: messages, pins and free values taken, event counts, samples
and the warp's RCLK; nothing else has changed (R169, R210, R352, R357, R359). -/
structure Requested (wk : Nat) (s t : State) : Prop where
  state : t = { s with pins := t.pins, freeNo := t.freeNo, fabricOut := t.fabricOut, agenda := t.agenda
                       cores := t.cores, samples := t.samples, fresh := t.fresh, warps := t.warps }
  fresh : s.fresh ≤ t.fresh
  warp  : t.warp wk = { s.warp wk with rclk := (t.warp wk).rclk }
  warps : ∀ k, k ≠ wk → t.warp k = s.warp k

namespace Requested

variable {wk : Nat} {s t u : State}

theorem refl (wk : Nat) (s : State) : Requested wk s s := ⟨rfl, le_rfl, rfl, fun _ _ => rfl⟩

theorem trans (h : Requested wk s t) (k : Requested wk t u) : Requested wk s u where
  state := k.state.trans (by rw [h.state])
  fresh := h.fresh.trans k.fresh
  warp := k.warp.trans (by rw [h.warp])
  warps j hj := (k.warps j hj).trans (h.warps j hj)

/-- What leaves the warps and the number of the next access as they were. -/
theorem of_state (h : t = { s with pins := t.pins, freeNo := t.freeNo, fabricOut := t.fabricOut, agenda := t.agenda
                                   cores := t.cores, samples := t.samples }) : Requested wk s t where
  state := by rw [h]
  fresh := by rw [h]
  warp := by rw [h]; rfl
  warps _ _ := by rw [h]; rfl

theorem foldl {α : Type} {f : State → α → State} (hf : ∀ s x, Requested wk s (f s x)) (xs : List α) (s : State) :
    Requested wk s (xs.foldl f s) :=
  foldl_related (refl wk) (fun _ _ _ => trans) f hf xs s

/-- The same of a fold that collects what it reads beside the state. -/
theorem foldl_snd {α β : Type} {f : β × State → α → β × State} (hf : ∀ a x, Requested wk a.2 (f a x).2) (xs : List α)
    (a : β × State) : Requested wk a.2 (xs.foldl f a).2 := by
  induction xs generalizing a with
  | nil => exact refl wk _
  | cons x xs ih => exact (hf a x).trans (ih (f a x))

end Requested

section
variable {wk : Nat} (s : State)

/-! ## Counting (R352, R357, R359) -/

theorem requested_count (core ev n : Nat) : Requested wk s (s.count core ev n) := by
  obtain ⟨cores, h, -⟩ := count_cores s core ev n
  rw [h]
  exact .of_state rfl

theorem requested_countMiss (core ctx va : Nat) : Requested wk s (s.countMiss core ctx va) := by
  simp only [State.countMiss]
  split
  · exact .refl _ _
  · split
    · exact requested_count ..
    · exact (requested_count ..).trans (requested_count ..)

theorem requested_countLines (core : Nat) (ps : List (Nat × Place)) : Requested wk s (s.countLines core ps) :=
  .foldl (fun _ _ => requested_count ..) _ _

theorem requested_rclk (n : Nat) : Requested wk s (s.modWarp wk (fun w => { w with rclk := w.rclk + n })) where
  state := rfl
  fresh := le_rfl
  warp := by rw [warp_modWarp_same]
  warps _ hk := warp_modWarp_ne _ _ hk

theorem requested_sample (core ev n : Nat) (samples : Table Sample) :
    Requested wk s { s.count core ev n with samples := samples, fresh := s.fresh + 1 } := by
  obtain ⟨cores, h, -⟩ := count_cores s core ev n
  rw [h]
  exact ⟨rfl, Nat.le_succ _, rfl, fun _ _ => rfl⟩

theorem requested_modCore (core : Nat) (f : Core → Core) : Requested wk s (s.modCore core f) := .of_state rfl

theorem requested_traceLine (cx : Ctx) (kind va : Nat) (p : Phys) : Requested wk s (s.traceLine cx kind va p) := by
  simp only [State.traceLine]
  split
  · exact (requested_modCore ..).trans ((requested_modCore ..).trans (requested_sample ..))
  · exact requested_modCore ..

theorem requested_countRequests (cx : Ctx) (kind : Nat) (ps : List (Nat × Place)) :
    Requested cx.wk s (s.countRequests cx kind ps) := by
  simp only [State.countRequests]
  split
  · exact .refl _ _
  · exact (requested_rclk s 1).trans <| (requested_countLines ..).trans <|
      (Requested.foldl (fun _ _ => requested_countMiss ..) _ _).trans <|
      .foldl (fun _ _ => requested_traceLine ..) _ _

/-! ## Words that a load asks for (R169, R210) -/

theorem requested_takePin (p : Phys) : Requested wk s (s.takePin p) := by
  simp only [State.takePin]
  split
  · exact .refl _ _
  · split <;> exact .of_state rfl

theorem requested_loadWord (cx : Ctx) (l i : Nat) (p : Place) : Requested wk s (loadWord cx l i p s).2 := by
  cases p with
  | loc c a => exact .refl _ _
  | glob p va =>
    simp only [loadWord]
    split_ifs
    · exact .of_state rfl
    · exact .refl _ _
    · exact .refl _ _
    · exact .refl _ _
    · exact .of_state rfl

theorem requested_loadLane (cx : Ctx) (z : Nat) (a : List TxnWord × State) (e : Nat × Place) :
    Requested wk a.2 (loadLane cx z a e).2 := by
  obtain ⟨ws, s⟩ := a
  obtain ⟨l, p⟩ := e
  have words (s : State) := Requested.foldl_snd (wk := wk)
    (f := fun a i => (a.1 ++ [(loadWord cx l i p a.2).1], (loadWord cx l i p a.2).2))
    (fun a i => requested_loadWord a.2 cx l i p) (upTo (wordCount z)) (ws, s)
  cases p with
  | loc c a => exact words s
  | glob p va => exact (requested_takePin s p).trans (words _)

end

/-! ## The access (R182, R184) -/

theorem access_of_allowed {cx : Ctx} {s : State} {load store : Bool} {z : Nat} {accs : List LaneAcc}
    (go : List (Nat × Place) → State) (allowed : Allowed cx s load store z accs) :
    access cx s load store z none accs go = go (placesOf accs) := by
  obtain ⟨unwatched, clean, free⟩ := allowed
  have none : (if cx.x.space = 0 then watch s cx load store (accs.map (fun a => (a.lane, a.addr, z))) else .none) =
      .none := by
    split
    · exact unwatched ‹_›
    · rfl
  simp only [access, none, stopOr, clean, free, Bool.false_eq_true, if_false]

/-- A group has passed an instruction, its lanes otherwise as they were. -/
theorem lanesPassed_advance {cx : Ctx} {s : State} {w : Warp} (same : (s.warp cx.wk).lanes = w.lanes) :
    LanesPassed cx w ((s.advance cx).warp cx.wk) (fun _ v => v) := by
  obtain ⟨passed, length, -⟩ := advance_spec s cx
  refine ⟨by rw [length, same], fun l v hv => ?_⟩
  rw [passed, same, hv]
  rfl

/-- Where an access of the warp at the instruction is in flight the report latch stays (R369). -/
theorem advance_warp_of_access {cx : Ctx} {s : State} (flight : s.accessAt cx.wk cx.pc = true) :
    (s.advance cx).warp cx.wk = { s.warp cx.wk with lanes := ((s.advance cx).warp cx.wk).lanes } := by
  obtain ⟨-, -, warp⟩ := advance_spec s cx
  simpa [latchAfter, flight] using warp

/-- The address of an access as R179 says it. -/
theorem addressIn_global (base : Nat) (d : Int) : addressIn 0 base d = ((base : Int) + d) % 2 ^ 64 := by
  simp [addressIn, wrapInt, Int.emod_nonneg]

end Sys2Proof.Machine
end

section
/-! PROOFS. Loads (R179, R182, R183, R187): what their issue leaves, and what the arrival of their data writes. -/

namespace Sys2Proof.Machine

open Sys2Proof.Safety Sys2Proof.Rules

/-! ## Integers of a width (R62) -/

theorem sextNat_eq_bmod (w x : Nat) : sextNat w x = (x : Int).bmod (2 ^ w) := by
  have half : (x : Int) % (2 ^ w : Nat) = (x % 2 ^ w : Nat) := by push_cast; rfl
  have wide : ((2 ^ w : Nat) : Int) = 2 ^ w := by push_cast; rfl
  rw [sextNat, Int.bmod, half, ← wide]
  generalize x % 2 ^ w = y
  generalize 2 ^ w = m
  split_ifs <;> omega

theorem registerOf_valueAs {w : Nat} (n : Nat) (narrow : w ≠ 64) :
    registerOf ⟨w, true⟩ (valueAs ⟨w, true⟩ n) = wrapInt 32 (sextNat w n) := by
  simp [registerOf, valueAs, narrow, sextNat_eq_bmod, wrapInt, Int.bmod_bmod]

/-- What a load leaves in its register (R62, R187). -/
theorem extendLoad_eq (t a : Nat) (ws : List Word) :
    extendLoad t (memBytes t) a ws = extended t (ofWords ws / 2 ^ (8 * (a % 4))) := by
  match t with
  | 0 | 1 | 2 | 3 | 5 | _ + 7 => rfl
  | 4 | 6 => simp only [extendLoad, extended, registerOf_valueAs, ne_eq, Nat.reduceEqDiff, not_false_eq_true]

/-- The address of an access as R179 says it. -/
theorem addressOf_eq (indexed : Bool) (cx : Ctx) (s : State) : addressOf indexed cx s = laneAddr indexed cx s := by
  funext l
  have disp : (if indexed then (s.opB cx l : Int).bmod (2 ^ 32) * 2 ^ (cx.x.cN / 8 % 8) else offsetOf cx.x) =
      dispOf indexed cx s l := by rw [dispOf, sextNat_eq_bmod]
  simp only [addressOf, disp, laneAddr]
  split
  · rw [‹cx.x.space = 0›, addressIn_global]
  · rw [addressIn, if_neg ‹_›]

/-! ## The issue -/

theorem mem_tput {β : Type} (t : Table β) (k : Nat) (v : β) : (k, v) ∈ tput t k v := by
  induction t with
  | nil => simp [tput]
  | cons e t ih =>
    obtain ⟨j, u⟩ := e
    rw [tput]
    split_ifs <;> simp [ih]

theorem accessAt_openTxn {u : State} {x : Txn} (fresh : x.stale = false) (kind : x.kind ≠ .macc) :
    (u.openTxn x).2.accessAt x.warp x.pc = true := by
  simp only [State.accessAt, State.openTxn, List.any_eq_true]
  exact ⟨_, mem_tput .., by simp [fresh, kind]⟩

/-- An access opened after its requests: its record in flight, its destination words empty, and its group passed. -/
theorem issued_of_requested {i : Instr} {s u : State} {x : Txn} (asked : Requested (issueCx i s).wk s u)
    (warp : x.warp = (issueCx i s).wk) (pc : x.pc = (issueCx i s).pc) (len : x.len = (issueCx i s).len)
    (fields : x.x = (issueCx i s).x) (lanes : x.lanes = (issueCx i s).act) (fresh : x.stale = false)
    (kind : x.kind ≠ .macc) :
    let t := ((u.openTxn x).2.markEmpty (dstKeys (issueCx i s) (s.warp (issueCx i s).wk))).advance (issueCx i s)
    Issued i s t x.kind id ∧ t.store = s.store ∧ t.poison = s.poison := by
  intro t
  have flight := accessAt_openTxn (u := u) fresh kind
  rw [warp, pc] at flight
  obtain ⟨state, later, own, other⟩ := asked
  have txns : u.txns = s.txns := by rw [state]
  have empty : u.empty = s.empty := by rw [state]
  refine ⟨⟨⟨u.fresh, _, later, tfind_tput_same .., rfl, warp, pc, len, fields, lanes⟩, fun k hk => ?_, fun k => ?_, ?_, ?_,
    fun k hk => ?_, fun a => ?_⟩, ?_, ?_⟩
  · show tfind (tput u.txns u.fresh _) k = _
    rw [tfind_tput_ne _ _ (by omega), txns]
  · show nmem (List.foldl nput u.empty _) k = _
    rw [nmem_foldl_nput, empty, Bool.or_comm]; rfl
  · have same : (u.warp (issueCx i s).wk).lanes = (s.warp (issueCx i s).wk).lanes := by rw [own]
    simpa using lanesPassed_advance (s := (u.openTxn x).2.markEmpty _) same
  · have left : t.warp (issueCx i s).wk = { u.warp (issueCx i s).wk with lanes := (t.warp (issueCx i s).wk).lanes } :=
      advance_warp_of_access (s := (u.openTxn x).2.markEmpty _) flight
    generalize t.warp (issueCx i s).wk = w at left
    rw [left, own]
  · exact (warp_modWarp_ne _ _ hk).trans (other k hk)
  · show memByte u.mem a = _
    rw [state]
  · show u.store = _
    rw [state]
  · show u.poison = _
    rw [state]

/-- Data that are whole bring no fault (R61, R375). -/
theorem dataFault_eq_none {s : State} {cx : Ctx} {words : List TxnWord} {space : Nat}
    (clean : ∀ w ∈ words, w.lost = false ∧ w.poison = false) : dataFault s cx words space = none := by
  have bad : words.filter (fun w => w.ready && (w.lost || w.poison)) = [] :=
    List.filter_eq_nil_iff.2 fun w hw => by simp [clean w hw]
  have lanes : (lanesOf cx.act).filter (fun _ => false) = [] := by simp
  simp only [dataFault, bad, List.any_nil, lanes]

/-- LD, LDU and GATH at issue, where no check stops them and no data that are there fail (R183, R187). -/
theorem loadLanes_issued {i : Instr} {s : State} {kind : TxnKind} {indexed : Bool} (apart : kind ≠ .macc)
    (allowed : Allowed (issueCx i s) s true false (memBytes (issueCx i s).x.tN)
      (laneAccs (issueCx i s) s (memBytes (issueCx i s).x.tN) wantLoad (laneAddr indexed (issueCx i s) s)))
    (clean : let words := ((placesOf (laneAccs (issueCx i s) s (memBytes (issueCx i s).x.tN) wantLoad
        (laneAddr indexed (issueCx i s) s))).foldl (loadLane (issueCx i s) (memBytes (issueCx i s).x.tN)) ([], s)).1
      kind ≠ .gath → (∀ w ∈ words, w.ready = true) → ∀ w ∈ words, w.lost = false ∧ w.poison = false) :
    let t := loadLanes kind indexed (issueCx i s) s
    Issued i s t kind id ∧ t.store = s.store ∧ t.poison = s.poison := by
  simp only [loadLanes, access_of_allowed _ allowed]
  dsimp only at clean
  generalize placesOf (laneAccs (issueCx i s) s (memBytes (issueCx i s).x.tN) wantLoad
    (laneAddr indexed (issueCx i s) s)) = ps at clean ⊢
  have asked := Requested.foldl_snd (wk := (issueCx i s).wk)
    (requested_loadLane (issueCx i s) (memBytes (issueCx i s).x.tN)) ps ([], s)
  generalize ps.foldl (loadLane (issueCx i s) (memBytes (issueCx i s).x.tN)) ([], s) = r at asked clean ⊢
  have whole : (if (r.1.all (fun w => w.ready) && decide (kind ≠ .gath)) = true then
      dataFault s (issueCx i s) r.1 (issueCx i s).x.space else none) = none := by
    split
    · rename_i h
      simp only [Bool.and_eq_true, List.all_eq_true, decide_eq_true_eq] at h
      exact dataFault_eq_none (clean h.2 h.1)
    · rfl
  rw [whole]
  exact issued_of_requested (x := (issueCx i s).txn kind r.1 ps) (asked.trans (requested_countRequests ..))
    rfl rfl rfl rfl rfl rfl apart

end Sys2Proof.Machine
end

section
/-! PROOFS. The arrival of a load's data (R26, R61, R183, R185, R187). -/

namespace Sys2Proof.Machine

open Sys2Proof.Safety Sys2Proof.Rules

/-! ## Results of several lanes -/

/-- Results of some lanes land in their words, and no other word changes. -/
theorem landAll_landings {cx : Ctx} {w : Warp} {code n : Nat} {ls : List Nat} (s : State) (value : Nat → Nat)
    (distinct : (ls.flatMap (codeKeys cx.core w code n)).Nodup) :
    let u := s.landAll (ls.flatMap (fun l => landings cx w code n l (value l) false))
    (∀ l ∈ ls, Holds u (codeKeys cx.core w code n l) (value l)) ∧
      WordsKept s u (ls.flatMap (codeKeys cx.core w code n)) := by
  have keys : (ls.flatMap (fun l => landings cx w code n l (value l) false)).map Landing.key =
      ls.flatMap (codeKeys cx.core w code n) := by
    simp only [List.map_flatMap, landings_keys]
  refine ⟨fun l hl => holds_landings _ cx w code n l _ fun y hy => ?_, fun k hk => landAll_kept _ _ _ (keys ▸ hk)⟩
  exact landAll_landed s _ (keys ▸ distinct) y (List.mem_flatMap.2 ⟨l, hl, hy⟩)

/-! ## What a load's landing leaves -/

section
variable (s t : State) (x : Txn)

/-- The words that a load writes for a lane, and what they receive (R187). -/
def loadedKeys (l : Nat) : List Nat :=
  codeKeys x.cx.core (s.warp x.warp) x.x.dN (x.cx.sh.dst.writes x.cx.sh x.x) l

def loadedValue (l : Nat) : Nat := extended x.x.tN
  (ofWords ((x.words.filter (fun y => y.lane = l)).map (fun y => y.value)) / 2 ^ (8 * (x.addr l % 4)))

/-- The lanes of a load have landed: their words hold the values, and beside them, the report latch, the record of the
access and the invalidation of an acquire nothing has changed. -/
def Loaded (ls : List Nat) : Prop :=
  (∀ l ∈ ls, Holds t (loadedKeys s x l) (loadedValue x l)) ∧ WordsKept s t (ls.flatMap (loadedKeys s x)) ∧
    t.warp x.warp = { s.warp x.warp with latch := (t.warp x.warp).latch } ∧
    (∀ k, k ≠ x.warp → t.warp k = s.warp k) ∧
    (x.x.order ≠ 1 → x.x.order ≠ 3 → t.near = s.near ∧ t.acqs = s.acqs) ∧
    t = { s with store := t.store, empty := t.empty, poison := t.poison, warps := t.warps, near := t.near
                 acqs := t.acqs, txns := t.txns }

/-- The landings of a load's lanes. -/
def loadLandings (ls : List Nat) : List Landing :=
  ls.flatMap (fun l => loadLanding x.cx (s.warp x.warp) x.words l (x.addr l))

end

section
variable {s t : State} {x : Txn}

theorem loadLanding_eq (l : Nat) : loadLanding x.cx (s.warp x.warp) x.words l (x.addr l) =
    landings x.cx (s.warp x.warp) x.x.dN (x.cx.sh.dst.writes x.cx.sh x.x) l (loadedValue x l) false := by
  simp only [loadLanding, loadedValue, ← extendLoad_eq]
  rfl

/-- What an acquire changes (R185). -/
theorem acquireOf_state : s.acquireOf x = { s with near := (s.acquireOf x).near, acqs := (s.acquireOf x).acqs } := by
  unfold State.acquireOf
  split <;> rfl

theorem acquireOf_of_plain (load : x.kind ≠ .fatom) (h1 : x.x.order ≠ 1) (h3 : x.x.order ≠ 3) : s.acquireOf x = s := by
  simp [State.acquireOf, TxnKind.order, load, Machine.acquires, h1, h3]

/-- Landed results, the acquire, and then nothing but the record and the report latch. -/
theorem loaded_of {ls : List Nat} (load : x.kind ≠ .fatom) (distinct : (ls.flatMap (loadedKeys s x)).Nodup)
    (state : t = { (s.landAll (loadLandings s x ls)).acquireOf x with txns := t.txns, warps := t.warps })
    (own : t.warp x.warp = { s.warp x.warp with latch := (t.warp x.warp).latch })
    (warps : ∀ k, k ≠ x.warp → t.warp k = s.warp k) : Loaded s t x ls := by
  have landed := landAll_landings s (loadedValue x) distinct
  simp only [← loadLanding_eq] at landed
  have rest := landAll_rest s (loadLandings s x ls)
  simp only [loadLandings] at rest state
  generalize s.landAll (ls.flatMap (fun l => loadLanding x.cx (s.warp x.warp) x.words l (x.addr l))) = u at *
  obtain ⟨holds, kept⟩ := landed
  have acquired := acquireOf_state (s := u) (x := x)
  rw [acquired] at state
  refine ⟨?_, ?_, own, warps, fun h1 h3 => ?_, ?_⟩
  · rw [state]; exact holds
  · rw [state]; exact kept
  · rw [state, acquireOf_of_plain load h1 h3, rest]; exact ⟨rfl, rfl⟩
  · rw [state, rest]

/-- The end of an access changes the report latch of its warp alone (R369). -/
theorem endTxn_warp (id : Nat) : (s.endTxn id x).warp x.warp =
    { s.warp x.warp with latch := ((s.endTxn id x).warp x.warp).latch } := by
  have latch (u : State) (w : Warp) : u.unlatched x.pc x.warp w =
      { w with latch := (u.unlatched x.pc x.warp w).latch } := by
    unfold State.unlatched Warp.unlatch
    split
    · rfl
    · split <;> rfl
  rw [State.endTxn, warp_modWarp_same]
  exact latch _ _

theorem endTxn_reap (id : Nat) (unended : (s.warp x.warp).ended = false) :
    (s.endTxn id x).reap x.warp = s.endTxn id x :=
  reap_of_unended (by rw [endTxn_warp]; exact unended)

/-- Lanes of a load land and its access ends. -/
theorem loaded_endTxn {ls : List Nat} (id : Nat) (load : x.kind ≠ .fatom)
    (distinct : (ls.flatMap (loadedKeys s x)).Nodup) (unended : (s.warp x.warp).ended = false) :
    let t := (((s.landAll (loadLandings s x ls)).acquireOf x).endTxn id x).reap x.warp
    Loaded s t x ls ∧ t.txns = tdel s.txns id := by
  have warp (k : Nat) : ((s.landAll (loadLandings s x ls)).acquireOf x).warp k = s.warp k := by
    rw [acquireOf_state]; exact landAll_warp ..
  have txns : ((s.landAll (loadLandings s x ls)).acquireOf x).txns = s.txns := by
    rw [acquireOf_state, landAll_rest]
  dsimp only
  rw [endTxn_reap id (by rw [warp]; exact unended)]
  refine ⟨loaded_of load distinct rfl ?_ fun k hk => ?_, ?_⟩
  · have own := endTxn_warp (s := (s.landAll (loadLandings s x ls)).acquireOf x) (x := x) id
    rwa [warp] at own
  · exact (warp_modWarp_ne _ _ hk).trans (warp k)
  · exact congrArg (tdel · id) txns

/-- Lanes of a load land and its access goes on for the others. -/
theorem loaded_rest {ls : List Nat} (txns : Table Txn) (load : x.kind ≠ .fatom)
    (distinct : (ls.flatMap (loadedKeys s x)).Nodup) :
    Loaded s { (s.landAll (loadLandings s x ls)).acquireOf x with txns := txns } x ls := by
  have warp (k : Nat) : ({ (s.landAll (loadLandings s x ls)).acquireOf x with txns := txns } : State).warp k =
      s.warp k := by
    show ((s.landAll (loadLandings s x ls)).acquireOf x).warp k = _
    rw [acquireOf_state]; exact landAll_warp ..
  exact loaded_of load distinct rfl (by rw [warp]) fun k _ => warp k

/-! ## The arrival -/

theorem exec_loadDataArrival {id : Nat} (now : s.now = .loadDataArrival id) (found : tfind s.txns id = some x)
    (berth : x.warp % 128 ≠ orphanBerth) : (x.kind = .ld ∨ x.kind = .ldu → exec .loadDataArrival s =
      .next (arriveLoad id x s)) ∧ (x.kind = .gath → exec .loadDataArrival s = .next (arriveGather id x s)) := by
  have run : exec .loadDataArrival s = .next (dataArrival id s) := by
    show execLoadDataArrival s = _
    simp only [execLoadDataArrival, now]
  rw [run]
  simp only [dataArrival, found, if_neg berth]
  exact ⟨fun kind => by rcases kind with kind | kind <;> rw [kind], fun kind => by rw [kind]⟩

theorem arriveLoad_whole {id : Nat}
    (whole : ∀ y ∈ x.words, y.ready = true ∧ y.lost = false ∧ y.poison = false) : arriveLoad id x s =
      (((s.landAll (loadLandings s x (x.laneList x.cx))).acquireOf x).endTxn id x).reap x.warp := by
  have ready : x.words.any (fun w => !w.ready) = false := by
    simpa using fun y hy => (whole y hy).1
  have clean : dataFault s x.cx x.words x.x.space = none := dataFault_eq_none fun y hy => (whole y hy).2
  simp only [arriveLoad, ready, clean]
  rfl

/-- Lanes in ascending order: the first that satisfies a condition is the lowest. -/
theorem find_lanesOf {m : LaneMask} {p : Nat → Bool} {l : Nat} (mem : l ∈ lanesOf m) (hl : p l = true)
    (lowest : ∀ j ∈ lanesOf m, j < l → p j = false) : (lanesOf m).find? p = some l := by
  have sorted : (lanesOf m).Pairwise (· < ·) := List.Pairwise.filter _ (by decide)
  obtain ⟨before, later, eq⟩ := List.append_of_mem mem
  rw [eq] at sorted lowest ⊢
  refine List.find?_eq_some_iff_append.2 ⟨hl, before, later, rfl, fun j hj => ?_⟩
  rw [lowest j (List.mem_append_left _ hj) ((List.pairwise_append.1 sorted).2.2 j hj l (List.mem_cons_self ..))]
  rfl

theorem arriveGather_lowest {id l : Nat} (mem : l ∈ lanesOf x.lanes)
    (whole : ∀ y ∈ x.words, y.lane = l → y.ready = true ∧ y.lost = false ∧ y.poison = false)
    (lowest : ∀ j ∈ lanesOf x.lanes, j < l →
      ¬ ∀ y ∈ x.words, y.lane = j → y.ready = true ∧ y.lost = false ∧ y.poison = false) :
    arriveGather id x s = landLane id x l (loadLandings s x [l]) s := by
  have there (j : Nat) : ((x.words.filter (fun w => w.lane = j)).all (fun w => w.ready && !w.lost && !w.poison)) = true ↔
      ∀ y ∈ x.words, y.lane = j → y.ready = true ∧ y.lost = false ∧ y.poison = false := by
    simp [and_assoc, imp_iff_not_or]
  have first := find_lanesOf mem ((there l).2 whole) fun j hj lt =>
    Bool.eq_false_iff.2 (mt (there j).1 (lowest j hj lt))
  simp only [arriveGather, first]
  rw [loadLandings, List.flatMap_singleton]

/-- The lanes left are none exactly when the lane that lands was the only one. -/
theorem lanes_left_eq_zero {m : LaneMask} {l : Nat} (mem : l ∈ lanesOf m) :
    m &&& ~~~ maskOf (fun j => j = l) = 0 ↔ m = maskOf (fun j => j = l) := by
  have lt := lanesOf_lt m l mem
  have one : maskOf (fun j => j = l) = BitVec.twoPow 32 l := by
    interval_cases l <;> decide
  have holds : m &&& BitVec.twoPow 32 l = BitVec.twoPow 32 l := by
    rw [BitVec.and_twoPow, if_pos ((mem_lanesOf m l).1 mem)]
  rw [one]
  refine ⟨fun none => ?_, fun only => by rw [only]; exact BitVec.and_not_self _⟩
  calc m = m &&& BitVec.allOnes 32 := BitVec.and_allOnes.symm
    _ = m &&& (BitVec.twoPow 32 l ||| ~~~ BitVec.twoPow 32 l) := by simp
    _ = (m &&& BitVec.twoPow 32 l) ||| (m &&& ~~~ BitVec.twoPow 32 l) := BitVec.and_or_distrib_left ..
    _ = BitVec.twoPow 32 l := by simp [holds, none]

end

/-- Settles O19: the issue opens an access after its requests; LD and LDU land every lane and GATH its lowest. -/
theorem loads : Obligations.Loads := by
  refine ⟨fun x s e he go allowed clean => ?_, fun s id x found now unended berth => ?_⟩
  · have address (indexed : Bool) (i : Instr) := addressOf_eq indexed (issueCx i s) s
    simp only [List.mem_cons, List.not_mem_nil, or_false] at he
    rcases he with rfl | rfl | rfl
    all_goals
      dsimp only at go allowed clean
      simp only [address] at allowed clean
      exact ⟨_, congrArg Host.Outcome.next (issueOf_of_goes rfl go), loadLanes_issued (by decide) allowed clean⟩
  · obtain ⟨load, gather⟩ := exec_loadDataArrival now found berth
    refine ⟨fun kind distinct whole => ?_, fun l kind mem distinct whole lowest => ?_⟩
    · have other : x.kind ≠ .fatom := by rcases kind with kind | kind <;> simp [kind]
      rw [load kind, arriveLoad_whole whole]
      exact ⟨_, rfl, loaded_endTxn id other distinct unended⟩
    · have other : x.kind ≠ .fatom := by simp [kind]
      have alone : ([l].flatMap (loadedKeys s x)).Nodup := by rw [List.flatMap_singleton]; exact distinct
      rw [gather kind, arriveGather_lowest mem whole lowest, landLane]
      simp only [lanes_left_eq_zero mem]
      split
      · exact ⟨_, rfl, loaded_endTxn id other alone unended⟩
      · refine ⟨_, rfl, loaded_rest _ other alone, ?_⟩
        rw [acquireOf_state, landAll_rest]

end Sys2Proof.Machine
end

section
/-! PROOFS. Line clocks and performance counters (R351 to R356): LCLK, PCSEL and PCRD at issue, and the events that
answer them. -/

namespace Sys2Proof.Machine

open Sys2Proof.Safety Sys2Proof.Rules

/-! ## Uniform results -/

theorem dstKeys_uniform {cx : Ctx} (uni : cx.uni = true) (w : Warp) :
    dstKeys cx w = codeKeys cx.core w cx.x.dN (cx.sh.dst.writes cx.sh cx.x) 0 := by
  simp [dstKeys, evalLanes, uni]

/-- A uniform result lands at issue, after a change outside the store and the warps, and the group passes. -/
theorem putUniform_passes {i : Instr} {s u : State} {n v : Nat} (uni : (issueCx i s).uni = true)
    (writes : (issueCx i s).sh.dst.writes (issueCx i s).sh (issueCx i s).x = n)
    (beside : u = { s with selects := u.selects }) :
    let t := (u.putUniform (issueCx i s) n v).advance (issueCx i s)
    Passes i s t (dstKeys (issueCx i s) (s.warp (issueCx i s).wk)) ∧ t.selects = u.selects ∧ Holds t (dstOf i s 0) v := by
  dsimp only
  have warp : u.warp = s.warp := by rw [beside]; rfl
  have kept : WarpKept (issueCx i s) u = WarpKept (issueCx i s) s := by rw [beside]; rfl
  have words (ks : List Nat) (v : State) : WordsKept u v ks = WordsKept s v ks := by rw [beside]; rfl
  have one : u.putUniform (issueCx i s) n v = u.landAll ([0].flatMap (fun l =>
      landings (issueCx i s) (s.warp (issueCx i s).wk) (issueCx i s).x.dN n l v false)) := by
    simp [State.putUniform, warp]
  obtain ⟨holds, others⟩ := landAll_landings (cx := issueCx i s) (w := s.warp (issueCx i s).wk)
    (code := (issueCx i s).x.dN) (n := n) (ls := [0]) u (fun _ => v) (by simpa using codeKeys_nodup ..)
  have state := landAll_rest u (landings (issueCx i s) (u.warp (issueCx i s).wk) (issueCx i s).x.dN n 0 v false)
  rw [← State.putUniform] at state
  rw [← one] at holds others
  obtain ⟨passed, -, -, left, rest⟩ := advance_changed (cx := issueCx i s) (fw := id) (flags := 0)
    (change := fun _ v => v) (uniform := id) state (by simp) rfl (by simp) fun _ => rfl
  rw [advance_modWarp_id] at passed left rest
  obtain ⟨warps, memory, all⟩ := rest
  refine ⟨⟨?_, ?_, ?_, fun k hk => ?_, fun a => ?_, ?_⟩, ?_, ?_⟩
  · rwa [warp] at passed
  · rwa [kept] at left
  · rw [dstKeys_uniform uni, writes, ← words]
    rw [List.flatMap_singleton] at others
    exact others
  · rw [warps k hk, warp]
  · rw [memory a, beside]
  · rw [show _ = u.sysregs from (congrArg State.sysregs all :), beside]
  · exact (congrArg State.selects all :)
  · rw [dstOf, writes]
    exact holds 0 (by simp)

/-! ## Selections (R353) -/

theorem exec_pcsel {x : Long} {s : State} (go : Goes (.pcsel x) false s) :
    exec (.pcsel x) s = .next (pcselGroup (issueCx (.pcsel x) s) s) :=
  congrArg Host.Outcome.next (issueOf_of_goes rfl go)

/-- A core after a selection (R353). -/
def selected (x : Select) (v : Core) : Core :=
  { v with events := setEight x.event x.counter v.events, counts := setEight 0 x.counter v.counts }

theorem lget_setEight {v k : Nat} {l : List Nat} (hk : k < 8) (eight : l = [] ∨ l.length = 8) (j : Nat) :
    lget 0 (setEight v k l) j = if j = k then v else lget 0 l j := by
  have full : ∃ m : List Nat, setEight v k l = lupd (fun _ => v) m k ∧ m.length = 8 ∧ ∀ j, lget 0 m j = lget 0 l j := by
    rcases eight with rfl | eight
    · refine ⟨lrep 0 8, rfl, rfl, fun j => ?_⟩
      simp only [lrep, lget_eq, List.getElem?_cons, List.getElem?_nil]
      split_ifs <;> rfl
    · refine ⟨l, ?_, eight, fun _ => rfl⟩
      rw [setEight, if_neg (by simp [← List.length_eq_zero_iff, eight])]
  obtain ⟨m, eq, length, same⟩ := full
  rw [eq, lget_eq, getElem?_lupd, ← same, lget_eq]
  by_cases e : j = k
  · subst e
    simp [List.getElem?_eq_getElem (length ▸ hk)]
  · rw [if_neg e, if_neg (Ne.symm e)]

theorem core_modCore (s : State) (c d : Nat) (f : Core → Core) :
    (s.modCore c f).core d = if d = c then f (s.core c) else s.core d := by
  simp only [State.core, State.modCore, State.setCore]
  split
  · rw [‹d = c›, tget_tput_same]
  · rw [tget_tput_ne _ _ _ (Ne.symm ‹_›)]

/-- Each core of a list changed by itself. -/
theorem core_foldl_modCore (f : Core → Core) {cs : List Nat} (distinct : cs.Nodup) (s : State) (d : Nat) :
    (cs.foldl (fun s c => s.modCore c f) s).core d = if d ∈ cs then f (s.core d) else s.core d := by
  induction cs generalizing s with
  | nil => simp
  | cons c cs ih =>
    obtain ⟨apart, distinct⟩ := List.nodup_cons.1 distinct
    rw [List.foldl_cons, ih distinct, core_modCore]
    by_cases e : d = c
    · subst e; simp [apart]
    · simp [e]

theorem foldl_modCore_rest (f : Core → Core) (cs : List Nat) (s : State) :
    cs.foldl (fun s c => s.modCore c f) s = { s with cores := (cs.foldl (fun s c => s.modCore c f) s).cores } :=
  foldl_related (R := fun s t => t = { s with cores := t.cores }) (fun _ => rfl)
    (fun s t u h k => k.trans (by rw [h])) _ (fun _ _ => rfl) cs s

theorem exec_perfCounterSelectEffect {s : State} {n : Nat} (now : s.now = .perfCounterSelectEffect n) :
    exec .perfCounterSelectEffect s = .next (selectEffect s) := by
  show execPerfCounterSelectEffect s = _
  simp only [execPerfCounterSelectEffect, now]

theorem selectEffect_due {s : State} {y : Select} {rest : List Select} (first : s.selects = y :: rest)
    (due : y.tick.toNat ≤ s.tick.toNat) :
    selectEffect s = (upTo 512).foldl (fun s c => s.modCore c (selected y)) { s with selects := rest } := by
  simp only [selectEffect, first, if_neg (Nat.not_lt.2 due)]
  rfl

/-- A selection takes effect on every core (R353). -/
theorem selectEffect_cores {s : State} {y : Select} {rest : List Select} (first : s.selects = y :: rest)
    (due : y.tick.toNat ≤ s.tick.toNat) (counter : y.counter < 8)
    (eight : ∀ c, c < 512 → ((s.core c).events = [] ∨ (s.core c).events.length = 8) ∧
      ((s.core c).counts = [] ∨ (s.core c).counts.length = 8)) :
    let t := selectEffect s
    t.selects = rest ∧ t.warps = s.warps ∧ t.store = s.store ∧ ∀ c k, c < 512 → k < 8 →
      lget 0 (t.core c).events k = (if k = y.counter then y.event else lget 0 (s.core c).events k) ∧
      lget 0 (t.core c).counts k = (if k = y.counter then 0 else lget 0 (s.core c).counts k) := by
  dsimp only
  rw [selectEffect_due first due]
  have state := foldl_modCore_rest (selected y) (upTo 512) { s with selects := rest }
  have cores := core_foldl_modCore (selected y) (cs := upTo 512) List.nodup_range { s with selects := rest }
  refine ⟨by rw [state], by rw [state], by rw [state], fun c k hc _ => ?_⟩
  rw [cores, if_pos (show c ∈ upTo 512 from List.mem_range.2 hc)]
  exact ⟨lget_setEight counter (eight c hc).1 k, lget_setEight counter (eight c hc).2 k⟩

end Sys2Proof.Machine
end

section
/-! PROOFS. The latch of the performance counters and the contact sheet (R354), and the answer to an LCLK (R356). -/

namespace Sys2Proof.Machine

open Sys2Proof.Safety Sys2Proof.Rules

/-! ## Numbers and their words -/

/-- Words whose results have landed whole hold the number that the results make. -/
theorem holds_of_landed {t : State} {xs : List Landing} {v : Nat}
    (landed : ∀ x ∈ xs, t.word x.key = x.value ∧ t.isEmpty x.key = false ∧ t.isPoison x.key = x.poison)
    (whole : ∀ x ∈ xs, x.poison = false) (value : ofWords (xs.map Landing.value) = v % 2 ^ (32 * xs.length)) :
    Holds t (xs.map Landing.key) v := by
  have words : (xs.map Landing.key).map t.word = xs.map Landing.value := by
    rw [List.map_map]
    exact List.map_congr_left fun x hx => (landed x hx).1
  refine ⟨by rw [State.regs, words, value, List.length_map], fun k hk => ?_⟩
  obtain ⟨x, hx, rfl⟩ := List.mem_map.1 hk
  obtain ⟨-, full, clean⟩ := landed x hx
  exact ⟨full, clean.trans (whole x hx)⟩

/-- A pending result answered: its words take new values, and then it lands (R26). -/
def State.answerProd (s : State) (k : Nat) (p : Prod) (xs : List Landing) : State :=
  State.landProd { s with prods := tput s.prods k { p with words := xs } } k

/-- The words of an answered result hold the number that it brings, and the result is pending no longer. -/
theorem answerProd_landed {s : State} {k : Nat} {p : Prod} {xs : List Landing} {v : Nat}
    (keys : xs.map Landing.key = p.words.map Landing.key) (distinct : (p.words.map Landing.key).Nodup)
    (unended : (s.warp p.warp).ended = false) (whole : ∀ x ∈ xs, x.poison = false)
    (value : ofWords (xs.map Landing.value) = v % 2 ^ (32 * xs.length)) :
    Holds (s.answerProd k p xs) (p.words.map Landing.key) v ∧ tfind (s.answerProd k p xs).prods k = none ∧
      s.answerProd k p xs = { s with
        store := (s.answerProd k p xs).store, empty := (s.answerProd k p xs).empty, poison := (s.answerProd k p xs).poison
        prods := (s.answerProd k p xs).prods, warps := (s.answerProd k p xs).warps } := by
  obtain ⟨values, -, ⟨gone, -⟩, -, -, -, state⟩ := landProd_landed
    (s := { s with prods := tput s.prods k { p with words := xs } }) (tfind_tput_same s.prods k { p with words := xs })
    (keys ▸ distinct) unended
  exact ⟨keys ▸ holds_of_landed values whole value, gone, state⟩

/-- The words of a pending result with new values, one for one. -/
def Prod.withValues (p : Prod) (ws : List Word) : List Landing :=
  (p.words.zip ws).map (fun e => { e.1 with value := e.2 })

/-- Words answered one for one hold the number that the new values make. -/
theorem answerProd_words {s : State} {k : Nat} {p : Prod} {ws : List Word} {v : Nat}
    (pairs : p.words.length = ws.length) (distinct : (p.words.map Landing.key).Nodup)
    (unended : (s.warp p.warp).ended = false) (whole : ∀ y ∈ p.words, y.poison = false)
    (value : ofWords ws = v % 2 ^ (32 * ws.length)) :
    Holds (s.answerProd k p (p.withValues ws)) (p.words.map Landing.key) v ∧
      tfind (s.answerProd k p (p.withValues ws)).prods k = none ∧
      (s.answerProd k p (p.withValues ws)).rays = s.rays := by
  have keys : (p.withValues ws).map Landing.key = p.words.map Landing.key := by
    rw [Prod.withValues, List.map_map]
    exact (List.map_map (f := Prod.fst) (g := Landing.key)).symm.trans (by rw [List.map_fst_zip pairs.le])
  have values : (p.withValues ws).map Landing.value = ws := by
    rw [Prod.withValues, List.map_map]
    exact List.map_snd_zip pairs.ge
  have clean : ∀ x ∈ p.withValues ws, x.poison = false := by
    simp only [Prod.withValues, List.mem_map]
    rintro _ ⟨e, he, rfl⟩
    exact (whole e.1 (List.of_mem_zip he).1 :)
  have length : (p.withValues ws).length = ws.length := (List.length_map ..).symm.trans (congrArg List.length values)
  obtain ⟨holds, gone, state⟩ := answerProd_landed (s := s) (k := k) keys distinct unended clean
    (by rw [values, length, value])
  exact ⟨holds, gone, (congrArg State.rays state :)⟩

/-! ## LCLK's answer (R356) -/

theorem exec_producerResultArrival_lclk {s : State} {k : Nat} {p : Prod} (now : s.now = .producerResultArrival k)
    (found : tfind s.prods k = some p) (kind : p.kind = .lclk) :
    exec .producerResultArrival s = .next (answerLclk k p s) := by
  show execProducerResultArrival s = _
  simp only [execProducerResultArrival, now, resultArrival, found, kind]

theorem answerLclk_landed {s : State} {k : Nat} {p : Prod} (one : p.words.length = 1)
    (whole : ∀ y ∈ p.words, y.poison = false) (unended : (s.warp p.warp).ended = false) :
    let t := answerLclk k p s
    tfind t.prods k = none ∧ Holds t (p.words.map Landing.key) (lclkValue s p.arg) ∧ t.mem = s.mem := by
  obtain ⟨y, only⟩ := List.length_eq_one_iff.1 one
  have run : answerLclk k p s = s.answerProd k p [{ y with value := BitVec.ofNat 32 (lclkValue s p.arg) }] := by
    rw [answerLclk, only]; rfl
  obtain ⟨holds, gone, state⟩ := answerProd_landed (s := s) (k := k) (p := p) (v := lclkValue s p.arg)
    (xs := [{ y with value := BitVec.ofNat 32 (lclkValue s p.arg) }]) (by rw [only]; rfl) (by rw [only]; simp) unended
    (by simpa [only] using whole) (by simp [ofWords])
  rw [run]
  exact ⟨gone, holds, (congrArg State.mem state :)⟩

/-! ## The contact sheet (R354) -/

/-- Of two counts with their cores the later one, where it comes first in an order of counts, else the earlier. -/
def pick (r : Nat → Nat → Bool) (m e : Nat × Nat) : Nat × Nat := if r e.2 m.2 then e else m

/-- The count that comes first in an order, with the lowest core that has it, of cores in ascending order. -/
theorem foldl_pick {r : Nat → Nat → Bool} (trans : ∀ a b c, r a b → r b c → r a c)
    (total : ∀ a b, r a b = false → a = b ∨ r b a) (vs : List (Nat × Nat)) (m : Nat × Nat)
    (ascending : (m :: vs).Pairwise (fun a b => a.1 < b.1)) :
    vs.foldl (pick r) m ∈ m :: vs ∧ ∀ e ∈ m :: vs, r (vs.foldl (pick r) m).2 e.2 ∨
      ((vs.foldl (pick r) m).2 = e.2 ∧ (vs.foldl (pick r) m).1 ≤ e.1) := by
  induction vs generalizing m with
  | nil => simp
  | cons v vs ih =>
    obtain ⟨first, later⟩ := List.pairwise_cons.1 ascending
    obtain ⟨after, rest⟩ := List.pairwise_cons.1 later
    rw [List.foldl_cons]
    by_cases better : r v.2 m.2 = true
    · rw [pick, if_pos better]
      obtain ⟨mem, best⟩ := ih v later
      refine ⟨List.mem_cons_of_mem _ mem, List.forall_mem_cons.2 ⟨.inl ?_, best⟩⟩
      rcases best v (List.mem_cons_self ..) with h | h
      · exact trans _ _ _ h better
      · rw [h.1]; exact better
    · rw [pick, if_neg better]
      obtain ⟨mem, best⟩ := ih m (List.pairwise_cons.2 ⟨fun e he => first e (List.mem_cons_of_mem _ he), rest⟩)
      obtain ⟨own, others⟩ := List.forall_mem_cons.1 best
      refine ⟨?_, List.forall_mem_cons.2 ⟨own, List.forall_mem_cons.2 ⟨?_, others⟩⟩⟩
      · exact (List.mem_cons.1 mem).elim (fun h => by simp [h]) fun h => by simp [h]
      · have before := first v (List.mem_cons_self ..)
        rcases own with h | ⟨h, core⟩ <;> rcases total _ _ (Bool.eq_false_iff.2 better) with e | e
        · exact .inl (e ▸ h)
        · exact .inl (trans _ _ _ h e)
        · exact .inr ⟨h.trans e.symm, by omega⟩
        · exact .inl (h ▸ e)

theorem foldl_pick_of_ne_nil {r : Nat → Nat → Bool} (irrefl : ∀ a, r a a = false)
    (trans : ∀ a b c, r a b → r b c → r a c) (total : ∀ a b, r a b = false → a = b ∨ r b a) {vs : List (Nat × Nat)}
    (some_ : vs ≠ []) (ascending : vs.Pairwise (fun a b => a.1 < b.1)) :
    vs.foldl (pick r) (vs.headD (0, 0)) ∈ vs ∧ ∀ e ∈ vs, r (vs.foldl (pick r) (vs.headD (0, 0))).2 e.2 ∨
      ((vs.foldl (pick r) (vs.headD (0, 0))).2 = e.2 ∧ (vs.foldl (pick r) (vs.headD (0, 0))).1 ≤ e.1) := by
  obtain ⟨v, vs, rfl⟩ := List.exists_cons_of_ne_nil some_
  have start : pick r v v = v := by simp [pick, irrefl]
  rw [List.headD_cons, List.foldl_cons, start]
  exact foldl_pick trans total vs v ascending

/-- The least and the greatest count of a sheet, each with the lowest core that has it. -/
def least (vs : List (Nat × Nat)) : Nat × Nat := vs.foldl (pick (fun a b => a < b)) (vs.headD (0, 0))
def greatest (vs : List (Nat × Nat)) : Nat × Nat := vs.foldl (pick (fun a b => b < a)) (vs.headD (0, 0))

theorem contactSheet_eq (vs : List (Nat × Nat)) (tr : Nat) : contactSheet vs tr =
    wordsOf 2 (vs.map Prod.snd).sum ++ [BitVec.ofNat 32 (least vs).2,
      BitVec.ofNat 32 ((least vs).1 * 2 ^ 16 + (least vs).2 / 2 ^ 32), BitVec.ofNat 32 (greatest vs).2,
      BitVec.ofNat 32 ((greatest vs).1 * 2 ^ 16 + (greatest vs).2 / 2 ^ 32)] ++ wordsOf 2 tr := by
  have sum : vs.foldl (fun a e => a + e.2) 0 = (vs.map Prod.snd).sum := by
    rw [List.sum_eq_foldl, List.foldl_map]
  have lo : vs.foldl (fun (m : Nat × Nat) e => if e.2 < m.2 then e else m) (vs.headD (0, 0)) = least vs := by
    rw [least]; congr 1; funext m e; simp [pick]
  have hi : vs.foldl (fun (m : Nat × Nat) e => if m.2 < e.2 then e else m) (vs.headD (0, 0)) = greatest vs := by
    rw [greatest]; congr 1; funext m e; simp [pick]
  simp only [contactSheet, sum, lo, hi]

theorem ofWords_append (xs ys : List Word) : ofWords (xs ++ ys) = ofWords xs + 2 ^ (32 * xs.length) * ofWords ys := by
  induction xs with
  | nil => simp [ofWords]
  | cons x xs ih =>
    rw [List.cons_append, ofWords, ofWords, ih, List.length_cons]
    ring

/-- The sheet's words as one number: the sum, the least and the greatest count with their cores, and the tick. -/
theorem ofWords_contactSheet {vs : List (Nat × Nat)} {tr : Nat}
    (lo : (least vs).1 < 512 ∧ (least vs).2 < 2 ^ 48) (hi : (greatest vs).1 < 512 ∧ (greatest vs).2 < 2 ^ 48) :
    ofWords (contactSheet vs tr) = ((vs.map Prod.snd).sum % 2 ^ 64 + 2 ^ 64 * ((least vs).2 % 2 ^ 32) +
      2 ^ 96 * ((least vs).1 * 2 ^ 16 + (least vs).2 / 2 ^ 32) + 2 ^ 128 * ((greatest vs).2 % 2 ^ 32) +
      2 ^ 160 * ((greatest vs).1 * 2 ^ 16 + (greatest vs).2 / 2 ^ 32) + 2 ^ 192 * tr) % 2 ^ 256 := by
  rw [contactSheet_eq, ofWords_append, ofWords_append, ofWords_wordsOf, ofWords_wordsOf]
  simp only [ofWords, BitVec.toNat_ofNat, List.length_append, length_wordsOf, List.length_cons, List.length_nil]
  generalize (vs.map Prod.snd).sum = n
  generalize least vs = l at *
  generalize greatest vs = h at *
  omega

/-! ## The latch (R354) -/

theorem exec_perfCounterLatch {s : State} {k : Nat} (now : s.now = .perfCounterLatch k) :
    exec .perfCounterLatch s = .next (latchCounters k s) := by
  show execPerfCounterLatch s = _
  simp only [execPerfCounterLatch, now]

/-- The counters of the present cores. -/
def counted (s : State) (n : Nat) : List (Nat × Nat) :=
  (presentCores s).map (fun c => (c, lget 0 (s.core c).counts n))

theorem counted_ascending (s : State) (n : Nat) : (counted s n).Pairwise (fun a b => a.1 < b.1) := by
  rw [counted, List.pairwise_map]
  exact List.Pairwise.filter _ List.pairwise_lt_range

theorem counted_core {s : State} {n : Nat} {e : Nat × Nat} (he : e ∈ counted s n) : e.1 < 512 := by
  obtain ⟨c, hc, rfl⟩ := List.mem_map.1 he
  exact List.mem_range.1 (List.mem_filter.1 hc).1

section
variable {s : State} {k : Nat} {p : Prod}

theorem due_iff (n : Nat) : s.selects.any (fun x => decide (x.tick.toNat ≤ n)) = true ↔
    ∃ y ∈ s.selects, y.tick.toNat ≤ n := by simp

theorem latchCounters_early (found : tfind s.prods k = some p)
    (early : s.tick.toNat < p.arg2 ∨ ∃ y ∈ s.selects, y.tick.toNat ≤ p.arg2) : latchCounters k s = s := by
  have wait : (decide (p.kind ≠ .pcrd) || decide (s.tick.toNat < p.arg2) ||
      s.selects.any (fun x => decide (x.tick.toNat ≤ p.arg2))) = true := by
    rcases early with h | h
    · simp [h]
    · rw [(due_iff _).2 h, Bool.or_true]
  simp only [latchCounters, found, wait, if_true]

theorem latchCounters_answer (found : tfind s.prods k = some p) (kind : p.kind = .pcrd)
    (tick : p.arg2 ≤ s.tick.toNat) (undue : ¬ ∃ y ∈ s.selects, y.tick.toNat ≤ p.arg2) :
    latchCounters k s = s.answerProd k p (p.withValues (contactSheet (counted s p.arg) p.arg2)) := by
  have wait : (decide (p.kind ≠ .pcrd) || decide (s.tick.toNat < p.arg2) ||
      s.selects.any (fun x => decide (x.tick.toNat ≤ p.arg2))) = false := by
    rw [Bool.eq_false_iff.2 (mt (due_iff _).1 undue)]
    simp [kind, tick]
  simp only [latchCounters, found, wait, Bool.false_eq_true, if_false]
  rfl

/-- The sheet lands in the registers of PCRD (R354). -/
theorem latchCounters_landed (found : tfind s.prods k = some p) (kind : p.kind = .pcrd) (eight : p.words.length = 8)
    (distinct : (p.words.map Landing.key).Nodup) (whole : ∀ y ∈ p.words, y.poison = false)
    (unended : (s.warp p.warp).ended = false) (tick : p.arg2 ≤ s.tick.toNat)
    (undue : ¬ ∃ y ∈ s.selects, y.tick.toNat ≤ p.arg2) {v : Nat}
    (value : ofWords (contactSheet (counted s p.arg) p.arg2) = v % 2 ^ 256) :
    Holds (latchCounters k s) (p.words.map Landing.key) v ∧ tfind (latchCounters k s).prods k = none := by
  have length : (contactSheet (counted s p.arg) p.arg2).length = 8 := rfl
  obtain ⟨holds, gone, -⟩ := answerProd_words (k := k) (eight.trans length.symm) distinct unended whole
    (by rw [value, length])
  rw [latchCounters_answer found kind tick undue]
  exact ⟨holds, gone⟩

end

end Sys2Proof.Machine
end

section
/-! PROOFS. PCRD and LCLK at issue (R26, R354, R356), and the statement about clocks and counters. -/

namespace Sys2Proof.Machine

open Sys2Proof.Safety Sys2Proof.Rules

/-! ## Pending results (R26) -/

/-- Results have been left pending: their words are empty, and nothing else has changed. -/
structure Produced (s t : State) : Prop where
  state : t = { s with empty := t.empty, prods := t.prods, fresh := t.fresh }
  fresh : s.fresh ≤ t.fresh
  older : ∀ k, k < s.fresh → tfind t.prods k = tfind s.prods k
  empty : ∀ k, s.isEmpty k = true → t.isEmpty k = true

namespace Produced

variable {s t u : State}

theorem refl (s : State) : Produced s s := ⟨rfl, le_rfl, fun _ _ => rfl, fun _ h => h⟩

theorem trans (h : Produced s t) (k : Produced t u) : Produced s u where
  state := k.state.trans (by rw [h.state])
  fresh := h.fresh.trans k.fresh
  older j hj := (k.older j (hj.trans_le h.fresh)).trans (h.older j hj)
  empty j hj := k.empty j (h.empty j hj)

end Produced

section
variable (s : State) (cx : Ctx) (kind : ProdKind) (after : Nat) (xs : List Landing) (flags : FlagMask) (arg arg2 : Nat)

/-- The result that `produce` leaves pending. -/
def pendingResult : Prod where
  kind := kind
  warp := cx.wk
  words := xs
  flags := flags
  after := s.clk + after
  order := s.fresh
  arg := arg
  arg2 := arg2
  lanes := cx.act

theorem tfind_produce : tfind (s.produce cx kind after xs flags arg arg2).prods s.fresh =
    some (pendingResult s cx kind after xs flags arg arg2) := tfind_tput_same ..

theorem isEmpty_produce (k : Nat) : (s.produce cx kind after xs flags arg arg2).isEmpty k =
    ((xs.map Landing.key).contains k || s.isEmpty k) := nmem_foldl_nput ..

theorem produced_produce : Produced s (s.produce cx kind after xs flags arg arg2) where
  state := rfl
  fresh := Nat.le_succ _
  older _ hk := tfind_tput_ne _ _ (Nat.ne_of_gt hk)
  empty k hk := by rw [isEmpty_produce, hk, Bool.or_true]

end

/-! ## PCRD (R354) -/

theorem exec_pcrd {x : Long} {s : State} (go : Goes (.pcrd x) false s) :
    exec (.pcrd x) s = .next (pcrdGroup (issueCx (.pcrd x) s) s) :=
  congrArg Host.Outcome.next (issueOf_of_goes rfl go)

theorem pcrdGroup_pends (x : Long) (s : State) :
    let cx := issueCx (.pcrd x) s
    let t := pcrdGroup cx s
    ∃ p, tfind t.prods s.fresh = some p ∧ p.kind = .pcrd ∧ p.warp = cx.wk ∧ p.arg = s.opA cx 0 % 8 ∧
      p.arg2 = (s.tick + 4096).toNat ∧ p.words.map Landing.key = dstOf (.pcrd x) s 0 ∧
      (∀ k ∈ dstOf (.pcrd x) s 0, t.isEmpty k = true) ∧ MemoryKept s t ∧ t.store = s.store ∧
      LanesPassed cx (s.warp cx.wk) (t.warp cx.wk) (fun _ v => v) := by
  have group : pcrdGroup (issueCx (.pcrd x) s) s = (s.produce (issueCx (.pcrd x) s) .pcrd 0
      (landings (issueCx (.pcrd x) s) (s.warp (issueCx (.pcrd x) s).wk) (issueCx (.pcrd x) s).x.dN 8 0 0 false) 0
      (s.opA (issueCx (.pcrd x) s) 0 % 8) (s.tick + 4096).toNat).advance (issueCx (.pcrd x) s) := rfl
  dsimp only
  rw [group]
  have keys := landings_keys (issueCx (.pcrd x) s) (s.warp (issueCx (.pcrd x) s).wk) (issueCx (.pcrd x) s).x.dN 8 0 0
    false
  generalize landings (issueCx (.pcrd x) s) (s.warp (issueCx (.pcrd x) s).wk) (issueCx (.pcrd x) s).x.dN 8 0 0 false =
    xs at keys
  generalize (s.tick + 4096).toNat = tick
  have made := produced_produce s (issueCx (.pcrd x) s) .pcrd 0 xs 0 (s.opA (issueCx (.pcrd x) s) 0 % 8) tick
  have found := tfind_produce s (issueCx (.pcrd x) s) .pcrd 0 xs 0 (s.opA (issueCx (.pcrd x) s) 0 % 8) tick
  have empty := isEmpty_produce s (issueCx (.pcrd x) s) .pcrd 0 xs 0 (s.opA (issueCx (.pcrd x) s) 0 % 8) tick
  generalize s.produce (issueCx (.pcrd x) s) .pcrd 0 xs 0 (s.opA (issueCx (.pcrd x) s) 0 % 8) tick = u at *
  refine ⟨_, found, rfl, rfl, rfl, rfl, keys, fun k hk => ?_, fun a => ?_, ?_, lanesPassed_advance ?_⟩
  · exact (empty k).trans (by rw [List.contains_iff_mem.2 (show k ∈ _ from keys ▸ hk), Bool.true_or])
  · show memByte u.mem a = _
    rw [made.state]
  · show u.store = _
    rw [made.state]
  · rw [made.state]; rfl

/-! ## LCLK (R356) -/

/-- The result that LCLK leaves pending for a lane, whose line is in memory. -/
def lclkPend (cx : Ctx) (w : Warp) (s : State) (e : Nat × Place) : State :=
  match e.2 with
  | .glob p _ => s.produce cx .lclk 0 (landings cx w cx.x.dN 1 e.1 0 false) 0 (p.pa / 4)
  | .loc _ _ => s

theorem produced_lclkPend (cx : Ctx) (w : Warp) (s : State) (e : Nat × Place) : Produced s (lclkPend cx w s e) := by
  unfold lclkPend
  split
  · exact produced_produce ..
  · exact .refl _

/-- The result of one lane stays pending while later lanes are given theirs. -/
theorem lclkPends {cx : Ctx} {w : Warp} {ps : List (Nat × Place)} (s : State) {l va : Nat} {ph : Phys}
    (mem : (l, Place.glob ph va) ∈ ps) :
    let t := ps.foldl (lclkPend cx w) s
    (∀ k ∈ codeKeys cx.core w cx.x.dN 1 l, t.isEmpty k = true) ∧ ∃ k p, tfind t.prods k = some p ∧ p.kind = .lclk ∧
      p.arg = ph.pa / 4 ∧ p.words.map Landing.key = codeKeys cx.core w cx.x.dN 1 l := by
  obtain ⟨before, later, rfl⟩ := List.append_of_mem mem
  dsimp only
  rw [List.foldl_append, List.foldl_cons]
  generalize before.foldl (lclkPend cx w) s = u
  have rest := foldl_related Produced.refl (fun _ _ _ => .trans) (lclkPend cx w) (produced_lclkPend cx w) later
    (lclkPend cx w u (l, .glob ph va))
  have keys := landings_keys cx w cx.x.dN 1 l 0 false
  refine ⟨fun k hk => rest.empty k ?_, u.fresh,
    pendingResult u cx .lclk 0 (landings cx w cx.x.dN 1 l 0 false) 0 (ph.pa / 4) 0, ?_, rfl, rfl, keys⟩
  · refine (isEmpty_produce ..).trans ?_
    rw [keys, List.contains_iff_mem.2 hk, Bool.true_or]
  · exact (rest.older u.fresh (Nat.lt_succ_self _)).trans (tfind_produce ..)

theorem exec_lclk {x : Long} {s : State} (go : Goes (.lclk x) false s) :
    exec (.lclk x) s = .next (lclkLanes (issueCx (.lclk x) s) s) :=
  congrArg Host.Outcome.next (issueOf_of_goes rfl go)

/-- The accesses of LCLK's lanes, each checked as a load of four bytes (R356). -/
def lclkAccs (cx : Ctx) (s : State) : List LaneAcc :=
  (lanesOf cx.act).map (fun l => ⟨l, ((s.opA cx l : Int) + offsetOf cx.x) % 2 ^ 64,
    checkLane s cx 0 4 wantLoad (((s.opA cx l : Int) + offsetOf cx.x) % 2 ^ 64)⟩)

theorem lclkLanes_of_allowed {cx : Ctx} {s : State}
    (allowed : Allowed { cx with x := { cx.x with mods := 0 } } s true false 4 (lclkAccs cx s)) : lclkLanes cx s =
      (((placesOf (lclkAccs cx s)).foldl (lclkPend cx (s.warp cx.wk)) s).countRequests cx 0
        (placesOf (lclkAccs cx s))).advance cx := by
  simp only [lclkLanes, addressIn_global]
  exact access_of_allowed _ allowed

theorem mem_placesOf {accs : List LaneAcc} {y : LaneAcc} {p : Place} (mem : y ∈ accs) (place : y.place = .ok p) :
    (y.lane, p) ∈ placesOf accs :=
  List.mem_filterMap.2 ⟨y, mem, by rw [place]⟩

/-- LCLK at issue: a pending result for each lane's line, and its group passed. -/
theorem lclkLanes_pends {x : Long} {s : State}
    (allowed : Allowed { issueCx (.lclk x) s with x := { x with mods := 0 } } s true false 4
      (lclkAccs (issueCx (.lclk x) s) s)) :
    let cx := issueCx (.lclk x) s
    let t := lclkLanes cx s
    MemoryKept s t ∧ t.store = s.store ∧ t.registry = s.registry ∧ t.near = s.near ∧
      LanesPassed cx (s.warp cx.wk) (t.warp cx.wk) (fun _ v => v) ∧
      ∀ y ∈ lclkAccs cx s, ∀ ph va, y.place = .ok (.glob ph va) →
        (∀ k ∈ dstOf (.lclk x) s y.lane, t.isEmpty k = true) ∧ ∃ k p, tfind t.prods k = some p ∧ p.kind = .lclk ∧
          p.arg = ph.pa / 4 ∧ p.words.map Landing.key = dstOf (.lclk x) s y.lane := by
  dsimp only
  rw [lclkLanes_of_allowed allowed]
  have pends {l va ph} := lclkPends (cx := issueCx (.lclk x) s) (w := s.warp (issueCx (.lclk x) s).wk)
    (ps := placesOf (lclkAccs (issueCx (.lclk x) s) s)) s (l := l) (va := va) (ph := ph)
  have pended := foldl_related Produced.refl (fun _ _ _ => .trans) _
    (produced_lclkPend (issueCx (.lclk x) s) (s.warp (issueCx (.lclk x) s).wk))
    (placesOf (lclkAccs (issueCx (.lclk x) s) s)) s
  generalize (placesOf (lclkAccs (issueCx (.lclk x) s) s)).foldl
    (lclkPend (issueCx (.lclk x) s) (s.warp (issueCx (.lclk x) s).wk)) s = u at pends pended ⊢
  have asked := requested_countRequests u (issueCx (.lclk x) s) 0 (placesOf (lclkAccs (issueCx (.lclk x) s) s))
  generalize u.countRequests (issueCx (.lclk x) s) 0 (placesOf (lclkAccs (issueCx (.lclk x) s) s)) = v at asked ⊢
  have state := asked.state
  refine ⟨fun a => ?_, ?_, ?_, ?_, lanesPassed_advance ?_, fun y hy ph va place => ?_⟩
  · show memByte v.mem a = _
    rw [state, pended.state]
  · show v.store = _
    rw [state, pended.state]
  · show v.registry = _
    rw [state, pended.state]
  · show v.near = _
    rw [state, pended.state]
  · rw [asked.warp, pended.state]; rfl
  · obtain ⟨empty, result⟩ := pends (mem_placesOf hy place)
    refine ⟨fun k hk => ?_, ?_⟩
    · show nmem v.empty k = _
      rw [state]
      exact empty k hk
    · show ∃ k p, tfind v.prods k = some p ∧ _
      rw [state]
      exact result

/-! ## PCSEL (R353) -/

theorem pcselGroup_privileged {cx : Ctx} {s : State} (high : 4 ≤ s.opA cx 0 % 8) (outside : cx.berth ≠ 64) :
    pcselGroup cx s = s.raise cx.wk (s.trapOf cx .privileged 0 cx.group 0) := by
  simp [pcselGroup, high, Ctx.handler, handlerBerth, outside]

theorem pcselGroup_select {cx : Ctx} {s : State} (inside : 4 ≤ s.opA cx 0 % 8 → cx.berth = 64) : pcselGroup cx s =
    (State.putUniform { s with selects := s.selects ++
      [{ counter := s.opA cx 0 % 8, event := s.opB cx 0 % 2 ^ 8, tick := s.tick + 4096 }] } cx 2
      (s.tick + 4096).toNat).advance cx := by
  have allowed : ¬ ((decide (4 ≤ s.opA cx 0 % 8) && !cx.handler) = true) := by
    simp only [Bool.and_eq_true, decide_eq_true_eq, Bool.not_eq_true', Ctx.handler, decide_eq_false_iff_not, not_and,
      not_not]
    exact inside
  exact if_neg allowed

/-- The extremes of a sheet are counts of its cores, each with the lowest core that has it. -/
theorem least_spec {vs : List (Nat × Nat)} (some_ : vs ≠ []) (ascending : vs.Pairwise (fun a b => a.1 < b.1)) :
    least vs ∈ vs ∧ ∀ e ∈ vs, (least vs).2 < e.2 ∨ ((least vs).2 = e.2 ∧ (least vs).1 ≤ e.1) := by
  have spec := foldl_pick_of_ne_nil (r := fun a b => a < b) (by simp) (fun a b c => by simpa using Nat.lt_trans)
    (fun a b => by simp; omega) some_ ascending
  simp only [decide_eq_true_eq] at spec
  exact spec

theorem greatest_spec {vs : List (Nat × Nat)} (some_ : vs ≠ []) (ascending : vs.Pairwise (fun a b => a.1 < b.1)) :
    greatest vs ∈ vs ∧ ∀ e ∈ vs, e.2 < (greatest vs).2 ∨ ((greatest vs).2 = e.2 ∧ (greatest vs).1 ≤ e.1) := by
  have spec := foldl_pick_of_ne_nil (r := fun a b => b < a) (by simp) (fun a b c => by simpa using fun h k => Nat.lt_trans k h)
    (fun a b => by simp; omega) some_ ascending
  simp only [decide_eq_true_eq] at spec
  exact spec

/-- Settles O42: the instructions leave selections and results pending, and the events bring them about. -/
theorem clocksAndSheets : Obligations.ClocksAndSheets := by
  refine ⟨fun x s go => ⟨fun high outside => ?_, fun inside => ?_⟩, fun x s go => ?_, fun x s go low allowed => ?_,
    fun s => ⟨fun n y rest now first counter eight => ⟨fun early => ?_, fun due => ?_⟩,
      fun k p now found kind length distinct whole unended => ⟨fun early => ?_, fun tick undue some_ _ narrow => ?_⟩,
      fun k p now found kind one whole unended => ?_⟩⟩
  · exact ⟨_, (exec_pcsel go).trans (congrArg Host.Outcome.next (pcselGroup_privileged high outside)), rfl⟩
  · obtain ⟨passes, selects, holds⟩ := putUniform_passes (i := .pcsel x) (s := s) (n := 2) (v := (s.tick + 4096).toNat)
      (u := { s with selects := _ }) rfl rfl rfl
    exact ⟨_, (exec_pcsel go).trans (congrArg Host.Outcome.next (pcselGroup_select inside)), passes, selects, holds⟩
  · obtain ⟨p, pends⟩ := pcrdGroup_pends x s
    exact ⟨_, p, exec_pcrd go, pends⟩
  · exact ⟨_, exec_lclk go, lclkLanes_pends allowed⟩
  · simp only [exec_perfCounterSelectEffect now, selectEffect, first, early, if_true]
  · exact ⟨_, exec_perfCounterSelectEffect now, selectEffect_cores first due counter eight⟩
  · rw [exec_perfCounterLatch now, latchCounters_early found early]
  · obtain ⟨lo, lowest⟩ := least_spec some_ (counted_ascending s p.arg)
    obtain ⟨hi, highest⟩ := greatest_spec some_ (counted_ascending s p.arg)
    obtain ⟨holds, gone⟩ := latchCounters_landed found kind length distinct whole unended tick undue
      (ofWords_contactSheet ⟨counted_core lo, narrow _ lo⟩ ⟨counted_core hi, narrow _ hi⟩)
    exact ⟨_, _, lo, _, hi, exec_perfCounterLatch now, lowest, highest, holds, gone⟩
  · obtain ⟨gone, holds, mem⟩ := answerLclk_landed (k := k) one whole unended
    exact ⟨_, exec_producerResultArrival_lclk now found kind, gone, holds, mem⟩

end Sys2Proof.Machine
end

section
/-! PROOFS. The events of rays (R323, R327, R330, R332, R333): the start, the traversal, and the results that RRES
receives. -/

namespace Sys2Proof.Machine

open Sys2Proof.Safety Sys2Proof.Rules

/-! ## The end of a ray (R323, R332, R333) -/

section
variable {s : State} {id : Nat} {r : Ray}

theorem tfind_finishRay (status : Nat) (h : Option Hit) (s : State) : tfind (finishRay id r status h s).rays id =
    some { r with mode := .final, status := status, result := h, cands := [] } := tfind_tput_same ..

theorem tfind_failRay (status : Nat) (va : Option Nat) (s : State) : tfind (failRay id r status va s).rays id =
    some { r with mode := .final, status := status, result := none, cands := [] } := tfind_finishRay ..

theorem rays_writeSounding (h : Hit) (s : State) : (writeSounding r h s).rays = s.rays := by
  simp only [writeSounding]
  split <;> rfl

theorem tfind_endRay (s : State) : tfind (endRay id r s).rays id = some { r with
    mode := .final, status := if r.closest = none then 0 else 1, result := r.closest, cands := [] } := by
  unfold endRay
  split
  · rename_i h closest
    rw [rays_writeSounding, tfind_finishRay, closest]
    rfl
  · rename_i closest
    rw [tfind_finishRay, closest]
    rfl

/-! ## The start (R327, R330, R332) -/

theorem exec_rayStart (now : s.now = .rayStart id) : exec .rayStart s = .next (startRay id s) := by
  show execRayStart s = _
  simp only [execRayStart, now]

section
variable (found : tfind s.rays id = some r) (mode : r.mode = .waiting) (acked : s.unacked r.core = false)
include found mode acked

theorem startRay_invalid (invalid : beamOf r.data = none ∨ 8 ≤ r.flags.toNat) :
    startRay id s = finishRay id r 5 none s := by
  simp only [startRay, found, mode, acked]
  rcases invalid with invalid | invalid
  · simp [invalid]
  · simp [Nat.not_lt.2 invalid]

variable {beam : Beam} (valid : beamOf r.data = some beam) (flags : r.flags.toNat < 8)
include valid flags

theorem startRay_bad {va : Nat} (bad : engineReads s r.core r.ctx r.priv (wordAddrs r.root.toNat 16) = .bad va) :
    startRay id s = failRay id r 4 (some va) s := by
  simp [startRay, found, mode, acked, valid, flags, bad]

theorem startRay_wait (wait : engineReads s r.core r.ctx r.priv (wordAddrs r.root.toNat 16) = .wait) :
    startRay id s = s := by
  simp [startRay, found, mode, acked, valid, flags, wait]

variable {ws : List Word} (read : engineReads s r.core r.ctx r.priv (wordAddrs r.root.toNat 16) = .ok ws)
include read

theorem startRay_malformed (malformed : rootOk ws = false) : startRay id s = finishRay id r 6 none s := by
  simp [startRay, found, mode, acked, valid, flags, read, malformed]

/-- A ray that starts: its root's words and its key, the leaf that the sounding table predicts, and event counts. -/
theorem startRay_started {lo hi : Vec3} (ok : rootOk ws = true) (box : rootBox ws = some (lo, hi)) :
    ∃ cores leaf, startRay id s = { s with cores := cores, rays := tput s.rays id { r with
        mode := .started, rootWords := ws, key := rayKey beam lo hi, leaf := leaf } } ∧
      (r.flags.getLsbD 0 = true → leaf = none) := by
  have counted (c : Bool) (ev : Nat) (s : State) : ∃ cores, (if c then s.count r.core ev 1 else s) =
      { s with cores := cores } := by
    cases c
    · exact ⟨s.cores, rfl⟩
    · exact (count_cores s r.core ev 1).imp fun _ h => h.1
  simp only [startRay, found, mode, acked, valid, flags, read, ok, box, ne_eq, not_true_eq_false, decide_false,
    Bool.or_false, Bool.false_eq_true, if_false, decide_true]
  generalize look_ : (r.predicted && predicts s r.ctx) = look
  generalize leaf_ : (if look = true then soundingLookup s (dieOfCore r.core) r.ctx (rayKey beam lo hi) r.root
    (lget 0 ws 0) (rootNodes ws) else none) = leaf
  obtain ⟨cores, looked⟩ := counted look 0x0F s
  obtain ⟨cores', hit⟩ := counted leaf.isSome 0x10 { s with cores := cores }
  refine ⟨cores', leaf, by rw [looked, hit], fun unpredicted => ?_⟩
  have off : look = false := by rw [← look_, Ray.predicted, unpredicted]; rfl
  rw [← leaf_, off]
  rfl

end

/-! ## The traversal (R323) -/

theorem insertHit_perm (h : Hit) (hs : List Hit) : (insertHit h hs).Perm (h :: hs) := by
  induction hs with
  | nil => exact .refl _
  | cons x xs ih =>
    rw [insertHit]
    split
    · exact .refl _
    · exact (ih.cons x).trans (.swap h x xs)

/-- Candidates put in order are those candidates. -/
theorem foldl_insertHit_perm (hs acc : List Hit) :
    (hs.foldl (fun acc h => insertHit h acc) acc).Perm (hs ++ acc) := by
  induction hs generalizing acc with
  | nil => exact .refl _
  | cons h hs ih =>
    exact (ih _).trans (((insertHit_perm h acc).append_left hs).trans List.perm_middle)

theorem exec_rayTraversal (now : s.now = .rayTraversal id) : exec .rayTraversal s = .next (traverseRay id s) := by
  show execRayTraversal s = _
  simp only [execRayTraversal, now]

/-- The hits that a traversal leaves open: those that are not opaque, below the closest opaque one. -/
def openHits (tr : Trav) : List Hit :=
  tr.hits.filter (fun h => !h.opaque_ && (match tr.bound with | some b => h.below b | none => true))

/-- The ray that has found its candidates. -/
def Ray.settled (r : Ray) (tr : Trav) : Ray :=
  { r with closest := tr.bound, cands := (openHits tr).foldl (fun acc h => insertHit h acc) [], mode := .candidate }

theorem settled_cands (r : Ray) (tr : Trav) : (r.settled tr).cands.Perm (openHits tr) :=
  (foldl_insertHit_perm (openHits tr) []).trans (.of_eq (List.append_nil _))

theorem settleRay_eq (tr : Trav) (s : State) : settleRay id r tr s = if openHits tr = [] then endRay id (r.settled tr) s
    else { s with rays := tput s.rays id (r.settled tr) } := by
  have none_ : (r.settled tr).cands.isEmpty = true ↔ openHits tr = [] := by
    rw [List.isEmpty_iff, ← List.perm_nil, ← List.perm_nil]
    exact ⟨(settled_cands r tr).symm.trans, (settled_cands r tr).trans⟩
  exact if_congr none_ rfl rfl

/-- What a ray comes to once its hits are known (R323). -/
theorem settleRay_rays (tr : Trav) (s : State) : ∃ r', tfind (settleRay id r tr s).rays id = some r' ∧
    r'.closest = tr.bound ∧ (openHits tr = [] → r'.mode = .final ∧ r'.result = tr.bound ∧
      r'.status = if tr.bound = none then 0 else 1) ∧
    (openHits tr ≠ [] → r'.mode = .candidate ∧ r'.cands.Perm (openHits tr)) := by
  rw [settleRay_eq]
  by_cases none_ : openHits tr = []
  · rw [if_pos none_]
    exact ⟨_, tfind_endRay s, rfl, fun _ => ⟨rfl, rfl, rfl⟩, fun some_ => absurd none_ some_⟩
  · rw [if_neg none_]
    exact ⟨_, tfind_tput_same .., rfl, fun h => absurd h none_, fun _ => ⟨rfl, settled_cands r tr⟩⟩

section
variable {beam : Beam} (found : tfind s.rays id = some r) (mode : r.mode = .started) (leaf : r.leaf = none)
  (valid : beamOf r.data = some beam)
include found mode leaf valid

theorem traverseRay_wait (out : traverse (rayEnv s r beam) (travFuel r.rootWords)
    { wait := [⟨rootTop r.rootWords, false, none⟩] } = .wait) : traverseRay id s = s := by
  simp only [traverseRay, found, mode, valid, leaf, List.foldl_nil, out]

theorem traverseRay_fail {status : Nat} {va : Option Nat} (out : traverse (rayEnv s r beam) (travFuel r.rootWords)
    { wait := [⟨rootTop r.rootWords, false, none⟩] } = .fail status va) :
    traverseRay id s = failRay id r status va s := by
  simp only [traverseRay, found, mode, valid, leaf, List.foldl_nil, out]

theorem traverseRay_ok {tr : Trav} (out : traverse (rayEnv s r beam) (travFuel r.rootWords)
    { wait := [⟨rootTop r.rootWords, false, none⟩] } = .ok tr) : traverseRay id s = settleRay id r tr s := by
  simp only [traverseRay, found, mode, valid, leaf, List.foldl_nil, out]

end

/-! ## RRES (R333) -/

theorem ofWords_lt (ws : List Word) : ofWords ws < 2 ^ (32 * ws.length) := by
  induction ws with
  | nil => simp [ofWords]
  | cons w ws ih =>
    have low := w.isLt
    rw [ofWords, List.length_cons, show 32 * (ws.length + 1) = 32 + 32 * ws.length by ring, pow_add]
    nlinarith

end

section
variable {s : State} {k id : Nat} {p : Prod} {r : Ray}

/-- The words of a ray's result land (R26, R333). -/
theorem answerProd_result (five : p.words.length = 5) (distinct : (p.words.map Landing.key).Nodup)
    (unended : (s.warp p.warp).ended = false) (whole : ∀ y ∈ p.words, y.poison = false) (status count : Nat)
    (h : Option Hit) :
    let t := s.answerProd k p (p.withValues (resultWords status count h))
    Holds t (p.words.map Landing.key) (ofWords (resultWords status count h)) ∧ tfind t.prods k = none ∧
      t.rays = s.rays := by
  have length : (resultWords status count h).length = 5 := by cases h <;> rfl
  exact answerProd_words (five.trans length.symm) distinct unended whole (Nat.mod_eq_of_lt (ofWords_lt _)).symm

theorem exec_producerResultArrival_rres (now : s.now = .producerResultArrival k) (found : tfind s.prods k = some p)
    (kind : p.kind = .rres) : exec .producerResultArrival s = .next (answerRres k p s) := by
  show execProducerResultArrival s = _
  simp only [execProducerResultArrival, now, resultArrival, found, kind]

/-- Outside the handler window a ray names its warp by the block's index. -/
theorem rayWarp_eq {wk n : Nat} (berth : wk % 128 ≠ 64) : (if wk % 128 = handlerBerth then handlerBerth else n) = n :=
  if_neg berth

section
variable (berth : p.warp % 128 ≠ 64)
  (slot : rayIn s (s.warp p.warp).block (s.warp p.warp).index (lowestLane p.lanes) p.arg = some (id, r))
include berth slot

theorem answerRres_early (mode : r.mode = .waiting ∨ r.mode = .started) : answerRres k p s = s := by
  simp only [answerRres, rayWarp_eq berth, slot]
  rcases mode with mode | mode <;> rw [mode]

/-- A candidate is handed over, and counted the first time (R333). -/
theorem answerRres_candidate (mode : r.mode = .candidate) : ∃ cores, answerRres k p s =
    State.answerProd { s with cores := cores, rays := tput s.rays id { r with
        count := if r.handed then r.count else r.count + 1, handed := true } } k p
      (p.withValues (resultWords 2 (if r.handed then r.count else r.count + 1) r.cands.head?)) := by
  simp only [answerRres, rayWarp_eq berth, slot, mode]
  cases r.handed
  · obtain ⟨cores, counted, -⟩ := count_cores s r.core 0x11 1
    exact ⟨cores, by rw [counted]; rfl⟩
  · exact ⟨s.cores, rfl⟩

/-- A final status frees the slot (R333). -/
theorem answerRres_final (mode : r.mode = .final) : answerRres k p s =
    State.answerProd { s with rays := tdel s.rays id } k p (p.withValues (resultWords r.status r.count r.result)) := by
  simp only [answerRres, rayWarp_eq berth, slot, mode]
  rfl

end

end

/-- Settles O37: a ray's start, its traversal and its results, each by what the event makes of the ray. -/
theorem raysProceed : Obligations.RaysProceed := by
  intro s
  refine ⟨fun id r now found mode acked => ⟨fun invalid => ?_, fun beam valid flags => ⟨fun va bad => ?_, fun wait => ?_,
      fun ws read malformed => ?_, fun ws lo hi read ok box => ?_⟩⟩,
    fun id r beam now found mode leaf valid => ⟨fun wait => ?_, fun status va fail => ?_, fun tr ok => ?_⟩,
    fun k p id r now found kind distinct five unended berth slot => ⟨fun early => ?_, fun mode whole => ?_,
      fun mode whole => ?_⟩⟩
  · rw [exec_rayStart now, startRay_invalid found mode acked invalid]
    exact ⟨_, rfl, tfind_finishRay ..⟩
  · rw [exec_rayStart now, startRay_bad found mode acked valid flags bad]
    exact ⟨_, rfl, tfind_failRay ..⟩
  · rw [exec_rayStart now, startRay_wait found mode acked valid flags wait]
  · rw [exec_rayStart now, startRay_malformed found mode acked valid flags read malformed]
    exact ⟨_, rfl, tfind_finishRay ..⟩
  · obtain ⟨cores, leaf, started, unpredicted⟩ := startRay_started found mode acked valid flags read ok box
    rw [exec_rayStart now, started]
    exact ⟨_, _, rfl, tfind_tput_same .., rfl, rfl, rfl, unpredicted, rfl, rfl, rfl⟩
  · rw [exec_rayTraversal now, traverseRay_wait found mode leaf valid wait]
  · rw [exec_rayTraversal now, traverseRay_fail found mode leaf valid fail]
    exact ⟨_, rfl, tfind_failRay ..⟩
  · rw [exec_rayTraversal now, traverseRay_ok found mode leaf valid ok]
    obtain ⟨r', ray⟩ := settleRay_rays (id := id) (r := r) tr s
    exact ⟨_, r', rfl, ray⟩
  · rw [exec_producerResultArrival_rres now found kind, answerRres_early berth slot early]
  · obtain ⟨cores, run⟩ := answerRres_candidate (k := k) berth slot mode
    rw [exec_producerResultArrival_rres now found kind, run]
    obtain ⟨holds, gone, rays⟩ := answerProd_result (s := { s with cores := cores, rays := _ }) (k := k) five distinct
      unended whole 2 _ r.cands.head?
    exact ⟨_, rfl, holds, gone, by rw [rays]; exact tfind_tput_same ..⟩
  · rw [exec_producerResultArrival_rres now found kind, answerRres_final berth slot mode]
    obtain ⟨holds, gone, rays⟩ := answerProd_result (s := { s with rays := tdel s.rays id }) (k := k) five distinct
      unended whole r.status r.count r.result
    exact ⟨_, rfl, holds, gone, by rw [rays]; exact tfind_tdel_same ..⟩

end Sys2Proof.Machine
end

section
/-! PROOFS. The encoder and the decoder are inverse to each other (R41 to R58): the opcode map and its rows, the fields
of the three forms in their words, and the statements about encodings. -/

namespace Sys2Proof


/-! ## Checks -/

theorem firstReject_eq_none {rs : List (Option Reject)} : firstReject rs = none ↔ ∀ r ∈ rs, r = none := by
  induction rs with
  | nil => simp [firstReject]
  | cons r rs ih => cases r <;> simp [firstReject, ih]

@[simp] theorem need_eq_none {ok : Bool} {r : Reject} : need ok r = none ↔ ok = true := by
  cases ok <;> simp [need]

/-! ## The opcode map (R57) -/

theorem info_tretOf (x : Long) : ∃ sh, (tretOf x).info = some ⟨0x7C, 0, 15, sh, x⟩ := by
  unfold tretOf
  split <;> exact ⟨_, rfl⟩

/-- The decoder's selection is the opcode map's row, with the selecting bits of its major. -/
theorem info_of_selectLong {major sub : Nat} {x : Long} {i : Instr} (h : selectLong major sub x = some i) :
    ∃ sh, i.info = some ⟨major, sub, opMask major, sh, x⟩ := by
  unfold selectLong at h
  split at h
  any_goals split at h
  all_goals cases h
  any_goals subst sub
  any_goals exact ⟨_, rfl⟩
  exact info_tretOf x

/-- The minor bits of a row are among those that select the operation of its major. -/
theorem opmask_of_info {i : Instr} {f : Info} (h : i.info = some f) :
    f.opmask = opMask f.major ∧ f.minor &&& f.opmask = f.minor ∧ f.major < 2 ^ 7 ∧ f.minor < 2 ^ 4 := by
  cases i <;> cases h
  case lop hi x => cases hi <;> simp [opMask]
  all_goals exact ⟨rfl, by simp only [Nat.reduceAnd], Nat.le_of_ble_eq_true rfl, Nat.le_of_ble_eq_true rfl⟩

/-- A TRET that the encoding admits holds its own mode in field A (R376). -/
theorem aN_of_check {i : Instr} {f : Info} {n : Nat} (h : i.info = some f) (mode : f.shape.a = .imm n n)
    (ok : i.check = none) : f.x.aN = 0x140 + n := by
  have field : f.shape.a.check f.shape f.x i.isFget f.x.aN (f.x.et.getLsbD 0) = none := by
    unfold Instr.check at ok
    split at ok
    · cases h
    · simp only [h, firstReject_eq_none, Info.check, List.forall_mem_cons] at ok
      obtain ⟨⟨-, -, -, -, -, -, a, -⟩, -⟩ := ok
      exact a
  simp [mode, Fld.check, plain, firstReject_eq_none] at field
  omega

theorem selectLong_of_info {i : Instr} {f : Info} (h : i.info = some f) (ok : i.check = none) :
    selectLong f.major f.minor f.x = some i := by
  cases i <;> cases h
  case lop hi x => cases hi <;> rfl
  case tretRetry x => have := aN_of_check rfl rfl ok; simp [selectLong, tretOf, this]
  case tretSkip x => have := aN_of_check rfl rfl ok; simp [selectLong, tretOf, this]
  case tretHold x => have := aN_of_check rfl rfl ok; simp [selectLong, tretOf, this]
  case tretDiscard x => have := aN_of_check rfl rfl ok; simp [selectLong, tretOf, this]
  all_goals rfl

theorem info_of_sop {i : Instr} {e : Nat × Short} (h : i.sop = some e) : i.info = none := by
  cases i <;> cases h <;> rfl

theorem selectShort_of_sop {i : Instr} {n : Nat} {x : Short} (h : i.sop = some (n, x)) :
    selectShort n x = some i ∧ n < 2 ^ 6 := by
  cases i <;> cases h <;> exact ⟨rfl, by decide⟩

theorem sop_of_selectShort {i : Instr} {n : Nat} {x : Short} (h : selectShort n x = some i) :
    ∃ y, i.sop = some (n, y) ∧ (i = .nopShort ∨ y = x) := by
  unfold selectShort at h
  split at h <;> cases h
  any_goals exact ⟨_, rfl, .inr rfl⟩
  exact ⟨_, rfl, .inl rfl⟩

/-! ## Words and their fields (R2, R41, R42, R53, R54) -/

theorem joinWords_lt (w0 w1 : Word) : joinWords w0 w1 < 2 ^ 64 := by
  have := w0.isLt
  have := w1.isLt
  unfold joinWords
  omega

theorem joinWords_splitWords {w : Nat} (h : w < 2 ^ 64) :
    joinWords (BitVec.ofNat 32 w) (BitVec.ofNat 32 (w / 2 ^ 32)) = w := by
  simp only [joinWords, BitVec.toNat_ofNat]
  omega

theorem splitWords_joinWords (w0 w1 : Word) : splitWords (joinWords w0 w1) = [w0, w1] := by
  have h0 := w0.isLt
  simp only [splitWords, joinWords, List.cons.injEq, and_true]
  constructor
  · apply BitVec.eq_of_toNat_eq
    simp only [BitVec.toNat_ofNat]
    omega
  · apply BitVec.eq_of_toNat_eq
    have := w1.isLt
    simp only [BitVec.toNat_ofNat]
    omega

theorem joinWords_mod_four (w0 w1 : Word) : joinWords w0 w1 % 4 = w0.toNat % 4 := by
  simp only [joinWords]
  omega

theorem bit_lt (b : Bool) : bit b < 2 := by cases b <;> decide

theorem decide_eq_of_bit {n : Nat} {b : Bool} (h : n = bit b) : decide (n = 1) = b := by
  subst h
  cases b <;> decide

theorem bit_decide {n : Nat} (h : n < 2) : bit (decide (n = 1)) = n := by
  interval_cases n <;> rfl

theorem ofNat_eq_of_mod {k n : Nat} {v : BitVec k} (h : n % 2 ^ k = v.toNat) : BitVec.ofNat k n = v :=
  BitVec.eq_of_toNat_eq (by rw [BitVec.toNat_ofNat, h])

/-- A number inside a mask and one outside it add up without a carry. -/
theorem add_and_of_mask {m n k w : Nat} (hm : m < 2 ^ w) (hn : n < 2 ^ w) (inside : m &&& k = m) (outside : n &&& k = 0) :
    m + n < 2 ^ w ∧ (m + n) &&& k = m := by
  have apart : m &&& n = 0 := by rw [← inside, Nat.and_assoc, Nat.and_comm k, outside, Nat.and_zero]
  have bits : BitVec.ofNat w m &&& BitVec.ofNat w n = 0#w := by rw [← BitVec.ofNat_and, apart]
  have sum : m + n = m ||| n := by
    have add := BitVec.toNat_add_of_and_eq_zero bits
    rw [BitVec.add_eq_or_of_and_eq_zero _ _ bits] at add
    simpa [Nat.mod_eq_of_lt, hm, hn] using add.symm
  rw [sum, Nat.and_or_distrib_right, inside, outside, Nat.or_zero]
  exact ⟨Nat.or_lt_two_pow hm hn, rfl⟩

/-- The form bits of an instruction's first word. -/
def Info.form (f : Info) : Nat := if f.x.lit?.isSome then 3 else 1

/-- The fields of a row stand in its words. -/
theorem ofBits_bits {f : Info} (major : f.major < 2 ^ 7) (minor : f.minor < 2 ^ 4)
    (inside : f.minor &&& f.opmask = f.minor) (outside : f.x.mN &&& f.opmask = 0) :
    f.bits < 2 ^ 64 ∧ f.bits % 4 = f.form ∧ field f.bits 2 7 = f.major ∧ field f.bits 9 4 &&& f.opmask = f.minor ∧
      Long.ofBits f.x.form f.opmask f.bits = f.x := by
  obtain ⟨low, sub⟩ := add_and_of_mask (n := f.x.mN) minor f.x.mods.isLt inside outside
  have form : f.form = 1 ∨ f.form = 3 := by unfold Info.form; split <;> simp
  have bits : f.bits = f.form + 2 ^ 2 * f.major + 2 ^ 9 * (f.minor + f.x.mN) +
    2 ^ 13 * f.x.guard.toNat + 2 ^ 16 * bit f.x.neg + 2 ^ 17 * bit f.x.safe + 2 ^ 18 * f.x.dN +
    2 ^ 28 * f.x.aN + 2 ^ 38 * f.x.bN + 2 ^ 48 * f.x.cN + 2 ^ 58 * f.x.et.toNat + 2 ^ 61 * f.x.tN := rfl
  have g := f.x.guard.isLt
  have n := bit_lt f.x.neg
  have s := bit_lt f.x.safe
  have d : f.x.dN < 2 ^ 10 := f.x.dst.isLt
  have a : f.x.aN < 2 ^ 10 := f.x.a.isLt
  have b : f.x.bN < 2 ^ 10 := f.x.b.isLt
  have c : f.x.cN < 2 ^ 10 := f.x.c.isLt
  have e := f.x.et.isLt
  have t : f.x.tN < 2 ^ 3 := f.x.ty.isLt
  generalize f.bits = w at bits
  have nine : field w 9 4 = f.minor + f.x.mN := by unfold field; omega
  refine ⟨by omega, by omega, by unfold field; omega, by rw [nine]; exact sub, ?_⟩
  have mods : f.minor + f.x.mN - f.minor = f.x.mods.toNat := Nat.add_sub_cancel_left ..
  have neg : decide (field w 16 1 = 1) = f.x.neg := decide_eq_of_bit (by unfold field; omega)
  have safe : decide (field w 17 1 = 1) = f.x.safe := decide_eq_of_bit (by unfold field; omega)
  rw [Long.ofBits, nine, sub, mods, neg, safe, BitVec.ofNat_toNat, BitVec.setWidth_eq,
    ofNat_eq_of_mod (v := f.x.ty) (by unfold Long.tN at *; omega), ofNat_eq_of_mod (v := f.x.et) (by omega),
    ofNat_eq_of_mod (v := f.x.c) (by unfold Long.cN at *; omega),
    ofNat_eq_of_mod (v := f.x.b) (by unfold Long.bN at *; omega),
    ofNat_eq_of_mod (v := f.x.a) (by unfold Long.aN at *; omega),
    ofNat_eq_of_mod (v := f.x.dst) (by unfold Long.dN at *; omega), ofNat_eq_of_mod (v := f.x.guard) (by omega)]

/-- A number is the words of the fields that are read from it. -/
theorem bits_ofBits {form : Form} {mask w : Nat} {sh : Shape} (lt : w < 2 ^ 64) :
    let f : Info := ⟨field w 2 7, field w 9 4 &&& mask, mask, sh, Long.ofBits form mask w⟩
    w % 4 = f.form → f.bits = w := by
  intro f low
  have minor : f.minor + f.x.mN = field w 9 4 := by
    have le : field w 9 4 &&& mask ≤ field w 9 4 := Nat.and_le_left
    have lt : field w 9 4 < 2 ^ 4 := Nat.mod_lt _ (by decide)
    simp only [f, Long.mN, Long.ofBits, BitVec.toNat_ofNat]
    rw [Nat.mod_eq_of_lt (by omega)]
    omega
  have neg : bit f.x.neg = field w 16 1 := bit_decide (Nat.mod_lt _ (by decide))
  have safe : bit f.x.safe = field w 17 1 := bit_decide (Nat.mod_lt _ (by decide))
  show f.form + 2 ^ 2 * f.major + 2 ^ 9 * (f.minor + f.x.mN) + 2 ^ 13 * f.x.guard.toNat + 2 ^ 16 * bit f.x.neg +
    2 ^ 17 * bit f.x.safe + 2 ^ 18 * f.x.dN + 2 ^ 28 * f.x.aN + 2 ^ 38 * f.x.bN + 2 ^ 48 * f.x.cN +
    2 ^ 58 * f.x.et.toNat + 2 ^ 61 * f.x.tN = w
  rw [minor, neg, safe, ← low]
  simp only [f, Long.dN, Long.aN, Long.bN, Long.cN, Long.tN, Long.ofBits, BitVec.toNat_ofNat, field]
  omega

/-! ## The short form (R53) -/

theorem short_ofBits_bits {sop : Nat} (x : Short) (h : sop < 2 ^ 6) :
    Short.bits sop x < 2 ^ 32 ∧ Short.bits sop x % 4 = 0 ∧ field (Short.bits sop x) 2 6 = sop ∧
      Short.ofBits (Short.bits sop x) = x := by
  have g := x.guard.isLt
  have s := bit_lt x.safe
  have d := x.dst.isLt
  have a := x.a.isLt
  have b := x.b.isLt
  have bits : Short.bits sop x = 2 ^ 2 * sop + 2 ^ 8 * x.guard.toNat + 2 ^ 10 * bit x.safe + 2 ^ 11 * x.dst.toNat +
    2 ^ 18 * x.a.toNat + 2 ^ 25 * x.b.toNat := rfl
  generalize Short.bits sop x = w at bits
  have safe : decide (field w 10 1 = 1) = x.safe := decide_eq_of_bit (by unfold field; omega)
  refine ⟨by omega, by omega, by unfold field; omega, ?_⟩
  rw [Short.ofBits, safe, ofNat_eq_of_mod (v := x.b) (by omega), ofNat_eq_of_mod (v := x.a) (by omega),
    ofNat_eq_of_mod (v := x.dst) (by omega), ofNat_eq_of_mod (v := x.guard) (by omega)]

theorem short_bits_ofBits {w : Nat} (lt : w < 2 ^ 32) (low : w % 4 = 0) :
    Short.bits (field w 2 6) (Short.ofBits w) = w := by
  have safe : bit (Short.ofBits w).safe = field w 10 1 := bit_decide (Nat.mod_lt _ (by decide))
  rw [Short.bits, safe]
  simp only [Short.ofBits, BitVec.toNat_ofNat, field]
  omega

/-! ## The pair form (R54) -/

theorem pair_ofBits_bits (p : Pair) :
    p.bits < 2 ^ 64 ∧ p.bits % 4 = 2 ∧ field p.bits 53 11 = 0 ∧ Pair.ofBits p.bits = p := by
  have s := bit_lt p.safe
  have g0 := p.h0.guard.isLt
  have o0 := p.h0.op.isLt
  have d0 := p.h0.d.isLt
  have b0 := p.h0.b.isLt
  have g1 := p.h1.guard.isLt
  have o1 := p.h1.op.isLt
  have d1 := p.h1.d.isLt
  have b1 := p.h1.b.isLt
  have bits : p.bits = 2 + 2 ^ 2 * bit p.safe + 2 ^ 3 * p.h0.guard.toNat + 2 ^ 5 * p.h0.op.toNat +
    2 ^ 11 * p.h0.d.toNat + 2 ^ 19 * p.h0.b.toNat + 2 ^ 28 * p.h1.op.toNat +
    2 ^ 34 * p.h1.d.toNat + 2 ^ 42 * p.h1.b.toNat + 2 ^ 51 * p.h1.guard.toNat := rfl
  generalize p.bits = w at bits
  have safe : decide (field w 2 1 = 1) = p.safe := decide_eq_of_bit (by unfold field; omega)
  refine ⟨by omega, by omega, by unfold field; omega, ?_⟩
  rw [Pair.ofBits, safe, ofNat_eq_of_mod (v := p.h0.guard) (by omega), ofNat_eq_of_mod (v := p.h0.op) (by omega),
    ofNat_eq_of_mod (v := p.h0.d) (by omega), ofNat_eq_of_mod (v := p.h0.b) (by omega),
    ofNat_eq_of_mod (v := p.h1.guard) (by omega), ofNat_eq_of_mod (v := p.h1.op) (by omega),
    ofNat_eq_of_mod (v := p.h1.d) (by omega), ofNat_eq_of_mod (v := p.h1.b) (by omega)]

theorem pair_bits_ofBits {w : Nat} (low : w % 4 = 2) (lt : w < 2 ^ 64) (reserved : field w 53 11 = 0) :
    (Pair.ofBits w).bits = w := by
  have safe : bit (Pair.ofBits w).safe = field w 2 1 := bit_decide (Nat.mod_lt _ (by decide))
  rw [Pair.bits, safe]
  simp only [Pair.ofBits, BitVec.toNat_ofNat, field] at reserved ⊢
  omega

/-! ## What each form decodes to (R41, R58) -/

theorem decodeWords_short {w0 : Word} (low : w0.toNat % 4 = 0) (rest : List Word) :
    decodeWords (w0 :: rest) = (decodeShort w0.toNat).map (·, rest) := by
  simp only [decodeWords, lengthOf, low]

theorem decodeWords_long {w0 : Word} (low : w0.toNat % 4 = 1) (w1 : Word) (rest : List Word) :
    decodeWords (w0 :: w1 :: rest) = (decodeLong .long (joinWords w0 w1)).map (·, rest) := by
  simp only [decodeWords, lengthOf, low, if_true]

theorem decodeWords_pair {w0 : Word} (low : w0.toNat % 4 = 2) (w1 : Word) (rest : List Word) :
    decodeWords (w0 :: w1 :: rest) = (decodePair (joinWords w0 w1)).map (·, rest) := by
  simp [decodeWords, lengthOf, low]

theorem decodeWords_literal {w0 : Word} (low : w0.toNat % 4 = 3) (w1 w2 : Word) (rest : List Word) :
    decodeWords (w0 :: w1 :: w2 :: rest) = (decodeLong (.literal w2) (joinWords w0 w1)).map (·, rest) := by
  simp only [decodeWords, lengthOf, low]

theorem map_eq_ok {ε α β : Type} {f : α → β} {r : Except ε α} {b : β} : r.map f = .ok b ↔ ∃ a, r = .ok a ∧ f a = b := by
  cases r <;> simp [Except.map]

/-- Words that decode are those of one form, and what follows them is left. -/
theorem decodeWords_eq_ok {ws rest : List Word} {i : Instr} (h : decodeWords ws = .ok (i, rest)) :
    (∃ w0, ws = w0 :: rest ∧ w0.toNat % 4 = 0 ∧ decodeShort w0.toNat = .ok i) ∨
    (∃ w0 w1, ws = w0 :: w1 :: rest ∧ w0.toNat % 4 = 1 ∧ decodeLong .long (joinWords w0 w1) = .ok i) ∨
    (∃ w0 w1, ws = w0 :: w1 :: rest ∧ w0.toNat % 4 = 2 ∧ decodePair (joinWords w0 w1) = .ok i) ∨
    ∃ w0 w1 w2, ws = w0 :: w1 :: w2 :: rest ∧ w0.toNat % 4 = 3 ∧ decodeLong (.literal w2) (joinWords w0 w1) = .ok i := by
  cases ws with
  | nil => cases h
  | cons w0 tail =>
    have four : w0.toNat % 4 < 4 := Nat.mod_lt _ (by decide)
    interval_cases low : w0.toNat % 4
    · rw [decodeWords_short low, map_eq_ok] at h
      obtain ⟨j, ok, eq⟩ := h
      cases eq
      exact .inl ⟨w0, rfl, low, ok⟩
    · match tail with
      | [] => simp [decodeWords, lengthOf, low] at h
      | w1 :: tail =>
        rw [decodeWords_long low, map_eq_ok] at h
        obtain ⟨j, ok, eq⟩ := h
        cases eq
        exact .inr (.inl ⟨w0, w1, rfl, low, ok⟩)
    · match tail with
      | [] => simp [decodeWords, lengthOf, low] at h
      | w1 :: tail =>
        rw [decodeWords_pair low, map_eq_ok] at h
        obtain ⟨j, ok, eq⟩ := h
        cases eq
        exact .inr (.inr (.inl ⟨w0, w1, rfl, low, ok⟩))
    · match tail with
      | [] | [_] => simp [decodeWords, lengthOf, low] at h
      | w1 :: w2 :: tail =>
        rw [decodeWords_literal low, map_eq_ok] at h
        obtain ⟨j, ok, eq⟩ := h
        cases eq
        exact .inr (.inr (.inr ⟨w0, w1, w2, rfl, low, ok⟩))

theorem decodeLong_eq_ok {form : Form} {w : Nat} {i : Instr} : decodeLong form w = .ok i ↔
    selectLong (field w 2 7) (field w 9 4 &&& opMask (field w 2 7)) (Long.ofBits form (opMask (field w 2 7)) w) = some i ∧
      i.check = none := by
  simp only [decodeLong]
  split
  · simp [*]
  · rename_i j sel
    rw [sel, Option.some_inj]
    split
    · simp only [reduceCtorEq, false_iff, not_and]
      rintro rfl
      simp [*]
    · simp only [Except.ok.injEq, iff_self_and]
      rintro rfl
      assumption

theorem decodeShort_eq_ok {w : Nat} {i : Instr} : decodeShort w = .ok i ↔
    selectShort (field w 2 6) (Short.ofBits w) = some i ∧ i.check = none ∧ (i = .nopShort → w / 2 ^ 8 = 0) := by
  simp only [decodeShort]
  split
  · simp [*]
  · rename_i j sel
    rw [sel, Option.some_inj]
    split
    · simp only [reduceCtorEq, false_iff, not_and]
      rintro rfl
      simp [*]
    · rename_i nop
      simp only [Bool.and_eq_true, decide_eq_true_eq] at nop
      simp only [reduceCtorEq, false_iff, not_and]
      rintro rfl - low
      exact nop.2 (low nop.1)
    · rename_i ok nop
      simp only [Bool.and_eq_false_iff, decide_eq_false_iff_not, Decidable.not_not, ← imp_iff_not_or] at nop
      simp only [Except.ok.injEq, iff_self_and]
      rintro rfl
      exact ⟨ok, nop⟩

theorem decodePair_eq_ok {w : Nat} {i : Instr} : decodePair w = .ok i ↔
    field w 53 11 = 0 ∧ (Pair.ofBits w).check = none ∧ .pair (Pair.ofBits w) = i := by
  simp only [decodePair]
  split
  · simp [*]
  · split <;> simp_all

/-! ## What each form encodes to -/

/-- The literal word of a form. -/
def Form.literals : Form → List Word
  | .literal w => [w]
  | _ => []

theorem encode_of_info {i : Instr} {f : Info} (h : i.info = some f) :
    encode i = splitWords f.bits ++ f.x.form.literals := by
  unfold encode
  split
  · cases h
  · simp only [h]
    rfl

theorem encode_of_sop {i : Instr} {sop : Nat} {x : Short} (h : i.sop = some (sop, x)) :
    encode i = [BitVec.ofNat 32 (Short.bits sop x)] := by
  unfold encode
  split
  · cases h
  · simp only [info_of_sop h, h]

/-- What the encoding admits has words: a pair, a row of the opcode map or a short operation. -/
theorem encoded_of_check {i : Instr} (ok : i.check = none) :
    (∃ p, i = .pair p) ∨ (∃ f, i.info = some f) ∨ ∃ e, i.sop = some e := by
  unfold Instr.check at ok
  split at ok
  · exact .inl ⟨_, rfl⟩
  · split at ok
    · exact .inr (.inl ⟨_, ‹_›⟩)
    · split at ok
      · exact .inr (.inr ⟨_, ‹_›⟩)
      · cases ok

theorem check_of_info {i : Instr} {f : Info} (h : i.info = some f) (ok : i.check = none) : f.check i.isFget = none := by
  unfold Instr.check at ok
  split at ok
  · cases h
  · simp only [h, firstReject_eq_none, List.forall_mem_cons] at ok
    exact ok.1

/-- What the checks of a row say of its form and of its modifier bits (R41, R50, R57). -/
theorem form_of_check {f : Info} {fget : Bool} (ok : f.check fget = none) :
    (f.x.form = .long ∨ ∃ w, f.x.form = .literal w) ∧ f.x.mN &&& f.opmask = 0 := by
  simp only [Info.check, firstReject_eq_none, List.forall_mem_cons, need_eq_none, decide_eq_true_eq, Bool.and_eq_true] at ok
  obtain ⟨⟨short, half⟩, mods, -⟩ := ok
  refine ⟨?_, mods⟩
  cases form : f.x.form <;> simp_all

/-- A row's words are read as the row (R42). -/
theorem decodeLong_bits {i : Instr} {f : Info} (h : i.info = some f) (ok : i.check = none) :
    f.bits < 2 ^ 64 ∧ f.bits % 4 = f.form ∧ decodeLong f.x.form f.bits = .ok i := by
  obtain ⟨mask, inside, major, minor⟩ := opmask_of_info h
  obtain ⟨lt, low, hmajor, hminor, fields⟩ := ofBits_bits major minor inside (form_of_check (check_of_info h ok)).2
  refine ⟨lt, low, decodeLong_eq_ok.2 ⟨?_, ok⟩⟩
  rw [hmajor, ← mask, hminor, fields]
  exact selectLong_of_info h ok

theorem decodeShort_bits {i : Instr} {sop : Nat} {x : Short} (h : i.sop = some (sop, x)) (ok : i.check = none) :
    decodeShort (Short.bits sop x) = .ok i := by
  obtain ⟨selected, lt⟩ := selectShort_of_sop h
  obtain ⟨-, -, number, fields⟩ := short_ofBits_bits x lt
  refine decodeShort_eq_ok.2 ⟨by rw [number, fields, selected], ok, ?_⟩
  rintro rfl
  cases h
  decide

theorem decodePair_bits {p : Pair} (ok : p.check = none) : decodePair p.bits = .ok (.pair p) := by
  obtain ⟨-, -, reserved, fields⟩ := pair_ofBits_bits p
  exact decodePair_eq_ok.2 ⟨reserved, by rw [fields]; exact ok, by rw [fields]⟩

theorem ofNat_mod_four {w : Nat} : (BitVec.ofNat 32 w).toNat % 4 = w % 4 := by
  rw [BitVec.toNat_ofNat]
  omega

/-! ## Encoding, then decoding -/

theorem decodeWords_encode {i : Instr} (ok : i.check = none) (rest : List Word) :
    decodeWords (encode i ++ rest) = .ok (i, rest) := by
  rcases encoded_of_check ok with ⟨p, rfl⟩ | ⟨f, row⟩ | ⟨⟨sop, x⟩, short⟩
  · obtain ⟨lt, low, -⟩ := pair_ofBits_bits p
    show decodeWords (BitVec.ofNat 32 p.bits :: BitVec.ofNat 32 (p.bits / 2 ^ 32) :: rest) = _
    rw [decodeWords_pair (ofNat_mod_four.trans low), joinWords_splitWords lt, decodePair_bits ok]
    rfl
  · obtain ⟨lt, low, decoded⟩ := decodeLong_bits row ok
    rw [encode_of_info row]
    rcases (form_of_check (check_of_info row ok)).1 with form | ⟨w, form⟩
    · rw [form] at decoded ⊢
      have low : f.bits % 4 = 1 := by rw [low, Info.form, Long.lit?, form]; rfl
      show decodeWords (BitVec.ofNat 32 f.bits :: BitVec.ofNat 32 (f.bits / 2 ^ 32) :: rest) = _
      rw [decodeWords_long (ofNat_mod_four.trans low), joinWords_splitWords lt, decoded]
      rfl
    · rw [form] at decoded ⊢
      have low : f.bits % 4 = 3 := by rw [low, Info.form, Long.lit?, form]; rfl
      show decodeWords (BitVec.ofNat 32 f.bits :: BitVec.ofNat 32 (f.bits / 2 ^ 32) :: w :: rest) = _
      rw [decodeWords_literal (ofNat_mod_four.trans low), joinWords_splitWords lt, decoded]
      rfl
  · obtain ⟨lt, low, -⟩ := short_ofBits_bits x (selectShort_of_sop short).2
    rw [encode_of_sop short]
    show decodeWords (BitVec.ofNat 32 (Short.bits sop x) :: rest) = _
    rw [decodeWords_short (ofNat_mod_four.trans low), BitVec.toNat_ofNat, Nat.mod_eq_of_lt lt, decodeShort_bits short ok]
    rfl

/-! ## Decoding, then encoding -/

/-- The words of a form decode to what they encode. -/
theorem encode_of_decodeLong {form : Form} {w0 w1 : Word} {i : Instr} (h : decodeLong form (joinWords w0 w1) = .ok i)
    (low : (if (Long.ofBits form 0 0).lit?.isSome then 3 else 1) = w0.toNat % 4) :
    i.check = none ∧ encode i = w0 :: w1 :: form.literals := by
  obtain ⟨selected, ok⟩ := decodeLong_eq_ok.1 h
  obtain ⟨sh, row⟩ := info_of_selectLong selected
  refine ⟨ok, ?_⟩
  rw [encode_of_info row, bits_ofBits (joinWords_lt w0 w1) ((joinWords_mod_four w0 w1).trans low.symm), splitWords_joinWords]
  rfl

theorem encode_of_decodePair {w0 w1 : Word} {i : Instr} (low : w0.toNat % 4 = 2)
    (h : decodePair (joinWords w0 w1) = .ok i) : i.check = none ∧ encode i = [w0, w1] := by
  obtain ⟨reserved, ok, rfl⟩ := decodePair_eq_ok.1 h
  refine ⟨ok, ?_⟩
  show splitWords (Pair.ofBits (joinWords w0 w1)).bits = _
  rw [pair_bits_ofBits ((joinWords_mod_four w0 w1).trans low) (joinWords_lt w0 w1) reserved, splitWords_joinWords]

theorem encode_of_decodeShort {w0 : Word} {i : Instr} (low : w0.toNat % 4 = 0) (h : decodeShort w0.toNat = .ok i) :
    i.check = none ∧ encode i = [w0] := by
  obtain ⟨selected, ok, nop⟩ := decodeShort_eq_ok.1 h
  obtain ⟨x, sop, fields⟩ := sop_of_selectShort selected
  refine ⟨ok, ?_⟩
  rw [encode_of_sop sop]
  have bits : Short.bits (field w0.toNat 2 6) x = w0.toNat := by
    rcases fields with rfl | rfl
    · have high := nop rfl
      simp only [Instr.sop, Option.some.injEq, Prod.mk.injEq] at sop
      obtain ⟨n, rfl⟩ := sop
      rw [← n]
      have code : Short.bits 0x3F ⟨0, 0, 0, false, 0⟩ = 0xFC := by decide
      rw [code]
      rw [field] at n
      omega
    · exact short_bits_ofBits w0.isLt low
  rw [bits, BitVec.ofNat_toNat, BitVec.setWidth_eq]

/-- Settles O54: each form's words are read as its fields, and the fields that are read stand in the words. -/
theorem encodingsAgree : Obligations.EncodingsAgree := by
  refine ⟨fun i ok rest => decodeWords_encode ok rest, fun ws i rest h => ?_⟩
  rcases decodeWords_eq_ok h with ⟨w0, rfl, low, h⟩ | ⟨w0, w1, rfl, low, h⟩ | ⟨w0, w1, rfl, low, h⟩ | ⟨w0, w1, w2, rfl, low, h⟩
  · obtain ⟨ok, words⟩ := encode_of_decodeShort low h
    exact ⟨ok, by rw [words]; rfl⟩
  · obtain ⟨ok, words⟩ := encode_of_decodeLong h low.symm
    exact ⟨ok, by rw [words]; rfl⟩
  · obtain ⟨ok, words⟩ := encode_of_decodePair low h
    exact ⟨ok, by rw [words]; rfl⟩
  · obtain ⟨ok, words⟩ := encode_of_decodeLong h low.symm
    exact ⟨ok, by rw [words]; rfl⟩

/-- Settles O55: the decoder is run on the words. -/
theorem decodedWords : Obligations.DecodedWords :=
  ⟨by decide +kernel, by decide +kernel, by decide +kernel⟩

end Sys2Proof
end

section
/-! PROOFS. Words that are no instruction (R58): reserved majors, and the fault of the group that issues them. -/

namespace Sys2Proof.Machine
open Sys2Proof.Safety Sys2Proof.Rules

/-! ## Words of reserved majors (R58) -/

theorem selectLong_reserved {major : Nat} (sub : Nat) (x : Long)
    (reserved : major ∈ [0x2D, 0x2E, 0x2F, 0x36, 0x37, 0x3C, 0x3D, 0x3E, 0x3F, 0x4D, 0x4E, 0x4F]) :
    selectLong major sub x = none := by
  simp only [List.mem_cons, List.not_mem_nil, or_false] at reserved
  rcases reserved with rfl | rfl | rfl | rfl | rfl | rfl | rfl | rfl | rfl | rfl | rfl | rfl <;> rfl

theorem decodeLong_reserved {form : Form} {w0 w1 : Word}
    (reserved : w0.toNat / 4 % 128 ∈ [0x2D, 0x2E, 0x2F, 0x36, 0x37, 0x3C, 0x3D, 0x3E, 0x3F, 0x4D, 0x4E, 0x4F]) :
    decodeLong form (joinWords w0 w1) = .error .unassigned := by
  have major : field (joinWords w0 w1) 2 7 = w0.toNat / 4 % 128 := by
    unfold field joinWords
    omega
  simp only [decodeLong, major, selectLong_reserved _ _ reserved]

/-- Words of their first word's length that decode are one instruction, with nothing left over (R41). -/
theorem decodeWords_whole {ws rest : List Word} {i : Instr} (h : decodeWords ws = .ok (i, rest))
    (length : 4 * ws.length = lengthOf (ws.headD 0)) : rest = [] := by
  rcases decodeWords_eq_ok h with ⟨w0, rfl, low, -⟩ | ⟨w0, w1, rfl, low, -⟩ | ⟨w0, w1, rfl, low, -⟩ |
      ⟨w0, w1, w2, rfl, low, -⟩
  all_goals
    simp only [List.headD_cons, List.length_cons, lengthOf, low] at length
    exact List.length_eq_zero_iff.1 (by omega)

/-! ## A fault leaves the count of issues (R366 to R368) -/

@[simp] theorem windowStart_issued (block : Nat) (pc : DWord) (w : Warp) : (windowStart block pc w).issued = w.issued := rfl

/-- No warp's count of issues has changed. -/
structure IssuedKept (s t : State) : Prop where
  issued : ∀ k, (t.warp k).issued = (s.warp k).issued

namespace IssuedKept

theorem refl (s : State) : IssuedKept s s := ⟨fun _ => rfl⟩

theorem trans {s t u : State} (h : IssuedKept s t) (k : IssuedKept t u) : IssuedKept s u :=
  ⟨fun n => (k.issued n).trans (h.issued n)⟩

theorem of_warps {s t : State} (h : t.warps = s.warps) : IssuedKept s t :=
  ⟨fun k => by rw [State.warp, h, State.warp]⟩

theorem of_besideHomes {s t : State} (h : t.besideHomes = s.besideHomes) : IssuedKept s t :=
  of_warps (congrArg State.warps h :)

theorem foldl {α : Type} {f : State → α → State} (hf : ∀ s x, IssuedKept s (f s x)) (xs : List α) (s : State) :
    IssuedKept s (xs.foldl f s) :=
  foldl_related refl (fun _ _ _ => trans) f hf xs s

theorem setWarp {s : State} {k : Nat} {w : Warp} (same : w.issued = (s.warp k).issued) : IssuedKept s (s.setWarp k w) := by
  refine ⟨fun j => ?_⟩
  by_cases own : j = k
  · rw [own, warp_setWarp_same, same]
  · rw [warp_setWarp_ne s w own]

theorem modWarp {s : State} {k : Nat} {f : Warp → Warp} (same : (f (s.warp k)).issued = (s.warp k).issued) :
    IssuedKept s (s.modWarp k f) := setWarp same

theorem landAll (s : State) (xs : List Landing) : IssuedKept s (s.landAll xs) :=
  ⟨fun k => congrArg Warp.issued (landAll_warp s xs k)⟩

theorem leaveCore (s : State) (core : Nat) : IssuedKept s (s.leaveCore core) := by
  unfold State.leaveCore
  split
  · exact refl s
  · exact of_warps rfl

theorem finishTile (s : State) (t : Txn) : IssuedKept s (s.finishTile t) := by
  simp only [State.finishTile]
  split
  · exact refl s
  · split
    · exact of_warps rfl
    · split
      · unfold State.directStore
        split <;> exact of_warps rfl
      · exact of_besideHomes (besideHomes_putThrough ..)
    · exact refl s

theorem finishTiles (s : State) (gone : Nat → Bool) : IssuedKept s (s.finishTiles gone) := by
  refine foldl (fun s e => ?_) _ _
  split
  · exact finishTile ..
  · exact refl s

theorem forgetUnits (s : State) (b : Nat) : IssuedKept s (s.forgetUnits b) := of_warps rfl

theorem withoutWork (s : State) (ts : Table Txn) (ps : Table Prod) : IssuedKept s { s with txns := ts, prods := ps } :=
  of_warps rfl

theorem withTxns (s : State) (ts : Table Txn) : IssuedKept s { s with txns := ts } := of_warps rfl

/-- A block that is lost leaves the counts of its warps. -/
theorem loseBlock (s : State) (b status : Nat) : IssuedKept s (s.loseBlock b status) := by
  simp only [State.loseBlock, State.modCore]
  refine .trans ?_ (leaveCore _ _)
  refine .trans ?_ (foldl (fun s e => ?_) _ _)
  · refine .trans ?_ (of_warps (State.setLaunch_warps ..))
    refine .trans ?_ (forgetUnits _ b)
    refine .trans ?_ (of_warps (State.setBlock_warps ..))
    refine .trans ?_ (of_besideHomes (besideHomes_dropWords ..))
    refine .trans ?_ (of_warps (State.setCore_warps ..))
    refine .trans ?_ (withoutWork ..)
    split
    · exact foldl (fun s k => modWarp rfl) _ _
    · refine .trans ?_ (finishTiles ..)
      exact foldl (fun s k => modWarp rfl) _ _
  · split
    · exact refl s
    · exact of_besideHomes (besideHomes_settleLate ..)

theorem logError (s : State) (kind detail agent addr : Nat) (virt : Bool) (block ctx warp : Nat) :
    IssuedKept s (s.logError kind detail agent addr virt block ctx warp) :=
  of_warps (warps_of_besideLogs (besideLogs_logError ..))

theorem discard (s : State) (b : Nat) : IssuedKept s (s.discard b) := by
  simp only [State.discard]
  split
  · exact refl s
  · exact (loseBlock ..).trans (logError ..)

theorem enterHandler (s : State) (core berth : Nat) (t : Trap) : IssuedKept s (s.enterHandler core berth t) := by
  simp only [State.enterHandler]
  refine .trans ?_ (landAll ..)
  refine .trans (of_warps (State.setCore_warps ..)) (setWarp ?_)
  rw [windowStart_issued]

theorem halt (s : State) (reason num core warp : Nat) (lanes : LaneMask) (pc : DWord) (wk : Nat) :
    IssuedKept s (s.halt reason num core warp lanes pc wk) :=
  of_warps (by simp only [State.halt, State.setSysreg_warps])

theorem tryEntry (s : State) (core : Nat) (halted : Bool) : IssuedKept s (s.tryEntry core halted) := by
  simp only [State.tryEntry]
  split
  · split
    · exact (of_warps (State.setCore_warps ..)).trans (halt ..)
    · split
      · exact enterHandler ..
      · exact discard ..
  · exact refl s

theorem freeWindow (s : State) (core : Nat) : IssuedKept s (s.freeWindow core) := by
  simp only [State.freeWindow]
  refine .trans ?_ (of_warps (State.setCore_warps ..))
  refine .trans ?_ (withTxns ..)
  exact .trans (finishTiles ..) (modWarp rfl)

theorem doubleFault (s : State) (core : Nat) (cause : Cause) : IssuedKept s (s.doubleFault core cause) := by
  simp only [State.doubleFault]
  refine .trans (.trans (.trans (freeWindow s core) ?_) (logError ..)) (tryEntry ..)
  split
  · exact refl _
  · exact loseBlock ..

theorem raise (s : State) (wk : Nat) (t : Trap) : IssuedKept s (s.raise wk t) := by
  simp only [State.raise]
  split
  · exact refl s
  · split
    · exact doubleFault ..
    · exact .trans (modWarp rfl) (tryEntry ..)

end IssuedKept

theorem issued_book (s : State) (wk : Nat) (e g : LaneMask) : ((s.book wk e g).warp wk).issued = (s.warp wk).issued + 1 := by
  simp only [State.book]
  split
  · rw [State.modCore, (IssuedKept.of_warps (State.setCore_warps ..)).issued, warp_modWarp_same]
    rfl
  · exact congrArg Warp.issued (warp_modWarp_same s wk _)

/-- A group that faults has issued (R113). -/
theorem spent_of_raise (s : State) (wk : Nat) (e g : LaneMask) (t : Trap) : Spent wk s ((s.book wk e g).raise wk t) :=
  .inr (.inr (by rw [(IssuedKept.raise ..).issued, issued_book]; exact Nat.succ_ne_self _))

/-- Settles O56: a reserved major selects no operation, and words that are no instruction fault at their issue. -/
theorem unassignedFault : Obligations.UnassignedFault := by
  refine ⟨fun w0 rest low long reserved => ?_, fun s p core part wk e pc ws r chosen at_ bad => ?_,
    fun ws _ length => ?_⟩
  · obtain ⟨w1, w2, rest, rfl⟩ : ∃ w1 w2 rest', rest = w1 :: w2 :: rest' := by
      match rest, long with
      | w1 :: w2 :: rest', _ => exact ⟨w1, w2, rest', rfl⟩
    rcases low with low | low
    · rw [decodeWords_long low, decodeLong_reserved reserved]
      rfl
    · rw [decodeWords_literal low, decodeLong_reserved reserved]
      rfl
  · have run : issueGroup wk e pc p = .next ((p.book wk e (lanesAt (p.warp wk) e pc)).raise wk
        (groupTrap .illegal 0 (lanesAt (p.warp wk) e pc) pc)) := by
      simp only [issueGroup, chosen.free, findInstr, fetchInstr_of_wordsAt at_, bad]
    exact step_of_spent chosen run (spent_of_raise ..)
  · match decoded : decodeWords ws with
    | .error r => exact .inr ⟨r, rfl⟩
    | .ok (i, rest) =>
      cases decodeWords_whole decoded length
      exact .inl ⟨i, (encodingsAgree.2 ws i [] decoded).1, rfl⟩

end Sys2Proof.Machine
end

section
/-! PROOFS. SYSRD and SYSWR (R59, R386): the rights of an access, the read, and what each written register becomes. -/

namespace Sys2Proof.Machine
open Sys2Proof.Safety Sys2Proof.Rules

/-! ## The rights of an access (R59, R386) -/

/-- The numbers that all code may read (R386). -/
def Readable (n : Nat) : Prop := 0x100 ≤ n ∧ n ≤ 0x147

theorem handler_eq (cx : Ctx) : cx.handler = decide (cx.berth = 64) := rfl

section
variable {write : Bool} {cx : Ctx} {s : State}

theorem sysRights_privileged (core : cx.berth ≠ 64) (closed : ¬ Readable (s.opA cx 0)) :
    ∃ t, sysRights write cx s = some t ∧ t.cause = .privileged := by
  refine ⟨_, if_pos ?_, rfl⟩
  have number : openNumber (sysNumber cx s) = false := decide_eq_false closed
  simp [handler_eq, core, number]

theorem sysRights_admitted (may : (write = false ∧ Readable (s.opA cx 0)) ∨ cx.berth = 64) :
    sysRights write cx s =
      if assigned (s.opA cx 0) then none else some (s.trapOf cx .illegal 0 cx.group 0) := by
  have open_ : (!cx.handler && (write || !openNumber (s.opA cx 0))) = false := by
    rcases may with ⟨rfl, low, high⟩ | handler
    · simp [openNumber, low, high]
    · simp [handler_eq, handler]
  simp only [sysRights, sysNumber, open_, Bool.false_eq_true, if_false, Bool.not_eq_true', ← Bool.not_eq_true, ite_not]

/-- An instruction of the handler faults elsewhere (R59 row 6). -/
theorem decodeFault_privileged {fget : Bool} (decoded : decodeFault false fget cx s = none) (core : cx.berth ≠ 64) :
    ∃ t, decodeFault true fget cx s = some t ∧ t.cause = .privileged := by
  simp only [decodeFault] at decoded ⊢
  split at decoded
  · cases decoded
  · rename_i within
    rw [if_neg within]
    exact ⟨_, if_pos (by simp [handler_eq, core]), rfl⟩

end

section
variable {i : Instr} {f : Info} {write : Bool} {act : Ctx → State → State} {s : State} (row : i.info = some f)
include row

theorem sysIssue_of_undecoded {t : Trap} (decoded : decodeFault write false (issueCx i s) s = some t) :
    sysIssue i write act s = s.raise (issueCx i s).wk t := by
  rw [issueCx_of_info row] at *
  simp only [sysIssue, row, issueWith, firstFault, decoded]

variable (ends : i.isFget = false)
include ends

theorem sysIssue_of_refused {t : Trap} (go : Goes i write s) (refused : sysRights write (issueCx i s) s = some t) :
    sysIssue i write act s = s.raise (issueCx i s).wk t := by
  obtain ⟨decoded, -, -, -⟩ := go
  rw [issueCx_of_info row, ends] at decoded
  rw [issueCx_of_info row] at *
  simp only [sysIssue, row, issueWith, firstFault, decoded, refused]

theorem sysIssue_of_goes (go : Goes i write s) (rights : sysRights write (issueCx i s) s = none) :
    sysIssue i write act s = act (issueCx i s) s := by
  obtain ⟨decoded, active, full, clean⟩ := go
  rw [issueCx_of_info row] at *
  rw [ends] at decoded full clean
  simp only [sysIssue, row, issueWith, firstFault, decoded, rights, if_neg active, List.nil_append, full, clean]

end

theorem exec_sysrd (x : Long) (s : State) : exec (.sysrd x) s = .next (sysIssue (.sysrd x) false sysrdGroup s) := rfl

theorem exec_syswr (x : Long) (s : State) : exec (.syswr x) s = .next (sysIssue (.syswr x) true syswrGroup s) := rfl

/-! ## What writes of system registers leave (R386) -/

theorem getLsbD_mergeMask (m : Nat) (old new : DWord) {j : Nat} (hj : j < 64) :
    (mergeMask m old new).getLsbD j = if m.testBit j then new.getLsbD j else old.getLsbD j := by
  simp only [mergeMask, BitVec.getLsbD_or, BitVec.getLsbD_and, BitVec.getLsbD_not, BitVec.getLsbD_ofNat, hj,
    decide_true, Bool.true_and]
  cases m.testBit j <;> simp

theorem mergeMask_zero (m : Nat) (new : DWord) : mergeMask m 0 new = new &&& BitVec.ofNat 64 m := by
  simp [mergeMask]

/-- The registers whose writes have effects of their own. -/
def effectful : List Nat := [0x150, 0x151, 0x152, 0x153, 0x160, 0x170, 0x178, 0x179, 0x17A, 0x17B, 0x17C, 0x17D, 0x17E,
  0x17F, 0x188, 0x190, 0x198, 0x1A0, 0x1A8, 0x1D0, 0x218]

theorem sysWrite_plain {n : Nat} (plain : n ∉ effectful) (host : Bool) (v : DWord) (s : State) : sysWrite host n v s =
    if plainMask n = 0 then s else s.setSysreg n (mergeMask (plainMask n) (s.sysreg n) v) := by
  have mtkcfg : (decide (0x150 ≤ n) && decide (n ≤ 0x153)) = false := by
    simp only [effectful, List.mem_cons, List.not_mem_nil, or_false, not_or] at plain
    simp only [Bool.and_eq_false_iff, decide_eq_false_iff_not]
    omega
  have xlroot : (decide (0x178 ≤ n) && decide (n ≤ 0x17F)) = false := by
    simp only [effectful, List.mem_cons, List.not_mem_nil, or_false, not_or] at plain
    simp only [Bool.and_eq_false_iff, decide_eq_false_iff_not]
    omega
  simp only [effectful, List.mem_cons, List.not_mem_nil, or_false, not_or] at plain
  simp only [sysWrite, mtkcfg, xlroot, plain, if_false, Bool.false_eq_true]

/-- A write of a plain register changes its writable fields and nothing else. -/
theorem sysWrite_plain_spec {n : Nat} (plain : n ∉ effectful) (host : Bool) (v : DWord) (s : State) :
    (∀ j, j < 64 → ((sysWrite host n v s).sysreg n).getLsbD j =
      if (plainMask n).testBit j then v.getLsbD j else (s.sysreg n).getLsbD j) ∧
    (∀ m, m ≠ n → (sysWrite host n v s).sysreg m = s.sysreg m) ∧
    sysWrite host n v s = { s with sysregs := (sysWrite host n v s).sysregs } := by
  rw [sysWrite_plain plain]
  split
  · rename_i none_
    exact ⟨fun j _ => by simp [none_], fun _ _ => rfl, rfl⟩
  · refine ⟨fun j hj => ?_, fun m hm => sysreg_setSysreg_ne s _ hm, rfl⟩
    rw [sysreg_setSysreg_same, getLsbD_mergeMask _ _ _ hj]

theorem sysWrite_mtkcfg {d : Nat} (hd : d < 4) (host : Bool) (v : DWord) (s : State) :
    sysWrite host (0x150 + d) v s = writeMtkcfg d v s := by
  have range : (decide (0x150 ≤ 0x150 + d) && decide (0x150 + d ≤ 0x153)) = true := by
    simp only [Bool.and_eq_true, decide_eq_true_eq]
    omega
  rw [sysWrite, if_pos range, Nat.add_sub_cancel_left]

theorem sysWrite_xlroot {k : Nat} (hk : k < 8) (host : Bool) (v : DWord) (s : State) :
    sysWrite host (0x178 + k) v s = writeXlroot k v s := by
  unfold sysWrite
  rw [if_neg (by simp only [Bool.and_eq_true, decide_eq_true_eq]; omega), if_neg (by omega), if_neg (by omega),
    if_pos (by simp only [Bool.and_eq_true, decide_eq_true_eq]; omega), Nat.add_sub_cancel_left]

/-- The tokens that a value of MTKCFG asks for (R156). -/
def tokensOf (v : DWord) : Nat := match bitsOf v 4 2 with | 0 => bitsOf v 0 4 | 1 => 3 | 2 => 6 | _ => 8

theorem sysreg_writeMtkcfg {d : Nat} (hd : d < 4) (v : DWord) (s : State) : (writeMtkcfg d v s).sysreg (0x150 + d) =
    if tokensOf v = 0 ∨ 8 < tokensOf v then s.sysreg (0x150 + d)
    else BitVec.ofNat 64 (bitsOf v 4 2 * 16 + tokensOf v) := by
  have written : writeMtkcfg d v s = if tokensOf v = 0 || 8 < tokensOf v then s
      else s.setSysreg (0x150 + d % 4) (BitVec.ofNat 64 (bitsOf v 4 2 * 16 + tokensOf v)) := rfl
  rw [written, Nat.mod_eq_of_lt hd]
  simp only [Bool.or_eq_true, decide_eq_true_eq]
  split
  · rfl
  · exact sysreg_setSysreg_same ..

theorem sysreg_writePwrcap (v : DWord) (s : State) : (writePwrcap v s).sysreg 0x218 =
    if bitsOf v 62 2 = 0 ∧ (bitsOf v 0 16 < 1500 ∨ 3900 < bitsOf v 0 16) then s.sysreg 0x218
    else v &&& 0xC00000000000FFFF := by
  simp only [writePwrcap, Bool.and_eq_true, Bool.or_eq_true, decide_eq_true_eq]
  split
  · rfl
  · rw [sysreg_setSysreg_same, mergeMask_zero]
    rfl

/-! ## Cached translations (R308, R315) -/

theorem mem_caches_removeCached {f : Cached → Bool} {s : State} {c : Nat} {p : Cached}
    (h : p ∈ tget [] (removeCached f s).caches c) : f p = false := by
  simp only [removeCached] at h
  generalize s.caches = t at h
  induction t with
  | nil => cases h
  | cons e t ih =>
    obtain ⟨j, ps⟩ := e
    simp only [List.map_cons, tget] at h
    split at h
    · simpa using (List.mem_filter.1 h).2
    · exact ih h

/-- Where translations are removed and their pins released, no register, store word or memory word changes. -/
theorem releasePins_kept (f : Cached → Bool) (s : State) : (releasePins (markPins f (removeCached f s))).store = s.store ∧
    (releasePins (markPins f (removeCached f s))).mem = s.mem ∧
    ∀ n, (releasePins (markPins f (removeCached f s))).sysreg n = s.sysreg n := ⟨rfl, rfl, fun _ => rfl⟩

theorem writeXlroot_spec {k : Nat} (hk : k < 8) (v : DWord) (s : State) :
    (writeXlroot k v s).sysreg (0x178 + k) = v &&& 0x000FFFFFFFFE0001 ∧
    (∀ m, m ≠ 0x178 + k → (writeXlroot k v s).sysreg m = s.sysreg m) ∧
    (∀ c p, p ∈ tget [] (writeXlroot k v s).caches c → p.ctx ≠ k) ∧
    (writeXlroot k v s).store = s.store ∧ (writeXlroot k v s).mem = s.mem := by
  have root : writeXlroot k v s = releasePins (markPins (fun c => decide (c.ctx = k))
      (removeCached (fun c => decide (c.ctx = k)) (s.setSysreg (0x178 + k) (v &&& 0x000FFFFFFFFE0001)))) := by
    simp only [writeXlroot, Nat.mod_eq_of_lt hk, mergeMask_zero, Function.comp]
    rfl
  obtain ⟨store, mem, sysreg⟩ := releasePins_kept (fun c => decide (c.ctx = k))
    (s.setSysreg (0x178 + k) (v &&& 0x000FFFFFFFFE0001))
  rw [root, store, mem]
  refine ⟨?_, fun m hm => ?_, fun c p hp => ?_, State.setSysreg_store .., State.setSysreg_mem ..⟩
  · rw [sysreg, sysreg_setSysreg_same]
  · rw [sysreg, sysreg_setSysreg_ne s _ hm]
  · simpa using mem_caches_removeCached (f := fun c => decide (c.ctx = k)) hp

/-- An XLINV that is accepted is busy, and no translation that it names is left (R315, R316). -/
theorem writeXlinv_spec {v : DWord} {s : State} (idle : (s.sysreg 0x188).getLsbD 63 = false) (kind : bitsOf v 61 2 ≠ 3) :
    ((writeXlinv v s).sysreg 0x188).getLsbD 63 = true ∧
    ∀ c p, p ∈ tget [] (writeXlinv v s).caches c → xlinvNames v p = false := by
  have accepted : ((s.sysreg 0x188).getLsbD 63 || decide (bitsOf v 61 2 = 3)) = false := by
    rw [idle, decide_eq_false kind]
    rfl
  simp only [writeXlinv, accepted, Bool.false_eq_true, if_false, Function.comp]
  refine ⟨?_, fun c p hp => mem_caches_removeCached (f := xlinvNames v) hp⟩
  have busy := sysreg_setSysreg_same { s with
    xlSince := s.fresh
    xlWords := (s.near.filter (fun e => e.2.reqPend || e.2.kept || e.2.pref.isSome)).map Prod.fst } 0x188
    (BitVec.ofNat 64 (2 ^ 63) ||| mergeMask (bitsMask 58 5 + bitsMask 16 41) 0 v)
  refine (congrArg (fun w : DWord => w.getLsbD 63) busy).trans ?_
  rw [BitVec.getLsbD_or]
  exact Bool.or_eq_true_iff.2 (.inl (by decide))

/-! ## SYSWR at issue -/

section
variable {x : Long} {s : State}

/-- A write that does not wait is made, and the group passes. -/
theorem exec_syswr_written (go : Goes (.syswr x) true s) (handler : (issueCx (.syswr x) s).berth = 64)
    (known : assigned (s.opA (issueCx (.syswr x) s) 0) = true)
    (free : s.opA (issueCx (.syswr x) s) 0 = 0x188 → (s.sysreg 0x188).getLsbD 63 = false ∧
      s.unacked (issueCx (.syswr x) s).core = false ∧ s.engineBusy (issueCx (.syswr x) s).core = false) :
    exec (.syswr x) s = .next ((sysWrite false (s.opA (issueCx (.syswr x) s) 0)
      (BitVec.ofNat 64 (s.opB (issueCx (.syswr x) s) 0)) s).advance (issueCx (.syswr x) s)) := by
  have rights : sysRights true (issueCx (.syswr x) s) s = none := by rw [sysRights_admitted (.inr handler), known]; rfl
  rw [exec_syswr, sysIssue_of_goes rfl rfl go rights, syswrGroup]
  refine congrArg Host.Outcome.next (if_neg ?_)
  simp only [sysNumber, Bool.and_eq_true, not_and]
  intro xlinv
  obtain ⟨idle, acked, drained⟩ := free (of_decide_eq_true xlinv)
  rw [idle, acked, drained]
  decide

theorem exec_syswr_waits (go : Goes (.syswr x) true s) (handler : (issueCx (.syswr x) s).berth = 64)
    (xlinv : s.opA (issueCx (.syswr x) s) 0 = 0x188)
    (busy : (s.sysreg 0x188).getLsbD 63 = true ∨ s.unacked (issueCx (.syswr x) s).core = true ∨
      s.engineBusy (issueCx (.syswr x) s).core = true) : exec (.syswr x) s = .next s := by
  have rights : sysRights true (issueCx (.syswr x) s) s = none := by
    rw [sysRights_admitted (.inr handler), xlinv]; rfl
  rw [exec_syswr, sysIssue_of_goes rfl rfl go rights, syswrGroup]
  refine congrArg Host.Outcome.next (if_pos ?_)
  simpa [sysNumber, xlinv, or_assoc] using busy

end

theorem sysreg_advance (s : State) (cx : Ctx) (n : Nat) : (s.advance cx).sysreg n = s.sysreg n := rfl

/-- The value that SYSRD delivers: OWNID, OWNTK and XLSTAT are the core's (R217, R317). -/
theorem exec_sysrd_read {x : Long} {s : State} (go : Goes (.sysrd x) false s)
    (may : Readable (s.opA (issueCx (.sysrd x) s) 0) ∨ (issueCx (.sysrd x) s).berth = 64)
    (known : assigned (s.opA (issueCx (.sysrd x) s) 0) = true) : ∃ t, exec (.sysrd x) s = .next t ∧
      Passes (.sysrd x) s t (dstKeys (issueCx (.sysrd x) s) (s.warp (issueCx (.sysrd x) s).wk)) ∧
      Holds t (dstOf (.sysrd x) s 0) (sysRead s (issueCx (.sysrd x) s).core (s.opA (issueCx (.sysrd x) s) 0)).toNat := by
  have rights : sysRights false (issueCx (.sysrd x) s) s = none := by
    rw [sysRights_admitted (may.imp_left fun h => ⟨rfl, h⟩), known]; rfl
  have run := sysIssue_of_goes (act := sysrdGroup) rfl rfl go rights
  obtain ⟨passes, -, holds⟩ := putUniform_passes (i := .sysrd x) (s := s) (u := s) (n := 2)
    (v := (sysRead s (issueCx (.sysrd x) s).core (s.opA (issueCx (.sysrd x) s) 0)).toNat) rfl rfl rfl
  exact ⟨_, by rw [exec_sysrd, run]; rfl, passes, holds⟩

/-- Settles O45: the rights of each access, the read, and each kind of written register by its own lemma. -/
theorem systemRegisters : Obligations.SystemRegisters := by
  intro x s
  refine ⟨fun go => ⟨fun closed core => ?_, fun may unknown => ?_, fun may known => exec_sysrd_read go may known⟩,
    fun decoded core => ?_, fun go handler => ⟨fun unknown => ?_, fun xlinv busy => exec_syswr_waits go handler xlinv busy,
      fun known plain => ?_, fun k hk number => ?_, fun number idle acked drained kind => ?_, fun d hd number => ?_,
      fun number => ?_⟩⟩
  · obtain ⟨t, refused, cause⟩ := sysRights_privileged (write := false) core closed
    exact ⟨t, by rw [exec_sysrd, sysIssue_of_refused rfl rfl go refused], cause⟩
  · have refused := sysRights_admitted (may.imp_left fun h => ⟨rfl, h⟩)
    rw [unknown] at refused
    exact ⟨_, by rw [exec_sysrd, sysIssue_of_refused rfl rfl go refused], rfl⟩
  · obtain ⟨t, undecoded, cause⟩ := decodeFault_privileged decoded core
    exact ⟨t, by rw [exec_syswr, sysIssue_of_undecoded rfl undecoded], cause⟩
  · have refused := sysRights_admitted (write := true) (s := s) (.inr handler)
    rw [unknown] at refused
    exact ⟨_, by rw [exec_syswr, sysIssue_of_refused rfl rfl go refused], rfl⟩
  · have run := exec_syswr_written go handler known fun xlinv => by rw [xlinv] at plain; simp at plain
    obtain ⟨own, others, state⟩ := sysWrite_plain_spec (n := s.opA (issueCx (.syswr x) s) 0) plain false
      (BitVec.ofNat 64 (s.opB (issueCx (.syswr x) s) 0)) s
    refine ⟨_, run, own, others, ?_, fun a => ?_, lanesPassed_advance ?_⟩
    · show (sysWrite _ _ _ s).store = _
      rw [state]
    · show memByte (sysWrite _ _ _ s).mem a = _
      rw [state]
    · rw [state]
      rfl
  · have run := exec_syswr_written go handler (by rw [number]; interval_cases k <;> rfl) (by omega)
    rw [number] at run ⊢
    rw [sysWrite_xlroot hk] at run
    obtain ⟨own, others, gone, store, mem⟩ := writeXlroot_spec hk (BitVec.ofNat 64 (s.opB (issueCx (.syswr x) s) 0)) s
    exact ⟨_, run, own, others, gone, store, fun a => congrArg (memByte · a) mem⟩
  · have run := exec_syswr_written go handler (by rw [number]; rfl) fun _ => ⟨idle, acked, drained⟩
    rw [number] at run
    exact ⟨_, run, writeXlinv_spec idle kind⟩
  · have run := exec_syswr_written go handler (by rw [number]; interval_cases d <;> rfl) (by omega)
    rw [number] at run ⊢
    rw [sysWrite_mtkcfg hd] at run
    refine ⟨_, run, ?_⟩
    rw [sysreg_advance]
    exact sysreg_writeMtkcfg hd _ s
  · have run := exec_syswr_written go handler (by rw [number]; rfl) (by omega)
    rw [number] at run ⊢
    refine ⟨_, run, ?_⟩
    rw [sysreg_advance]
    exact sysreg_writePwrcap _ s

end Sys2Proof.Machine
end

section
/-! PROOFS. The rules of integer, bit and float instructions (R62, R86, R88, R98, R100) and what the model computes for
them: one equation for each formula. -/

namespace Sys2Proof.Machine
open Sys2Proof.Safety Sys2Proof.Rules

/-! ## Integers (R62, R86) -/

theorem read_eq_valueAs (t : IntType) (v : Nat) : t.read v = valueAs t v := by
  unfold IntType.read valueAs
  split
  · exact sextNat_eq_bmod t.width v
  · push_cast
    rfl

theorem write_eq_registerOf (t : IntType) (n : Int) : t.write (regBits t.width) n = registerOf t n := by
  have wrapped : ((wrapInt t.width n : Nat) : Int) = n % 2 ^ t.width := by
    rw [wrapInt, Int.toNat_of_nonneg (Int.emod_nonneg _ (by positivity))]
  have bmod := Int.emod_bmod (x := n) (n := 2 ^ t.width)
  push_cast at bmod
  rw [IntType.write, read_eq_valueAs, valueAs, wrapped, bmod, Int.emod_emod_of_dvd _ (dvd_refl _)]
  rfl

/-- R86's narrowing as the rules say it. -/
theorem narrow_eq_narrowed (x : Long) (n : Int) :
    (intTypeOf x.tN).narrow (regBits (intTypeOf x.tN).width) (saturates x) n = narrowed x n := by
  simp only [IntType.narrow, narrowed, write_eq_registerOf, clampInt, saturates, decide_eq_true_eq]
  split
  · rw [← IntType.min, ← IntType.max]
    have order : (intTypeOf x.tN).min ≤ (intTypeOf x.tN).max := by
      unfold intTypeOf
      split <;> decide
    generalize (intTypeOf x.tN).min = lo at *
    generalize (intTypeOf x.tN).max = hi at *
    have changed : (if n < lo then lo else if hi < n then hi else n) ≠ n ↔ n < lo ∨ hi < n := by
      split_ifs <;> omega
    simp only [flagIf, changed, decide_eq_true_eq]
  · rfl

theorem intArith_eq (op : IntOp) (x : Long) (v : LaneIn) :
    intArith op (typeOf x) (saturates x) v.a v.b v.c = exactly op.exact x v := by
  simp only [intArith, typeOf, read_eq_valueAs, narrow_eq_narrowed]
  rfl

/-- The rows of R86 that do not saturate. -/
theorem intArith_unsaturated (op : IntOp) {x : Long} (plain : x.mN / 8 ≠ 1) (v : LaneIn) :
    intArith op (typeOf x) (saturates x) v.a v.b v.c = unsaturated (fun _ => op.exact) x v := by
  rw [intArith_eq, exactly, narrowed, if_neg plain]
  rfl

theorem intMulHigh_eq (x : Long) (v : LaneIn) : intMulHigh (typeOf x) v.a v.b = imulhRule x v := by
  simp only [intMulHigh, typeOf, read_eq_valueAs, write_eq_registerOf]
  rfl

/-! ## Bits (R88) -/

theorem ofBits_eq_bitwise (w : Nat) (f : Nat → Bool) : ofBits w f = bitwise f w := by
  induction w with
  | zero => rfl
  | succ w ih => rw [ofBits, Finset.sum_range_succ, ← ofBits, ih, bitwise]

theorem bitwise_lt (f : Nat → Bool) (w : Nat) : bitwise f w < 2 ^ w := by
  induction w with
  | zero => exact Nat.one_pos
  | succ w ih =>
    rw [bitwise, Nat.pow_succ]
    split <;> omega

theorem testBit_bitwise (f : Nat → Bool) (w i : Nat) : (bitwise f w).testBit i = (decide (i < w) && f i) := by
  induction w with
  | zero => simp [bitwise]
  | succ w ih =>
    have low := bitwise_lt f w
    rw [bitwise]
    rcases lt_trichotomy i w with lt | rfl | gt
    · have bits : (bitwise f w + if f w = true then 2 ^ w else 0).testBit i = (bitwise f w).testBit i := by
        split
        · rw [Nat.add_comm, Nat.testBit_two_pow_add_gt lt]
        · rw [Nat.add_zero]
      rw [bits, ih]
      simp [lt, Nat.lt_succ_of_lt lt]
    · cases f i
      · simp [ih]
      · simp [Nat.add_comm (bitwise f i), Nat.testBit_two_pow_add_eq, ih]
    · have small : (bitwise f w + if f w = true then 2 ^ w else 0) < 2 ^ i := by
        have := Nat.pow_le_pow_right (n := 2) (by decide) (Nat.succ_le_of_lt gt)
        rw [Nat.pow_succ] at this
        split <;> omega
      rw [Nat.testBit_lt_two_pow small]
      simp [Nat.not_lt.2 (Nat.succ_le_of_lt gt)]

theorem testBit_ofBits (w : Nat) (f : Nat → Bool) (i : Nat) : (ofBits w f).testBit i = (decide (i < w) && f i) := by
  rw [ofBits_eq_bitwise, testBit_bitwise]

theorem notBits_eq (w a : Nat) : notBits w a = ofBits w (fun i => !a.testBit i) := by
  refine Nat.eq_of_testBit_eq fun i => ?_
  rw [testBit_ofBits, notBits, Nat.sub_sub, Nat.add_comm 1, Nat.testBit_two_pow_sub_succ (Nat.mod_lt _ (by positivity)),
    Nat.testBit_mod_two_pow]
  by_cases h : i < w <;> simp [h]

theorem shiftLeft_eq {w a n : Nat} (count : n < 2 ^ 32) : shiftLeft w a n = if w ≤ n then 0 else a * 2 ^ n % 2 ^ w := by
  rw [shiftLeft, Nat.mod_eq_of_lt count]

theorem shiftRightLogical_eq {w a n : Nat} (count : n < 2 ^ 32) :
    shiftRightLogical w a n = if w ≤ n then 0 else a % 2 ^ w / 2 ^ n := by
  rw [shiftRightLogical, Nat.mod_eq_of_lt count]

/-- A shift beyond the width leaves the sign. -/
theorem bmod_div_two_pow {w n : Nat} (a : Nat) (h : w ≤ n) :
    (a : Int).bmod (2 ^ w) / 2 ^ n = (a : Int).bmod (2 ^ w) / 2 ^ w := by
  have lo := Int.le_bmod (x := a) (m := 2 ^ w) (by positivity)
  have hi := Int.bmod_lt (x := a) (m := 2 ^ w) (by positivity)
  generalize (a : Int).bmod (2 ^ w) = b at *
  have wide : (2 : Int) ^ w ≤ 2 ^ n := pow_le_pow_right₀ (by decide) h
  have pos : (0 : Int) < 2 ^ w := by positivity
  push_cast at lo hi
  by_cases sign : 0 ≤ b
  · rw [Int.ediv_eq_zero_of_lt sign (by omega), Int.ediv_eq_zero_of_lt sign (by omega)]
  · rw [Int.ediv_eq_neg_one_of_neg_of_le (by omega) (by omega), Int.ediv_eq_neg_one_of_neg_of_le (by omega) (by omega)]

theorem shiftRightArith_eq {w a n : Nat} (count : n < 2 ^ 32) :
    shiftRightArith w a n = ((a : Int).bmod (2 ^ w) / 2 ^ n % 2 ^ w).toNat := by
  rw [shiftRightArith, Nat.mod_eq_of_lt count, sextNat_eq_bmod, wrapInt]
  by_cases h : w ≤ n
  · rw [Nat.min_eq_right h, bmod_div_two_pow a h]
  · rw [Nat.min_eq_left (by omega)]

theorem rotateLeft_eq {w : Nat} (a n : Nat) (pos : 0 < w) :
    rotateLeft w a n = ofBits w (fun i => a.testBit ((i + (w - n % w)) % w)) := by
  have lt : n % w < w := Nat.mod_lt _ pos
  simp only [rotateLeft]
  generalize n % w = k at lt
  have split_ : 2 ^ w = 2 ^ k * 2 ^ (w - k) := by rw [← pow_add]; congr 1; omega
  have high : a % 2 ^ w / 2 ^ (w - k) < 2 ^ k := Nat.div_lt_of_lt_mul (by
    rw [mul_comm, ← split_]; exact Nat.mod_lt _ (by positivity))
  have low : a % 2 ^ w * 2 ^ k % 2 ^ w = 2 ^ k * (a % 2 ^ w % 2 ^ (w - k)) := by
    rw [mul_comm, split_, Nat.mul_mod_mul_left, ← split_]
  refine Nat.eq_of_testBit_eq fun i => ?_
  rw [low, Nat.testBit_two_pow_mul_add _ high, testBit_ofBits]
  split
  · rw [Nat.testBit_div_two_pow, Nat.testBit_mod_two_pow, Nat.mod_eq_of_lt (by omega), decide_eq_true (by omega),
      decide_eq_true (by omega)]
  · rw [Nat.testBit_mod_two_pow, Nat.testBit_mod_two_pow]
    by_cases h : i < w
    · have wrap : (i + (w - k)) % w = i - k := by
        rw [show i + (w - k) = i - k + w by omega, Nat.add_mod_right, Nat.mod_eq_of_lt (by omega)]
      rw [wrap, decide_eq_true h, decide_eq_true (by omega), decide_eq_true (by omega)]
      simp
    · rw [decide_eq_false h, decide_eq_false (by omega)]
      simp

theorem popCount_eq (w a : Nat) : popCount w a = ((List.range w).filter a.testBit).length := by
  induction w generalizing a with
  | zero => rfl
  | succ w ih =>
    rw [popCount, ih, List.range_succ_eq_map, List.filter_cons, List.filter_map]
    have halved : a.testBit ∘ Nat.succ = (a / 2).testBit := funext fun i => Nat.testBit_succ a i
    rw [halved]
    cases odd : a.testBit 0
    · have even : a % 2 = 0 := by simpa [Nat.testBit_zero] using odd
      simp [even]
    · have odd : a % 2 = 1 := by simpa [Nat.testBit_zero] using odd
      simp [odd, Nat.add_comm]

theorem leadingZeros_eq (w a : Nat) : leadingZeros w a = w - Nat.size (a % 2 ^ w) := by
  simp only [leadingZeros]
  split
  · simp [*]
  · rename_i h
    have size : Nat.size (a % 2 ^ w) = Nat.log2 (a % 2 ^ w) + 1 :=
      le_antisymm (Nat.size_le.2 Nat.lt_log2_self) (Nat.lt_size.2 (Nat.log2_self_le h))
    omega

theorem trailingZeros_eq (w a : Nat) : trailingZeros w a = ((List.range w).find? a.testBit).getD w := by
  induction w generalizing a with
  | zero => rfl
  | succ w ih =>
    have halved : a.testBit ∘ Nat.succ = (a / 2).testBit := funext fun i => Nat.testBit_succ a i
    rw [trailingZeros, ih, List.range_succ_eq_map, List.find?_cons, List.find?_map, halved]
    cases odd : a.testBit 0
    · have even : a % 2 ≠ 1 := by simpa [Nat.testBit_zero] using odd
      rw [if_neg even]
      cases List.find? (a / 2).testBit (List.range w)
      · exact Nat.add_comm ..
      · exact Nat.add_comm ..
    · have odd : a % 2 = 1 := by simpa [Nat.testBit_zero] using odd
      rw [if_pos odd]
      rfl

theorem reverseBits_eq (w a : Nat) : reverseBits w a = ofBits w (fun i => a.testBit (w - 1 - i)) :=
  (ofBits_eq_bitwise ..).symm

/-! ## Floats (R66, R98, R100) -/

/-- One element or two halves, each with its own drawn bits. -/
theorem onElements_eq (g : Long → Fmt → Nat → Nat → Nat → Nat → Res) (x : Long) (v : LaneIn) :
    onElements x.tN (g x) v.r0 v.r1 v.a v.b v.c = perElement g x v := by
  unfold perElement
  split
  case h_1 type => simp only [onElements, type, elementsOf, true_or, if_true, onHalves, fmtOfFloat, Nat.mul_comm]
  case h_2 type => simp only [onElements, type, elementsOf, or_true, if_true, onHalves, fmtOfFloat, Nat.mul_comm]
  case h_3 t half bhalf =>
    have one : elementsOf x.tN ≠ 2 := by
      rw [elementsOf, if_neg (not_or.2 ⟨half, bhalf⟩)]
      decide
    simp only [onElements, if_neg one]

end Sys2Proof.Machine
end

section
/-! PROOFS. The table of short operations (R53, R56): each entry is the lanewise operation of its long form. -/

namespace Sys2Proof.Machine
open Sys2Proof.Safety Sys2Proof.Rules

/-- The register result and the flags of a lane. -/
def LaneOut.res (o : LaneOut) : Res := (o.value, o.flags)

/-! ## Lanewise instructions without predicate results and draws (R60) -/

/-- A row without a predicate result and without a carry, whose destination decides whether it is uniform. -/
structure Plain (i : Instr) (f : Info) : Prop where
  row   : i.info = some f
  kind  : f.shape.kind = .either
  dst   : f.shape.dst ≠ .pdst
  carry : f.shape.c ≠ .carry

section
variable {i : Instr} {f : Info} {s : State} {g : LaneIn → LaneOut} {rule : LaneIn → Res}

theorem afterLane_plain {cx : Ctx} (dst : cx.sh.dst ≠ .pdst) (carry : cx.sh.c ≠ .carry) (out : Nat → LaneOut) :
    afterLane cx 0 out = fun _ v => v := by
  funext l v
  simp [afterLane, dst, writesCarry, carry, drawn]

theorem afterUniform_plain {cx : Ctx} (dst : cx.sh.dst ≠ .pdst) (carry : cx.sh.c ≠ .carry) (out : Nat → LaneOut) :
    afterUniform cx out = id := by
  funext w
  simp [afterUniform, dst, writesCarry, carry]

/-- A lanewise instruction completes with its rule's results when its lanes compute what the rule says. -/
theorem completes_compute (plain : Plain i f) (go : Goes i false s)
    (meaning : ∀ l, rule (laneIn (issueCx i s) s l) = (g (laneIn (issueCx i s) s l)).res) :
    Completes i s (compute i 0 g s) (valueOf i s rule) (flagsOf i s rule) (fun _ v => v) id := by
  obtain ⟨row, kind, dst, carry⟩ := plain
  have cx := issueCx_of_info row s
  have uni : (issueCx i s).uni = decide (0x200 ≤ (issueCx i s).x.dN) := by
    rw [cx]
    show f.shape.uniform f.x = _
    rw [Shape.uniform, kind]
    rfl
  have dst : (issueCx i s).sh.dst ≠ .pdst := by rw [cx]; exact dst
  have carry : (issueCx i s).sh.c ≠ .carry := by rw [cx]; exact carry
  have done := lanewise_completes i 0 g s (vector_code uni) fun h => absurd h dst
  dsimp only at done
  rw [afterLane_plain dst carry, afterUniform_plain dst carry, List.foldl_map] at done
  have value : valueOf i s rule = fun l => (g (laneIn (issueCx i s) s l)).value :=
    funext fun l => by rw [valueOf, meaning, LaneOut.res]
  have flags : flagsOf i s rule =
      (evalLanes (issueCx i s)).foldl (fun m l => m ||| (g (laneIn (issueCx i s) s l)).flags) 0 := by
    simp only [flagsOf, meaning, LaneOut.res]
  rw [compute, issueOf_of_goes row go, value, flags]
  exact done

end

/-! ## The operands of a short instruction (R53) -/

theorem register_shortCode (r : BitVec 7) :
    ∃ n, codeOf (shortCode r.toNat).toNat = .v n ∨ codeOf (shortCode r.toNat).toNat = .s n := by
  have lt := r.isLt
  rw [shortCode, BitVec.toNat_ofNat]
  by_cases vector : r.toNat < 64
  · rw [if_pos vector, Nat.mod_eq_of_lt (by omega)]
    exact ⟨_, .inl (if_pos (by omega))⟩
  · rw [if_neg vector, Nat.mod_eq_of_lt (by omega)]
    refine ⟨_, .inr (?_ : _ = Code.s (0x200 + (r.toNat - 64) - 0x200))⟩
    rw [codeOf, if_neg (by omega), if_neg (by omega), if_neg (by omega), if_neg (by omega), if_neg (by omega)]

theorem mask_le (t : OTy) (v : Nat) : t.mask v ≤ v := by
  unfold OTy.mask
  split
  · exact Nat.mod_le ..
  · exact Nat.mod_le ..
  · exact le_rfl

/-- An operand of n registers has no bit above them. -/
theorem operand_lt {s : State} {cx : Ctx} {t : OTy} {n code : Nat}
    (register : ∃ r, codeOf code = .v r ∨ codeOf code = .s r) (l : Nat) : s.operand cx t n code l < 2 ^ (32 * n) := by
  have bound (ks : List Nat) (length : ks.length = n) : t.mask (s.regs ks) < 2 ^ (32 * n) := by
    refine lt_of_le_of_lt (mask_le t _) ?_
    have := ofWords_lt (ks.map s.word)
    rwa [List.length_map, length] at this
  obtain ⟨r, code | code⟩ := register
  · simp only [State.operand, code]
    exact bound _ (by simp [vkeys, upTo])
  · simp only [State.operand, code]
    exact bound _ (by simp [skeys, upTo])

/-! ## What the table of short operations says (R56) -/

/-- What a lane of an instruction computes from. -/
def Inputs (i : Instr) (v : LaneIn) : Prop := ∃ s l, v = laneIn (issueCx i s) s l

/-- A short instruction and its long form are one lanewise operation, whose lanes compute what the rule says. -/
structure Computes (e : ShortEntry) (x : Short) (f : Info) (g : LaneIn → LaneOut) : Prop where
  short : ∀ s, exec (e.short x) s = .next (compute (e.long (e.fields x)) 0 g s)
  long  : ∀ s, exec (e.long (e.fields x)) s = .next (compute (e.long (e.fields x)) 0 g s)
  plain : Plain (e.long (e.fields x)) f
  rule  : ∀ v, Inputs (e.long (e.fields x)) v → e.rule (e.fields x) v = (g v).res

/-- What the statement says of an entry of the table. -/
def ShortHolds (e : ShortEntry) (x : Short) : Prop := ∀ s : State,
  exec (e.short x) s = exec (e.long (e.fields x)) s ∧
  (Goes (e.long (e.fields x)) false s → ∃ t, exec (e.short x) s = .next t ∧
    Completes (e.long (e.fields x)) s t (valueOf (e.long (e.fields x)) s (e.rule (e.fields x)))
      (flagsOf (e.long (e.fields x)) s (e.rule (e.fields x))) (fun _ v => v) id)

theorem shortHolds_of_computes {e : ShortEntry} {x : Short} {f : Info} {g : LaneIn → LaneOut} (c : Computes e x f g) :
    ShortHolds e x := fun s =>
  ⟨(c.short s).trans (c.long s).symm, fun go => ⟨_, c.short s, completes_compute c.plain go fun l => c.rule _ ⟨s, l, rfl⟩⟩⟩

/-! ## The rules of the table's instructions as the model computes them -/

section
variable (x : Long) (v : LaneIn)

theorem iaddRule_eq : iaddRule x v = (laneInt .add x v).res := (intArith_eq .add x v).symm
theorem isubRule_eq : isubRule x v = (laneInt .sub x v).res := (intArith_eq .sub x v).symm
theorem imulRule_eq : imulRule x v = (laneInt .mul x v).res := (intArith_eq .mul x v).symm
theorem iabsRule_eq : iabsRule x v = (laneInt .abs x v).res := (intArith_eq .abs x v).symm
theorem inegRule_eq : inegRule x v = (laneInt .neg x v).res := (intArith_eq .neg x v).symm

theorem iminRule_eq (plain : x.mN / 8 ≠ 1) : iminRule x v = (laneInt .min x v).res :=
  (intArith_unsaturated .min plain v).symm
theorem imaxRule_eq (plain : x.mN / 8 ≠ 1) : imaxRule x v = (laneInt .max x v).res :=
  (intArith_unsaturated .max plain v).symm

theorem imulhRule_eq : imulhRule x v = (laneMulHigh x v).res := (intMulHigh_eq x v).symm

theorem notRule_eq : notRule x v = (laneBits x (fun w a _ _ => notBits w a) v).res := by
  simp only [laneBits, notBits_eq]
  rfl
theorem rotlRule_eq : rotlRule x v = (laneBits x (fun w a b _ => rotateLeft w a b) v).res := by
  have pos : 0 < bitWidth x := by unfold bitWidth; split <;> decide
  simp only [laneBits, rotateLeft_eq _ _ pos]
  rfl
theorem popcRule_eq : popcRule x v = (laneBits x (fun w a _ _ => popCount w a) v).res := by
  simp only [laneBits, popCount_eq]
  rfl
theorem clzRule_eq : clzRule x v = (laneBits x (fun w a _ _ => leadingZeros w a) v).res := by
  simp only [laneBits, leadingZeros_eq]
  rfl
theorem ctzRule_eq : ctzRule x v = (laneBits x (fun w a _ _ => trailingZeros w a) v).res := by
  simp only [laneBits, trailingZeros_eq]
  rfl
theorem brevRule_eq : brevRule x v = (laneBits x (fun w a _ _ => reverseBits w a) v).res := by
  simp only [laneBits, reverseBits_eq]
  rfl

/-! A shift count is a register of 32 bits. -/

variable (count : v.b < 2 ^ 32)
include count

theorem shlRule_eq : shlRule x v = (laneBits x (fun w a b _ => shiftLeft w a b) v).res := by
  simp only [laneBits, shiftLeft_eq count]
  rfl
theorem shrlRule_eq : shrlRule x v = (laneBits x (fun w a b _ => shiftRightLogical w a b) v).res := by
  simp only [laneBits, shiftRightLogical_eq count]
  rfl
theorem shraRule_eq : shraRule x v = (laneBits x (fun w a b _ => shiftRightArith w a b) v).res := by
  simp only [laneBits, shiftRightArith_eq count]
  rfl

end

section
variable (x : Long) (v : LaneIn)

theorem faddRule_eq : faddRule x v =
    (laneFloat x (fun f r a b _ => floatAdd false f (roundMode x) (saturates x) r a b) v).res := (onElements_eq _ x v).symm
theorem fsubRule_eq : fsubRule x v =
    (laneFloat x (fun f r a b _ => floatAdd true f (roundMode x) (saturates x) r a b) v).res := (onElements_eq _ x v).symm
theorem fmulRule_eq : fmulRule x v =
    (laneFloat x (fun f r a b _ => floatMul f (roundMode x) (saturates x) r a b) v).res := (onElements_eq _ x v).symm
theorem frndRule_eq : frndRule x v = (laneFloat x (fun f r a _ _ => floatRnd f (roundMode x) r a) v).res :=
  (onElements_eq _ x v).symm
theorem ffracRule_eq : ffracRule x v =
    (laneFloat x (fun f r a _ _ => floatFrac f (roundMode x) (saturates x) r a) v).res := (onElements_eq _ x v).symm
theorem fminRule_eq : fminRule x v = (laneFloat x (fun f _ a b _ => floatMinMax false f a b) v).res :=
  (onElements_eq _ x v).symm
theorem fmaxRule_eq : fmaxRule x v = (laneFloat x (fun f _ a b _ => floatMinMax true f a b) v).res :=
  (onElements_eq _ x v).symm
theorem fnegRule_eq : fnegRule x v = (laneFloat x (fun f _ a _ _ => (floatNeg f a, 0)) v).res := (onElements_eq _ x v).symm

theorem elementsOf_eq_two (t : Nat) : elementsOf t = 2 ↔ t = 4 ∨ t = 5 := by
  unfold elementsOf
  split <;> simp [*]

theorem fexpoRule_eq : fexpoRule x v = (laneExpo x v).res := by
  rw [fexpoRule, ← onElements_eq]
  simp only [laneExpo, elementsOf_eq_two]
  split <;> rfl

theorem fscaleRule_eq : fscaleRule x v = (laneScale x v).res := by
  rw [fscaleRule, ← onElements_eq]
  simp only [laneScale, elementsOf_eq_two, sextNat_eq_bmod]
  split <;> rfl

theorem cvtRule_eq : cvtRule x v = (laneCvt x v).res := rfl
theorem leaRule_eq : leaRule x v = (laneLea x v).res := rfl

end

/-- The count of a short shift is a register. -/
theorem count_lt {x : Short} {v : LaneIn} {i : Long → Instr}
    (row : ∃ major minor mask sh, ∀ y, (i y).info = some ⟨major, minor, mask, sh, y⟩ ∧
      sh.b.reads sh (x.toLong 0 0 false) false = 1)
    (inputs : Inputs (i (x.toLong 0 0 false)) v) : v.b < 2 ^ 32 := by
  obtain ⟨s, l, rfl⟩ := inputs
  obtain ⟨major, minor, mask, sh, row⟩ := row
  have bound := operand_lt (s := s) (cx := issueCx (i (x.toLong 0 0 false)) s)
    (t := sh.b.oty sh (x.toLong 0 0 false) false) (n := 1) (register_shortCode x.b) l
  have cx := issueCx_of_info (row (x.toLong 0 0 false)).1 s
  have b : (laneIn (issueCx (i (x.toLong 0 0 false)) s) s l).b = s.operand (issueCx (i (x.toLong 0 0 false)) s)
      (sh.b.oty sh (x.toLong 0 0 false) false) 1 (shortCode x.b.toNat).toNat l := by
    show State.operand _ _ _ _ _ _ = _
    rw [cx]
    show State.operand _ _ (sh.b.oty sh (x.toLong 0 0 false) false) (sh.b.reads sh (x.toLong 0 0 false) false) _ _ = _
    rw [(row (x.toLong 0 0 false)).2]
    rfl
  rw [b]
  exact bound

/-- An entry holds by its rule: the instruction and its long form are their one operation by definition. -/
theorem forall_shorts : ∀ e ∈ shorts, ∀ x : Short, ShortHolds e x := by
  have plain {x : Short} {ty : Nat} : (x.toLong ty 0 false).mN / 8 ≠ 1 := by
    show 0 / 8 ≠ 1
    decide
  simp only [shorts, List.cons_append, List.nil_append, List.forall_mem_cons, List.not_mem_nil, false_imp_iff,
    implies_true, and_true]
  and_intros
  all_goals refine fun x =>
    shortHolds_of_computes ⟨fun _ => rfl, fun _ => rfl, ⟨rfl, rfl, nofun, nofun⟩, fun v inputs => ?_⟩
  all_goals dsimp only
  exacts [iaddRule_eq _ v, isubRule_eq _ v, imulRule_eq _ v, imulhRule_eq _ v, imulhRule_eq _ v,
    iminRule_eq _ v plain, imaxRule_eq _ v plain, iminRule_eq _ v plain, imaxRule_eq _ v plain, iaddRule_eq _ v,
    isubRule_eq _ v, iabsRule_eq _ v, inegRule_eq _ v, iaddRule_eq _ v, isubRule_eq _ v, rfl, rfl, rfl, rfl,
    notRule_eq _ v, shlRule_eq _ v (count_lt ⟨_, _, _, _, fun _ => ⟨rfl, rfl⟩⟩ inputs),
    shrlRule_eq _ v (count_lt ⟨_, _, _, _, fun _ => ⟨rfl, rfl⟩⟩ inputs),
    shraRule_eq _ v (count_lt ⟨_, _, _, _, fun _ => ⟨rfl, rfl⟩⟩ inputs), rotlRule_eq _ v, popcRule_eq _ v,
    clzRule_eq _ v, ctzRule_eq _ v, brevRule_eq _ v, frndRule_eq _ v, ffracRule_eq _ v, fexpoRule_eq _ v,
    fscaleRule_eq _ v, faddRule_eq _ v, fsubRule_eq _ v, fmulRule_eq _ v, fminRule_eq _ v, fmaxRule_eq _ v,
    fnegRule_eq _ v, faddRule_eq _ v, fmulRule_eq _ v, faddRule_eq _ v, fsubRule_eq _ v, fmulRule_eq _ v,
    fminRule_eq _ v, fmaxRule_eq _ v, faddRule_eq _ v, fmulRule_eq _ v, fnegRule_eq _ v, cvtRule_eq _ v,
    cvtRule_eq _ v, cvtRule_eq _ v, cvtRule_eq _ v, cvtRule_eq _ v, cvtRule_eq _ v, cvtRule_eq _ v, cvtRule_eq _ v,
    leaRule_eq _ v, leaRule_eq _ v, leaRule_eq _ v, leaRule_eq _ v]

end Sys2Proof.Machine
end

section
/-! PROOFS. Pairs (R54, R55), and the statement about short and pair forms. -/

namespace Sys2Proof.Machine
open Sys2Proof.Safety Sys2Proof.Rules

/-! ## Pairs (R54, R55) -/

/-- A half that is an operation: its context and what its lanes compute. -/
abbrev HalfOp := Ctx × (LaneIn → LaneOut)

/-- A half issues for the warp of the group, and writes no predicate. -/
structure PlainHalf (s : State) (h : HalfOp) : Prop where
  warp  : h.1.wk = warpKey s.cur.core s.cur.berth
  dst   : h.1.sh.dst ≠ .pdst
  carry : h.1.sh.c ≠ .carry

theorem halfIssue_plain (h : Half) (safe : Bool) (s : State) : ∀ e ∈ (halfIssue h safe s).toList, PlainHalf s e := by
  intro e he
  rw [Option.mem_toList] at he
  unfold halfIssue at he
  split at he
  · cases he
  · rename_i i f entry
    unfold sopEntry at entry
    split at entry
    all_goals cases entry
    all_goals cases he
    all_goals exact ⟨rfl, nofun, nofun⟩

/-- The results that a half lands. -/
def halfLandings (s : State) (h : HalfOp) : List Landing :=
  regLandings h.1 (s.warp (warpKey s.cur.core s.cur.berth)) (laneOuts h.1 s h.2)

/-- FLAGS with those that a half raises. -/
def halfFlags (s : State) (m : FlagMask) (h : HalfOp) : FlagMask :=
  (evalLanes h.1).foldl (fun m l => m ||| (h.2 (laneIn h.1 s l)).flags) m

theorem warpAfter_plain {cx : Ctx} (dst : cx.sh.dst ≠ .pdst) (carry : cx.sh.c ≠ .carry) (outs : List (Nat × LaneOut))
    (w : Warp) : warpAfter cx 0 outs w = { w with flags := outs.foldl (fun m e => m ||| e.2.flags) w.flags } := by
  simp [warpAfter, dst, carry]

/-- A half lands its results and raises its flags, and changes nothing else of the warp. -/
theorem halfWrites_eq {s : State} {h : Option HalfOp} (plain : ∀ e ∈ h.toList, PlainHalf s e) : halfWrites h s =
    (h.toList.flatMap (halfLandings s), fun w => { w with flags := h.toList.foldl (halfFlags s) w.flags }) := by
  cases h with
  | none => rfl
  | some e =>
    obtain ⟨warp, dst, carry⟩ := plain e (by simp)
    refine Prod.ext ?_ (funext fun w => ?_)
    · show regLandings e.1 (s.warp e.1.wk) (laneOuts e.1 s e.2) = _
      rw [warp]
      simp [halfLandings]
    · show warpAfter e.1 0 (laneOuts e.1 s e.2) w = _
      rw [warpAfter_plain dst carry]
      simp [laneOuts, List.foldl_map, halfFlags]

/-- The group of a pair, which passes it once. -/
def pairCx (s : State) : Ctx :=
  { core := s.cur.core, berth := s.cur.berth, wk := warpKey s.cur.core s.cur.berth, group := s.cur.lanes
    act := s.cur.lanes, pc := s.cur.pc, len := s.cur.len, x := s.cur.x, sh := default, uni := false }

/-- The halves of a pair. -/
def halvesOf (p : Pair) (s : State) : List HalfOp :=
  (halfIssue p.h0 p.safe s).toList ++ (halfIssue p.h1 p.safe s).toList

theorem exec_pair {p : Pair} {s : State} (first : halfFault (halfIssue p.h0 p.safe s) s = none)
    (second : halfFault (halfIssue p.h1 p.safe s) s = none) : exec (.pair p) s =
      .next (((s.landAll ((halvesOf p s).flatMap (halfLandings s))).modWarp (warpKey s.cur.core s.cur.berth)
        (fun w => { w with flags := (halvesOf p s).foldl (halfFlags s) w.flags })).advance (pairCx s)) := by
  show execPair p s = _
  simp only [execPair, first, second, halfWrites_eq (halfIssue_plain p.h0 p.safe s),
    halfWrites_eq (halfIssue_plain p.h1 p.safe s), halvesOf, List.flatMap_append,
    List.foldl_append, pairCx]

section
variable {s : State} {hs : List HalfOp}

theorem halfLandings_keys (h : HalfOp) : (halfLandings s h).map Landing.key =
    dstKeys h.1 (s.warp (warpKey s.cur.core s.cur.berth)) :=
  regLandings_keys h.1 _ _ _

theorem pairLandings_keys : (hs.flatMap (halfLandings s)).map Landing.key =
    hs.flatMap (fun h => dstKeys h.1 (s.warp (warpKey s.cur.core s.cur.berth))) := by
  simp only [List.map_flatMap, halfLandings_keys]

/-- Each half's result is held by its words when the halves write no word twice. -/
theorem holds_pairLandings
    (distinct : (hs.flatMap (fun h => dstKeys h.1 (s.warp (warpKey s.cur.core s.cur.berth)))).Nodup)
    {h : HalfOp} (mem : h ∈ hs) {l : Nat} (lane : l ∈ evalLanes h.1) :
    Holds (s.landAll (hs.flatMap (halfLandings s)))
      (codeKeys h.1.core (s.warp (warpKey s.cur.core s.cur.berth)) h.1.x.dN (h.1.sh.dst.writes h.1.sh h.1.x) l)
      (h.2 (laneIn h.1 s l)).value := by
  refine holds_landings _ h.1 _ _ _ _ _ fun x hx => ?_
  have landed : x ∈ hs.flatMap (halfLandings s) := by
    simp only [List.mem_flatMap, halfLandings, regLandings, laneOuts, List.mem_map]
    exact ⟨h, mem, _, ⟨l, lane, rfl⟩, hx⟩
  exact landAll_landed s _ (by rwa [pairLandings_keys]) x landed

end

/-- Settles O10: the table's entries by `forall_shorts`, and a pair by what its two halves land. -/
theorem shortResults : Obligations.ShortResults := by
  refine ⟨fun e he x s => forall_shorts e he x s, ?_⟩
  rintro p s _ _ rfl rfl first second halves wk keys distinct
  have holds (h : HalfOp) (mem : h ∈ halves) (l : Nat) (lane : l ∈ evalLanes h.1) := holds_pairLandings distinct mem lane
  have kept (k : Nat) (out : k ∉ keys) := landAll_kept s (halves.flatMap (halfLandings s)) k (by rwa [pairLandings_keys])
  have rest := landAll_rest s (halves.flatMap (halfLandings s))
  refine ⟨_, exec_pair first second, ?_⟩
  rw [show halvesOf p s = halves from rfl]
  generalize s.landAll (halves.flatMap (halfLandings s)) = u at *
  have warp (k : Nat) : u.warp k = s.warp k := by rw [rest]; rfl
  obtain ⟨passes, -, left⟩ := advance_spec (u.modWarp wk fun w => { w with flags := halves.foldl (halfFlags s) w.flags })
    (pairCx s)
  rw [show (pairCx s).wk = wk from rfl, warp_modWarp_same, warp] at passes left
  refine ⟨holds, kept, by rw [left]; rfl, fun l v here => ?_, fun k other => ?_,
    fun a => ?_, ?_⟩
  · rw [passes]
    show Option.map _ (s.warp wk).lanes[l]? = _
    rw [here]
    rfl
  · have outer := warp_modWarp_ne (k := wk) (j := k)
    exact (outer _ _ other).trans ((outer _ _ other).trans (warp k))
  · show memByte u.mem a = _
    rw [rest]
  · rw [advance_eq]
    show { u with warps := _ } = _
    rw [rest]
    rfl

end Sys2Proof.Machine
end

section
/-! PROOFS. Words of memory, owners, and writes at homes (R2, R195, R208) -/
namespace Sys2Proof.Machine
open Sys2Proof.Safety Sys2Proof.Rules

/-! ## Words of memory (R2, R166) -/

theorem wordOfBytes_bytes (v : Word) :
    wordOfBytes (v.setWidth 8) ((v >>> 8).setWidth 8) ((v >>> 16).setWidth 8) ((v >>> 24).setWidth 8) = v := by
  apply BitVec.eq_of_toNat_eq
  have lt := v.isLt
  simp only [wordOfBytes, BitVec.toNat_ofNat, BitVec.toNat_setWidth, BitVec.toNat_ushiftRight, Nat.shiftRight_eq_div_pow]
  omega

theorem memWord_memPutWord_same {m : List Host.Cell} (h : Memory.wf m) (p : Nat) (v : Word) :
    memWord (memPutWord m p v) p = v := by
  have h1 := memPut_wf m (4 * p) (v.setWidth 8) h
  have h2 := memPut_wf _ (4 * p + 1) ((v >>> 8).setWidth 8) h1
  have h3 := memPut_wf _ (4 * p + 2) ((v >>> 16).setWidth 8) h2
  have byte (k : Nat) : memByte (memPutWord m p v) k =
      if 4 * p + 3 = k then (v >>> 24).setWidth 8 else if 4 * p + 2 = k then (v >>> 16).setWidth 8
      else if 4 * p + 1 = k then (v >>> 8).setWidth 8 else if 4 * p = k then v.setWidth 8 else memByte m k := by
    rw [memPutWord, memByte_memPut _ h3, memByte_memPut _ h2, memByte_memPut _ h1, memByte_memPut _ h]
  simp only [memWord, byte]
  simpa using wordOfBytes_bytes v

theorem memWord_memPutWord_ne {m : List Host.Cell} (h : Memory.wf m) {p q : Nat} (v : Word) (ne : q ≠ p) :
    memWord (memPutWord m p v) q = memWord m q := by
  have byte {a : Nat} (inside : a / 4 = q) : memByte (memPutWord m p v) a = memByte m a :=
    memByte_memPutWord_ne m h p a v (inside ▸ ne)
  simp only [memWord]
  rw [byte (a := 4 * q) (by omega), byte (a := 4 * q + 1) (by omega), byte (a := 4 * q + 2) (by omega),
    byte (a := 4 * q + 3) (by omega)]

/-! ## Owners of words (R208) -/

theorem lget_lupd {β : Type} (d : β) (f : β → β) (t : List β) (i j : Nat) (h : j ≠ i) :
    lget d (lupd f t i) j = lget d t j := by
  rw [lget_eq, lget_eq, getElem?_lupd, if_neg (Ne.symm h)]

theorem lget_lupd_default {β : Type} (d : β) (t : List β) (i : Nat) : lget d (lupd (fun _ => d) t i) i = d := by
  rw [lget_eq, getElem?_lupd, if_pos rfl]
  cases t[i]? <;> rfl

theorem lget_lrep {β : Type} (d : β) (n j : Nat) : lget d (lrep d n) j = d := by
  induction n generalizing j with
  | zero => rfl
  | succ n ih => cases j <;> simp [lrep, lget, ih]

theorem code_setCode_ne (v : Line) {i j : Nat} (c : BitVec 3) (h : j ≠ i) :
    lget 0 (v.setCode i c).codes j = lget 0 v.codes j := by
  simp only [Line.setCode]
  rw [lget_lupd _ _ _ _ _ h]
  split
  · rename_i none_
    rw [lget_lrep, List.isEmpty_iff.1 none_]
    rfl
  · rfl

theorem code_setCode_zero (v : Line) (i : Nat) : lget 0 (v.setCode i 0).codes i = 0 := by
  simp only [Line.setCode]
  exact lget_lupd_default _ _ _

/-- Freeing slots fills none. -/
theorem slot_freeUnused {v : Line} {k : Nat} (free : lget .none v.slots k = none) :
    lget .none v.freeUnused.slots k = none := by
  simp only [Line.freeUnused, rankSlots, lget_eq, List.getElem?_map, List.getElem?_zipIdx] at free ⊢
  cases there : v.slots[k]? with
  | none => simp
  | some sl =>
    rw [there] at free
    simp only [Option.getD_some] at free
    subst free
    simp

/-- A line without the registration of a word: that word is unowned, and what was unowned stays so. -/
theorem owner_freeUnused {v : Line} {i j : Nat} (unowned : j = i ∨ v.owner j = .unowned) :
    (v.setCode i 0).freeUnused.owner j = .unowned := by
  have codes : (v.setCode i 0).freeUnused.codes = (v.setCode i 0).codes := rfl
  have slots : (v.setCode i 0).slots = v.slots := rfl
  by_cases own : j = i
  · subst own
    simp only [Line.owner, codes, code_setCode_zero]
    rfl
  · have unowned := unowned.resolve_left own
    simp only [Line.owner, codes, code_setCode_ne v 0 own] at unowned ⊢
    split at unowned
    · cases unowned
    · rename_i lost
      rw [if_neg lost]
      split at unowned
      · rename_i low
        rw [if_pos low]
      · rename_i high
        rw [if_neg high]
        split at unowned
        · cases unowned
        · rename_i free
          rw [slot_freeUnused (v := v.setCode i 0) free]

/-! ## Words written at their home (R195, R208) -/

/-- Words have been written at their home: beside the bytes of memory, registrations and what a home notes of a write
nothing has changed, and no word that was unowned has an owner. -/
structure HomesWritten (s t : State) : Prop where
  txns  : t.txns = s.txns
  store : t.store = s.store
  warps : t.warps = s.warps
  owner : ∀ p, s.owner p = .unowned → t.owner p = .unowned

namespace HomesWritten

theorem refl (s : State) : HomesWritten s s := ⟨rfl, rfl, rfl, fun _ h => h⟩

theorem trans {s t u : State} (h : HomesWritten s t) (k : HomesWritten t u) : HomesWritten s u :=
  ⟨k.txns.trans h.txns, k.store.trans h.store, k.warps.trans h.warps, fun p hp => k.owner p (h.owner p hp)⟩

end HomesWritten

theorem wrote_eq (s : State) (p : Nat) : s.wrote p = { s with queues := (s.wrote p).queues } := by
  unfold State.wrote
  split <;> rfl

theorem line_setLine (s : State) (n m : Nat) (v : Line) : (s.setLine n v).line m = if m = n then v else s.line m := by
  simp only [State.line, State.setLine]
  split
  · rw [‹m = n›, tget_tput_same]
  · rw [tget_tput_ne _ _ _ (Ne.symm ‹_›)]

/-- A word that no agent has is taken home. -/
theorem takeHome_eq {s : State} {p : Nat} (home : s.owner p = .unowned) : s.takeHome p false =
    s.setLine (p / 32) { ((s.line (p / 32)).setCode (p % 32) 0).freeUnused with
      orders := (s.line (p / 32)).orders.filter (fun o => o.1 ≠ p % 32)
      late := (s.line (p / 32)).late.filter (fun o => o.1 ≠ p % 32) } := by
  simp only [State.takeHome, home]
  rfl

theorem owner_takeHome {s : State} {p q : Nat} (home : s.owner p = .unowned) (unowned : s.owner q = .unowned) :
    (s.takeHome p false).owner q = .unowned := by
  rw [takeHome_eq home, State.owner, line_setLine]
  split
  · rename_i same
    refine owner_freeUnused (v := s.line (p / 32)) (.inr ?_)
    rw [← same]
    exact unowned
  · exact unowned

theorem writeHome_effect {s : State} (core : Nat) {p : Nat} (v : Word) (home : s.owner p = .unowned) :
    HomesWritten s (s.writeHome core p v) ∧ (s.writeHome core p v).mem = memPutWord s.mem p v := by
  have same : (s.wrote p).owner p = .unowned := by rw [wrote_eq]; exact home
  have taken : HomesWritten s (((s.wrote p).takeHome p false).homePut p v false) ∧
      (((s.wrote p).takeHome p false).homePut p v false).mem = memPutWord s.mem p v := by
    refine ⟨⟨?_, ?_, ?_, fun q hq => ?_⟩, ?_⟩
    · rw [takeHome_eq same, wrote_eq]; rfl
    · rw [takeHome_eq same, wrote_eq]; rfl
    · rw [takeHome_eq same, wrote_eq]; rfl
    · exact owner_takeHome (q := q) same (by rw [wrote_eq]; exact hq)
    · rw [takeHome_eq same, wrote_eq]; rfl
  simp only [State.writeHome]
  split
  · exact taken
  · obtain ⟨⟨txns, store, warps, owner⟩, mem⟩ := taken
    exact ⟨⟨txns, store, warps, owner⟩, mem⟩

/-- Consecutive words written at their home. -/
def writeHomes (core : Nat) (es : List (Nat × Word)) (s : State) : State :=
  es.foldl (fun s e => s.writeHome core e.1 e.2) s

theorem writeHomes_effect (core : Nat) {es : List (Nat × Word)} {s : State} (wf : Memory.wf s.mem)
    (home : ∀ e ∈ es, s.owner e.1 = .unowned) (distinct : (es.map Prod.fst).Nodup) :
    HomesWritten s (writeHomes core es s) ∧ Memory.wf (writeHomes core es s).mem ∧
      (∀ e ∈ es, memWord (writeHomes core es s).mem e.1 = e.2) ∧
      ∀ p, p ∉ es.map Prod.fst → memWord (writeHomes core es s).mem p = memWord s.mem p ∧
        ∀ a, a / 4 = p → memByte (writeHomes core es s).mem a = memByte s.mem a := by
  induction es generalizing s with
  | nil => exact ⟨.refl s, wf, nofun, fun _ _ => ⟨rfl, fun _ _ => rfl⟩⟩
  | cons e es ih =>
    obtain ⟨apart, distinct⟩ := List.nodup_cons.1 distinct
    obtain ⟨first, mem⟩ := writeHome_effect core e.2 (home e (List.mem_cons_self ..))
    have wf1 : Memory.wf (s.writeHome core e.1 e.2).mem := mem ▸ memPutWord_wf s.mem e.1 e.2 wf
    obtain ⟨rest, wf2, words, others⟩ := ih wf1 (fun f hf => first.owner _ (home f (List.mem_cons_of_mem _ hf))) distinct
    refine ⟨first.trans rest, wf2, fun f hf => ?_, fun p hp => ?_⟩
    · rcases List.mem_cons.1 hf with rfl | hf
      · exact (others _ apart).1.trans (by rw [mem, memWord_memPutWord_same wf])
      · exact words f hf
    · rw [List.map_cons, List.mem_cons, not_or] at hp
      obtain ⟨ne, out⟩ := hp
      obtain ⟨word, byte⟩ := others p out
      refine ⟨word.trans (by rw [mem, memWord_memPutWord_ne wf _ ne]), fun a ha => (byte a ha).trans ?_⟩
      rw [mem, memByte_memPutWord_ne _ wf _ _ _ (ha ▸ ne)]

end Sys2Proof.Machine
end

section
/-! PROOFS. What an atomic leaves, and the atomic of a lane at its home (R194–R196, R209, R211) -/
namespace Sys2Proof.Machine
open Sys2Proof.Safety Sys2Proof.Rules

/-! ## What an atomic leaves (R194, R196) -/

theorem atomicNew_eq (op t old b : Nat) : atomicNew op t old b = atomicRule op t old b := by
  simp only [atomicNew, atomicRule, sextNat_eq_bmod]
  rfl

theorem atomicStep_eq (kind : TxnKind) (x : Long) (cmp val old : Nat) : atomicStep kind x cmp val old =
    if kind = .cas ∨ x.cN / 8 % 32 = 12 then
      (if old = cmp % 2 ^ (8 * memBytes x.tN) then val % 2 ^ (8 * memBytes x.tN) else old)
    else atomicRule (x.cN / 8 % 32) x.tN old val := by
  by_cases cas : kind = .cas
  · simp [atomicStep, atomicOp, cas]
  · simp [atomicStep, atomicOp, cas, atomicNew_eq]

/-! ## The bytes of a location in its words -/

theorem getElem?_wordsOf {n i : Nat} (v : Nat) (h : i < n) : (wordsOf n v)[i]? = some (BitVec.ofNat 32 (v / 2 ^ (32 * i))) := by
  induction n generalizing v i with
  | zero => omega
  | succ n ih =>
    cases i with
    | zero => simp [wordsOf]
    | succ i =>
      rw [wordsOf, List.getElem?_cons_succ, ih _ (by omega), Nat.div_div_eq_div_mul, ← pow_add]
      congr 4
      omega

theorem wordsOf_mod (n v : Nat) : wordsOf n (v % 2 ^ (32 * n)) = wordsOf n v := by
  induction n generalizing v with
  | zero => rfl
  | succ n ih =>
    have low : BitVec.ofNat 32 (v % 2 ^ (32 * (n + 1))) = BitVec.ofNat 32 v := by
      apply BitVec.eq_of_toNat_eq
      rw [BitVec.toNat_ofNat, BitVec.toNat_ofNat, Nat.mod_mod_of_dvd _ (pow_dvd_pow 2 (by omega))]
    have high : v % 2 ^ (32 * (n + 1)) / 2 ^ 32 = v / 2 ^ 32 % 2 ^ (32 * n) := by
      rw [show 32 * (n + 1) = 32 + 32 * n by ring, pow_add, Nat.mod_mul_right_div_self]
    rw [wordsOf, low, high, ih, wordsOf]

/-- The number that words hold with the bytes of a location replaced. -/
def replaced (z a all new : Nat) : Nat :=
  all - all / 2 ^ (8 * (a % 4)) % 2 ^ (8 * z) * 2 ^ (8 * (a % 4)) + new % 2 ^ (8 * z) * 2 ^ (8 * (a % 4))

theorem putBytesIn_words {ws : List Word} {a new : Nat} (some_ : ws ≠ []) (aligned : a % 4 = 0) :
    putBytesIn (4 * ws.length) a ws new = wordsOf ws.length (replaced (4 * ws.length) a (ofWords ws) new) := by
  have pos := List.length_pos_iff.2 some_
  have lt := ofWords_lt ws
  rw [putBytesIn, if_pos (by omega), replaced, aligned, ← wordsOf_mod ws.length new,
    show 8 * (4 * ws.length) = 32 * ws.length by ring]
  simp [Nat.mod_eq_of_lt lt]

/-- The bytes of one word, replaced under a mask. -/
theorem mergeBytes_part {z k : Nat} (inside : (z = 1 ∧ k < 4) ∨ (z = 2 ∧ (k = 0 ∨ k = 2))) (w : Word) (new : Nat) :
    mergeBytes (BitVec.ofNat 4 ((2 ^ z - 1) * 2 ^ k)) w (BitVec.ofNat 32 (new % 2 ^ (8 * z) * 2 ^ (8 * k))) =
      BitVec.ofNat 32 (w.toNat - w.toNat / 2 ^ (8 * k) % 2 ^ (8 * z) * 2 ^ (8 * k) + new % 2 ^ (8 * z) * 2 ^ (8 * k)) := by
  have lt := w.isLt
  apply BitVec.eq_of_toNat_eq
  rcases inside with ⟨rfl, hk⟩ | ⟨rfl, rfl | rfl⟩
  · interval_cases k
    all_goals
      simp [mergeBytes, byteOf]
      omega
  all_goals
    simp [mergeBytes, byteOf]
    omega

theorem memBytes_cases (t : Nat) : memBytes t = 1 ∨ memBytes t = 2 ∨ memBytes t = 4 * wordCount (memBytes t) := by
  unfold memBytes
  split <;> decide

/-- The words with a location's bytes replaced are those of the number with them replaced. -/
theorem putBytesIn_eq {t a : Nat} {ws : List Word} (length : ws.length = wordCount (memBytes t))
    (aligned : a % min (memBytes t) 4 = 0) (new : Nat) :
    putBytesIn (memBytes t) a ws new = wordsOf ws.length (replaced (memBytes t) a (ofWords ws) new) := by
  have part {w : Word} {z : Nat} (one : z = 1 ∨ z = 2) (aligned : a % z = 0) :
      putBytesIn z a [w] new = wordsOf 1 (replaced z a (ofWords [w]) new) := by
    have narrow : ¬ 4 ≤ z := by omega
    have inside : (z = 1 ∧ a % 4 < 4) ∨ (z = 2 ∧ (a % 4 = 0 ∨ a % 4 = 2)) := by
      rcases one with rfl | rfl <;> omega
    simp only [putBytesIn, if_neg narrow, storeMask, storeShift, List.map_cons, List.map_nil, mergeBytes_part inside]
    rfl
  rcases memBytes_cases t with z | z | z
  · rw [z] at length aligned ⊢
    obtain ⟨w, rfl⟩ := List.length_eq_one_iff.1 length
    exact part (.inl rfl) (by simpa using aligned)
  · rw [z] at length aligned ⊢
    obtain ⟨w, rfl⟩ := List.length_eq_one_iff.1 length
    exact part (.inr rfl) (by simpa using aligned)
  · rw [← length] at z
    have some_ : ws ≠ [] := by
      rintro rfl
      rw [wordCount] at length
      split at length
      · cases length
      · simp only [List.length_nil] at length z
        omega
    have pos := List.length_pos_iff.2 some_
    rw [z, Nat.min_eq_right (by omega)] at aligned
    rw [z]
    exact putBytesIn_words some_ aligned

/-! ## The atomic of a lane at its home (R209, R211) -/

section
variable {s : State} {id l : Nat} {r : Txn}

theorem exec_homeAtomic (now : s.now = .homeAtomic id l) (found : tfind s.txns id = some r) (todo : l ∈ r.todo) :
    exec .homeAtomic s = .next (atHome ((atomicWords r l).1 / 32) (.homeAtomic id l) (serveAtomic id l r) s) := by
  show execHomeAtomic s = _
  simp [execHomeAtomic, now, performAtomic, found, todo]

/-- Where a recall or an earlier request holds the line, the request takes its place in order (R209). -/
theorem atHome_behind {n : Nat} {e : Event} {serve : State → State}
    (behind : (s.line n).pulling.isSome = true ∨ ((s.line n).stalled ≠ [] ∧ (s.line n).stalled.head? ≠ some e)) :
    atHome n e serve s = s.setLine n { s.line n with stalled := (s.line n).stalled ++ [e] } := by
  rcases behind with pulled | ⟨waiting, other⟩
  · have pulled : (s.line n).pulling.isNone = false := by rw [← Option.not_isSome, pulled]; rfl
    simp [atHome, pulled]
  · simp [atHome, waiting, other]

theorem atHome_first {n : Nat} {e : Event} {serve : State → State}
    (first : (s.line n).pulling = none ∧ (s.line n).stalled = []) : atHome n e serve s = serve s := by
  simp [atHome, first]

/-- The words of a lane's location. -/
def locationWords (r : Txn) (l : Nat) : List Nat :=
  (upTo (wordCount (memBytes r.x.tN))).map (fun i => r.addr l / 4 + i)

theorem map_locationWords :
    (upTo (wordCount (memBytes r.x.tN))).map (fun i => r.addr l / 4 + i) = locationWords r l := rfl

theorem atomicWords_eq (plain : r.kind ≠ .stt) : atomicWords r l = (r.addr l / 4, wordCount (memBytes r.x.tN)) := by
  simp only [atomicWords, if_neg plain]
  rfl

/-- What keeps an atomic from being served: a lower lane of one location, a lock, or words that are on their way. -/
def AtomicHeld (s : State) (r : Txn) (l : Nat) : Prop :=
  r.todo.any (fun j => decide (j < l) && r.addr j = r.addr l) = true ∨ s.lineLocked (r.addr l / 4 / 32) = true ∨
    ∃ i, i < wordCount (memBytes r.x.tN) ∧ (s.comingHome (r.addr l / 4 + i) = true ∨
      (s.near_ (r.warp / 128) (r.addr l / 4 + i)).reqPend = true)

theorem held_iff : (r.todo.any (fun j => decide (j < l) && r.addr j = r.addr l) || s.lineLocked (r.addr l / 4 / 32) ||
    (locationWords r l).any (fun p => s.comingHome p || (s.near_ (r.warp / 128) p).reqPend)) = true ↔
      AtomicHeld s r l := by
  simp only [AtomicHeld, locationWords, upTo, Bool.or_eq_true, or_assoc, List.any_map, List.any_eq_true (l := List.range _),
    List.mem_range, Function.comp]

theorem serveAtomic_held (plain : r.kind ≠ .stt) (held : AtomicHeld s r l) :
    serveAtomic id l r s = s.sendFirst (.homeAtomic id l) := by
  simp only [serveAtomic, atomicWords_eq plain]
  exact if_pos (held_iff.2 held)

theorem serveAtomic_away {o : Nat} (plain : r.kind ≠ .stt) (free : ¬ AtomicHeld s r l)
    (one : wordCount (memBytes r.x.tN) = 1) (owner : s.owner (r.addr l / 4) = .agent o) : serveAtomic id l r s =
      ((s.startTimer (r.addr l / 4) o 4 id).send (.xfer (r.addr l / 4) o homeSource true 0)).sendFirst
        (.homeAtomic id l) := by
  have words : (upTo 1).map (fun i => r.addr l / 4 + i) = [r.addr l / 4] := rfl
  have away : s.away (r.addr l / 4) = true := by simp only [State.away, owner]
  simp only [serveAtomic, atomicWords_eq plain, map_locationWords]
  rw [if_neg (mt held_iff.1 free)]
  simp only [locationWords, one, words, List.any_cons, away, Bool.true_or, if_true, List.foldl_cons, List.foldl_nil,
    askHome, owner]

/-- The operands of a lane. -/
def argsOf (r : Txn) (l : Nat) : Nat × Nat := match r.args.find? (fun e => e.1 = l) with | some e => e.2 | none => (0, 0)

/-- A lane's atomic on words that are at home (R195): the old value, and the words that it leaves. -/
def oldOf (s : State) (r : Txn) (l : Nat) : Nat := bytesIn (memBytes r.x.tN) (r.addr l) ((locationWords r l).map s.homeCopy)

def newWords (s : State) (r : Txn) (l : Nat) : List Word :=
  putBytesIn (memBytes r.x.tN) (r.addr l) ((locationWords r l).map s.homeCopy)
    (atomicStep r.kind r.x (argsOf r l).1 (argsOf r l).2 (oldOf s r l))

theorem serveAtomic_home (plain : r.kind ≠ .stt) (free : ¬ AtomicHeld s r l)
    (home : ∀ p ∈ locationWords r l, s.owner p = .unowned ∧ nmem s.memPoison p = false) : serveAtomic id l r s =
      { writeHomes (r.warp / 128) ((locationWords r l).zip (newWords s r l)) s with
        txns := tput (writeHomes (r.warp / 128) ((locationWords r l).zip (newWords s r l)) s).txns id
          (r.performed l (oldOf s r l)) } := by
  have away : (locationWords r l).any (fun p => s.away p) = false :=
    List.any_eq_false.2 fun p hp => by simp only [State.away, (home p hp).1]; decide
  have lost : (locationWords r l).find? (fun p => s.owner p = .lost) = none :=
    List.find?_eq_none.2 fun p hp => by rw [(home p hp).1]; decide
  have poison : (locationWords r l).any (fun p => nmem s.memPoison p) = false :=
    List.any_eq_false.2 fun p hp => by rw [(home p hp).2]; decide
  simp only [serveAtomic, atomicWords_eq plain, map_locationWords]
  rw [if_neg (mt held_iff.1 free), if_neg (Bool.eq_false_iff.1 away), if_neg plain]
  simp only [lost, poison]
  rfl

end

end Sys2Proof.Machine
end

section
/-! PROOFS. Atomics performed and their results landing (R183, R195, R196), and the statement -/
namespace Sys2Proof.Machine
open Sys2Proof.Safety Sys2Proof.Rules

/-! ## An atomic performed at its home -/

section
variable {s : State} {id l : Nat} {r : Txn} {v : Nat → Word}

/-- A word whose latest value is not an agent's is its home's. -/
theorem home_of_latest {p : Nat} {w : Word} (here : s.away p = false) (latest : s.latest p = some (w, false)) :
    s.owner p = .unowned ∧ s.homeCopy p = w ∧ nmem s.memPoison p = false := by
  simp only [State.away, State.latest] at here latest
  cases owner : s.owner p with
  | lost => simp [owner] at latest
  | agent a => simp [owner] at here
  | unowned =>
    simp only [owner, Option.some.injEq] at latest
    injection latest with copy clean
    exact ⟨rfl, copy, clean⟩

theorem locationWords_nodup : (locationWords r l).Nodup :=
  List.Nodup.map (fun i j (h : r.addr l / 4 + i = r.addr l / 4 + j) => Nat.add_left_cancel h) List.nodup_range

theorem mem_locationWords {p : Nat} : p ∈ locationWords r l ↔
    r.addr l / 4 ≤ p ∧ p < r.addr l / 4 + wordCount (memBytes r.x.tN) := by
  simp only [locationWords, upTo, List.mem_map, List.mem_range]
  exact ⟨fun ⟨i, lt, eq⟩ => by omega, fun ⟨lo, hi⟩ => ⟨p - r.addr l / 4, by omega, by omega⟩⟩

/-- What the words of a location hold, and what is left of it by an atomic (R194, R196). -/
def wholeOf (r : Txn) (v : Nat → Word) : Nat := ofWords ((List.range (wordCount (memBytes r.x.tN))).map v)

def leftOf (r : Txn) (l : Nat) (v : Nat → Word) : Nat :=
  replaced (memBytes r.x.tN) (r.addr l) (wholeOf r v) (atomicStep r.kind r.x (argsOf r l).1 (argsOf r l).2
    (wholeOf r v / 2 ^ (8 * (r.addr l % 4)) % 2 ^ (8 * memBytes r.x.tN)))

theorem serveAtomic_performed (plain : r.kind ≠ .stt) (wf : Memory.wf s.mem) (free : ¬ AtomicHeld s r l)
    (aligned : r.addr l % min (memBytes r.x.tN) 4 = 0)
    (home : ∀ i, i < wordCount (memBytes r.x.tN) → s.away (r.addr l / 4 + i) = false ∧
      s.latest (r.addr l / 4 + i) = some (v i, false)) :
    let t := serveAtomic id l r s
    let old := wholeOf r v / 2 ^ (8 * (r.addr l % 4)) % 2 ^ (8 * memBytes r.x.tN)
    (∀ i, i < wordCount (memBytes r.x.tN) →
      memWord t.mem (r.addr l / 4 + i) = BitVec.ofNat 32 (leftOf r l v / 2 ^ (32 * i)) ∧
      t.owner (r.addr l / 4 + i) = .unowned) ∧
    (∀ c, (c / 4 < r.addr l / 4 ∨ r.addr l / 4 + wordCount (memBytes r.x.tN) ≤ c / 4) →
      memByte t.mem c = memByte s.mem c) ∧
    t.txns = tput s.txns id (r.performed l old) ∧ t.store = s.store ∧ t.warps = s.warps := by
  have at_ {p : Nat} (hp : p ∈ locationWords r l) : s.owner p = .unowned ∧ nmem s.memPoison p = false := by
    obtain ⟨lo, hi⟩ := mem_locationWords.1 hp
    obtain ⟨here, latest⟩ := home (p - r.addr l / 4) (by omega)
    rw [Nat.add_sub_cancel' lo] at here latest
    obtain ⟨owner, -, poison⟩ := home_of_latest here latest
    exact ⟨owner, poison⟩
  have copies : (locationWords r l).map s.homeCopy = (List.range (wordCount (memBytes r.x.tN))).map v := by
    simp only [locationWords, upTo, List.map_map]
    refine List.map_congr_left fun i hi => ?_
    obtain ⟨here, latest⟩ := home i (List.mem_range.1 hi)
    exact (home_of_latest here latest).2.1
  have old : oldOf s r l = wholeOf r v / 2 ^ (8 * (r.addr l % 4)) % 2 ^ (8 * memBytes r.x.tN) := by
    rw [oldOf, copies]
    rfl
  have words : newWords s r l = wordsOf (wordCount (memBytes r.x.tN)) (leftOf r l v) := by
    rw [newWords, copies, old, putBytesIn_eq (by simp) aligned, List.length_map, List.length_range]
    rfl
  have length : (locationWords r l).length = wordCount (memBytes r.x.tN) := by simp [locationWords, upTo]
  have keys : ((locationWords r l).zip (newWords s r l)).map Prod.fst = locationWords r l :=
    List.map_fst_zip (by rw [words, length, length_wordsOf])
  obtain ⟨written, -, values, others⟩ := writeHomes_effect (r.warp / 128) (es := (locationWords r l).zip (newWords s r l))
    wf (fun e he => (at_ (List.of_mem_zip he).1).1) (by rw [keys]; exact locationWords_nodup)
  dsimp only
  rw [serveAtomic_home plain free fun p hp => at_ hp, old]
  refine ⟨fun i hi => ⟨?_, ?_⟩, fun c hc => ?_, ?_, written.store, written.warps⟩
  · refine values (r.addr l / 4 + i, BitVec.ofNat 32 (leftOf r l v / 2 ^ (32 * i))) (List.mem_of_getElem? (i := i) ?_)
    rw [List.getElem?_zip_eq_some, words, getElem?_wordsOf _ hi]
    exact ⟨by simp [locationWords, upTo, hi], rfl⟩
  · exact written.owner _ (at_ (mem_locationWords.2 ⟨by omega, by omega⟩)).1
  · exact (others (c / 4) (by rw [keys, mem_locationWords]; omega)).2 c rfl
  · rw [written.txns]

end

/-! ## The results of atomics land (R183, R195, R196) -/

/-- The width of an access bounds what its register takes of a value. -/
theorem extended_mod (t n : Nat) : extended t (n % 2 ^ 128) = extended t n := by
  have sext {w : Nat} (narrow : w ≤ 128) : sextNat w (n % 2 ^ 128) = sextNat w n := by
    rw [sextNat, Nat.mod_mod_of_dvd _ (pow_dvd_pow 2 narrow)]
    rfl
  have low {w : Nat} (narrow : w ≤ 128) : n % 2 ^ 128 % 2 ^ w = n % 2 ^ w := Nat.mod_mod_of_dvd _ (pow_dvd_pow 2 narrow)
  match t with
  | 4 | 6 => simp only [extended, registerOf_valueAs, ne_eq, Nat.reduceEqDiff, not_false_eq_true, sext, Nat.reduceLeDiff]
  | 0 | 1 | 2 | 3 | 5 => exact low (by decide)
  | _ + 7 => exact low (w := 16) (by decide)

section
variable {s t : State} {x : Txn}

/-- The words that a lane of an access writes. -/
def resultKeys (s : State) (x : Txn) (l : Nat) : List Nat :=
  codeKeys x.cx.core (s.warp x.warp) x.x.dN (x.cx.sh.dst.writes x.cx.sh x.x) l

/-- The old values of lanes have landed in their words, and beside them, the report latch, the record of the access and
an acquire nothing has changed. -/
structure AtomicLanded (s t : State) (x : Txn) (es : List (Nat × Nat)) : Prop where
  holds  : ∀ e ∈ es, Holds t (resultKeys s x e.1) (extended x.x.tN e.2)
  words  : WordsKept s t (es.flatMap (fun e => resultKeys s x e.1))
  memory : MemoryKept s t
  warps  : ∀ k, k ≠ x.warp → t.warp k = s.warp k
  warp   : t.warp x.warp = { s.warp x.warp with latch := (t.warp x.warp).latch }

def atomicLandings (s : State) (x : Txn) (es : List (Nat × Nat)) : List Landing :=
  es.flatMap (fun e => atomicLanding x.cx (s.warp x.warp) x e.1 e.2)

theorem atomicLanding_eq (whole : x.refused = []) (l old : Nat) : atomicLanding x.cx (s.warp x.warp) x l old =
    landings x.cx (s.warp x.warp) x.x.dN (x.cx.sh.dst.writes x.cx.sh x.x) l (extended x.x.tN old) false := by
  have value : extendLoad x.x.tN (memBytes x.x.tN) 0 (wordsOf 4 old) = extended x.x.tN old := by
    rw [extendLoad_eq, ofWords_wordsOf]
    exact (congrArg (extended x.x.tN) (Nat.div_one _)).trans (extended_mod ..)
  rw [atomicLanding, value, whole]
  rfl

theorem atomicLanded_of {es : List (Nat × Nat)} (whole : x.refused = [])
    (distinct : (es.flatMap (fun e => resultKeys s x e.1)).Nodup)
    (state : t = { (s.landAll (atomicLandings s x es)).acquireOf x with txns := t.txns, warps := t.warps })
    (own : t.warp x.warp = { s.warp x.warp with latch := (t.warp x.warp).latch })
    (warps : ∀ k, k ≠ x.warp → t.warp k = s.warp k) : AtomicLanded s t x es := by
  have keys : (atomicLandings s x es).map Landing.key = es.flatMap (fun e => resultKeys s x e.1) := by
    simp only [atomicLandings, List.map_flatMap, atomicLanding_eq whole, landings_keys]
    rfl
  have landed := landAll_landed s (atomicLandings s x es) (keys ▸ distinct)
  have kept := landAll_kept s (atomicLandings s x es)
  have rest := landAll_rest s (atomicLandings s x es)
  have inside {e : Nat × Nat} (he : e ∈ es) {y : Landing} (hy : y ∈ atomicLanding x.cx (s.warp x.warp) x e.1 e.2) :
      y ∈ atomicLandings s x es := List.mem_flatMap.2 ⟨e, he, hy⟩
  generalize s.landAll (atomicLandings s x es) = u at *
  rw [acquireOf_state (s := u) (x := x)] at state
  refine ⟨fun e he => ?_, fun k hk => ?_, fun a => ?_, warps, own⟩
  · rw [state]
    refine holds_landings _ x.cx _ _ _ _ _ fun y hy => landed y (inside he ?_)
    rw [atomicLanding_eq whole]
    exact hy
  · rw [state]
    exact kept k (by rwa [keys])
  · rw [state, rest]

/-- An access that ends after its landings: the record is gone, and its warp keeps all but the report latch. -/
theorem endTxn_landed (id : Nat) (xs : List Landing) (unended : (s.warp x.warp).ended = false) :
    let u := (s.landAll xs).acquireOf x
    let t := (u.endTxn id x).reap x.warp
    t = { u with txns := t.txns, warps := t.warps } ∧ t.txns = tdel s.txns id ∧
      t.warp x.warp = { s.warp x.warp with latch := (t.warp x.warp).latch } ∧ ∀ k, k ≠ x.warp → t.warp k = s.warp k := by
  have warp (k : Nat) : ((s.landAll xs).acquireOf x).warp k = s.warp k := by
    rw [acquireOf_state]; exact landAll_warp ..
  have txns : ((s.landAll xs).acquireOf x).txns = s.txns := by rw [acquireOf_state, landAll_rest]
  dsimp only
  rw [endTxn_reap id (by rw [warp]; exact unended)]
  have own := endTxn_warp (s := (s.landAll xs).acquireOf x) (x := x) id
  rw [warp] at own
  exact ⟨rfl, congrArg (tdel · id) txns, own, fun k hk => (warp_modWarp_ne _ _ hk).trans (warp k)⟩

theorem landed_endTxn {es : List (Nat × Nat)} (id : Nat) (whole : x.refused = [])
    (distinct : (es.flatMap (fun e => resultKeys s x e.1)).Nodup) (unended : (s.warp x.warp).ended = false) :
    let t := (((s.landAll (atomicLandings s x es)).acquireOf x).endTxn id x).reap x.warp
    AtomicLanded s t x es ∧ t.txns = tdel s.txns id := by
  obtain ⟨state, txns, own, warps⟩ := endTxn_landed (s := s) (x := x) id (atomicLandings s x es) unended
  exact ⟨atomicLanded_of whole distinct state own warps, txns⟩

theorem landed_rest {es : List (Nat × Nat)} (txns : Table Txn) (whole : x.refused = [])
    (distinct : (es.flatMap (fun e => resultKeys s x e.1)).Nodup) :
    AtomicLanded s { (s.landAll (atomicLandings s x es)).acquireOf x with txns := txns } x es := by
  have warp (k : Nat) : ({ (s.landAll (atomicLandings s x es)).acquireOf x with txns := txns } : State).warp k =
      s.warp k := by
    show ((s.landAll (atomicLandings s x es)).acquireOf x).warp k = _
    rw [acquireOf_state]; exact landAll_warp ..
  exact atomicLanded_of whole distinct rfl (by rw [warp]) fun k _ => warp k

theorem exec_loadDataArrival_atomic {id : Nat} (now : s.now = .loadDataArrival id) (found : tfind s.txns id = some x)
    (berth : x.warp % 128 ≠ orphanBerth) :
    (x.kind = .atom ∨ x.kind = .red ∨ x.kind = .cas → exec .loadDataArrival s = .next (arriveAtomic id x s)) ∧
    (x.kind = .fatom → exec .loadDataArrival s = .next (arriveFatom id x s)) := by
  have run : exec .loadDataArrival s = .next (dataArrival id s) := by
    show execLoadDataArrival s = _
    simp only [execLoadDataArrival, now]
  rw [run]
  simp only [dataArrival, found, if_neg berth]
  exact ⟨fun kind => by rcases kind with kind | kind | kind <;> rw [kind], fun kind => by rw [kind]⟩

theorem arriveAtomic_whole {id : Nat} (done : x.todo = []) (clean : ∀ y ∈ x.words, y.lost = false ∧ y.poison = false) :
    arriveAtomic id x s = (((s.landAll (atomicLandings s x x.olds)).acquireOf x).endTxn id x).reap x.warp := by
  simp only [arriveAtomic, done, dataFault_eq_none clean]
  rfl

theorem arriveFatom_lowest {id l old : Nat} (mem : l ∈ lanesOf x.lanes)
    (there : x.olds.find? (fun e => e.1 = l) = some (l, old))
    (lowest : ∀ j ∈ lanesOf x.lanes, j < l → ∀ e ∈ x.olds, e.1 ≠ j) :
    arriveFatom id x s = landLane id x l (atomicLandings s x [(l, old)]) s := by
  have first : (lanesOf x.lanes).find? (fun l => x.olds.any (fun e => e.1 = l)) = some l := by
    refine find_lanesOf mem ?_ fun j hj lt => ?_
    · exact List.any_eq_true.2 ⟨(l, old), List.mem_of_find?_eq_some there, decide_eq_true rfl⟩
    · exact List.any_eq_false.2 fun e he => by simpa using lowest j hj lt e he
  simp only [arriveFatom, first, there]
  rw [atomicLandings, List.flatMap_singleton]

end

/-- Settles O23: a home performs an atomic as `serveAtomic` does, and the results land as `AtomicLanded` says. -/
theorem atomicsPerform : Obligations.AtomicsPerform := by
  refine ⟨fun s id l r v now found todo plain wf => ?_, fun s id r found now unended berth whole => ?_⟩
  · have words := atomicWords_eq (l := l) plain
    have run := exec_homeAtomic now found todo
    rw [words] at run
    refine ⟨fun behind => ?_, fun first held => ?_, fun o first free one owner => ?_, fun first free aligned home => ?_⟩
    · rw [run, atHome_behind behind]
    · rw [run, atHome_first first, serveAtomic_held plain held]
    · rw [run, atHome_first first, serveAtomic_away plain free one owner]
    · have performed := serveAtomic_performed (id := id) plain wf free aligned home
      rw [run, atHome_first first]
      dsimp only at performed
      rw [leftOf, atomicStep_eq] at performed
      exact ⟨_, rfl, performed⟩
  · obtain ⟨atomic, fatom⟩ := exec_loadDataArrival_atomic now found berth
    refine ⟨fun kind done clean distinct => ?_, fun l old kind lane there lowest distinct => ?_⟩
    · have clean (y : TxnWord) (hy : y ∈ r.words) : y.lost = false ∧ y.poison = false := by
        simpa using List.all_eq_true.1 clean y hy
      obtain ⟨⟨holds, kept, memory, warps, own⟩, txns⟩ := landed_endTxn (s := s) (es := r.olds) id whole distinct unended
      rw [atomic kind, arriveAtomic_whole done clean]
      exact ⟨_, rfl, ⟨holds, kept, memory, warps, own⟩, txns⟩
    · have mem : l ∈ lanesOf r.lanes := (mem_lanesOf ..).2 lane
      have alone : ([(l, old)].flatMap (fun e => resultKeys s r e.1)).Nodup := by
        rw [List.flatMap_singleton]; exact distinct
      rw [fatom kind, arriveFatom_lowest mem there fun j hj lt => lowest j lt ((mem_lanesOf ..).1 hj), landLane]
      simp only [lanes_left_eq_zero mem]
      split
      · obtain ⟨⟨holds, kept, memory, warps, own⟩, txns⟩ := landed_endTxn (s := s) id whole alone unended
        exact ⟨_, rfl, ⟨holds, kept, memory, warps, own⟩, txns⟩
      · obtain ⟨holds, kept, memory, warps, own⟩ :=
          landed_rest (s := s) (x := r) (es := [(l, old)]) (tput ((s.landAll (atomicLandings s r [(l, old)])).acquireOf
            r).txns id { r with lanes := r.lanes &&& ~~~ maskOf (fun j => j = l) }) whole alone
        refine ⟨_, rfl, ⟨holds, kept, memory, warps, own⟩, ?_⟩
        dsimp only
        rw [acquireOf_state, landAll_rest]

end Sys2Proof.Machine
end

section
/-! PROOFS. Instructions that write results, predicates and random states at issue (R6, R60, R72), and the checks of
format registers before them (R67). -/

namespace Sys2Proof.Machine
open Sys2Proof.Safety Sys2Proof.Rules

section
variable {i : Instr} {f : Info} {s : State}

/-! ## Results of any lanes, with random steps (R6, R72) -/

theorem afterUniform_only (cx : Ctx) (out : Nat → LaneOut) (w : Warp) : afterUniform cx out w =
    { w with qpreds := (afterUniform cx out w).qpreds, qbusy := (afterUniform cx out w).qbusy } := by
  have only (b : Prop) [Decidable b] (code : Nat) (v : Bool) (w : Warp) : (if b then warpWithPred code v w else w) =
      { w with qpreds := (if b then warpWithPred code v w else w).qpreds
               qbusy := (if b then warpWithPred code v w else w).qbusy } := by
    split
    · exact warpWithPred_only code v w
    · rfl
  unfold afterUniform
  dsimp only
  rw [only (writesCarry cx = true), only (cx.sh.dst = .pdst)]

/-- Results of the evaluated lanes that are written at issue, whatever the lanes computed them from. -/
theorem completes_outs (draws : Nat) (out : Nat → LaneOut)
    (code : (issueCx i s).uni = false → (issueCx i s).x.dN < 0x200)
    (pred : (issueCx i s).sh.dst = .pdst → ((issueCx i s).uni = true ↔ 0x200 ≤ (issueCx i s).x.dN)) :
    let cx := issueCx i s
    let outs := (evalLanes cx).map (fun l => (l, out l))
    Completes i s (((s.landAll (regLandings cx (s.warp cx.wk) outs)).modWarp cx.wk (warpAfter cx draws outs)).advance cx)
      (fun l => (out l).value) ((evalLanes cx).foldl (fun m l => m ||| (out l).flags) 0)
      (afterLane cx draws out) (afterUniform cx out) := by
  intro cx outs
  obtain ⟨lanes, length, warp⟩ := warpAfter_spec cx draws out (s.warp cx.wk) pred
  rw [List.foldl_map] at warp
  exact completes_of i s out (warpAfter cx draws outs) _ _ _ _ code (fun _ _ => rfl) lanes length warp
    (afterUniform_only cx out)

theorem drawn_zero (cx : Ctx) : drawn cx 0 = fun _ v => v := by
  funext l v
  simp [drawn]

/-- Without a predicate and a carry an instruction changes of a lane its random state alone. -/
theorem afterLane_drawn {cx : Ctx} (dst : cx.sh.dst ≠ .pdst) (carry : cx.sh.c ≠ .carry) (draws : Nat)
    (out : Nat → LaneOut) : afterLane cx draws out = drawn cx draws := by
  funext l v
  simp [afterLane, dst, writesCarry, carry]

theorem completes_drawn (draws : Nat) (out : Nat → LaneOut)
    (code : (issueCx i s).uni = false → (issueCx i s).x.dN < 0x200)
    (dst : (issueCx i s).sh.dst ≠ .pdst) (carry : (issueCx i s).sh.c ≠ .carry) :
    let cx := issueCx i s
    let outs := (evalLanes cx).map (fun l => (l, out l))
    Completes i s (((s.landAll (regLandings cx (s.warp cx.wk) outs)).modWarp cx.wk (warpAfter cx draws outs)).advance cx)
      (fun l => (out l).value) ((evalLanes cx).foldl (fun m l => m ||| (out l).flags) 0) (drawn cx draws) id := by
  have done := completes_outs draws out code (fun h => absurd h dst)
  dsimp only at done
  rwa [afterLane_drawn dst carry, afterUniform_plain dst carry] at done

/-! ## Lanewise instructions with random steps (R60, R72) -/

/-- A lanewise instruction without a predicate and a carry completes with what its rule says, and steps random
states by its draws. -/
theorem completes_lanewise {g : LaneIn → LaneOut} {rule : LaneIn → Res} (plain : Plain i f) (draws : Nat)
    (meaning : ∀ v, rule v = (g v).res) :
    Completes i s (lanewise draws g (issueCx i s) s) (valueOf i s rule) (flagsOf i s rule)
      (drawn (issueCx i s) draws) id := by
  obtain ⟨row, kind, dst, carry⟩ := plain
  have cx := issueCx_of_info row s
  have uni : (issueCx i s).uni = decide (0x200 ≤ (issueCx i s).x.dN) := by
    rw [cx]
    show f.shape.uniform f.x = _
    rw [Shape.uniform, kind]
    rfl
  have value : valueOf i s rule = fun l => (g (laneIn (issueCx i s) s l)).value :=
    funext fun l => by rw [valueOf, meaning, LaneOut.res]
  have flags : flagsOf i s rule =
      (evalLanes (issueCx i s)).foldl (fun m l => m ||| (g (laneIn (issueCx i s) s l)).flags) 0 := by
    simp only [flagsOf, meaning, LaneOut.res]
  rw [value, flags]
  exact completes_drawn draws _ (vector_code uni) (by rw [cx]; exact dst) (by rw [cx]; exact carry)

/-! ## The check of the format registers (R67) -/

/-- An issue that checks the formats that it names performs its own effect where they fit. -/
theorem issueWith_of_formats {uses : List (Nat × Nat)} {act : Ctx → State → State} (row : i.info = some f)
    (fget : i.isFget = false) (go : Goes i false s) (fit : FormatsFit i s uses) :
    issueWith f.x f.shape false false [formatFault uses] [] act s = act (issueCx i s) s := by
  have formats : formatFault uses (issueCx i s) s = none := if_pos (List.all_eq_true.2 fit)
  obtain ⟨decoded, active, full, clean⟩ := go
  rw [fget] at decoded full clean
  rw [issueCx_of_info row] at *
  simp only [issueWith, firstFault, decoded, formats, if_neg active, List.nil_append, full, clean]

end

end Sys2Proof.Machine
end

section
/-! PROOFS. Float arithmetic and conversions (R66, R72, R98 to R104). -/

namespace Sys2Proof.Machine
open Sys2Proof.Safety Sys2Proof.Rules

/-! ## Random steps of the rounding modes (R72) -/

theorem rmodeOf_eq_rs (code : Nat) : rmodeOf code = .rs ↔ 4 ≤ code := by
  unfold rmodeOf
  split <;> simp_all
  omega

/-- An instruction that rounds draws for its elements under `.rs`, the codes from 4 on. -/
theorem drawsOf_rmodeOf (code elements : Nat) : drawsOf (rmodeOf code) elements = if 4 ≤ code then elements else 0 := by
  simp only [drawsOf, rmodeOf_eq_rs]

/-! ## Rules (R98, R99) -/

section
variable (x : Long) (v : LaneIn)

theorem ffmaRule_eq : ffmaRule x v =
    (laneFloat x (fun f r a b c => floatFma f (roundMode x) (saturates x) r a b c) v).res := (onElements_eq _ x v).symm

theorem fclampRule_eq : fclampRule x v = (laneFloat x (fun f _ a b c => floatClamp f a b c) v).res :=
  (onElements_eq _ x v).symm

end

/-! ## Float instructions -/

/-- An instruction completes with its rule's results and so many random steps. -/
def Draws (i : Instr) (rule : LaneIn → Res) (draws : Nat) (s : State) : Prop :=
  ∃ t, exec i s = .next t ∧ Completes i s t (valueOf i s rule) (flagsOf i s rule) (drawn (issueCx i s) draws) id

section
variable {i : Instr} {f : Info} {draws : Nat} {g : LaneIn → LaneOut} {rule : LaneIn → Res} {s : State}

theorem draws_compute (run : ∀ s, exec i s = .next (compute i draws g s)) (plain : Plain i f)
    (meaning : ∀ v, rule v = (g v).res) (go : Goes i false s) : Draws i rule draws s :=
  ⟨_, (run s).trans (congrArg Host.Outcome.next (issueOf_of_goes plain.row go)), completes_lanewise plain draws meaning⟩

theorem draws_computeCvt {uses : List (Nat × Nat)} (run : ∀ s, exec i s = .next (computeCvt i uses draws g s))
    (plain : Plain i f) (fget : i.isFget = false) (meaning : ∀ v, rule v = (g v).res) (go : Goes i false s)
    (fit : FormatsFit i s uses) : Draws i rule draws s := by
  refine ⟨_, (run s).trans (congrArg Host.Outcome.next ?_), completes_lanewise plain draws meaning⟩
  simp only [computeCvt, plain.row]
  exact issueWith_of_formats plain.row fget go fit

end

/-- A float instruction that rounds draws once for each element. -/
theorem roundedFloats_draw (x : Long) (s : State) : ∀ e ∈ roundedFloats, Goes (e.1 x) false s →
    Draws (e.1 x) (e.2 x) (drawsOf (roundMode x) (elementsOf x.tN)) s := by
  simp only [roundedFloats, List.forall_mem_cons, List.not_mem_nil, false_imp_iff, implies_true, and_true]
  and_intros
  all_goals refine draws_compute (fun _ => rfl) ⟨rfl, rfl, nofun, nofun⟩ fun v => ?_
  exacts [faddRule_eq x v, fsubRule_eq x v, fmulRule_eq x v, ffmaRule_eq x v, frndRule_eq x v, ffracRule_eq x v,
    fscaleRule_eq x v]

/-- One that does not round draws nothing. -/
theorem exactFloats_draw (x : Long) (s : State) : ∀ e ∈ exactFloats, Goes (e.1 x) false s →
    Draws (e.1 x) (e.2 x) 0 s := by
  simp only [exactFloats, List.forall_mem_cons, List.not_mem_nil, false_imp_iff, implies_true, and_true]
  and_intros
  all_goals refine draws_compute (fun _ => rfl) ⟨rfl, rfl, nofun, nofun⟩ fun v => ?_
  exacts [fminRule_eq x v, fmaxRule_eq x v, fclampRule_eq x v, fnegRule_eq x v, fexpoRule_eq x v]

/-! ## Conversions (R101 to R104) -/

/-- The integer types are the numbers to 7 and 20 (R49). -/
theorem isIntType_eq : ∀ t, isIntType t = decide (t ≤ 7 ∨ t = 20)
  | 0 | 1 | 2 | 3 | 4 | 5 | 6 | 7 | 8 | 9 | 10 | 11 | 12 | 13 | 14 | 15 | 16 | 17 | 18 | 19 | 20 => rfl
  | t + 21 => by
    rw [decide_eq_false (by omega)]
    rfl

/-- The random steps of a conversion: one under `.rs`, but for CVT between integer types. -/
def conversionDraws (i : Instr) (x : Long) : Nat :=
  if 4 ≤ x.mN % 8 ∧ ¬ (i = .cvt x ∧ isIntType x.dstType ∧ isIntType x.srcType) then 1 else 0

theorem conversionDraws_cvt (x : Long) : conversionDraws (.cvt x) x =
    if isIntType x.dstType && isIntType x.srcType then 0 else drawsOf (roundMode x) 1 := by
  rw [roundMode, drawsOf_rmodeOf, conversionDraws]
  cases isIntType x.dstType <;> cases isIntType x.srcType <;> simp

theorem conversionDraws_of_ne {i : Instr} {x : Long} (other : i ≠ .cvt x) :
    conversionDraws i x = drawsOf (roundMode x) 1 := by
  simp only [conversionDraws, other, false_and, not_false_eq_true, and_true, roundMode, drawsOf_rmodeOf]

/-- A conversion draws as R101 says where the formats that it names fit. -/
theorem conversions_draw (x : Long) (s : State) : ∀ e ∈ conversions, Goes (e.1.1 x) false s →
    FormatsFit (e.1.1 x) s (e.2 x) → (e.2 x = [] → x.mN < 8) →
    Draws (e.1.1 x) (e.1.2 x) (conversionDraws (e.1.1 x) x) s := by
  have plain (h : x.mN < 8) : roundMode x = rmodeOf x.mN := by rw [roundMode, Nat.mod_eq_of_lt h]
  simp only [conversions, List.forall_mem_cons, List.not_mem_nil, false_imp_iff, implies_true, and_true]
  refine ⟨fun go fit _ => ?_, fun go fit _ => ?_, fun go _ small => ?_, fun go _ small => ?_⟩
  · rw [conversionDraws_cvt]
    exact draws_computeCvt (fun _ => rfl) ⟨rfl, rfl, nofun, nofun⟩ rfl (cvtRule_eq x) go fit
  · rw [conversionDraws_of_ne (i := .cvts x) nofun]
    exact draws_computeCvt (fun _ => rfl) ⟨rfl, rfl, nofun, nofun⟩ rfl (fun _ => rfl) go fit
  · rw [conversionDraws_of_ne (i := .scenc x) nofun, plain (small trivial)]
    exact draws_compute (fun _ => rfl) ⟨rfl, rfl, nofun, nofun⟩ (fun _ => rfl) go
  · rw [conversionDraws_of_ne (i := .scdec x) nofun, plain (small trivial)]
    exact draws_compute (fun _ => rfl) ⟨rfl, rfl, nofun, nofun⟩ (fun _ => rfl) go

/-- Settles O3: each instruction's lanes compute its rule, and its draws are those of its rounding mode. -/
theorem floatResults : Obligations.FloatResults := by
  refine ⟨⟨fun e he x s go => ?_, fun e he x s go => ?_⟩, fun e he x s go fit small => ?_⟩
  · have done := roundedFloats_draw x s e he go
    rwa [roundMode, drawsOf_rmodeOf] at done
  · have done := exactFloats_draw x s e he go
    rwa [Draws, drawn_zero] at done
  · have done := conversions_draw x s e he go fit small
    simpa only [Draws, conversionDraws, isIntType_eq] using done

end Sys2Proof.Machine
end

section
/-! PROOFS. Streams of elements of a warp (R63, R103). -/

namespace Sys2Proof.Machine
open Sys2Proof.Safety Sys2Proof.Rules

/-- A stream is the sum of its elements, each at its place. -/
theorem packStream_eq_sum (w : Nat) (codes : List (Nat × Nat)) :
    packStream w codes = (codes.map (fun e => e.2 % 2 ^ w * 2 ^ (e.1 * w))).sum := by
  rw [packStream, List.sum_eq_foldl, List.foldl_map]

/-! ## PACK -/

/-- What a lane's element narrows to. -/
def narrowOf (cx : Ctx) (s : State) (l : Nat) : Res :=
  let v := laneIn cx s l
  narrowScaled (typeAt v (layoutC cx.x)) (roundMode cx.x) (saturates cx.x) v.r0 v.a v.b

/-- The width of the elements of an instruction's stream. -/
def elementWidth (cx : Ctx) (s : State) : Nat := (typeAt (laneIn cx s 0) (layoutC cx.x)).width

/-- The stream of the active lanes' codes. -/
def packedStream (cx : Ctx) (s : State) : Nat :=
  ((evalLanes cx).map (fun l =>
    (narrowOf cx s l).1 % 2 ^ elementWidth cx s * 2 ^ (l * elementWidth cx s))).sum

/-- A lane of PACK: its word of the stream, and the flags of its own element. -/
def packOut (cx : Ctx) (s : State) (l : Nat) : LaneOut where
  value := if l < elementWidth cx s then packedStream cx s / 2 ^ (32 * l) % 2 ^ 32 else 0
  flags := (narrowOf cx s l).2

theorem packLanes_eq (cx : Ctx) (s : State) : packLanes cx s =
    let outs := (evalLanes cx).map (fun l => (l, packOut cx s l))
    ((s.landAll (regLandings cx (s.warp cx.wk) outs)).modWarp cx.wk
      (warpAfter cx (drawsOf (roundMode cx.x) 1) outs)).advance cx := by
  simp only [packLanes, packStream_eq_sum, laneOuts, List.map_map]
  rfl

theorem exec_pack {x : Long} {s : State} (go : Goes (.pack x) false s) (fit : FormatsFit (.pack x) s [layoutC x]) :
    exec (.pack x) s = .next (packLanes (issueCx (.pack x) s) s) :=
  congrArg Host.Outcome.next (issueWith_of_formats rfl rfl go fit)

/-! ## UNPK -/

/-- The stream that the A words of the first lanes form. -/
def givenStream (cx : Ctx) (s : State) : Nat :=
  ((List.range (elementWidth cx s)).map (fun j => s.operand cx (.int 32) 1 cx.x.aN j % 2 ^ 32 * 2 ^ (32 * j))).sum

/-- A lane of UNPK: its own element of the stream, widened with its own scale. -/
def unpackOut (cx : Ctx) (s : State) (l : Nat) : LaneOut :=
  let v := laneIn cx s l
  resOut (widenScaled (typeAt v (layoutC cx.x)) (roundMode cx.x) (saturates cx.x) v.r0
    (givenStream cx s / 2 ^ (l * elementWidth cx s) % 2 ^ elementWidth cx s) v.b)

theorem unpackLanes_eq (cx : Ctx) (s : State) : unpackLanes cx s =
    let outs := (evalLanes cx).map (fun l => (l, unpackOut cx s l))
    ((s.landAll (regLandings cx (s.warp cx.wk) outs)).modWarp cx.wk
      (warpAfter cx (drawsOf (roundMode cx.x) 1) outs)).advance cx := by
  simp only [unpackLanes, packStream_eq_sum, List.map_map, Function.comp_def, Nat.mul_comm _ 32]
  rfl

theorem exec_unpk {x : Long} {s : State} (go : Goes (.unpk x) false s) (fit : FormatsFit (.unpk x) s [layoutC x]) :
    exec (.unpk x) s = .next (unpackLanes (issueCx (.unpk x) s) s) :=
  congrArg Host.Outcome.next (issueWith_of_formats rfl rfl go fit)

/-- Settles O4: the lanes of PACK and UNPK are `packOut` and `unpackOut`, and both draw as they round. -/
theorem packResults : Obligations.PackResults := by
  have narrow {n : Nat} (lt : n < 0x100) : n < 0x200 := Nat.lt_trans lt (by decide)
  refine ⟨fun x s go code fit => ⟨_, exec_pack go fit, ?_⟩, fun x s go code fit => ⟨_, exec_unpk go fit, ?_⟩⟩
  · rw [packLanes_eq, ← drawsOf_rmodeOf]
    exact completes_drawn _ (packOut (issueCx (.pack x) s) s) (fun _ => narrow code) nofun nofun
  · rw [unpackLanes_eq, ← drawsOf_rmodeOf]
    exact completes_drawn _ (unpackOut (issueCx (.unpk x) s) s) (fun _ => narrow code) nofun nofun

end Sys2Proof.Machine
end

section
/-! PROOFS. Combinations of integers (R62, R130): a fold of register results is the register result of a fold of
numbers. -/

namespace Sys2Proof.Machine
open Sys2Proof.Safety Sys2Proof.Rules

/-! ## Numbers wrapped to a type (R62) -/

/-- The number of an integer type that agrees with n in the type's bits. -/
def wrapTo (t : IntType) (n : Int) : Int := if t.signed then n.bmod (2 ^ t.width) else n % 2 ^ t.width

/-- A type's bits fit its registers: the integer types have at most 32 bits or 64. -/
def Fits (t : IntType) : Prop := t.width ≤ 32 ∨ t.width = 64

theorem fits_intTypeOf (code : Nat) : Fits (intTypeOf code) := by
  unfold Fits
  unfold intTypeOf
  split <;> decide

section
variable {t : IntType}

theorem wrapTo_modEq (n : Int) : wrapTo t n ≡ n [ZMOD 2 ^ t.width] := by
  unfold wrapTo
  split
  · have same := Int.bmod_emod (x := n) (m := 2 ^ t.width)
    push_cast at same
    exact same
  · exact Int.mod_modEq n _

theorem wrapTo_congr {m n : Int} (same : m ≡ n [ZMOD 2 ^ t.width]) : wrapTo t m = wrapTo t n := by
  unfold wrapTo
  split
  · rw [← Int.emod_bmod (x := m), ← Int.emod_bmod (x := n)]
    push_cast
    rw [same]
  · exact same

@[simp] theorem wrapTo_wrapTo (n : Int) : wrapTo t (wrapTo t n) = wrapTo t n := wrapTo_congr (wrapTo_modEq n)

theorem valueAs_eq_wrapTo (t : IntType) (v : Nat) : valueAs t v = wrapTo t v := rfl

theorem registerOf_congr {m n : Int} (same : m ≡ n [ZMOD 2 ^ t.width]) : registerOf t m = registerOf t n := by
  show (wrapTo t m % _).toNat = (wrapTo t n % _).toNat
  rw [wrapTo_congr same]

/-- A register keeps the bits of its type. -/
theorem registerOf_modEq (fits : Fits t) (n : Int) : (registerOf t n : Int) ≡ n [ZMOD 2 ^ t.width] := by
  have room : (2 : Int) ^ t.width ∣ 2 ^ (if t.width = 64 then 64 else 32) := by
    refine pow_dvd_pow 2 ?_
    rcases fits with narrow | wide
    · split <;> omega
    · simp [wide]
  show (((wrapTo t n % _).toNat : Nat) : Int) ≡ n [ZMOD _]
  rw [Int.toNat_of_nonneg (Int.emod_nonneg _ (by positivity))]
  exact ((Int.mod_modEq (wrapTo t n) _).of_dvd room).trans (wrapTo_modEq n)

theorem valueAs_registerOf (fits : Fits t) (n : Int) : valueAs t (registerOf t n) = wrapTo t n :=
  wrapTo_congr (registerOf_modEq fits n)

/-- The bits of a type decide what a register result of them is. -/
theorem registerOf_valueAs_congr {u v : Nat} (same : u ≡ v [MOD 2 ^ t.width]) :
    registerOf t (valueAs t u) = registerOf t (valueAs t v) := by
  have same : (u : Int) ≡ v [ZMOD 2 ^ t.width] := by exact_mod_cast Int.natCast_modEq_iff.2 same
  rw [valueAs_eq_wrapTo, valueAs_eq_wrapTo, wrapTo_congr same]

end

/-! ## Folds of combinations (R130) -/

/-- A fold follows another under an encoding that its steps respect, from a start that they keep. -/
theorem foldl_encoded {α β γ : Type} (enc : β → γ) (Good : β → Prop) {f : β → α → β} {g : γ → α → γ}
    (keeps : ∀ b a, Good b → Good (f b a)) (follows : ∀ b a, Good b → g (enc b) a = enc (f b a)) :
    ∀ (xs : List α) (b : β), Good b → xs.foldl g (enc b) = enc (xs.foldl f b)
  | [], _, _ => rfl
  | a :: xs, b, good => by
    rw [List.foldl_cons, follows b a good]
    exact foldl_encoded enc Good keeps follows xs _ (keeps b a good)

section
variable (t : IntType) (fits : Fits t) (ys : List Nat)
include fits

theorem foldl_combine_sum : ys.foldl (combine 0 t) (identityOf 0 t) = registerOf t (ys.map (valueAs t)).sum := by
  have start : identityOf 0 t = registerOf t 0 := by simp [identityOf, registerOf]
  rw [start, List.sum_eq_foldl, List.foldl_map]
  refine List.foldl_hom (registerOf t) fun n y => ?_
  simp only [combine, write_eq_registerOf, read_eq_valueAs, valueAs_registerOf fits]
  exact registerOf_congr ((wrapTo_modEq n).add_right _)

/-- A choice between two numbers of a type is of the type, so that a fold of choices never leaves it. -/
theorem foldl_combine_choice (op : Nat) (choose : Int → Int → Int) (chosen : ∀ m n, choose m n = m ∨ choose m n = n)
    (means : ∀ u v, combine op t u v = registerOf t (choose (valueAs t u) (valueAs t v))) {start : Int}
    (ofType : wrapTo t start = start) :
    ys.foldl (combine op t) (registerOf t start) = registerOf t ((ys.map (valueAs t)).foldl choose start) := by
  rw [List.foldl_map]
  refine foldl_encoded (registerOf t) (fun n => wrapTo t n = n) (fun n y good => ?_) (fun n y good => ?_) ys start ofType
  · rcases chosen n (valueAs t y) with e | e <;> rw [e]
    · exact good
    · exact wrapTo_wrapTo _
  · rw [means, valueAs_registerOf fits, good]

/-- An operation on bits that looks at each bit alone. -/
theorem foldl_combine_bits (op : Nat) (f : Nat → Nat → Nat)
    (bitwise : ∀ u v, f u v % 2 ^ t.width = f (u % 2 ^ t.width) (v % 2 ^ t.width))
    (means : ∀ u v, combine op t u v = registerOf t (valueAs t (f u v))) (start : Nat) :
    ys.foldl (combine op t) (registerOf t (valueAs t start)) = registerOf t (valueAs t (ys.foldl f start)) := by
  refine List.foldl_hom (fun u => registerOf t (valueAs t u)) fun u y => ?_
  have kept : registerOf t (valueAs t u) ≡ u [MOD 2 ^ t.width] := by
    rw [← Int.natCast_modEq_iff]
    push_cast
    exact (registerOf_modEq fits _).trans (wrapTo_modEq _)
  rw [means]
  refine registerOf_valueAs_congr ?_
  show _ % _ = _ % _
  rw [bitwise, kept, ← bitwise]

end

theorem max_ofType (code : Nat) : wrapTo (intTypeOf code) (intTypeOf code).max = (intTypeOf code).max := by
  unfold intTypeOf
  split <;> decide

theorem min_ofType (code : Nat) : wrapTo (intTypeOf code) (intTypeOf code).min = (intTypeOf code).min := by
  unfold intTypeOf
  split <;> decide

/-! ### Identities -/

theorem zero_eq_registerOf (t : IntType) : 0 = registerOf t (valueAs t 0) := by
  simp [registerOf, valueAs]

theorem identityOf_min (t : IntType) : identityOf 1 t = registerOf t t.max := write_eq_registerOf ..

theorem identityOf_max (t : IntType) : identityOf 2 t = registerOf t t.min := write_eq_registerOf ..

/-- All ones are -1 in every type. -/
theorem identityOf_and {t : IntType} (fits : Fits t) : identityOf 3 t = registerOf t (valueAs t (2 ^ 64 - 1)) := by
  have room : (2 : Int) ^ t.width ∣ 2 ^ 64 := pow_dvd_pow 2 (by unfold Fits at fits; omega)
  have ones : (((2 ^ 64 - 1 : Nat)) : Int) ≡ -1 [ZMOD 2 ^ t.width] := Int.modEq_iff_dvd.2 (by simpa using room)
  exact (write_eq_registerOf ..).trans (registerOf_congr ((wrapTo_modEq _).trans ones).symm)

/-! ### The six combinations -/

/-- The register result of R130's combination of some values. -/
def combinedOf (op : Nat) (t : IntType) (ys : List Nat) : Nat :=
  match op with
  | 0 => registerOf t (ys.map (valueAs t)).sum
  | 1 => registerOf t ((ys.map (valueAs t)).foldl min t.max)
  | 2 => registerOf t ((ys.map (valueAs t)).foldl max t.min)
  | 3 => registerOf t (valueAs t (ys.foldl (fun u v => u &&& v) (2 ^ 64 - 1)))
  | 4 => registerOf t (valueAs t (ys.foldl (fun u v => u ||| v) 0))
  | _ => registerOf t (valueAs t (ys.foldl (fun u v => u ^^^ v) 0))

theorem foldl_combine {op : Nat} (known : op ≤ 5) (code : Nat) (ys : List Nat) :
    ys.foldl (combine op (intTypeOf code)) (identityOf op (intTypeOf code)) = combinedOf op (intTypeOf code) ys := by
  set t := intTypeOf code
  have fits : Fits t := fits_intTypeOf code
  have choice (u v : Nat) (choose : Int → Int → Int) :
      t.write (regBits t.width) (choose (t.read u) (t.read v)) = registerOf t (choose (valueAs t u) (valueAs t v)) := by
    rw [write_eq_registerOf, read_eq_valueAs, read_eq_valueAs]
  have bit (u : Nat) : t.write (regBits t.width) (t.read u) = registerOf t (valueAs t u) := by
    rw [write_eq_registerOf, read_eq_valueAs]
  interval_cases op
  · exact foldl_combine_sum t fits ys
  · rw [identityOf_min]
    exact foldl_combine_choice t fits ys 1 min (fun m n => min_choice m n) (fun u v => choice u v min) (max_ofType code)
  · rw [identityOf_max]
    exact foldl_combine_choice t fits ys 2 max (fun m n => max_choice m n) (fun u v => choice u v max) (min_ofType code)
  · rw [identityOf_and fits]
    exact foldl_combine_bits t fits ys 3 (fun u v => u &&& v) (fun u v => Nat.and_mod_two_pow) (fun u v => bit _) _
  · rw [show identityOf 4 t = _ from zero_eq_registerOf t]
    exact foldl_combine_bits t fits ys 4 (fun u v => u ||| v) (fun u v => Nat.or_mod_two_pow) (fun u v => bit _) _
  · rw [show identityOf 5 t = _ from zero_eq_registerOf t]
    exact foldl_combine_bits t fits ys 5 (fun u v => u ^^^ v) (fun u v => Nat.xor_mod_two_pow) (fun u v => bit _) _

end Sys2Proof.Machine
end

section
/-! PROOFS. Lane and tile instructions (R126 to R132). -/

namespace Sys2Proof.Machine
open Sys2Proof.Safety Sys2Proof.Rules

/-! ## Tiles (R126) -/

theorem tileBase_eq (w : Warp) (l : Nat) : tileBase w l = l / 2 ^ w.part * 2 ^ w.part :=
  (Nat.div_mul_self_eq_mod_sub_self ..).symm

theorem tileBase_eq_iff (w : Warp) (j l : Nat) : tileBase w j = tileBase w l ↔ j / 2 ^ w.part = l / 2 ^ w.part := by
  rw [tileBase_eq, tileBase_eq, Nat.mul_left_inj (by positivity)]

theorem members_eq (cx : Ctx) (w : Warp) (l : Nat) : members cx w l =
    (List.range 32).filter (fun j => cx.act.getLsbD j && decide (j / 2 ^ w.part = l / 2 ^ w.part)) := by
  simp only [members, lanesOf, List.filter_filter, tileBase_eq_iff, Bool.and_comm]
  rfl

theorem mem_members_self {cx : Ctx} {w : Warp} {l : Nat} (lane : l ∈ lanesOf cx.act) : l ∈ members cx w l :=
  List.mem_filter.2 ⟨lane, by simp⟩

theorem tileMask_eq (cx : Ctx) (w : Warp) (l : Nat) (f : Nat → Bool) : tileMask cx w l f =
    (((members cx w l).filter f).map (fun j => 2 ^ (j - l / 2 ^ w.part * 2 ^ w.part))).sum := by
  rw [tileMask, List.sum_eq_foldl, List.foldl_map, List.foldl_filter, tileBase_eq]

/-! ## Completion -/

section
variable {i : Instr} {s : State} {out : Ctx → State → Warp → Nat → LaneOut}

theorem evalLanes_vector {cx : Ctx} (uni : cx.uni = false) : evalLanes cx = lanesOf cx.act := by
  simp [evalLanes, uni]

/-- Results are those of the active lanes. -/
theorem outs_congr {cx : Ctx} (uni : cx.uni = false) {out given : Nat → LaneOut}
    (gives : ∀ l ∈ lanesOf cx.act, out l = given l) :
    (lanesOf cx.act).map (fun l => (l, out l)) = (evalLanes cx).map (fun l => (l, given l)) := by
  rw [evalLanes_vector uni]
  exact List.map_congr_left fun l lane => by rw [gives l lane]

/-- A lane instruction by what its active lanes give. -/
theorem laneOp_eq {cx : Ctx} (uni : cx.uni = false) {given : Nat → LaneOut}
    (gives : ∀ l ∈ lanesOf cx.act, out cx s (s.warp cx.wk) l = given l) : laneOp out cx s =
      let outs := (evalLanes cx).map (fun l => (l, given l))
      ((s.landAll (regLandings cx (s.warp cx.wk) outs)).modWarp cx.wk (warpAfter cx 0 outs)).advance cx := by
  rw [← outs_congr uni gives]
  rfl

theorem foldl_or_zero (ls : List Nat) : ls.foldl (fun m _ => m ||| 0) (0 : FlagMask) = 0 := by
  simp

/-- A lane instruction that writes a register. -/
theorem completes_laneOp_value {value : Nat → Nat} (uni : (issueCx i s).uni = false) (code : (issueCx i s).x.dN < 0x200)
    (dst : (issueCx i s).sh.dst ≠ .pdst) (carry : (issueCx i s).sh.c ≠ .carry)
    (gives : ∀ l ∈ lanesOf (issueCx i s).act, out (issueCx i s) s (s.warp (issueCx i s).wk) l = valOut (value l)) :
    Completes i s (laneOp out (issueCx i s) s) value 0 (fun _ v => v) id := by
  have done := completes_drawn 0 (fun l => valOut (value l)) (fun _ => code) dst carry
  dsimp only [valOut] at done
  rw [foldl_or_zero, drawn_zero] at done
  rw [laneOp_eq uni gives]
  exact done

/-- A lane instruction that writes a predicate of each active lane. -/
theorem completes_laneOp_pred {value : Nat → Bool} (uni : (issueCx i s).uni = false) (code : (issueCx i s).x.dN < 0x200)
    (dst : (issueCx i s).sh.dst = .pdst) (carry : (issueCx i s).sh.c ≠ .carry)
    (gives : ∀ l ∈ lanesOf (issueCx i s).act, out (issueCx i s) s (s.warp (issueCx i s).wk) l = predOut (value l)) :
    Completes i s (laneOp out (issueCx i s) s) (fun _ => 0) 0 (laneWithPred (issueCx i s) (issueCx i s).x.dN value) id := by
  have done := completes_outs (i := i) (s := s) 0 (fun l => predOut (value l)) (fun _ => code)
    fun _ => by simpa [uni] using code
  have lane : afterLane (issueCx i s) 0 (fun l => predOut (value l)) =
      laneWithPred (issueCx i s) (issueCx i s).x.dN value := by
    funext l v
    simp [afterLane, dst, writesCarry, carry, drawn_zero, predOut]
  have uniform : afterUniform (issueCx i s) (fun l => predOut (value l)) = id := by
    funext w
    simp [afterUniform, writesCarry, carry, warpWithPred, Nat.not_le.2 code]
  dsimp only at done
  rw [lane, uniform] at done
  dsimp only [predOut] at done
  rw [foldl_or_zero] at done
  rw [laneOp_eq uni gives]
  exact done

end

/-! ## VOTE (R128) -/

section
variable {x : Long} {s : State}

theorem exec_vote (go : Goes (.vote x) false s) : exec (.vote x) s = .next (voteLanes (issueCx (.vote x) s) s) :=
  congrArg Host.Outcome.next (issueOf_of_goes rfl go)

/-- `.bal` writes a register. -/
theorem completes_vote_value {value : Nat → Nat} (mode : x.mN = 2) (code : x.dN < 0x200)
    (gives : ∀ l ∈ lanesOf (issueCx (.vote x) s).act,
      voteLane (issueCx (.vote x) s) s (s.warp (issueCx (.vote x) s).wk) l = valOut (value l)) :
    Completes (.vote x) s (voteLanes (issueCx (.vote x) s) s) value 0 (fun _ v => v) id := by
  have ballot : (issueCx (.vote x) s).x.mN = 2 := mode
  rw [voteLanes, if_pos ballot]
  exact completes_of_results (fun _ => code) fun l lane => by rw [gives l lane, valOut_value]

/-- The other modes write a predicate. -/
theorem completes_vote_pred {value : Nat → Bool} (mode : x.mN ≠ 2) (code : x.dN < 0x200)
    (gives : ∀ l ∈ lanesOf (issueCx (.vote x) s).act,
      voteLane (issueCx (.vote x) s) s (s.warp (issueCx (.vote x) s).wk) l = predOut (value l)) :
    Completes (.vote x) s (voteLanes (issueCx (.vote x) s) s) (fun _ => 0) 0
      (laneWithPred (issueCx (.vote x) s) x.dN value) id := by
  have decides : ¬ (issueCx (.vote x) s).x.mN = 2 := mode
  have code : (issueCx (.vote x) s).x.dN < 0x200 := code
  obtain ⟨lanes, length, warp⟩ := foldl_putPred (issueCx (.vote x) s) (issueCx (.vote x) s).x.dN
    (fun l => predOut (value l)) LaneOut.pred (s.warp (issueCx (.vote x) s).wk)
    (iff_of_false Bool.false_ne_true (Nat.not_le.2 code))
  rw [voteLanes, if_neg decides, outs_congr rfl gives]
  refine completes_wordless (if_neg decides) lanes length ?_ fun _ => rfl
  simpa [warpWithPred, Nat.not_le.2 code] using warp

end

/-! ## What a lane gives (R128, R131, R132) -/

/-- A lane's predicate agrees with all of its tile when all have it or none has. -/
theorem all_eq_of_mem {ls : List Nat} {l : Nat} (mem : l ∈ ls) (p : Nat → Bool) :
    (ls.all p || ls.all (fun j => !p j)) = ls.all (fun j => p j == p l) := by
  cases own : p l
  · have some : ls.all p = false := List.all_eq_false.2 ⟨l, mem, by simp [own]⟩
    simp [some]
  · have some : ls.all (fun j => !p j) = false := List.all_eq_false.2 ⟨l, mem, by simp [own]⟩
    simp [some]

/-- The first of ascending numbers is the least of them. -/
theorem head_eq_some_iff {ls : List Nat} (ascending : ls.Pairwise (· < ·)) {l : Nat} (mem : l ∈ ls) :
    ls.head? = some l ↔ ∀ j ∈ ls, l ≤ j := by
  cases ls with
  | nil => cases mem
  | cons a ls =>
    obtain ⟨least, -⟩ := List.pairwise_cons.1 ascending
    rw [List.head?_cons, Option.some_inj, List.forall_mem_cons]
    refine ⟨fun e => e ▸ ⟨le_rfl, fun j hj => (least j hj).le⟩, fun ⟨le, _⟩ => ?_⟩
    rcases List.mem_cons.1 mem with e | later
    · exact e.symm
    · exact absurd le (Nat.not_le.2 (least l later))

theorem members_ascending (cx : Ctx) (w : Warp) (l : Nat) : (members cx w l).Pairwise (· < ·) := by
  rw [members_eq]
  exact List.pairwise_lt_range.filter _

/-- The lanes of a mask that LMASK names, beside lane l (R132). -/
def namedMask (k l : Nat) : Nat → Bool :=
  match k with
  | 0 => fun _ => true
  | 1 => fun j => decide (j < l)
  | 2 => fun j => decide (j ≤ l)
  | 3 => fun j => decide (l < j)
  | _ => fun j => decide (l ≤ j)

section
variable {cx : Ctx} {s : State} {w : Warp} {l : Nat}

theorem voteLane_all (mode : cx.x.mN = 0) :
    voteLane cx s w l = predOut ((members cx w l).all (fun j => w.predOf cx.x.aN j)) := by
  simp only [voteLane, mode]

theorem voteLane_any (mode : cx.x.mN = 1) :
    voteLane cx s w l = predOut ((members cx w l).any (fun j => w.predOf cx.x.aN j)) := by
  simp only [voteLane, mode]

theorem voteLane_ballot (mode : cx.x.mN = 2) :
    voteLane cx s w l = valOut (tileMask cx w l (fun j => w.predOf cx.x.aN j)) := by
  simp only [voteLane, mode]

theorem voteLane_equal (mode : cx.x.mN = 3) (lane : l ∈ lanesOf cx.act) :
    voteLane cx s w l = predOut ((members cx w l).all (fun j => w.predOf cx.x.aN j == w.predOf cx.x.aN l)) := by
  simp only [voteLane, mode]
  rw [all_eq_of_mem (mem_members_self lane)]

theorem matchLane_any (mode : cx.x.mN = 0) :
    matchLane cx s w l = valOut (tileMask cx w l (fun j => s.opA cx j == s.opA cx l)) := by
  simp only [matchLane, mode, if_true, beq_eq_decide]

theorem matchLane_all (mode : cx.x.mN = 1) :
    matchLane cx s w l = valOut (if (members cx w l).all (fun j => s.opA cx j == s.opA cx l) then
      tileMask cx w l (fun _ => true) else 0) := by
  simp only [matchLane, mode, one_ne_zero, if_false, beq_eq_decide]

theorem electLane_eq (lane : l ∈ lanesOf cx.act) :
    electLane cx s w l = predOut ((members cx w l).all (fun j => decide (l ≤ j))) := by
  have first := head_eq_some_iff (members_ascending cx w l) (mem_members_self lane)
  simp only [electLane, first, List.all_eq, decide_eq_true_eq]

/-- LMASK's masks in the order of their codes. -/
theorem lmaskLane_mask {k : Nat} (named : cx.x.aN = 0x140 + k) (mask : k < 5) :
    lmaskLane cx s w l = valOut (tileMask cx w l (namedMask k l)) := by
  simp only [lmaskLane, named, Nat.add_sub_cancel_left]
  rw [if_neg (by omega)]
  rfl

theorem lmaskLane_tile (named : cx.x.aN = 0x145) : lmaskLane cx s w l = valOut (2 ^ 2 ^ w.part - 1) := by
  simp only [lmaskLane, named, if_true, tileSize]

end

/-! ## REDUX and SCAN (R130) -/

theorem combineLanes_eq {op : Nat} (known : op ≤ 5) (cx : Ctx) (s : State) (ls : List Nat) :
    combineLanes op cx s ls = combinedOf op (intTypeOf cx.x.tN) (ls.map (s.opA cx)) := by
  rw [← foldl_combine known, List.foldl_map]
  rfl

/-- The members that SCAN combines for a lane: those below it and, unless bit 12 excludes it, the lane itself. -/
theorem scanned_eq (cx : Ctx) (w : Warp) (l : Nat) :
    (members cx w l).filter (fun j => decide (j < if cx.x.mN / 8 = 1 then l else l + 1)) =
      (members cx w l).filter (fun j => decide (j < l ∨ (j = l ∧ cx.x.mN < 8))) := by
  have bound : cx.x.mN < 16 := cx.x.mods.isLt
  refine List.filter_congr fun j _ => decide_eq_decide.2 ?_
  split <;> omega

section
variable {cx : Ctx} {s : State} {w : Warp} {l : Nat}

theorem reduxLane_eq (known : cx.x.mN ≤ 5) : reduxLane cx s w l =
    valOut (combinedOf cx.x.mN (intTypeOf cx.x.tN) ((members cx w l).map (s.opA cx))) := by
  rw [reduxLane, combineLanes_eq known]

theorem scanLane_eq (known : cx.x.mN % 8 ≤ 5) : scanLane cx s w l =
    valOut (combinedOf (cx.x.mN % 8) (intTypeOf cx.x.tN)
      (((members cx w l).filter (fun j => decide (j < l ∨ (j = l ∧ cx.x.mN < 8)))).map (s.opA cx))) := by
  simp only [scanLane, combineLanes_eq known, scanned_eq]

end

/-! ## The statement -/

/-- An instruction writes a register of each active lane, and changes nothing else. -/
def Writes (i : Instr) (s : State) (value : Nat → Nat) : Prop :=
  ∃ t, exec i s = .next t ∧ Completes i s t value 0 (fun _ v => v) id

theorem exec_of_laneOp {i : Instr} {f : Info} {out : Ctx → State → Warp → Nat → LaneOut} {s : State}
    (row : i.info = some f) (run : exec i s = .next (issueOf i false (laneOp out) s)) (go : Goes i false s) :
    exec i s = .next (laneOp out (issueCx i s) s) :=
  run.trans (congrArg Host.Outcome.next (issueOf_of_goes row go))

/-- A vector instruction without a predicate destination, by what its lanes give. -/
structure IsLaneOp (i : Instr) (out : Ctx → State → Warp → Nat → LaneOut) : Prop where
  effect : ∀ s, Goes i false s → exec i s = .next (laneOp out (issueCx i s) s)
  vector : ∀ s, (issueCx i s).uni = false
  dst    : ∀ s, (issueCx i s).sh.dst ≠ .pdst
  carry  : ∀ s, (issueCx i s).sh.c ≠ .carry

theorem isLaneOp_matchLanes (x : Long) : IsLaneOp (.matchLanes x) matchLane :=
  ⟨fun _ => exec_of_laneOp rfl rfl, fun _ => rfl, fun _ => nofun, fun _ => nofun⟩

theorem isLaneOp_lmask (x : Long) : IsLaneOp (.lmask x) lmaskLane :=
  ⟨fun _ => exec_of_laneOp rfl rfl, fun _ => rfl, fun _ => nofun, fun _ => nofun⟩

theorem isLaneOp_redux (x : Long) : IsLaneOp (.redux x) reduxLane :=
  ⟨fun _ => exec_of_laneOp rfl rfl, fun _ => rfl, fun _ => nofun, fun _ => nofun⟩

theorem isLaneOp_scan (x : Long) : IsLaneOp (.scan x) scanLane :=
  ⟨fun _ => exec_of_laneOp rfl rfl, fun _ => rfl, fun _ => nofun, fun _ => nofun⟩

theorem IsLaneOp.writes {i : Instr} {out : Ctx → State → Warp → Nat → LaneOut} {s : State} {value : Nat → Nat}
    (op : IsLaneOp i out) (go : Goes i false s) (code : (issueCx i s).x.dN < 0x100)
    (gives : ∀ l, out (issueCx i s) s (s.warp (issueCx i s).wk) l = valOut (value l)) : Writes i s value :=
  ⟨_, op.effect s go, completes_laneOp_value (op.vector s) (Nat.lt_trans code (by decide)) (op.dst s)
    (op.carry s) fun l _ => gives l⟩

/-- Settles O17: each instruction by what its lane gives, over the members of the lane's tile. -/
theorem laneGroupResults : Obligations.LaneGroupResults := by
  refine ⟨fun x s i cx issue go => ?_, fun scan x s => ?_⟩
  · subst issue
    intro w n tile mask p a writes decides
    have tile_eq (l : Nat) : tile l = members (issueCx i s) w l := (members_eq ..).symm
    have mask_eq (l : Nat) (f : Nat → Bool) : mask l f = tileMask (issueCx i s) w l f := by
      rw [tileMask_eq, ← tile_eq]
    simp only [tile_eq, mask_eq]
    refine ⟨?all, ?any, ?ballot, ?equal, ?matchAny, ?matchAll, ?elect, ?active, ?lt, ?le, ?gt, ?ge, ?whole⟩
    case all =>
      rintro rfl mode code
      exact ⟨_, exec_vote go, completes_vote_pred (by omega) code fun _ _ => voteLane_all mode⟩
    case any =>
      rintro rfl mode code
      exact ⟨_, exec_vote go, completes_vote_pred (by omega) code fun _ _ => voteLane_any mode⟩
    case equal =>
      rintro rfl mode code
      exact ⟨_, exec_vote go, completes_vote_pred (by omega) code fun _ lane => voteLane_equal mode lane⟩
    case ballot =>
      rintro rfl mode code
      exact ⟨_, exec_vote go, completes_vote_value mode (Nat.lt_trans code (by decide)) fun _ _ => voteLane_ballot mode⟩
    case matchAny =>
      rintro rfl mode code
      exact (isLaneOp_matchLanes x).writes go code fun _ => matchLane_any mode
    case matchAll =>
      rintro rfl mode code
      exact (isLaneOp_matchLanes x).writes go code fun _ => matchLane_all mode
    case elect =>
      rintro rfl code
      exact ⟨_, exec_of_laneOp rfl rfl go, completes_laneOp_pred rfl code rfl nofun fun _ lane => electLane_eq lane⟩
    case active =>
      rintro rfl named code
      exact (isLaneOp_lmask x).writes go code fun _ => lmaskLane_mask (k := 0) named (by decide)
    case lt =>
      rintro rfl named code
      exact (isLaneOp_lmask x).writes go code fun _ => lmaskLane_mask (k := 1) named (by decide)
    case le =>
      rintro rfl named code
      exact (isLaneOp_lmask x).writes go code fun _ => lmaskLane_mask (k := 2) named (by decide)
    case gt =>
      rintro rfl named code
      exact (isLaneOp_lmask x).writes go code fun _ => lmaskLane_mask (k := 3) named (by decide)
    case ge =>
      rintro rfl named code
      exact (isLaneOp_lmask x).writes go code fun _ => lmaskLane_mask (k := 4) named (by decide)
    case whole =>
      rintro rfl named code
      exact (isLaneOp_lmask x).writes go code fun _ => lmaskLane_tile named
  · cases scan with
    | false =>
      intro i cx go code known vector n t tile least greatest numbers bits
      refine (isLaneOp_redux x).writes go code fun l => ?_
      have op : cx.x.mN = x.mN % 8 := (Nat.mod_eq_of_lt (vector rfl)).symm
      have tile_eq : tile l = members cx (s.warp cx.wk) l := by simp [tile, members_eq, n]
      refine (reduxLane_eq (op.trans_le known)).trans ?_
      rw [op]
      simp only [combinedOf, List.map_map, List.foldl_map, numbers, bits, tile_eq]
      rfl
    | true =>
      intro i cx go code known _ n t tile least greatest numbers bits
      refine (isLaneOp_scan x).writes go code fun l => ?_
      have tile_eq : tile l = (members cx (s.warp cx.wk) l).filter
          (fun j => decide (j < l ∨ (j = l ∧ cx.x.mN < 8))) := by
        rw [members_eq, List.filter_filter]
        refine List.filter_congr fun j _ => ?_
        rw [Bool.and_comm]
        simp only [true_imp_iff]
        rfl
      refine (scanLane_eq known).trans ?_
      simp only [combinedOf, List.map_map, List.foldl_map, numbers, bits, tile_eq]
      rfl

end Sys2Proof.Machine
end

section
/-! PROOFS. Producers (R26): what an instruction leaves whose results land later. -/

namespace Sys2Proof.Machine
open Sys2Proof.Safety Sys2Proof.Rules

section
variable {i : Instr} {s : State} {value : Nat → Nat} {change : Nat → Lane → Lane} {fw : Warp → Warp}
  {g : Nat → LaneOut}

/-- The landings of the evaluated lanes' values. -/
theorem regLandings_values (values : ∀ l ∈ evalLanes (issueCx i s), (g l).value = value l) :
    regLandings (issueCx i s) (s.warp (issueCx i s).wk) ((evalLanes (issueCx i s)).map (fun l => (l, g l))) =
      (evalLanes (issueCx i s)).flatMap (fun l =>
        ((dstOf i s l).zip (wordsOf ((issueCx i s).sh.dst.writes (issueCx i s).sh (issueCx i s).x) (value l))).map
          (fun e => ⟨e.1, e.2, false⟩)) := by
  rw [regLandings, List.flatMap_map]
  refine List.flatMap_congr fun l mem => ?_
  rw [← values l mem]
  rfl

/-- Lanes of the issuing warp changed, its results left pending and its group passed: the shape of a producer. -/
theorem pends_of_produced (kind : ProdKind) (after : Nat) (flags : FlagMask)
    (values : ∀ l ∈ evalLanes (issueCx i s), (g l).value = value l)
    (lanes : ∀ j, (fw (s.warp (issueCx i s).wk)).lanes[j]? = (s.warp (issueCx i s).wk).lanes[j]?.map (change j))
    (length : (fw (s.warp (issueCx i s).wk)).lanes.length = (s.warp (issueCx i s).wk).lanes.length)
    (warp : fw (s.warp (issueCx i s).wk) =
      { s.warp (issueCx i s).wk with lanes := (fw (s.warp (issueCx i s).wk)).lanes }) :
    Pends i s (((s.modWarp (issueCx i s).wk fw).produce (issueCx i s) kind after (regLandings (issueCx i s)
      (s.warp (issueCx i s).wk) ((evalLanes (issueCx i s)).map (fun l => (l, g l)))) flags).advance (issueCx i s))
      kind after value flags change := by
  have keys := regLandings_keys (issueCx i s) (s.warp (issueCx i s).wk) g (evalLanes (issueCx i s))
  have words := regLandings_values values
  generalize regLandings (issueCx i s) (s.warp (issueCx i s).wk) _ = xs at keys words
  have found := tfind_produce (s.modWarp (issueCx i s).wk fw) (issueCx i s) kind after xs flags 0 0
  have empty := isEmpty_produce (s.modWarp (issueCx i s).wk fw) (issueCx i s) kind after xs flags 0 0
  have own : ((s.modWarp (issueCx i s).wk fw).produce (issueCx i s) kind after xs flags).warp (issueCx i s).wk =
    fw (s.warp (issueCx i s).wk) := warp_modWarp_same ..
  obtain ⟨passed, count, left⟩ :=
    advance_spec ((s.modWarp (issueCx i s).wk fw).produce (issueCx i s) kind after xs flags) (issueCx i s)
  rw [own] at passed count left
  refine ⟨⟨_, found, rfl, rfl, rfl, rfl, words⟩, fun k other => tfind_tput_ne _ _ other.symm, fun k => ?_,
    ⟨count.trans length, fun l v there => ?_⟩, ?_, fun k other => ?_, fun _ => rfl, rfl⟩
  · refine (empty k).trans ?_
    rw [keys, Bool.or_comm]
    rfl
  · rw [passed, lanes, there]
    rfl
  · have latch (w' : Warp) : latchAfter (issueCx i s) ((s.modWarp (issueCx i s).wk fw).produce (issueCx i s) kind after
        xs flags) w' = latchAfter (issueCx i s) s w' := by
      simp only [latchAfter, own]
      rw [warp]
      rfl
    rw [latch] at left
    refine left.trans ?_
    rw [warp]
  · exact (warp_modWarp_ne _ _ other).trans (warp_modWarp_ne _ _ other)

end

end Sys2Proof.Machine
end

section
/-! PROOFS. The special-function unit (R105, R106). -/

namespace Sys2Proof.Machine
open Sys2Proof.Safety Sys2Proof.Rules

/-! ## Lanewise producers -/

/-- An instruction completes as an SFU producer with its rule's results and so many random steps at issue. -/
def PendsLate (i : Instr) (rule : LaneIn → Res) (draws : Nat) (s : State) : Prop :=
  ∃ t, exec i s = .next t ∧
    Pends i s t .sfu 0 (valueOf i s rule) (flagsOf i s rule) (drawn (issueCx i s) draws)

section
variable {i : Instr} {f : Info} {s : State} {draws : Nat} {g : LaneIn → LaneOut} {rule : LaneIn → Res}

/-- At its issue an SFU instruction changes of its warp the random states alone (R72, R107). -/
theorem warpAfter_draws {cx : Ctx} (dst : cx.sh.dst ≠ .pdst) (carry : cx.sh.c ≠ .carry) (draws : Nat) (w : Warp) :
    let w' := warpAfter cx draws ((evalLanes cx).map (fun l => (l, {}))) w
    (∀ j, w'.lanes[j]? = w.lanes[j]?.map (drawn cx draws j)) ∧ w'.lanes.length = w.lanes.length ∧
      w' = { w with lanes := w'.lanes } := by
  obtain ⟨lanes, length, rest⟩ := warpAfter_spec cx draws (fun _ => {}) w (fun h => absurd h dst)
  rw [afterLane_drawn dst carry] at lanes
  have flags : w.flags ||| (0 : FlagMask) = w.flags := BitVec.or_zero
  refine ⟨lanes, length, rest.trans ?_⟩
  rw [afterUniform_plain dst carry, List.foldl_map, foldl_or_zero, flags]
  rfl

theorem pends_lanewiseLate (plain : Plain i f) (meaning : ∀ v, rule v = (g v).res) :
    Pends i s (lanewiseLate draws g (issueCx i s) s) .sfu 0 (valueOf i s rule) (flagsOf i s rule)
      (drawn (issueCx i s) draws) := by
  have cx := issueCx_of_info plain.row s
  have dst : (issueCx i s).sh.dst ≠ .pdst := by rw [cx]; exact plain.dst
  have carry : (issueCx i s).sh.c ≠ .carry := by rw [cx]; exact plain.carry
  obtain ⟨lanes, length, rest⟩ := warpAfter_draws dst carry draws (s.warp (issueCx i s).wk)
  have flags : flagsOf i s rule =
      (laneOuts (issueCx i s) s g).foldl (fun m e => m ||| e.2.flags) 0 := by
    rw [laneOuts, List.foldl_map]
    simp only [flagsOf, meaning, LaneOut.res]
  have late : lanewiseLate draws g (issueCx i s) s = ((s.modWarp (issueCx i s).wk (warpAfter (issueCx i s) draws
      ((evalLanes (issueCx i s)).map (fun l => (l, {}))))).produce (issueCx i s) .sfu 0 (regLandings (issueCx i s)
        (s.warp (issueCx i s).wk) (laneOuts (issueCx i s) s g)) (flagsOf i s rule)).advance (issueCx i s) := by
    rw [flags, lanewiseLate]
    simp only [laneOuts, List.map_map]
    rfl
  rw [late]
  exact pends_of_produced .sfu 0 _ (fun l _ => by rw [valueOf, meaning, LaneOut.res]) lanes length rest

theorem pendsLate_computeLate (run : ∀ s, exec i s = .next (computeLate i draws g s)) (plain : Plain i f)
    (meaning : ∀ v, rule v = (g v).res) (go : Goes i false s) : PendsLate i rule draws s :=
  ⟨_, (run s).trans (congrArg Host.Outcome.next (issueOf_of_goes plain.row go)), pends_lanewiseLate plain meaning⟩

end

/-! ## Functions (R105) -/

/-- Each function is one lanewise operation of the unit, which draws under `.rs`. -/
theorem functions_pend (x : Long) (s : State) : ∀ e ∈ functions, Goes (e.1 x) false s →
    PendsLate (e.1 x) (e.2 x) (drawsOf (rmodeOf x.cN) 1) s := by
  simp only [functions, List.forall_mem_cons, List.not_mem_nil, false_imp_iff, implies_true, and_true]
  and_intros
  all_goals exact pendsLate_computeLate (fun _ => rfl) ⟨rfl, rfl, nofun, nofun⟩ fun _ => rfl

/-- Settles O5: a function's lanes compute its rule, and it draws once where it rounds stochastically. -/
theorem functionResults : Obligations.FunctionResults := by
  intro e he x s go
  have done := functions_pend x s e he go
  rwa [drawsOf_rmodeOf] at done

/-! ## Division (R106) -/

/-- R106's quotient and remainder as the rule says them. -/
theorem intDiv_eq (remainder : Bool) (x : Long) (v : LaneIn) :
    intDiv remainder (typeOf x) v.a v.b = division remainder x v := by
  have unchanged : wrapInt (regBits (typeOf x).width) (valueAs (typeOf x) v.a) =
      registerOf (typeOf x) (valueAs (typeOf x) v.a) := by
    show _ = (wrapTo _ (wrapTo _ _) % _).toNat
    rw [wrapTo_wrapTo]
    rfl
  simp only [intDiv, read_eq_valueAs, write_eq_registerOf, unchanged]
  rfl

/-- The signed minimum divided by -1 wraps to itself, and leaves no remainder. -/
theorem division_overflow (remainder : Bool) {x : Long} {v : LaneIn} (wide : x.tN < 4)
    (signed : (intTypeOf x.tN).signed = true) (least : v.a = 2 ^ ((intTypeOf x.tN).width - 1))
    (ones : v.b = 2 ^ (intTypeOf x.tN).width - 1) : division remainder x v = (if remainder then 0 else v.a, 0) := by
  have code : x.tN = 0 ∨ x.tN = 2 := by
    generalize x.tN = t at wide signed
    interval_cases t
    · exact .inl rfl
    · cases signed
    · exact .inr rfl
    · cases signed
  rw [division, least, ones]
  rcases code with word | pair
  · rw [word]
    cases remainder <;> decide
  · rw [pair]
    cases remainder <;> decide

theorem division_pends (remainder : Bool) (x : Long) (s : State)
    (go : Goes (if remainder then .irem x else .idiv x) false s) :
    PendsLate (if remainder then .irem x else .idiv x) (division remainder x) 0 s := by
  cases remainder
  · exact pendsLate_computeLate (fun _ => rfl) ⟨rfl, rfl, nofun, nofun⟩ (fun v => (intDiv_eq false x v).symm) go
  · exact pendsLate_computeLate (fun _ => rfl) ⟨rfl, rfl, nofun, nofun⟩ (fun v => (intDiv_eq true x v).symm) go

/-- Settles O6: a lane's division is the rule's, and its corner case is evaluated at both signed widths. -/
theorem divisionResults : Obligations.DivisionResults := by
  intro remainder x s wide i go
  refine ⟨?_, fun v signed least ones => division_overflow remainder wide signed least ones⟩
  have done := division_pends remainder x s go
  rwa [PendsLate, drawn_zero] at done

end Sys2Proof.Machine
end

section
/-! PROOFS. Integer arithmetic (R86, R87). -/

namespace Sys2Proof.Machine
open Sys2Proof.Safety Sys2Proof.Rules

/-! ## The table of R86 -/

section
variable (x : Long) (v : LaneIn)

theorem imadRule_eq : imadRule x v = (laneInt .mad x v).res := (intArith_eq .mad x v).symm

theorem iclampRule_eq (plain : x.mN / 8 ≠ 1) : iclampRule x v = (laneInt .clamp x v).res :=
  (intArith_unsaturated .clamp plain v).symm
theorem isadRule_eq (plain : x.mN / 8 ≠ 1) : isadRule x v = (laneInt .sad x v).res :=
  (intArith_unsaturated .sad plain v).symm

end

/-- A row that accepts `.sat` completes with its narrowed value. -/
theorem integers_complete (x : Long) (s : State) : ∀ e ∈ integers, Goes (e.1 x) false s →
    Draws (e.1 x) (e.2 x) 0 s := by
  simp only [integers, List.forall_mem_cons, List.not_mem_nil, false_imp_iff, implies_true, and_true]
  and_intros
  all_goals refine draws_compute (fun _ => rfl) ⟨rfl, rfl, nofun, nofun⟩ fun v => ?_
  exacts [iaddRule_eq x v, isubRule_eq x v, imulRule_eq x v, imadRule_eq x v, iabsRule_eq x v, inegRule_eq x v]

/-- A row that does not completes with its wrapped value, its minor bit 12 being zero. -/
theorem orders_complete {x : Long} (plain : x.mN / 8 ≠ 1) (s : State) : ∀ e ∈ orders, Goes (e.1 x) false s →
    Draws (e.1 x) (e.2 x) 0 s := by
  simp only [orders, List.forall_mem_cons, List.not_mem_nil, false_imp_iff, implies_true, and_true]
  and_intros
  all_goals refine draws_compute (fun _ => rfl) ⟨rfl, rfl, nofun, nofun⟩ fun v => ?_
  exacts [iminRule_eq x v plain, imaxRule_eq x v plain, iclampRule_eq x v plain, isadRule_eq x v plain,
    imulhRule_eq x v]

/-! ## Carries (R87) -/

/-- The exact sum or difference of the unsigned sources and the carry-in. -/
def carriedSum (subtract : Bool) (x : Long) (v : LaneIn) : Int :=
  let w := (intTypeOf x.tN).width
  let ci : Int := if x.cN % 8 ≠ 7 ∧ v.pc then 1 else 0
  if subtract then (v.a : Int) % 2 ^ w - (v.b : Int) % 2 ^ w - ci else (v.a : Int) % 2 ^ w + (v.b : Int) % 2 ^ w + ci

/-- The carry or borrow out of an exact sum. -/
def carryOf (subtract : Bool) (x : Long) (n : Int) : Bool :=
  if subtract then n < 0 else 2 ^ (intTypeOf x.tN).width ≤ n

/-- What a lane of IADDC or ISUBB computes. -/
def laneCarry (subtract : Bool) (x : Long) (v : LaneIn) : LaneOut :=
  let r := addCarry subtract (typeOf x).width v.a v.b (x.cN % 8 ≠ 7 && v.pc)
  { value := r.1, carry := r.2 }

theorem laneCarry_eq (subtract : Bool) (x : Long) (v : LaneIn) : laneCarry subtract x v =
    { value := (carriedSum subtract x v % 2 ^ (intTypeOf x.tN).width).toNat
      carry := carryOf subtract x (carriedSum subtract x v) } := by
  cases subtract <;> simp [laneCarry, addCarry, carriedSum, carryOf, wrapInt, typeOf]

/-- The carry-in's predicate, a `q` predicate in a uniform form. -/
theorem predC_carry {cx : Ctx} (carry : cx.sh.c = .carry) :
    predC cx = if cx.uni then 0x200 + cx.x.cN % 8 else cx.x.cN % 8 := by
  rw [predC, if_pos carry]
  cases cx.uni <;> simp

theorem writesCarry_iff {cx : Ctx} (carry : cx.sh.c = .carry) : writesCarry cx = true ↔ cx.x.cN / 8 % 8 ≠ 7 := by
  simp [writesCarry, carry]

/-- A carry-out reaches the predicate of each lane of a vector form. -/
theorem afterLane_carry {cx : Ctx} (dst : cx.sh.dst ≠ .pdst) (carry : cx.sh.c = .carry) (out : Nat → LaneOut) :
    afterLane cx 0 out = fun l v =>
      if cx.x.cN / 8 % 8 = 7 ∨ cx.uni then v
      else laneWithPred cx (cx.x.cN / 8 % 8) (fun l => (out l).carry) l v := by
  funext l v
  simp only [afterLane, dst, if_false, drawn_zero, writesCarry_iff carry, carryCode]
  by_cases discarded : cx.x.cN / 8 % 8 = 7
  · simp [discarded]
  · cases cx.uni <;> simp [discarded, laneWithPred]

/-- And the uniform predicate of a uniform form. -/
theorem afterUniform_carry {cx : Ctx} (dst : cx.sh.dst ≠ .pdst) (carry : cx.sh.c = .carry) (out : Nat → LaneOut) :
    afterUniform cx out = fun w =>
      if cx.x.cN / 8 % 8 = 7 ∨ ¬ cx.uni then w else warpWithPred (0x200 + cx.x.cN / 8 % 8) (out 0).carry w := by
  funext w
  have vector : ¬ 0x200 ≤ cx.x.cN / 8 % 8 := by omega
  simp only [afterUniform, dst, if_false, writesCarry_iff carry, carryCode]
  by_cases discarded : cx.x.cN / 8 % 8 = 7
  · simp [discarded]
  · cases cx.uni <;> simp [discarded, warpWithPred, vector]

/-- A row of the carry layout, whose lanes compute sums or differences with carry. -/
structure IsCarryRow (subtract : Bool) (x : Long) (i : Instr) : Prop where
  effect : ∀ s, Goes i false s → exec i s = .next (lanewise 0 (laneCarry subtract x) (issueCx i s) s)
  fields : ∀ s, (issueCx i s).x = x
  kind   : ∀ s, (issueCx i s).uni = decide (0x200 ≤ (issueCx i s).x.dN)
  dst    : ∀ s, (issueCx i s).sh.dst ≠ .pdst
  carry  : ∀ s, (issueCx i s).sh.c = .carry

theorem isCarryRow (subtract : Bool) (x : Long) :
    IsCarryRow subtract x (if subtract then .isubb x else .iaddc x) := by
  cases subtract
  all_goals exact ⟨fun _ go => congrArg Host.Outcome.next (issueOf_of_goes rfl go), fun _ => rfl, fun _ => rfl,
    fun _ => nofun, fun _ => rfl⟩

theorem IsCarryRow.completes {subtract : Bool} {x : Long} {i : Instr} {s : State} (r : IsCarryRow subtract x i)
    (go : Goes i false s) :
    let cx := issueCx i s
    let sum := fun l => carriedSum subtract x (laneIn cx s l)
    ∃ t, exec i s = .next t ∧
      Completes i s t (fun l => (sum l % 2 ^ (intTypeOf x.tN).width).toNat) 0
        (fun l v => if x.cN / 8 % 8 = 7 ∨ cx.uni then v
          else laneWithPred cx (x.cN / 8 % 8) (fun l => carryOf subtract x (sum l)) l v)
        (fun q => if x.cN / 8 % 8 = 7 ∨ ¬ cx.uni then q
          else warpWithPred (0x200 + x.cN / 8 % 8) (carryOf subtract x (sum 0)) q) := by
  have done := completes_outs (i := i) (s := s) 0 (fun l => laneCarry subtract x (laneIn (issueCx i s) s l))
    (vector_code (r.kind s)) fun h => absurd h (r.dst s)
  dsimp only at done
  simp only [afterLane_carry (r.dst s) (r.carry s), afterUniform_carry (r.dst s) (r.carry s), r.fields,
    laneCarry_eq, foldl_or_zero] at done
  refine ⟨_, r.effect s go, ?_⟩
  simpa only [lanewise, laneOuts, laneCarry_eq] using done

/-- Settles O1: the rows of R86 compute their rules, and IADDC and ISUBB are the rows of the carry layout. -/
theorem integerResults : Obligations.IntegerResults := by
  refine ⟨fun e he x s go minor => ?_, ?_⟩
  · have done : Draws (e.1 x) (e.2 x) 0 s := by
      rcases List.mem_append.1 he with row | row
      · exact integers_complete x s e row go
      · exact orders_complete (by rw [minor row]; decide) s e row go
    rwa [Draws, drawn_zero] at done
  · intro subtract x s i cx w sum carry out go _
    have row := isCarryRow subtract x
    have named : sum = fun l => carriedSum subtract x (laneIn cx s l) := by
      funext l
      show _ = carriedSum subtract x { laneIn cx s l with pc := (s.warp cx.wk).predOf (predC cx) l }
      rw [predC_carry (row.carry s), row.fields s]
      rfl
    simp only [carry, named]
    exact row.completes go

end Sys2Proof.Machine
end

section
/-! PROOFS. Transfers and EXIT (R119 to R121): what a group that moves leaves of its warp and of the rest, and each
instruction by where its lanes go. -/

namespace Sys2Proof.Machine
open Sys2Proof.Safety

/-! ## A warp whose lanes have moved (R369) -/

/-- The report latch of a warp that is still the one before an instruction. -/
theorem unlatched_eq {cx : Ctx} {s : State} {w : Warp} (latch : w.latch = (s.warp cx.wk).latch) :
    s.unlatched cx.pc cx.wk w = { w with latch := latchAfter cx s w } := by
  unfold State.unlatched Warp.unlatch latchAfter
  dsimp only
  rw [← latch]
  cases flight : s.accessAt cx.wk cx.pc
  · by_cases clear : w.latch = some cx.pc ∧ w.heldAt cx.pc = false
    · simp [clear]
    · rw [if_neg Bool.false_ne_true, if_neg (by simpa using clear), if_neg (by simpa using clear)]
  · simp

/-- The lanes of the issuing warp moved after writes of the store alone: the lanes are the moved ones, and beside them
and the words nothing has changed. -/
theorem moved_kept {cx : Ctx} {s t : State} {move : Warp → Warp}
    (stored : t = { s with store := t.store, empty := t.empty, poison := t.poison })
    (only : move (s.warp cx.wk) = { s.warp cx.wk with lanes := (move (s.warp cx.wk)).lanes }) :
    let u := t.modWarp cx.wk (fun w => t.unlatched cx.pc cx.wk (move w))
    (u.warp cx.wk).lanes = (move (s.warp cx.wk)).lanes ∧ WarpKept cx s u 0 ∧
      (u.warp cx.wk).qpreds = (s.warp cx.wk).qpreds ∧ RestKept cx s u := by
  dsimp only
  generalize before : t.modWarp cx.wk (fun w => t.unlatched cx.pc cx.wk (move w)) = u
  have same (k : Nat) : t.warp k = s.warp k := by rw [stored]; rfl
  have access : t.unlatched = s.unlatched := by rw [stored]; rfl
  have latch : (move (s.warp cx.wk)).latch = (s.warp cx.wk).latch := by rw [only]
  have own : u.warp cx.wk = { move (s.warp cx.wk) with latch := latchAfter cx s (move (s.warp cx.wk)) } := by
    rw [← before, warp_modWarp_same, same, access, unlatched_eq latch]
  refine ⟨by rw [own], ?_, by rw [own, only], ⟨fun k other => ?_, fun a => ?_, ?_⟩⟩
  · rw [WarpKept, own, only]
    simp [latchAfter, Warp.heldAt]
  · rw [← before, warp_modWarp_ne _ _ other, same]
  · rw [← before, stored]; rfl
  · rw [← before, stored]; rfl

/-! ## Transfers (R119, R120) -/

/-- The target of a branch as R119 says it. -/
theorem branchTarget_eq (cx : Ctx) : branchTarget cx =
    (((cx.pc.toNat : Int) + ((cx.x.aN + 2 ^ 10 * cx.x.bN + 2 ^ 20 * cx.x.cN : Nat) : Int).bmod (2 ^ 30) * 4) %
      2 ^ 64).toNat := by
  rw [branchTarget, branchOffset, wrapInt, sextNat_eq_bmod]

/-- The active lanes whose targets are no instruction addresses. -/
def wrongLanes (cx : Ctx) (target : Nat → Nat) : LaneMask :=
  maskOf (fun l => cx.act.getLsbD l && badTarget (target l))

/-- The state once a transfer has written its return address, if it links. -/
def afterLink (link : Bool) (cx : Ctx) (s : State) : State :=
  if link then
    s.landAll ((evalLanes cx).flatMap (fun l => landings cx (s.warp cx.wk) cx.x.dN 2 l (cx.pc.toNat + cx.len) false))
  else s

theorem transfer_eq (link : Bool) (target : Ctx → State → Nat → Nat) (cx : Ctx) (s : State) :
    transfer link target cx s =
      if wrongLanes cx (target cx s) = 0 then (afterLink link cx s).moveLanes cx (target cx s)
      else s.raise cx.wk (s.trapOf cx .illegal 0 (wrongLanes cx (target cx s)) 0) := rfl

/-- A group whose active lanes go to their targets, and whose others pass. -/
def movedTo (cx : Ctx) (target : Nat → Nat) (w : Warp) : Warp :=
  (lanesOf cx.act).foldl (fun w l => w.modLane l (fun v => { v with pc := BitVec.ofNat 64 (target l) }))
    (w.modLanes cx.group (passed cx))

theorem moveLanes_eq (cx : Ctx) (target : Nat → Nat) (s : State) : s.moveLanes cx target =
    s.modWarp cx.wk (fun w => s.unlatched cx.pc cx.wk (movedTo cx target w)) := rfl

theorem movedTo_lanes (cx : Ctx) (target : Nat → Nat) (w : Warp) (l : Nat) : (movedTo cx target w).lanes[l]? =
    w.lanes[l]?.map (fun v =>
      let v' := if cx.group.getLsbD l then passed cx v else v
      if cx.act.getLsbD l then { v' with pc := BitVec.ofNat 64 (target l) } else v') := by
  rw [movedTo, foldl_modLane_lanes (fun l v => { v with pc := BitVec.ofNat 64 (target l) }) _ (lanesOf_nodup _),
    lanes_modLanes, Option.map_map]
  simp only [mem_lanesOf, Function.comp_def]

theorem movedTo_only (cx : Ctx) (target : Nat → Nat) (w : Warp) :
    movedTo cx target w = { w with lanes := (movedTo cx target w).lanes } :=
  foldl_modLane_rest (fun l v => { v with pc := BitVec.ofNat 64 (target l) }) (lanesOf cx.act)
    (w.modLanes cx.group (passed cx))

/-- BRA, BRX, CALL, CALLX and RET: what they transfer by, and the pair that a call alone has as its destination. -/
structure IsTransfer (i : Instr) (link : Bool) (target : Ctx → State → Nat → Nat) : Prop where
  effect : ∀ s, Goes i false s → exec i s = .next (transfer link target (issueCx i s) s)
  writes : ∀ s, (issueCx i s).sh.dst.writes (issueCx i s).sh (issueCx i s).x = if link then 2 else 0
  code   : ∀ s, link = true → (issueCx i s).uni = decide (0x200 ≤ (issueCx i s).x.dN)

theorem isTransfer_bra (x : Long) : IsTransfer (.bra x) false (fun cx _ _ => branchTarget cx) :=
  ⟨fun _ go => congrArg Host.Outcome.next (issueOf_of_goes rfl go), fun _ => rfl, fun _ => nofun⟩

theorem isTransfer_brx (x : Long) : IsTransfer (.brx x) false (fun cx s l => s.opA cx l) :=
  ⟨fun _ go => congrArg Host.Outcome.next (issueOf_of_goes rfl go), fun _ => rfl, fun _ => nofun⟩

theorem isTransfer_call (x : Long) : IsTransfer (.call x) true (fun cx _ _ => branchTarget cx) :=
  ⟨fun _ go => congrArg Host.Outcome.next (issueOf_of_goes rfl go), fun _ => rfl, fun _ _ => rfl⟩

theorem isTransfer_callx (x : Long) : IsTransfer (.callx x) true (fun cx s l => s.opA cx l) :=
  ⟨fun _ go => congrArg Host.Outcome.next (issueOf_of_goes rfl go), fun _ => rfl, fun _ _ => rfl⟩

theorem isTransfer_ret (x : Long) : IsTransfer (.ret x) false (fun cx s l => s.opA cx l) :=
  ⟨fun _ go => congrArg Host.Outcome.next (issueOf_of_goes rfl go), fun _ => rfl, fun _ => nofun⟩

section
variable {i : Instr} {link : Bool} {target : Ctx → State → Nat → Nat} {s : State} (row : IsTransfer i link target)
include row

/-- A call's return address stands in its pair, and nothing else has been written (R120). -/
theorem IsTransfer.afterLink_results (s : State) :
    (∀ l ∈ evalLanes (issueCx i s), Holds (afterLink link (issueCx i s) s) (dstOf i s l)
      ((issueCx i s).pc.toNat + (issueCx i s).len)) ∧
    WordsKept s (afterLink link (issueCx i s) s) (dstKeys (issueCx i s) (s.warp (issueCx i s).wk)) := by
  have writes := row.writes s
  cases link with
  | false => exact ⟨fun l _ => by rw [dstOf_wordless writes]; exact holds_nil .., fun _ _ => ⟨rfl, rfl, rfl⟩⟩
  | true =>
    have pair : afterLink true (issueCx i s) s = s.landAll (regLandings (issueCx i s) (s.warp (issueCx i s).wk)
        ((evalLanes (issueCx i s)).map
          (fun l => (l, valOut ((issueCx i s).pc.toNat + (issueCx i s).len))))) := by
      rw [regLandings, List.flatMap_map, writes]
      rfl
    rw [pair]
    exact landAll_results (issueCx i s) s (s.warp (issueCx i s).wk) _ (vector_code (row.code s rfl))

omit row in
theorem afterLink_stored (link : Bool) (cx : Ctx) (s : State) : afterLink link cx s =
    { s with store := (afterLink link cx s).store, empty := (afterLink link cx s).empty
             poison := (afterLink link cx s).poison } := by
  unfold afterLink
  split
  · exact landAll_rest ..
  · rfl

theorem IsTransfer.faults (go : Goes i false s) (wrong : wrongLanes (issueCx i s) (target (issueCx i s) s) ≠ 0) :
    exec i s = .next (s.raise (issueCx i s).wk (s.trapOf (issueCx i s) .illegal 0
      (wrongLanes (issueCx i s) (target (issueCx i s) s)) 0)) := by
  rw [row.effect s go, transfer_eq, if_neg wrong]

theorem IsTransfer.moves (go : Goes i false s) (right : wrongLanes (issueCx i s) (target (issueCx i s) s) = 0) :
    ∃ t, exec i s = .next t ∧
      (∀ l ∈ evalLanes (issueCx i s), Holds t (dstOf i s l) ((issueCx i s).pc.toNat + (issueCx i s).len)) ∧
      WordsKept s t (dstKeys (issueCx i s) (s.warp (issueCx i s).wk)) ∧
      (∀ l v, (s.warp (issueCx i s).wk).lanes[l]? = some v → (t.warp (issueCx i s).wk).lanes[l]? = some (
        let v' := if (issueCx i s).group.getLsbD l then passed (issueCx i s) v else v
        if (issueCx i s).act.getLsbD l then
          { v' with pc := BitVec.ofNat 64 (target (issueCx i s) s l) } else v')) ∧
      WarpKept (issueCx i s) s t 0 ∧
      (t.warp (issueCx i s).wk).qpreds = (s.warp (issueCx i s).wk).qpreds ∧ RestKept (issueCx i s) s t := by
  obtain ⟨results, words⟩ := row.afterLink_results s
  obtain ⟨lanes, warp, qpreds, rest⟩ := moved_kept (cx := issueCx i s) (afterLink_stored link (issueCx i s) s)
    (movedTo_only (issueCx i s) (target (issueCx i s) s) (s.warp (issueCx i s).wk))
  rw [← moveLanes_eq] at lanes warp qpreds rest
  refine ⟨_, ?_, ?_, ?_, fun l v there => ?_, warp, qpreds, rest⟩
  · rw [row.effect s go, transfer_eq, if_pos right]
  · exact results
  · exact words
  · rw [lanes, movedTo_lanes, there]
    rfl

end

/-! ## EXIT (R121) -/

/-- A lane of a group that exits where it is active and passes where it is not. -/
def leftLane (cx : Ctx) (l : Nat) (v : Lane) : Lane :=
  if cx.act.getLsbD l then { v with exited := true, released := false }
  else if cx.group.getLsbD l then passed cx v else v

/-- The warp whose active lanes exit. -/
def leftWarp (cx : Ctx) (w : Warp) : Warp :=
  (w.modLanes cx.act (fun v => { v with exited := true, released := false })).modLanes (cx.group &&& ~~~cx.act)
    (passed cx)

theorem leftWarp_lanes (cx : Ctx) (w : Warp) (l : Nat) :
    (leftWarp cx w).lanes[l]? = w.lanes[l]?.map (leftLane cx l) := by
  rw [leftWarp, lanes_modLanes, lanes_modLanes, Option.map_map]
  congr 1
  funext v
  by_cases low : l < 32
  · have passes : (cx.group &&& ~~~cx.act).getLsbD l = (cx.group.getLsbD l && !cx.act.getLsbD l) := by
      rw [BitVec.getLsbD_and, BitVec.getLsbD_not, decide_eq_true low, Bool.true_and]
    rw [leftLane, Function.comp_apply, passes]
    cases cx.act.getLsbD l <;> simp
  · simp [leftLane, BitVec.getLsbD_of_ge, Nat.not_lt.1 low]

/-- The state once the active lanes have exited, before the berth is given up. -/
def afterExit (cx : Ctx) (s : State) : State :=
  s.modWarp cx.wk (fun w => s.unlatched cx.pc cx.wk (leftWarp cx w))

theorem exitLanes_eq (cx : Ctx) (s : State) : exitLanes cx s = (afterExit cx s).reap cx.wk := by
  simp only [exitLanes, State.advanceLanes, modWarp_modWarp]
  rfl

theorem exec_exit {x : Long} {s : State} (go : Goes (.exit x) false s) :
    exec (.exit x) s = .next ((afterExit (issueCx (.exit x) s) s).reap (issueCx (.exit x) s).wk) := by
  rw [← exitLanes_eq]
  exact congrArg Host.Outcome.next (issueOf_of_goes rfl go)

theorem afterExit_kept (cx : Ctx) (s : State) :
    (∀ l, ((afterExit cx s).warp cx.wk).lanes[l]? = (s.warp cx.wk).lanes[l]?.map (leftLane cx l)) ∧
      WarpKept cx s (afterExit cx s) 0 ∧ RestKept cx s (afterExit cx s) := by
  obtain ⟨lanes, warp, -, rest⟩ := moved_kept (cx := cx) (s := s) (t := s) (move := leftWarp cx) rfl rfl
  exact ⟨fun l => by rw [afterExit, lanes, leftWarp_lanes], warp, rest⟩

theorem ended_iff (w : Warp) :
    w.ended = true ↔ ∀ (l : Nat) (v : Lane), w.lanes[l]? = some v → v.exited = true := by
  rw [Warp.ended, List.all_eq_true]
  exact ⟨fun all l v there => all v (List.mem_of_getElem? there), fun all v mem =>
    have ⟨l, there⟩ := List.mem_iff_getElem?.1 mem
    all l v there⟩

theorem ended_afterExit_iff (cx : Ctx) (s : State) : ((afterExit cx s).warp cx.wk).ended = true ↔
    ∀ l v, (s.warp cx.wk).lanes[l]? = some v → (leftLane cx l v).exited = true := by
  simp only [ended_iff, (afterExit_kept cx s).1, Option.map_eq_some_iff, forall_exists_index, and_imp]
  exact ⟨fun all l v there => all l _ v there rfl, fun all l _ v there eq => eq ▸ all l v there⟩

/-- The end of a block changes no warp. -/
theorem reapBlock_warps (s : State) (b : Nat) : (s.reapBlock b).warps = s.warps := by
  have leave (s : State) (core : Nat) : (s.leaveCore core).warps = s.warps := by
    unfold State.leaveCore
    split <;> rfl
  have settle (s : State) : (s.registry.foldl (fun s e => if e.2.late.isEmpty then s else settleLate e.1 s) s).warps =
      s.warps := by
    have homes := besideHomes_foldl s (fun s (e : Nat × Line) => if e.2.late.isEmpty then s else settleLate e.1 s)
      (fun s e => by
        split
        · rfl
        · exact besideHomes_settleLate ..) s.registry
    exact (congrArg State.warps homes :)
  have retire (s : State) : (s.retire b).warps = s.warps := by
    simp only [State.retire, leave, settle]
    rfl
  simp only [State.reapBlock]
  split
  · split
    · rfl
    · exact retire _
  · rfl

/-- A warp whose lanes have all exited gives its berth up (R121). -/
theorem reap_live {s : State} {wk : Nat} (live : (s.warp wk).live = true) (ended : (s.warp wk).ended = true)
    (sound : (s.warp wk).fault = none) (settled : s.outstanding wk = false) (berth : wk % 128 ≠ handlerBerth) :
    ((s.reap wk).warp wk).live = false := by
  simp only [State.reap, live, ended, sound, settled, berth, Option.isNone_none, Bool.not_false, Bool.and_self, ne_eq,
    not_false_eq_true, decide_true, if_true]
  rw [State.warp, reapBlock_warps]
  exact congrArg Warp.live (warp_setWarp_same ..)

theorem outstanding_afterExit (cx : Ctx) (s : State) : (afterExit cx s).outstanding cx.wk = s.outstanding cx.wk := by
  obtain ⟨-, warp, rest⟩ := afterExit_kept cx s
  have mstat : ((afterExit cx s).warp cx.wk).mstat = (s.warp cx.wk).mstat := by rw [warp]
  simp only [State.outstanding, mstat]
  rfl

theorem exit_goes_on {x : Long} {s : State} (go : Goes (.exit x) false s)
    (left : ∃ l v, (s.warp (issueCx (.exit x) s).wk).lanes[l]? = some v ∧
      (leftLane (issueCx (.exit x) s) l v).exited = false) :
    exec (.exit x) s = .next (afterExit (issueCx (.exit x) s) s) := by
  rw [exec_exit go, reap_of_unended]
  rw [← Bool.not_eq_true, ended_afterExit_iff]
  obtain ⟨l, v, there, stays⟩ := left
  exact fun all => by simp [all l v there] at stays

theorem exit_ends {x : Long} {s : State} (go : Goes (.exit x) false s)
    (all : ∀ l v, (s.warp (issueCx (.exit x) s).wk).lanes[l]? = some v →
      (leftLane (issueCx (.exit x) s) l v).exited = true)
    (settled : s.outstanding (issueCx (.exit x) s).wk = false) (live : (s.warp (issueCx (.exit x) s).wk).live = true)
    (sound : (s.warp (issueCx (.exit x) s).wk).fault = none) (berth : (issueCx (.exit x) s).wk % 128 ≠ 64) :
    ∃ t, exec (.exit x) s = .next t ∧ (t.warp (issueCx (.exit x) s).wk).live = false := by
  obtain ⟨-, warp, -⟩ := afterExit_kept (issueCx (.exit x) s) s
  refine ⟨_, exec_exit go, reap_live ?_ ((ended_afterExit_iff _ s).2 all) ?_ ?_ berth⟩
  · rw [warp]; exact live
  · rw [warp]; exact sound
  · rw [outstanding_afterExit]; exact settled

/-- Settles O12: each transfer by its row, and EXIT by whether a lane is left. -/
theorem transfers : Obligations.Transfers := by
  refine ⟨fun x s i hi go => ?_, fun x s go => ⟨fun left => ?_, fun all settled live sound berth =>
    exit_ends go all settled live sound berth⟩⟩
  · intro cx off target
    obtain ⟨link, rule, row, given⟩ : ∃ link rule, IsTransfer i link rule ∧ target = rule cx s := by
      have branch (fields : cx.x = x) : branchTarget cx = (((cx.pc.toNat : Int) + off * 4) % 2 ^ 64).toNat := by
        rw [branchTarget_eq, fields]
      simp only [List.mem_cons, List.not_mem_nil, or_false] at hi
      rcases hi with rfl | rfl | rfl | rfl | rfl
      · exact ⟨_, _, isTransfer_bra x, funext fun l => (if_pos (.inl rfl)).trans (branch rfl).symm⟩
      · exact ⟨_, _, isTransfer_brx x, funext fun l => if_neg (by simp)⟩
      · exact ⟨_, _, isTransfer_call x, funext fun l => (if_pos (.inr rfl)).trans (branch rfl).symm⟩
      · exact ⟨_, _, isTransfer_callx x, funext fun l => if_neg (by simp)⟩
      · exact ⟨_, _, isTransfer_ret x, funext fun l => if_neg (by simp)⟩
    clear_value target
    subst given
    exact ⟨row.faults go, row.moves go⟩
  · obtain ⟨lanes, warp, rest⟩ := afterExit_kept (issueCx (.exit x) s) s
    refine ⟨_, exit_goes_on go left, fun l v there => ?_, warp, fun _ _ => ⟨rfl, rfl, rfl⟩, rest⟩
    rw [lanes, there]
    rfl

end Sys2Proof.Machine
end

section
/-! PROOFS. YIELD, SLEEP, WAKE and TKWAIT (R111, R123 to R125). -/

namespace Sys2Proof.Machine
open Sys2Proof.Safety

/-! ## What passing a group leaves of a warp -/

/-- Passing a group changes lanes and a report latch alone. -/
theorem advance_warp (s : State) (cx : Ctx) (k : Nat) :
    ∃ ls latch, (s.advance cx).warp k = { s.warp k with lanes := ls, latch := latch } := by
  by_cases own : k = cx.wk
  · subst own
    exact ⟨_, _, (advance_spec s cx).2.2⟩
  · exact ⟨(s.warp k).lanes, (s.warp k).latch, warp_modWarp_ne _ _ own⟩

/-- A change of the issuing warp whose group then passes leaves the rest of the machine. -/
theorem restKept_advance (s : State) (cx : Ctx) (f : Warp → Warp) :
    RestKept cx s ((s.modWarp cx.wk f).advance cx) where
  warps k other := by rw [advance_eq, warp_modWarp_ne _ _ other, warp_modWarp_ne _ _ other]
  memory _ := rfl
  state := rfl

/-! ## YIELD, SLEEP and TKWAIT -/

section
variable {x : Long} {s : State}

theorem exec_yield (go : Goes (.yield x) false s) :
    exec (.yield x) s = .next (yieldWarp (issueCx (.yield x) s) s) :=
  congrArg Host.Outcome.next (issueOf_of_goes rfl go)

theorem exec_sleep (go : Goes (.sleep x) false s) :
    exec (.sleep x) s = .next (sleepWarp (issueCx (.sleep x) s) s) :=
  congrArg Host.Outcome.next (issueOf_of_goes rfl go)

theorem exec_tkwait (go : Goes (.tkwait x) false s) :
    exec (.tkwait x) s = .next (tkwaitLanes (issueCx (.tkwait x) s) s) :=
  congrArg Host.Outcome.next (issueOf_of_goes rfl go)

end

/-- A warp that a SLEEP puts to sleep, or that spends its wake latch instead (R123). -/
def Warp.sleep (limit : DWord) (w : Warp) : Warp :=
  if w.wakeLatch then { w with wakeLatch := false } else { w with asleep := true, sleepTick := limit }

theorem Warp.sleep_lanes (limit : DWord) (w : Warp) : (w.sleep limit).lanes = w.lanes := by
  unfold Warp.sleep
  split <;> rfl

theorem Warp.sleep_of_latch {w : Warp} (set : w.wakeLatch = true) (limit : DWord) :
    w.sleep limit = { w with wakeLatch := false } := if_pos set

theorem Warp.sleep_of_clear {w : Warp} (clear : w.wakeLatch = false) (limit : DWord) :
    w.sleep limit = { w with asleep := true, sleepTick := limit } := if_neg (by simp [clear])

/-- What a SLEEP leaves, whichever it does. -/
theorem sleepWarp_effect (cx : Ctx) (s : State) :
    (∃ ls latch, (sleepWarp cx s).warp cx.wk =
      { (s.warp cx.wk).sleep (BitVec.ofNat 64 (s.opA cx (lowestLane cx.act))) with lanes := ls, latch := latch }) ∧
    LanesPassed cx (s.warp cx.wk) ((sleepWarp cx s).warp cx.wk) (fun _ v => v) ∧
      WordsKept s (sleepWarp cx s) [] ∧ RestKept cx s (sleepWarp cx s) := by
  have run : sleepWarp cx s =
    (s.modWarp cx.wk (Warp.sleep (BitVec.ofNat 64 (s.opA cx (lowestLane cx.act))))).advance cx := rfl
  rw [run]
  refine ⟨?_, lanesPassed_advance ?_, fun _ _ => ⟨rfl, rfl, rfl⟩, restKept_advance ..⟩
  · obtain ⟨ls, latch, own⟩ := advance_warp
      (s.modWarp cx.wk (Warp.sleep (BitVec.ofNat 64 (s.opA cx (lowestLane cx.act))))) cx cx.wk
    rw [warp_modWarp_same] at own
    exact ⟨ls, latch, own⟩
  · rw [warp_modWarp_same, Warp.sleep_lanes]

theorem tickReached_iff (cx : Ctx) (s : State) :
    tickReached cx s = true ↔ ∀ l ∈ lanesOf cx.act, s.opA cx l ≤ s.tick.toNat := by
  simp only [tickReached, List.all_eq_true, decide_eq_true_eq]

/-- Settles O13: YIELD as it stands, SLEEP by the wake latch, and TKWAIT by whether the tick has been reached. -/
theorem yieldAndSleep : Obligations.YieldAndSleep := by
  refine ⟨⟨fun x s go => exec_yield go, fun x s go => ⟨fun clear => ?_, fun set => ?_⟩⟩,
    fun x s go => ⟨fun reached => ?_, fun waits => ?_⟩⟩
  · obtain ⟨⟨ls, latch, own⟩, rest⟩ := sleepWarp_effect (issueCx (.sleep x) s) s
    rw [Warp.sleep_of_clear clear] at own
    exact ⟨_, exec_sleep go, by rw [own], by rw [own], rest⟩
  · obtain ⟨⟨ls, latch, own⟩, rest⟩ := sleepWarp_effect (issueCx (.sleep x) s) s
    rw [Warp.sleep_of_latch set] at own
    exact ⟨_, exec_sleep go, by rw [own], by rw [own], rest⟩
  · rw [exec_tkwait go, tkwaitLanes, if_pos ((tickReached_iff ..).2 reached)]
  · obtain ⟨l, lane, early⟩ := waits
    rw [exec_tkwait go, tkwaitLanes, if_neg]
    exact fun reached => Nat.not_le.2 early ((tickReached_iff ..).1 reached l lane)

/-! ## WAKE (R124) -/

/-- A warp that a WAKE names: it wakes, or keeps the wake in its latch. -/
def Warp.roused (w : Warp) : Warp := if w.asleep then w.wake else { w with wakeLatch := true }

theorem Warp.roused_lanes (w : Warp) : w.roused.lanes = w.lanes := by
  unfold Warp.roused
  split <;> rfl

theorem Warp.roused_of_asleep {w : Warp} (asleep : w.asleep = true) : w.roused = w.wake := if_pos asleep

theorem Warp.roused_of_awake {w : Warp} (awake : w.asleep = false) : w.roused = { w with wakeLatch := true } :=
  if_neg (by simp [awake])

theorem wakeOne_eq (s : State) (k : Nat) : wakeOne s k = s.modWarp k Warp.roused := rfl

/-- The warps of a block that a mask names, in the order of their indices. -/
def namedWarps (s : State) (b m : Nat) : List Nat :=
  (upTo 64).filterMap (fun i => if m.testBit i then s.warpOf b i else none)

theorem mem_namedWarps (s : State) (b m k : Nat) :
    k ∈ namedWarps s b m ↔ ∃ i, i < 64 ∧ m.testBit i = true ∧ s.warpOf b i = some k := by
  simp only [namedWarps, upTo, List.mem_filterMap, List.mem_range, Option.ite_none_right_eq_some]

theorem index_of_warpOf {s : State} {b i k : Nat} (found : s.warpOf b i = some k) : (s.warp k).index = i := by
  simp only [State.warpOf, Option.ite_none_right_eq_some, Bool.and_eq_true, decide_eq_true_eq] at found
  obtain ⟨⟨-, index⟩, key⟩ := found
  exact Option.some.inj key ▸ index

/-- A warp has one index, so a mask names it once. -/
theorem namedWarps_nodup (s : State) (b m : Nat) : (namedWarps s b m).Nodup := by
  refine List.Nodup.filterMap (fun i j k hi hj => ?_) List.nodup_range
  rw [Option.mem_def, Option.ite_none_right_eq_some] at hi hj
  exact (index_of_warpOf hi.2).symm.trans (index_of_warpOf hj.2)

theorem wakeWarps_eq (cx : Ctx) (s : State) : wakeWarps cx s =
    ((namedWarps s (s.warp cx.wk).block
      ((lanesOf cx.act).foldl (fun m l => m ||| s.opA cx l) 0)).foldl wakeOne s).advance cx := by
  rw [wakeWarps, namedWarps, List.foldl_filterMap]
  congr 2
  funext t i
  rw [State.blockKey]
  generalize s.warpOf (s.warp cx.wk).block i = found
  generalize Nat.testBit _ i = named
  cases found with
  | none => cases named <;> rfl
  | some k => cases named <;> rfl

/-- Warps that are woken one after the other: each of them once, and no other. -/
theorem warp_foldl_wakeOne {ks : List Nat} (once : ks.Nodup) (s : State) (k : Nat) :
    (ks.foldl wakeOne s).warp k = if k ∈ ks then (s.warp k).roused else s.warp k := by
  induction ks generalizing s with
  | nil => simp
  | cons j ks ih =>
    obtain ⟨apart, once⟩ := List.nodup_cons.1 once
    rw [List.foldl_cons, ih once, wakeOne_eq]
    by_cases own : k = j
    · subst own
      simp [apart]
    · simp [own, warp_modWarp_ne _ _ own]

theorem foldl_wakeOne_state (ks : List Nat) (s : State) :
    ks.foldl wakeOne s = { s with warps := (ks.foldl wakeOne s).warps } := by
  induction ks generalizing s with
  | nil => rfl
  | cons k ks ih => rw [List.foldl_cons, ih]; rfl

theorem exec_wake {x : Long} {s : State} (go : Goes (.wake x) false s) :
    exec (.wake x) s = .next (wakeWarps (issueCx (.wake x) s) s) :=
  congrArg Host.Outcome.next (issueOf_of_goes rfl go)

/-- Settles O14: the named warps are woken each once, and then the group passes. -/
theorem warpsWake : Obligations.WarpsWake := by
  intro x s go cx b mask named
  refine ⟨_, exec_wake go, ?_⟩
  have member (k : Nat) : named k ↔ k ∈ namedWarps s b mask := (mem_namedWarps s b mask k).symm
  have woken := warp_foldl_wakeOne (namedWarps_nodup s b mask) s
  have state := foldl_wakeOne_state (namedWarps s b mask) s
  have lanes : (((namedWarps s b mask).foldl wakeOne s).warp cx.wk).lanes = (s.warp cx.wk).lanes := by
    rw [woken]
    split
    · exact Warp.roused_lanes _
    · rfl
  rw [show wakeWarps (issueCx (.wake x) s) s = _ from wakeWarps_eq cx s]
  generalize (namedWarps s b mask).foldl wakeOne s = u at woken state lanes
  have roused {k : Nat} (name : named k) :
      ∃ ls latch, (u.advance cx).warp k = { (s.warp k).roused with lanes := ls, latch := latch } := by
    obtain ⟨ls, latch, own⟩ := advance_warp u cx k
    rw [woken, if_pos ((member k).1 name)] at own
    exact ⟨ls, latch, own⟩
  refine ⟨fun k name asleep => ?_, fun k name awake => ?_, fun k other apart => ?_, lanesPassed_advance lanes,
    fun _ _ => ?_, fun _ => ?_, ?_⟩
  · obtain ⟨ls, latch, own⟩ := roused name
    rw [own, Warp.roused_of_asleep asleep]
    exact ⟨rfl, rfl, rfl⟩
  · obtain ⟨ls, latch, own⟩ := roused name
    rw [own, Warp.roused_of_awake awake]
    exact ⟨awake, rfl⟩
  · rw [advance_eq, warp_modWarp_ne _ _ other, woken, if_neg fun mem => apart ((member k).2 mem)]
  · rw [state]; exact ⟨rfl, rfl, rfl⟩
  · rw [state]; rfl
  · rw [state]; rfl

end Sys2Proof.Machine
end

section
/-! PROOFS. SHFL (R127, R129). -/

namespace Sys2Proof.Machine
open Sys2Proof.Safety

/-- The source lane of SHFL as R129's table gives it, with offset d and tiles of n lanes. -/
def shuffledFrom (mode n d l : Nat) : Int :=
  match mode with
  | 0 => ((l / n * n + d % n : Nat) : Int)
  | 1 => (l : Int) - d
  | 2 => (l : Int) + d
  | _ => ((l / n * n + ((l - l / n * n) ^^^ (d % n)) : Nat) : Int)

/-- The model's source lane is R129's, where that is a lane at all. -/
theorem shflSource_eq (w : Warp) (mode d l : Nat) : shflSource w mode d l =
    if 0 ≤ shuffledFrom mode (2 ^ w.part) d l then some (shuffledFrom mode (2 ^ w.part) d l).toNat else none := by
  match mode with
  | 0 | 2 | _ + 3 =>
    simp only [shflSource, shuffledFrom, tileBase_eq, tileSize]
    rw [if_pos (by positivity)]
    rfl
  | 1 =>
    simp only [shflSource, shuffledFrom, Int.sub_nonneg, Nat.cast_le]
    split <;> simp

theorem contains_members (cx : Ctx) (w : Warp) (l j : Nat) : (members cx w l).contains j = true ↔
    cx.act.getLsbD j = true ∧ j / 2 ^ w.part = l / 2 ^ w.part := by
  rw [List.contains_iff_mem, members, List.mem_filter, mem_lanesOf, decide_eq_true_eq, tileBase_eq_iff]

/-- What SHFL delivers to a lane (R129). -/
def shuffled (cx : Ctx) (s : State) (l : Nat) : Nat :=
  let w := s.warp cx.wk
  match shflSource w cx.x.mN (s.opB cx l % 32) l with
  | some j => if (members cx w l).contains j then s.opA cx j else s.opC cx l
  | none => s.opC cx l

theorem shuffled_eq (cx : Ctx) (s : State) (l : Nat) : shuffled cx s l =
    let n := 2 ^ (s.warp cx.wk).part
    let source := shuffledFrom cx.x.mN n (s.opB cx l % 32) l
    if 0 ≤ source ∧ cx.act.getLsbD source.toNat ∧ source.toNat / n = l / n then s.opA cx source.toNat
    else s.opC cx l := by
  simp only [shuffled, shflSource_eq]
  by_cases lane : 0 ≤ shuffledFrom cx.x.mN (2 ^ (s.warp cx.wk).part) (s.opB cx l % 32) l
  · simp only [lane, if_true, true_and, contains_members]
  · simp only [lane, if_false, false_and]

theorem exec_shfl {x : Long} {s : State} (go : Goes (.shfl x) false s) :
    exec (.shfl x) s = .next (shflLanes (issueCx (.shfl x) s) s) :=
  congrArg Host.Outcome.next (issueOf_of_goes rfl go)

theorem produce_modWarp (s : State) (cx : Ctx) (k : Nat) (f : Warp → Warp) (kind : ProdKind) (after : Nat)
    (xs : List Landing) (flags : FlagMask) (arg arg2 : Nat) :
    (s.modWarp k f).produce cx kind after xs flags arg arg2 =
      (s.produce cx kind after xs flags arg arg2).modWarp k f := rfl

theorem shfl_pends (x : Long) (s : State) :
    Pends (.shfl x) s (shflLanes (issueCx (.shfl x) s) s) .shfl 4 (shuffled (issueCx (.shfl x) s) s) 0
      (fun _ v => v) := by
  have pends := pends_of_produced (i := .shfl x) (s := s) (fw := id) (change := fun _ v => v)
    (g := fun l => valOut (shuffled (issueCx (.shfl x) s) s l)) .shfl 4 0 (fun _ _ => valOut_value _) (by simp) rfl rfl
  rwa [produce_modWarp, advance_modWarp_id] at pends

/-- Settles O18: SHFL is a producer, and its source lanes are those of R129's table. -/
theorem shuffleResults : Obligations.ShuffleResults := by
  intro x s go cx n source
  refine ⟨_, exec_shfl go, ?_⟩
  have value := funext (shuffled_eq cx s)
  have pends := shfl_pends x s
  rw [show shuffled (issueCx (.shfl x) s) s = _ from value] at pends
  exact pends

end Sys2Proof.Machine
end

section
/-! PROOFS. Events of warps (R115, R123, R365, R367, R372, R374): the release of a `.join`, the watchdog, the debug
halt, the end of a sleep, and the entry into the handler. -/

namespace Sys2Proof.Machine
open Sys2Proof.Safety

/-! ## Masks and lanes -/

/-- Distinct powers of two add up to the number with those bits. -/
theorem foldl_bits (f : Nat → Bool) (n : Nat) :
    let m := (List.range n).foldl (fun acc l => if f l then acc + 2 ^ l else acc) 0
    m < 2 ^ n ∧ ∀ l, m.testBit l = (decide (l < n) && f l) := by
  induction n with
  | zero => simp
  | succ n ih =>
    obtain ⟨bound, bits⟩ := ih
    simp only [List.range_succ, List.foldl_append, List.foldl_cons, List.foldl_nil]
    generalize (List.range n).foldl (fun acc l => if f l then acc + 2 ^ l else acc) 0 = m at bound bits
    refine ⟨by rw [Nat.pow_succ]; split <;> omega, fun l => ?_⟩
    rcases Nat.lt_trichotomy l n with below | rfl | above
    · have step : (if f n then m + 2 ^ n else m).testBit l = m.testBit l := by
        split
        · rw [Nat.add_comm, Nat.testBit_two_pow_add_gt below]
        · rfl
      rw [step, bits]
      simp [below, Nat.lt_succ_of_lt below]
    · cases h : f l with
      | false => simp [bits, h]
      | true => simp [Nat.add_comm m, Nat.testBit_two_pow_add_eq, bits, h]
    · have step : (if f n then m + 2 ^ n else m) < 2 ^ l := by
        have power := Nat.pow_le_pow_right (n := 2) (by decide) above
        rw [Nat.pow_succ] at power
        split <;> omega
      rw [Nat.testBit_lt_two_pow step]
      simp [show ¬ l < n + 1 by omega]

theorem getLsbD_maskOf (f : Nat → Bool) {l : Nat} (low : l < 32) : (maskOf f).getLsbD l = f l := by
  have range : laneNumbers = List.range 32 := rfl
  rw [maskOf, range, BitVec.getLsbD_ofNat, (foldl_bits f 32).2]
  simp [low]

theorem mem_liveLanes (w : Warp) (l : Nat) : l ∈ w.liveLanes ↔ l < 32 ∧ (w.lane l).exited = false := by
  have range : laneNumbers = List.range 32 := rfl
  rw [Warp.liveLanes, range, List.mem_filter, List.mem_range, Bool.not_eq_true']

theorem lane_of_getElem? {w : Warp} {l : Nat} {v : Lane} (there : w.lanes[l]? = some v) : w.lane l = v := by
  rw [Warp.lane, lget_eq, there, Option.getD_some]

/-! ## The release of a `.join` (R115) -/

theorem le_foldl_min {ls : List Nat} (f : Nat → Nat) (a c : Nat) :
    c ≤ ls.foldl (fun m l => min m (f l)) a ↔ c ≤ a ∧ ∀ l ∈ ls, c ≤ f l := by
  induction ls generalizing a with
  | nil => simp
  | cons l ls ih => rw [List.foldl_cons, ih, le_min_iff, List.forall_mem_cons, and_assoc]

/-- The least value of a list from its head on: what has it is below all others. -/
theorem eq_foldl_min_iff {ls : List Nat} (f : Nat → Nat) {l : Nat} (mem : l ∈ ls) :
    f l = ls.foldl (fun m l => min m (f l)) (f (ls.headD 0)) ↔ ∀ j ∈ ls, f l ≤ f j := by
  have head : ls.headD 0 ∈ ls := by
    cases ls with
    | nil => cases mem
    | cons a ls => exact List.mem_cons_self ..
  have least := (le_foldl_min (ls := ls) f (f (ls.headD 0)) _).1 le_rfl
  rw [le_antisymm_iff, le_foldl_min]
  exact ⟨fun ⟨⟨_, all⟩, _⟩ => all, fun all => ⟨⟨all _ head, all⟩, least.2 l mem⟩⟩

/-- Every live lane of a warp is held at a `.join`, and there is one. -/
def AllHeld (s : State) (wk : Nat) : Prop :=
  (s.warp wk).live = true ∧ (∃ l, l < 32 ∧ ((s.warp wk).lane l).exited = false) ∧
    ∀ l, l < 32 ∧ ((s.warp wk).lane l).exited = false →
      ((s.warp wk).lane l).released = false ∧ joinAt s wk ((s.warp wk).lane l).pc = true

/-- Lanes at the lowest PC of a warp's live lanes. -/
def lowestLanes (w : Warp) : LaneMask :=
  maskOf (fun l => w.liveLanes.contains l && (w.lane l).pc.toNat =
    w.liveLanes.foldl (fun m l => min m (w.lane l).pc.toNat) (w.lane (w.liveLanes.headD 0)).pc.toNat)

theorem getLsbD_lowestLanes (w : Warp) {l : Nat} (low : l < 32) : (lowestLanes w).getLsbD l = true ↔
    (w.lane l).exited = false ∧ ∀ j ∈ List.range 32, (w.lane j).exited = false →
      (w.lane l).pc.toNat ≤ (w.lane j).pc.toNat := by
  rw [lowestLanes, getLsbD_maskOf _ low, Bool.and_eq_true, List.contains_iff_mem, decide_eq_true_eq]
  have least := fun mem : l ∈ w.liveLanes => eq_foldl_min_iff (fun j => (w.lane j).pc.toNat) mem
  refine (and_congr_right least).trans ?_
  simp only [mem_liveLanes, low, true_and, List.mem_range, and_imp]

theorem heldAtJoin_iff {s : State} {wk l : Nat} (stays : ((s.warp wk).lane l).exited = false) :
    heldAtJoin s wk l = true ↔
      ((s.warp wk).lane l).released = false ∧ joinAt s wk ((s.warp wk).lane l).pc = true := by
  simp [heldAtJoin, stays]

theorem joinRelease_eq (wk : Nat) (s : State) : joinRelease wk s =
    if !(s.warp wk).live || (s.warp wk).liveLanes.isEmpty || !(s.warp wk).liveLanes.all (heldAtJoin s wk) then s
    else s.setWarp wk ((s.warp wk).modLanes (lowestLanes (s.warp wk)) (fun v => { v with released := true })) := rfl

theorem joinRelease_guard (s : State) (wk : Nat) : (!(s.warp wk).live || (s.warp wk).liveLanes.isEmpty ||
    !(s.warp wk).liveLanes.all (heldAtJoin s wk)) = false ↔ AllHeld s wk := by
  simp only [Bool.or_eq_false_iff, Bool.not_eq_false', List.isEmpty_eq_false_iff_exists_mem, List.all_eq_true,
    mem_liveLanes, and_assoc, AllHeld]
  refine and_congr_right fun _ => and_congr_right fun _ => forall_congr' fun l => ?_
  exact imp_congr_right fun live => heldAtJoin_iff live.2

theorem exec_joinRelease {s : State} {wk : Nat} (now : s.now = .joinRelease wk) :
    exec .joinRelease s = .next (joinRelease wk s) := by
  show execJoinRelease s = _
  rw [execJoinRelease, now]

theorem exec_joinRelease_waits {s : State} {wk : Nat} (now : s.now = .joinRelease wk) (waits : ¬ AllHeld s wk) :
    exec .joinRelease s = .next s := by
  rw [exec_joinRelease now, joinRelease_eq, if_pos]
  rwa [← joinRelease_guard, Bool.not_eq_false] at waits

theorem exec_joinRelease_releases {s : State} {wk : Nat} (now : s.now = .joinRelease wk) (held : AllHeld s wk) :
    exec .joinRelease s = .next (s.setWarp wk ((s.warp wk).modLanes (lowestLanes (s.warp wk))
      (fun v => { v with released := true }))) := by
  rw [exec_joinRelease now, joinRelease_eq, if_neg]
  rw [(joinRelease_guard s wk).2 held]
  exact Bool.false_ne_true

/-- A lane of a warp whose lowest lanes are released. -/
theorem released_lane {w : Warp} {l : Nat} {v : Lane} (low : l < 32) (there : w.lanes[l]? = some v) :
    (w.modLanes (lowestLanes w) (fun v => { v with released := true })).lanes[l]? = some { v with
      released := v.released || (!v.exited && decide (∀ j ∈ List.range 32, (w.lane j).exited = false →
        v.pc.toNat ≤ (w.lane j).pc.toNat)) } := by
  have chosen := getLsbD_lowestLanes w low
  rw [lane_of_getElem? there] at chosen
  have bit : (lowestLanes w).getLsbD l = (!v.exited && decide (∀ j ∈ List.range 32, (w.lane j).exited = false →
      v.pc.toNat ≤ (w.lane j).pc.toNat)) := by
    rw [Bool.eq_iff_iff, chosen, Bool.and_eq_true, Bool.not_eq_true', decide_eq_true_eq]
  rw [lanes_modLanes, there, Option.map_some, bit]
  generalize (!v.exited && decide (∀ j ∈ List.range 32, (w.lane j).exited = false →
    v.pc.toNat ≤ (w.lane j).pc.toNat)) = b
  cases b
  · simp
  · simp

/-! ## The watchdog (R374) -/

/-- A warp that the watchdog stops (R374). -/
def Overdue (s : State) (wk : Nat) : Prop :=
  (s.warp wk).live = true ∧ (s.warp wk).ended = false ∧ (s.warp wk).stopped = false ∧ (s.warp wk).fault = none ∧
    (s.block (s.warp wk).block).wdog ≠ 0 ∧ (s.block (s.warp wk).block).wdog * 1024 ≤ (s.warp wk).idle ∧
    wk % 128 ≠ 64 ∧ s.tileOpen wk = false

theorem watchdog_guard (s : State) (wk : Nat) : (!(s.warp wk).live || (s.warp wk).ended || (s.warp wk).stopped ||
    (s.warp wk).fault.isSome || (s.block (s.warp wk).block).wdog = 0 ||
    decide ((s.warp wk).idle < (s.block (s.warp wk).block).wdog * 1024) || wk % 128 = handlerBerth ||
    s.tileOpen wk) = false ↔ Overdue s wk := by
  simp only [Bool.or_eq_false_iff, Bool.not_eq_false', Option.isSome_eq_false_iff, Option.isNone_iff_eq_none,
    decide_eq_false_iff_not, Nat.not_lt, and_assoc, Overdue, ne_eq]
  exact Iff.rfl

/-- The watchdog's fault: every live lane, apart from an issue (R365, R374). -/
def IsWatchdogFault (w : Warp) (f : Trap) : Prop :=
  f.cause = .watchdog ∧ f.apart = true ∧ ∀ l, l < 32 → (f.lanes.getLsbD l = true ↔ (w.lane l).exited = false)

theorem watchdog_raises {s : State} {wk : Nat} (overdue : Overdue s wk) :
    ∃ f, watchdog wk s = s.raise wk f ∧ IsWatchdogFault (s.warp wk) f := by
  have guard := (watchdog_guard s wk).2 overdue
  refine ⟨_, if_neg (by rw [guard]; exact Bool.false_ne_true), rfl, rfl, fun l low => ?_⟩
  rw [getLsbD_maskOf _ low, Bool.not_eq_true']

theorem exec_watchdog {s : State} {wk : Nat} (now : s.now = .watchdog wk) :
    exec .watchdog s = .next (watchdog wk s) := by
  show execWatchdog s = _
  rw [execWatchdog, now]

theorem watchdog_waits {s : State} {wk : Nat} (early : ¬ Overdue s wk) : watchdog wk s = s := by
  rw [← watchdog_guard, Bool.not_eq_false] at early
  exact if_pos early

/-! ## The debug halt (R372) -/

theorem exec_debugHalt {s : State} {wk : Nat} (now : s.now = .debugHalt wk) :
    exec .debugHalt s = .next (debugHalt wk s) := by
  show execDebugHalt s = _
  rw [execDebugHalt, now]

theorem debugHalt_halts {s : State} {wk n : Nat} (own : s.cur.core * 128 + s.cur.berth = wk)
    (found : breakpointAt s wk s.cur.pc = some n) (routed : (s.sysreg 0x1C8).getLsbD (4 + n) = true) :
    debugHalt wk s = s.halt 1 n s.cur.core (s.warp wk).index s.cur.lanes s.cur.pc wk := by
  simp only [debugHalt, warpKey, own, found, routed, ne_eq, not_true_eq_false, if_false, if_true]

/-- With no breakpoint routed to the debug halt nothing halts. -/
theorem debugHalt_unrouted {s : State} (off : s.sysreg 0x1C8 = 0) (wk : Nat) : debugHalt wk s = s := by
  simp only [debugHalt, off]
  split
  · rfl
  · split
    · rfl
    · simp

/-- What a halt leaves in the debug registers (R372, R388). -/
theorem halt_registers (s : State) (reason num core warp : Nat) (lanes : LaneMask) (pc : DWord) (wk : Nat) :
    (s.halt reason num core warp lanes pc wk).sysreg 0x1CA = pc ∧
    (s.halt reason num core warp lanes pc wk).sysreg 0x1CB = s.tick ∧
    ((s.halt reason num core warp lanes pc wk).sysreg 0x1D0).getLsbD 60 = true := by
  obtain ⟨v, r, eq⟩ : ∃ v r, s.halt reason num core warp lanes pc wk =
      { (((s.setSysreg 0x1C9 v).setSysreg 0x1CA pc).setSysreg 0x1CB s.tick).setSysreg 0x1D0
        (r ||| BitVec.ofNat 64 (2 ^ 60)) with stopped := true, haltWarp := some wk } := ⟨_, _, rfl⟩
  have kept {t : State} {x : DWord} {m : Nat} (ne : m ≠ 0x1D0) : (t.setSysreg 0x1D0 x).sysreg m = t.sysreg m :=
    sysreg_setSysreg_ne _ _ ne
  have registers (m : Nat) := sysreg_of_sysregs (congrArg State.sysregs eq) m
  refine ⟨?_, ?_, ?_⟩
  · exact (registers _).trans ((kept (by decide)).trans
      ((sysreg_setSysreg_ne _ _ (by decide)).trans (sysreg_setSysreg_same ..)))
  · exact (registers _).trans ((kept (by decide)).trans (sysreg_setSysreg_same ..))
  · rw [(registers _).trans (sysreg_setSysreg_same ..), BitVec.getLsbD_or]
    simp

/-- A halt changes registers of the debug unit alone: no warp, no word of a store and no memory. -/
theorem halt_kept (s : State) (reason num core warp : Nat) (lanes : LaneMask) (pc : DWord) (wk : Nat) :
    (s.halt reason num core warp lanes pc wk).warps = s.warps ∧
    (s.halt reason num core warp lanes pc wk).store = s.store ∧
    (s.halt reason num core warp lanes pc wk).mem = s.mem := by
  simp only [State.halt, State.setSysreg_warps, State.setSysreg_store, State.setSysreg_mem, and_self]

/-! ## The end of a sleep (R123) -/

theorem exec_sleepLimitExpiry {s : State} {wk : Nat} (now : s.now = .sleepLimitExpiry wk) :
    exec .sleepLimitExpiry s = .next (sleepLimit wk s) := by
  show execSleepLimitExpiry s = _
  rw [execSleepLimitExpiry, now]

/-- A warp sleeps whose limit the tick has reached. -/
def SleptOut (s : State) (wk : Nat) : Prop :=
  (s.warp wk).live = true ∧ (s.warp wk).asleep = true ∧ (s.warp wk).sleepTick ≠ 0 ∧
    (s.warp wk).sleepTick.toNat ≤ s.tick.toNat

theorem sleepLimit_guard (s : State) (wk : Nat) : ((s.warp wk).live && (s.warp wk).asleep &&
    (s.warp wk).sleepTick ≠ 0 && decide ((s.warp wk).sleepTick.toNat ≤ s.tick.toNat)) = true ↔ SleptOut s wk := by
  simp only [Bool.and_eq_true, decide_eq_true_eq, and_assoc, SleptOut]

theorem sleepLimit_waits {s : State} {wk : Nat} (early : ¬ SleptOut s wk) : sleepLimit wk s = s :=
  if_neg (mt (sleepLimit_guard s wk).1 early)

theorem sleepLimit_wakes {s : State} {wk : Nat} (out : SleptOut s wk) :
    sleepLimit wk s = s.setWarp wk (s.warp wk).wake :=
  if_pos ((sleepLimit_guard s wk).2 out)

/-! ## Entry into the handler (R366, R367) -/

theorem exec_trapEntry {s : State} {core : Nat} (now : s.now = .trapEntry core) :
    exec .trapEntry s = .next (s.tryEntry core) := by
  show execTrapEntry s = _
  rw [execTrapEntry, now]

theorem tryEntry_waits {s : State} {core : Nat} (busy : (s.core core).serving ≠ none ∨ s.waiting core = none)
    (halted : Bool) : s.tryEntry core halted = s := by
  unfold State.tryEntry
  split
  · rcases busy with busy | none
    · exact absurd ‹_› busy
    · simp_all
  · rfl

/-- An idle window takes the waiting fault of a context with a handler, unless the entry halts. -/
theorem tryEntry_enters {s : State} {core berth : Nat} {f : Trap} (idle : (s.core core).serving = none)
    (next : s.waiting core = some (berth, f)) (unrouted : (s.sysreg 0x1C8).getLsbD 8 = false)
    (present : (s.hvec (s.block (s.warp (warpKey core berth)).block).ctx).getLsbD 63 = true) (halted : Bool) :
    s.tryEntry core halted = s.enterHandler core berth f := by
  simp only [State.tryEntry, idle, next, unrouted, present, Bool.false_and, Bool.false_eq_true, if_false, if_true]

/-- The core whose window has been entered serves the berth and holds the fault's report (R38, R363). -/
theorem enterHandler_core (s : State) (core berth : Nat) (f : Trap) :
    ((s.enterHandler core berth f).core core).serving = some berth ∧
    ((s.enterHandler core berth f).core core).trapa = f.trapa ∧
    ((s.enterHandler core berth f).core core).trapp = f.pc := by
  simp only [State.enterHandler]
  rw [landAll_rest]
  simp only [State.core, State.setWarp_cores, State.setCore_cores, tget_tput_same, and_self]

theorem enterHandler_window (s : State) (core berth : Nat) (f : Trap) :
    ((s.enterHandler core berth f).warp (windowKey core)).live = true := by
  simp only [State.enterHandler, landAll_warp, warp_setWarp_same]
  rfl

theorem trapa_toNat (f : Trap) : f.trapa.toNat = f.addr.toNat % 2 ^ 57 := by
  simp only [Trap.trapa, bitsOf, BitVec.toNat_ofNat]
  omega

/-- Settles O48: each event by its guard. -/
theorem warpEvents : Obligations.WarpEvents := by
  intro s wk w
  refine ⟨fun now => ⟨exec_joinRelease_waits now, fun held => ?release⟩, fun now => ?watchdog,
    fun n now own found routed => ?halt, fun now off => ?unrouted, fun now => ?sleep, fun core now => ?entry⟩
  case release =>
    refine ⟨_, exec_joinRelease_releases now held, fun k other => warp_setWarp_ne _ _ other, rfl,
      fun l v low there => ?_⟩
    rw [warp_setWarp_same]
    exact released_lane low there
  case watchdog =>
    rw [exec_watchdog now]
    refine ⟨fun early => by rw [watchdog_waits early], fun overdue => ?_⟩
    obtain ⟨f, raised, fault⟩ := watchdog_raises overdue
    exact ⟨f, by rw [raised], fault⟩
  case halt =>
    rw [exec_debugHalt now, debugHalt_halts own found routed]
    obtain ⟨pc, tick, stop⟩ := halt_registers s 1 n s.cur.core (s.warp wk).index s.cur.lanes s.cur.pc wk
    exact ⟨_, rfl, rfl, rfl, pc, tick, stop, halt_kept ..⟩
  case unrouted => rw [exec_debugHalt now, debugHalt_unrouted off]
  case sleep =>
    rw [exec_sleepLimitExpiry now]
    refine ⟨fun early => by rw [sleepLimit_waits early], fun out => ?_⟩
    rw [sleepLimit_wakes out]
    exact ⟨_, rfl, warp_setWarp_same .., fun k other => warp_setWarp_ne _ _ other⟩
  case entry =>
    rw [exec_trapEntry now]
    refine ⟨fun busy => by rw [tryEntry_waits busy], fun berth f idle next unrouted present => ?_⟩
    rw [tryEntry_enters idle next unrouted present]
    obtain ⟨serving, trapa, trapp⟩ := enterHandler_core s core berth f
    exact ⟨_, rfl, serving, by rw [trapa, trapa_toNat], trapp, enterHandler_window ..⟩

end Sys2Proof.Machine
end

section
/-! PROOFS. Registers that the host writes by events of their own (R156, R176, R177, R290, R308, R316, R359, R361, R386). -/

namespace Sys2Proof.Machine
open Sys2Proof.Safety Sys2Proof.Rules

/-! ## Fields of a register -/

theorem testBit_bitsOf (v : DWord) (lo n j : Nat) :
    (bitsOf v lo n).testBit j = (decide (j < n) && v.getLsbD (lo + j)) := by
  rw [bitsOf, Nat.testBit_mod_two_pow, Nat.testBit_div_two_pow, Nat.add_comm, BitVec.getLsbD]

/-- A field is its bits. -/
theorem bitsOf_congr {v w : DWord} {lo n : Nat} (bits : ∀ j, j < n → v.getLsbD (lo + j) = w.getLsbD (lo + j)) :
    bitsOf v lo n = bitsOf w lo n := by
  refine Nat.eq_of_testBit_eq fun j => ?_
  rw [testBit_bitsOf, testBit_bitsOf]
  by_cases low : j < n
  · rw [bits j low]
  · simp [low]

/-- A field that a mask holds whole is the new value's. -/
theorem bitsOf_mergeMask_new {m lo n : Nat} (within : lo + n ≤ 64) (mask : ∀ j, j < n → m.testBit (lo + j) = true)
    (old new : DWord) : bitsOf (mergeMask m old new) lo n = bitsOf new lo n :=
  bitsOf_congr fun j low => by rw [getLsbD_mergeMask _ _ _ (by omega), if_pos (mask j low)]

/-- A field of which a mask holds nothing is the old value's. -/
theorem bitsOf_mergeMask_old {m lo n : Nat} (within : lo + n ≤ 64) (mask : ∀ j, j < n → m.testBit (lo + j) = false)
    (old new : DWord) : bitsOf (mergeMask m old new) lo n = bitsOf old lo n :=
  bitsOf_congr fun j low => by rw [getLsbD_mergeMask _ _ _ (by omega), mask j low]; rfl

/-! ## The event and its write -/

/-- The register and the value that an event of the host writes. -/
def writtenBy : Event → Option (Nat × DWord)
  | .mtkcfgWrite die v => some (0x150 + die % 4, v)
  | .xlrootWrite ctx v => some (0x178 + ctx % 8, v)
  | .xlinvPage v => some (0x188, withKind 0 v)
  | .xlinvContext v => some (0x188, withKind 1 v)
  | .xlinvAll v => some (0x188, withKind 2 v)
  | .rpctlWrite v => some (0x198, v)
  | .trctlWrite v => some (0x1A0, v)
  | .elctlWrite v => some (0x1A8, v)
  | .tkctlStep v => some (0x190, v ||| BitVec.ofNat 64 (2 ^ 62))
  | .biasFlipToHost v => some (0x160, withDir true v)
  | .biasFlipToDevice v => some (0x160, withDir false v)
  | .systemRegisterWrite n v => some (n, v)
  | _ => none

section
variable {s : State} {e : Event} {n : Nat} {v : DWord}

theorem exec_of_written (write : writtenBy e = some (n, v)) (now : s.now = e) :
    exec e.row s = .next (hostWrite n v s) := by
  have stands : s = { s with now := e } := by rw [← now]
  rw [stands]
  unfold writtenBy at write
  split at write
  all_goals cases write
  all_goals rfl

theorem exec_of_unmanaged (write : writtenBy e = some (n, v)) (shut : managed s = false) (now : s.now = e) :
    exec e.row s = .next s := by
  rw [exec_of_written write now, hostWrite, shut]
  rfl

theorem exec_of_managed (write : writtenBy e = some (n, v)) (may : managed s = true) (now : s.now = e) :
    exec e.row s = .next (sysWrite true n v s) := by
  rw [exec_of_written write now, hostWrite, if_pos may]

end

/-! ## Invalidations (R315, R316) -/

theorem bitsOf_withKind {k : Nat} (known : k < 4) (v : DWord) : bitsOf (withKind k v) 61 2 = k := by
  rw [withKind, bitsOf_mergeMask_new (by decide) (by decide)]
  interval_cases k <;> decide

theorem bitsOf_withKind_other {lo n : Nat} (below : lo + n ≤ 61) (k : Nat) (v : DWord) :
    bitsOf (withKind k v) lo n = bitsOf v lo n := by
  refine bitsOf_mergeMask_old (by omega) (fun j low => ?_) _ _
  rw [show bitsMask 61 2 = 3 * 2 ^ 61 from rfl, Nat.testBit_mul_two_pow]
  simp only [Bool.and_eq_false_iff, decide_eq_false_iff_not]
  omega

/-- What an XLINV that is accepted leaves in its register, and the memory that it leaves alone. -/
theorem writeXlinv_register {v : DWord} {s : State} (idle : (s.sysreg 0x188).getLsbD 63 = false) (kind : bitsOf v 61 2 ≠ 3) :
    bitsOf ((writeXlinv v s).sysreg 0x188) 61 2 = bitsOf v 61 2 ∧ (writeXlinv v s).mem = s.mem := by
  have accepted : ((s.sysreg 0x188).getLsbD 63 || decide (bitsOf v 61 2 = 3)) = false := by
    rw [idle, decide_eq_false kind]
    rfl
  simp only [writeXlinv, accepted, Bool.false_eq_true, if_false, Function.comp]
  refine ⟨?_, rfl⟩
  refine (congrArg (fun w => bitsOf w 61 2) (sysreg_setSysreg_same ..)).trans ?_
  have taken : ∀ j < 2, (bitsMask 58 5 + bitsMask 16 41).testBit (61 + j) = true ∧
    (BitVec.ofNat 64 (2 ^ 63)).getLsbD (61 + j) = false := by decide
  refine bitsOf_congr fun j low => ?_
  rw [BitVec.getLsbD_or, getLsbD_mergeMask _ _ _ (by omega), if_pos (taken j low).1, (taken j low).2, Bool.false_or]

/-- The kinds of invalidation, each by its event. -/
def invalidations (v : DWord) : List (Nat × Event) := [(0, .xlinvPage v), (1, .xlinvContext v), (2, .xlinvAll v)]

theorem written_invalidation {v : DWord} : ∀ x ∈ invalidations v,
    writtenBy x.2 = some (0x188, withKind x.1 v) ∧ x.1 < 3 := by simp [invalidations, writtenBy]

/-- No translation that an invalidation names is left (R315). -/
theorem left_of_invalidation {kind : Nat} {v : DWord} {p : Cached} (known : kind < 3)
    (left : xlinvNames (withKind kind v) p = false) : kind ≠ 2 ∧ (kind = 1 → p.ctx ≠ bitsOf v 58 3) ∧
      (kind = 0 → p.ctx = bitsOf v 58 3 →
        ¬ (p.base ≤ bitsOf v 16 41 * 2 ^ 16 ∧ bitsOf v 16 41 * 2 ^ 16 < p.base + p.size)) := by
  simp only [xlinvNames, bitsOf_withKind (show kind < 4 by omega), bitsOf_withKind_other (show 58 + 3 ≤ 61 by decide),
    bitsOf_withKind_other (show 16 + 41 ≤ 61 by decide)] at left
  interval_cases kind <;> simp_all

/-! ## Logs (R359, R361) -/

/-- The fields of TRCTL that a write sets (R359, R361). -/
def traceMask : Nat := bitsMask 61 3 + bitsMask 12 45 + bitsMask 7 5 + bitsMask 0 5

/-- The bits of a log's control register that a write sets: a size or a rate out of range leaves its field alone. -/
def takenMask (mask : Nat) (sizeOk rateOk : Bool) : Nat :=
  let mask := if sizeOk then mask else mask - bitsMask 0 5
  if rateOk || mask / 2 ^ 7 % 2 = 0 then mask else mask - bitsMask 7 5

theorem testBit_takenMask : ∀ mask ∈ [logMask, traceMask], ∀ sizeOk rateOk : Bool,
    (takenMask mask sizeOk rateOk).testBit 63 = true ∧
    (∀ j < 45, (takenMask mask sizeOk rateOk).testBit (12 + j) = true) ∧
    ∀ j < 5, (takenMask mask sizeOk rateOk).testBit (0 + j) = sizeOk := by decide

/-- A value that a log's control register takes in. -/
def takenIn (mask : Nat) (old v : DWord) : DWord :=
  mergeMask (takenMask mask (12 ≤ bitsOf v 0 5 && bitsOf v 0 5 ≤ 30) (bitsOf v 7 5 ≤ 20)) old v

/-- What a write leaves of a log's control register. -/
theorem takenIn_fields {mask : Nat} (known : mask ∈ [logMask, traceMask]) (old v : DWord) :
    (takenIn mask old v).getLsbD 63 = v.getLsbD 63 ∧ bitsOf (takenIn mask old v) 12 45 = bitsOf v 12 45 ∧
    bitsOf (takenIn mask old v) 0 5 =
      if 12 ≤ bitsOf v 0 5 ∧ bitsOf v 0 5 ≤ 30 then bitsOf v 0 5 else bitsOf old 0 5 := by
  obtain ⟨enable, base, size⟩ := testBit_takenMask mask known (12 ≤ bitsOf v 0 5 && bitsOf v 0 5 ≤ 30) (bitsOf v 7 5 ≤ 20)
  refine ⟨by rw [takenIn, getLsbD_mergeMask _ _ _ (by decide), if_pos enable],
    bitsOf_mergeMask_new (by decide) base _ _, ?_⟩
  split
  · exact bitsOf_mergeMask_new (by decide) (fun j low => by rw [size j low, ← Bool.decide_and, decide_eq_true ‹_›]) _ _
  · exact bitsOf_mergeMask_old (by decide) (fun j low => by rw [size j low, ← Bool.decide_and, decide_eq_false ‹_›]) _ _

/-- HEAD starts again, and DROP stays. -/
theorem bitsOf_headCleared (v : DWord) : bitsOf (v &&& BitVec.ofNat 64 (bitsMask 32 32)) 0 32 = 0 ∧
    bitsOf (v &&& BitVec.ofNat 64 (bitsMask 32 32)) 32 32 = bitsOf v 32 32 := by
  have head : ∀ j < 32, (BitVec.ofNat 64 (bitsMask 32 32)).getLsbD (0 + j) = false := by decide
  have drop : ∀ j < 32, (BitVec.ofNat 64 (bitsMask 32 32)).getLsbD (32 + j) = true := by decide
  constructor
  · rw [bitsOf_congr (w := 0) fun j low => by rw [BitVec.getLsbD_and, head j low]; simp]
    rfl
  · exact bitsOf_congr fun j low => by rw [BitVec.getLsbD_and, drop j low, Bool.and_true]

/-- A log's registers after a write of its control register (R361). -/
theorem writeLog_spec {ctl mask : Nat} (known : mask ∈ [logMask, traceMask]) (v : DWord) (s : State) :
    let t := writeLog ctl (ctl + 1) mask v s
    (t.sysreg ctl).getLsbD 63 = v.getLsbD 63 ∧ bitsOf (t.sysreg ctl) 12 45 = bitsOf v 12 45 ∧
    bitsOf (t.sysreg ctl) 0 5 = (if 12 ≤ bitsOf v 0 5 ∧ bitsOf v 0 5 ≤ 30 then bitsOf v 0 5
      else bitsOf (s.sysreg ctl) 0 5) ∧
    (if bitsOf (t.sysreg ctl) 12 45 = bitsOf (s.sysreg ctl) 12 45 ∧ bitsOf (t.sysreg ctl) 0 5 = bitsOf (s.sysreg ctl) 0 5
      then t.sysreg (ctl + 1) = s.sysreg (ctl + 1)
      else bitsOf (t.sysreg (ctl + 1)) 0 32 = 0 ∧
        bitsOf (t.sysreg (ctl + 1)) 32 32 = bitsOf (s.sysreg (ctl + 1)) 32 32) := by
  obtain ⟨enable, base, size⟩ := takenIn_fields known (s.sysreg ctl) v
  generalize taken : takenIn mask (s.sysreg ctl) v = new at enable base size
  have run : writeLog ctl (ctl + 1) mask v s = if bitsOf new 12 45 = bitsOf (s.sysreg ctl) 12 45 &&
      bitsOf new 0 5 = bitsOf (s.sysreg ctl) 0 5 then s.setSysreg ctl new
    else (s.setSysreg ctl new).setSysreg (ctl + 1)
      ((s.setSysreg ctl new).sysreg (ctl + 1) &&& BitVec.ofNat 64 (bitsMask 32 32)) := by
    rw [← taken]
    rfl
  have control : (writeLog ctl (ctl + 1) mask v s).sysreg ctl = new := by
    rw [run]
    split
    · exact sysreg_setSysreg_same ..
    · rw [sysreg_setSysreg_ne _ _ (by omega), sysreg_setSysreg_same]
  intro t
  rw [control]
  refine ⟨enable, base, size, ?_⟩
  simp only [t, run, Bool.and_eq_true, decide_eq_true_eq]
  split
  · exact sysreg_setSysreg_ne s _ (by omega)
  · rw [sysreg_setSysreg_same, sysreg_setSysreg_ne s _ (show ctl + 1 ≠ ctl by omega)]
    exact bitsOf_headCleared _

/-- A change of every record of a table, where it leaves the default alone. -/
theorem tget_map {β : Type} {d : β} {f : β → β} (absent : f d = d) (t : Table β) (k : Nat) :
    tget d (t.map (fun e => (e.1, f e.2))) k = f (tget d t k) := by
  induction t with
  | nil => exact absent.symm
  | cons e t ih =>
    simp only [List.map_cons, tget]
    split
    · rfl
    · exact ih

/-- A write of TRCTL counts the requests of every core anew (R359). -/
theorem requests_writeTrctl (v : DWord) (s : State) (c : Nat) : ((writeTrctl v s).core c).requests = 0 :=
  congrArg Core.requests (tget_map (f := fun c : Core => { c with requests := 0 }) rfl
    (writeLog 0x1A0 0x1A1 traceMask v s).cores c)

/-- The control registers of the logs, each with its event. -/
def logWrites (v : DWord) : List (Nat × Event) := [(0x198, .rpctlWrite v), (0x1A0, .trctlWrite v), (0x1A8, .elctlWrite v)]

theorem logWrite_of_mem {ctl : Nat} {e : Event} {v : DWord} (known : (ctl, e) ∈ logWrites v) :
    writtenBy e = some (ctl, v) := by
  simp only [logWrites, List.mem_cons, List.not_mem_nil, or_false] at known
  rcases known with ⟨rfl, rfl⟩ | ⟨rfl, rfl⟩ | ⟨rfl, rfl⟩ <;> rfl

/-- What a write of a log's control register comes to. -/
theorem sysWrite_log {ctl : Nat} {e : Event} {v : DWord} (known : (ctl, e) ∈ logWrites v) (s : State) :
    ∃ mask ∈ [logMask, traceMask], (sysWrite true ctl v s).sysregs = (writeLog ctl (ctl + 1) mask v s).sysregs ∧
      (ctl = 0x1A0 → sysWrite true ctl v s = writeTrctl v s) := by
  simp only [logWrites, List.mem_cons, List.not_mem_nil, or_false] at known
  rcases known with ⟨rfl, -⟩ | ⟨rfl, -⟩ | ⟨rfl, -⟩
  · exact ⟨logMask, by simp, rfl, fun trace => absurd trace (by decide)⟩
  · exact ⟨traceMask, by simp, rfl, fun _ => rfl⟩
  · exact ⟨logMask, by simp, rfl, fun trace => absurd trace (by decide)⟩

/-! ## TKCTL (R350) -/

/-- A write of TKCTL with STEP set asks for a forward step while the discipline is on, and ends it otherwise. -/
theorem writeTkctl_step (v : DWord) (s : State) :
    let t := writeTkctl (v ||| BitVec.ofNat 64 (2 ^ 62)) s
    t.servo.step = v.getLsbD 63 ∧ (t.sysreg 0x191).getLsbD 62 = false ∧
      (t.sysreg 0x190).getLsbD 63 = v.getLsbD 63 ∧ (v.getLsbD 63 = false → t.servo.left = 0) := by
  have on : (v ||| BitVec.ofNat 64 (2 ^ 62)).getLsbD 63 = v.getLsbD 63 := by
    rw [BitVec.getLsbD_or, show (BitVec.ofNat 64 (2 ^ 62)).getLsbD 63 = false by decide, Bool.or_false]
  have step : (v ||| BitVec.ofNat 64 (2 ^ 62)).getLsbD 62 = true := by
    rw [BitVec.getLsbD_or, show (BitVec.ofNat 64 (2 ^ 62)).getLsbD 62 = true by decide, Bool.or_true]
  generalize v ||| BitVec.ofNat 64 (2 ^ 62) = x at on step
  have enable : (mergeMask (2 ^ 63 + 2 ^ 61) 0 x).getLsbD 63 = x.getLsbD 63 := by
    rw [getLsbD_mergeMask _ _ _ (by decide), if_pos (by decide)]
  obtain ⟨servo, run, asked⟩ : ∃ servo : Servo, writeTkctl x s =
      { (s.setSysreg 0x190 (mergeMask (2 ^ 63 + 2 ^ 61) 0 x)).setSysreg 0x191
        ((s.setSysreg 0x190 (mergeMask (2 ^ 63 + 2 ^ 61) 0 x)).sysreg 0x191 &&& ~~~(BitVec.ofNat 64 (2 ^ 62)))
        with servo := servo } ∧ servo.step = x.getLsbD 63 ∧ (x.getLsbD 63 = false → servo.left = 0) := by
    unfold writeTkctl
    cases active : x.getLsbD 63
    · exact ⟨_, rfl, rfl, fun _ => rfl⟩
    · exact ⟨{ s.servo with step := true }, by simp only [step]; rfl, rfl, by simp⟩
  intro t
  rw [← on]
  simp only [t, run]
  refine ⟨asked.1, ?_, ?_, asked.2⟩
  · refine (congrArg (fun w : DWord => w.getLsbD 62) (sysreg_setSysreg_same ..)).trans ?_
    simp
  · exact (congrArg (fun w : DWord => w.getLsbD 63) ((sysreg_setSysreg_ne _ _ (by decide)).trans
      (sysreg_setSysreg_same ..))).trans enable

/-! ## CQTAB (R290) -/

/-- A queue's descriptor enables it. -/
def QueueOn (s : State) : Prop := ∃ q ws, q < 64 ∧ descriptorWords s q = some ws ∧ (queueDescOf ws).en = true

theorem queueOn_iff (s : State) : ((upTo 64).any fun q => match descriptorWords s q with
    | some ws => (queueDescOf ws).en
    | none => false) = true ↔ QueueOn s := by
  simp only [List.any_eq_true, upTo, List.mem_range, QueueOn]
  refine ⟨fun ⟨q, low, on⟩ => ?_, fun ⟨q, ws, low, words, on⟩ => ⟨q, low, by rw [words]; exact on⟩⟩
  split at on
  · exact ⟨q, _, low, ‹_›, on⟩
  · cases on

theorem writeCqtab_on {s : State} (on : QueueOn s) (v : DWord) : writeCqtab v s = s :=
  if_pos ((queueOn_iff s).2 on)

theorem writeCqtab_off {s : State} (off : ¬ QueueOn s) (v : DWord) :
    (writeCqtab v s).sysreg 0x170 = v &&& 0x01FFFFFFFFFFF000 ∧ (∀ q, ((writeCqtab v s).queue q).stopped = false) ∧
      (writeCqtab v s).mem = s.mem := by
  have run : writeCqtab v s = { s.setSysreg 0x170 (v &&& 0x01FFFFFFFFFFF000) with
      queues := s.queues.map (fun e => (e.1, { e.2 with stopped := false })) } := by
    refine (if_neg (mt (queueOn_iff s).1 off)).trans ?_
    rw [mergeMask_zero]
    rfl
  rw [run]
  exact ⟨sysreg_setSysreg_same .., fun q => congrArg Queue.stopped
    (tget_map (f := fun q : Queue => { q with stopped := false }) rfl s.queues q), rfl⟩

/-! ## Bias flips (R176, R177) -/

theorem bitsOf_withDir {lo n : Nat} (below : lo + n ≤ 62) (d : Bool) (v : DWord) :
    bitsOf (withDir d v) lo n = bitsOf v lo n := by
  refine bitsOf_mergeMask_old (by omega) (fun j low => ?_) _ _
  rw [show bitsMask 62 1 = 1 * 2 ^ 62 from rfl, Nat.testBit_mul_two_pow]
  simp only [Bool.and_eq_false_iff, decide_eq_false_iff_not]
  omega

theorem getLsbD_withDir (d : Bool) (v : DWord) : (withDir d v).getLsbD 62 = d := by
  rw [withDir, getLsbD_mergeMask _ _ _ (by decide), if_pos (by decide)]
  cases d <;> decide

/-- Recalls of a page's registrations leave registers, flips and memory alone. -/
theorem recallPage_kept (base size : Nat) (s : State) : (recallPage base size s).sysregs = s.sysregs ∧
    (recallPage base size s).flip = s.flip ∧ (recallPage base size s).mem = s.mem := by
  refine foldl_related (R := fun s t : State => t.sysregs = s.sysregs ∧ t.flip = s.flip ∧ t.mem = s.mem)
    (fun _ => ⟨rfl, rfl, rfl⟩) (fun _ _ _ h k => ⟨k.1.trans h.1, k.2.1.trans h.2.1, k.2.2.trans h.2.2⟩) _
    (fun s x => ?_) _ s
  dsimp only
  split <;> exact ⟨rfl, rfl, rfl⟩

theorem writeBias_refused {v : DWord} {s : State} (refused : (s.sysreg 0x160).getLsbD 63 = true ∨ bitsOf v 0 2 = 3) :
    writeBias v s = s := by
  refine if_pos ?_
  simpa using refused

/-- The first address of the page that a flip's command names (R176). -/
def flipBase (v : DWord) : Nat := bitsOf v 16 36 * 2 ^ 16 / flipSize v * flipSize v

/-- A flip has been recorded, and its register is busy. -/
def flipRecorded (v : DWord) (s : State) : State :=
  { s.setSysreg 0x160 (BitVec.ofNat 64 (2 ^ 63 + bitsOf v 62 1 * 2 ^ 62 + bitsOf v 16 36 * 2 ^ 16 + bitsOf v 0 2)) with
    flip := some ⟨v.getLsbD 62, flipBase v, flipSize v, s.tick + 180000⟩ }

theorem flipRecorded_busy (v : DWord) (s : State) : ((flipRecorded v s).sysreg 0x160).getLsbD 63 = true := by
  refine (congrArg (fun w : DWord => w.getLsbD 63) (sysreg_setSysreg_same ..)).trans ?_
  have dir : bitsOf v 62 1 < 2 ^ 1 := Nat.mod_lt _ (by decide)
  have page : bitsOf v 16 36 < 2 ^ 36 := Nat.mod_lt _ (by decide)
  have size : bitsOf v 0 2 < 2 ^ 2 := Nat.mod_lt _ (by decide)
  rw [BitVec.getLsbD_ofNat, Nat.testBit_eq_decide_div_mod_eq]
  simp only [Bool.and_eq_true, decide_eq_true_eq]
  omega

theorem writeBias_free {v : DWord} {s : State} (free : ¬ ((s.sysreg 0x160).getLsbD 63 = true ∨ bitsOf v 0 2 = 3)) :
    writeBias v s = if v.getLsbD 62 then recallPage (flipBase v) (flipSize v) (flipRecorded v s)
      else (flipRecorded v s).answer Config.hostNode 11 (flipBase v) (BitVec.ofNat 64 (flipSize v)) 0 := by
  refine (if_neg ?_).trans rfl
  simpa using free

/-- A flip that starts is recorded, and its register is busy. -/
theorem writeBias_starts {v : DWord} {s : State} (free : ¬ ((s.sysreg 0x160).getLsbD 63 = true ∨ bitsOf v 0 2 = 3)) :
    ((writeBias v s).sysreg 0x160).getLsbD 63 = true ∧
    (writeBias v s).flip = some ⟨v.getLsbD 62, flipBase v, flipSize v, s.tick + 180000⟩ ∧ (writeBias v s).mem = s.mem := by
  rw [writeBias_free free]
  split
  · obtain ⟨sysregs, flip, mem⟩ := recallPage_kept (flipBase v) (flipSize v) (flipRecorded v s)
    exact ⟨by rw [sysreg_of_sysregs sysregs, flipRecorded_busy], flip, mem⟩
  · exact ⟨flipRecorded_busy v s, rfl, rfl⟩

/-- A flip that has ended leaves its register not busy, with its status. -/
theorem endFlip_register {status : Nat} (known : status < 2) (s : State) :
    ((endFlip status s).sysreg 0x160).getLsbD 63 = false ∧ bitsOf ((endFlip status s).sysreg 0x160) 60 2 = status := by
  have written : (endFlip status s).sysreg 0x160 = BitVec.ofNat 64
      (bitsOf (s.sysreg 0x160) 62 1 * 2 ^ 62 + status * 2 ^ 60 + bitsOf (s.sysreg 0x160) 0 52) := sysreg_setSysreg_same ..
  have dir : bitsOf (s.sysreg 0x160) 62 1 < 2 ^ 1 := Nat.mod_lt _ (by decide)
  have low : bitsOf (s.sysreg 0x160) 0 52 < 2 ^ 52 := Nat.mod_lt _ (by decide)
  rw [written]
  constructor
  · rw [BitVec.getLsbD_ofNat, Nat.testBit_eq_decide_div_mod_eq]
    simp only [Bool.and_eq_false_iff, decide_eq_false_iff_not]
    omega
  · rw [bitsOf, BitVec.toNat_ofNat]
    omega

section
variable {s : State} {f : Flip}

theorem biasAcknowledge_late (flip : s.flip = some f) (late : f.limit.toNat ≤ s.tick.toNat) : biasAcknowledge s = s := by
  simp only [biasAcknowledge, flip, late, decide_true, Bool.or_true, if_true]

theorem biasAcknowledge_ends (flip : s.flip = some f) (device : f.toHost = false) (inTime : s.tick.toNat < f.limit.toNat) :
    biasAcknowledge s = endFlip 0 { s with hostBias := s.hostBias.filter (fun p =>
      !decide (f.base / 2 ^ 16 ≤ p ∧ p < (f.base + f.size) / 2 ^ 16)) } := by
  simp only [biasAcknowledge, flip, device, Nat.not_le.2 inTime, decide_false, Bool.or_false, Bool.false_eq_true, if_false]

theorem biasTimeout_early (flip : s.flip = some f) (early : s.tick.toNat < f.limit.toNat) : biasTimeout s = s := by
  simp only [biasTimeout, flip, early, decide_true, Bool.or_true, if_true]

theorem biasTimeout_ends (flip : s.flip = some f) (device : f.toHost = false) (late : f.limit.toNat ≤ s.tick.toNat) :
    biasTimeout s = endFlip 1 s := by
  simp only [biasTimeout, flip, device, Nat.not_lt.2 late, decide_false, Bool.or_false, Bool.false_eq_true, if_false]

end

theorem exec_biasHostAcknowledge (s : State) : exec .biasHostAcknowledge s = .next (biasAcknowledge s) := rfl

theorem exec_biasAckTimeout (s : State) : exec .biasAckTimeout s = .next (biasTimeout s) := rfl

/-- The events of bias flips, each with its direction. -/
theorem writtenBy_flip {e : Event} {v : DWord} (known : e ∈ [Event.biasFlipToHost v, .biasFlipToDevice v]) :
    writtenBy e = some (0x160, withDir (decide (e = .biasFlipToHost v)) v) := by
  simp only [List.mem_cons, List.not_mem_nil, or_false] at known
  rcases known with rfl | rfl
  · simp [writtenBy]
  · simp [writtenBy]

/-- Settles O51: each event is a write of its register by the host, and each register by what its write leaves. -/
theorem hostWrites : Obligations.HostWrites := by
  intro s
  refine ⟨fun d v => ?ignored, fun may v => ⟨fun d hd now => ?mtkcfg, fun k hk now => ?xlroot,
    fun kind e known now idle => ?xlinv, fun ctl e known now => ?log, fun now => ?tkctl, fun now => ?cqtab,
    fun n now plain power shutter => ?plain, fun e known now => ?bias⟩, fun f flip device => ?flip, fun none_ => ?idle⟩
  case ignored =>
    exact ⟨exec_of_unmanaged rfl, exec_of_unmanaged rfl, exec_of_unmanaged rfl, exec_of_unmanaged rfl,
      exec_of_unmanaged rfl, exec_of_unmanaged rfl, exec_of_unmanaged rfl, exec_of_unmanaged rfl,
      exec_of_unmanaged rfl, exec_of_unmanaged rfl, exec_of_unmanaged rfl, exec_of_unmanaged rfl⟩
  case mtkcfg =>
    have run := exec_of_managed rfl may now
    rw [Nat.mod_eq_of_lt hd, sysWrite_mtkcfg hd] at run
    exact ⟨_, run, sysreg_writeMtkcfg hd v s⟩
  case xlroot =>
    have run := exec_of_managed rfl may now
    rw [Nat.mod_eq_of_lt hk, sysWrite_xlroot hk] at run
    obtain ⟨root, -, gone, -, mem⟩ := writeXlroot_spec hk v s
    exact ⟨_, run, root, gone, mem⟩
  case xlinv =>
    obtain ⟨write, low⟩ := written_invalidation (kind, e) known
    have asked := bitsOf_withKind (show kind < 4 by omega) v
    obtain ⟨busy, left⟩ := writeXlinv_spec idle (show bitsOf (withKind kind v) 61 2 ≠ 3 by omega)
    obtain ⟨register, mem⟩ := writeXlinv_register idle (show bitsOf (withKind kind v) 61 2 ≠ 3 by omega)
    exact ⟨_, exec_of_managed write may now, busy, register.trans asked, mem,
      fun c p there => left_of_invalidation low (left c p there)⟩
  case log =>
    obtain ⟨mask, which, sysregs, trace⟩ := sysWrite_log known s
    refine ⟨_, exec_of_managed (logWrite_of_mem known) may now, ?_⟩
    simp only [sysreg_of_sysregs sysregs]
    obtain ⟨enable, base, size, stat⟩ := writeLog_spec (ctl := ctl) which v s
    exact ⟨enable, base, size, stat, fun e c => by rw [trace e]; exact requests_writeTrctl v s c⟩
  case tkctl =>
    have run := exec_of_managed (e := .tkctlStep v) rfl may now
    exact ⟨_, run, writeTkctl_step v s⟩
  case cqtab =>
    have run : exec .systemRegisterWrite s = .next (writeCqtab v s) :=
      exec_of_managed (e := .systemRegisterWrite 0x170 v) rfl may now
    exact ⟨fun on => by rw [run, writeCqtab_on on], fun off => ⟨_, run, writeCqtab_off off v⟩⟩
  case plain =>
    have ordinary : n ∉ effectful := by
      simp only [effectful, List.mem_cons, List.not_mem_nil, or_false]
      omega
    obtain ⟨own, others, -⟩ := sysWrite_plain_spec ordinary true v s
    exact ⟨_, exec_of_managed rfl may now, own, others⟩
  case bias =>
    have run : exec e.row s = .next (writeBias (withDir (decide (e = .biasFlipToHost v)) v) s) :=
      exec_of_managed (writtenBy_flip known) may now
    generalize decide (e = .biasFlipToHost v) = d at run
    have kind := bitsOf_withDir (show 0 + 2 ≤ 62 by decide) d v
    have page := bitsOf_withDir (show 16 + 36 ≤ 62 by decide) d v
    rw [run]
    refine ⟨fun refused => by rw [writeBias_refused (kind ▸ refused)], fun free => ?_⟩
    obtain ⟨busy, flip, mem⟩ := writeBias_starts (kind ▸ free)
    have size : flipSize (withDir d v) = flipSize v := by rw [flipSize, kind, flipSize]
    rw [getLsbD_withDir, flipBase, page, size] at flip
    exact ⟨_, _, rfl, busy, flip, rfl, rfl, rfl, rfl, mem⟩
  case flip =>
    refine ⟨fun _ late => by rw [exec_biasHostAcknowledge, biasAcknowledge_late flip late], fun _ inTime => ?_,
      fun _ => ⟨fun early => by rw [exec_biasAckTimeout, biasTimeout_early flip early], fun late => ?_⟩⟩
    · rw [exec_biasHostAcknowledge, biasAcknowledge_ends flip device inTime]
      obtain ⟨idle, status⟩ := endFlip_register (show 0 < 2 by decide) { s with hostBias := s.hostBias.filter (fun p =>
        !decide (f.base / 2 ^ 16 ≤ p ∧ p < (f.base + f.size) / 2 ^ 16)) }
      exact ⟨_, rfl, rfl, idle, status, fun p =>
        List.mem_filter.trans (by simp only [Bool.not_eq_true', decide_eq_false_iff_not])⟩
    · rw [exec_biasAckTimeout, biasTimeout_ends flip device late]
      obtain ⟨idle, status⟩ := endFlip_register (show 1 < 2 by decide) s
      exact ⟨_, rfl, rfl, idle, status, rfl⟩
  case idle =>
    rw [exec_biasHostAcknowledge, exec_biasAckTimeout, biasAcknowledge, biasTimeout, none_]
    exact ⟨rfl, rfl⟩

end Sys2Proof.Machine
end

section
/-! PROOFS. The events of the matrix unit (R133 to R135, R146, R148, R149, R154 to R158): a step's group of products, the
completion, the restart, and pilot tokens. -/

namespace Sys2Proof.Machine
open Sys2Proof.Safety Sys2Proof.Rules

/-! ## Words stored one after the other (R24) -/

theorem mergeBytes_whole (old new : Word) : mergeBytes 15 old new = new := by
  have lt := new.isLt
  apply BitVec.eq_of_toNat_eq
  simp [mergeBytes, byteOf]
  omega

/-- Beside words of the store and their poison nothing has changed. -/
def StoredOnly (s t : State) : Prop := t = { s with store := t.store, poison := t.poison }

namespace StoredOnly

theorem refl (s : State) : StoredOnly s s := rfl

variable {s t u : State}

theorem trans (h : StoredOnly s t) (k : StoredOnly t u) : StoredOnly s u := by
  unfold StoredOnly at h k ⊢
  rw [h] at k
  exact k

theorem empty (h : StoredOnly s t) : t.empty = s.empty := by rw [h]
theorem mem (h : StoredOnly s t) : t.mem = s.mem := by rw [h]
theorem core (h : StoredOnly s t) (c : Nat) : t.core c = s.core c := by rw [h]; rfl
theorem block (h : StoredOnly s t) (b : Nat) : t.block b = s.block b := by rw [h]; rfl

end StoredOnly

theorem localStore_only (s : State) (core addr : Nat) (v : Word) : StoredOnly s (s.localStore core addr 15 v) := rfl

/-- A word of a core's store for each of some elements, each from the word's old value. -/
def storeEach {α : Type} (core : Nat) (addr : α → Nat) (f : α → Word → Word) (es : List α) (s : State) : State :=
  es.foldl (fun s e => s.localStore core (addr e) 15 (f e (s.word (storeKey core (addr e))))) s

section
variable {α : Type} (core : Nat) (addr : α → Nat) (f : α → Word → Word) (es : List α) (s : State)

theorem storeEach_only : StoredOnly s (storeEach core addr f es s) :=
  foldl_related (R := StoredOnly) StoredOnly.refl (fun _ _ _ => StoredOnly.trans) _ (fun _ _ => localStore_only ..) es s

theorem word_localStore (addr : Nat) (v : Word) (k : Nat) :
    (s.localStore core addr 15 v).word k = if k = storeKey core addr then v else s.word k := by
  simp only [State.word, State.localStore, mergeBytes_whole]
  split
  · rw [‹k = _›, tget_tput_same]
  · rw [tget_tput_ne _ _ _ (Ne.symm ‹_›)]

theorem storeEach_kept {k : Nat} (apart : ∀ e ∈ es, k ≠ storeKey core (addr e)) :
    (storeEach core addr f es s).word k = s.word k := by
  induction es generalizing s with
  | nil => rfl
  | cons e es ih =>
    rw [List.forall_mem_cons] at apart
    obtain ⟨first, rest⟩ := apart
    refine (ih _ rest).trans ?_
    rw [word_localStore, if_neg first]

/-- Of elements with words of their own, each word holds what its element makes of its old value. -/
theorem storeEach_word (distinct : (es.map fun e => storeKey core (addr e)).Nodup) {e : α} (mem : e ∈ es) :
    (storeEach core addr f es s).word (storeKey core (addr e)) = f e (s.word (storeKey core (addr e))) := by
  induction es generalizing s with
  | nil => cases mem
  | cons d es ih =>
    rw [List.map_cons, List.nodup_cons] at distinct
    obtain ⟨fresh, distinct⟩ := distinct
    rcases List.mem_cons.1 mem with rfl | mem
    · refine (storeEach_kept core addr f es _ fun d there same => fresh ?_).trans ?_
      · exact List.mem_map.2 ⟨d, there, same.symm⟩
      · rw [word_localStore, if_pos rfl]
    · refine (ih _ distinct mem).trans ?_
      rw [word_localStore, if_neg fun same => fresh (List.mem_map.2 ⟨e, mem, same⟩)]

end

/-! ## The elements of an operation (R23, R149) -/

theorem mem_elements (o : MatOp) (i j : Nat) : (i, j) ∈ o.elements ↔ i < pbM o.pb ∧ j < pbN o.pb := by
  simp [MatOp.elements, upTo]

theorem elements_nodup (o : MatOp) : o.elements.Nodup :=
  List.Nodup.product (l₁ := upTo (pbM o.pb)) (l₂ := upTo (pbN o.pb)) List.nodup_range List.nodup_range

/-- Elements of a tile lie in words of their own: a row has 128 (R23). -/
theorem element_words_distinct {o : MatOp} (narrow : pbN o.pb ≤ 128) (core : Nat) (v : Block) (acc : Nat) :
    (o.elements.map fun e => storeKey core (elementAt v acc e.1 e.2)).Nodup := by
  refine (elements_nodup o).map_on ?_
  rintro ⟨i, j⟩ here ⟨i', j'⟩ there same
  rw [mem_elements] at here there
  simp only [storeKey, elementAt] at same
  have row : i = i' := by omega
  have col : j = j' := by omega
  rw [row, col]

theorem zeroTile_eq (o : MatOp) (s : State) : zeroTile o s = storeEach (o.warp / 128)
    (fun e => elementAt (s.block o.block) (pbAcc o.pb) e.1 e.2) (fun _ _ => 0) o.elements s := rfl

/-- The value of an element with a k-group's products added (R80 to R82). -/
def addedTo (o : MatOp) (g : Nat) (s : State) (e : Nat × Nat) (old : Word) : Word :=
  BitVec.ofNat 32 (if isIntOperand (pbType o.pb)
    then accumulateInt (pbSat o.pb) old.toNat (groupSum (o.factors s true e.1 g) (o.factors s false e.2 g))
    else accumulate old.toNat (groupSum (o.factors s true e.1 g) (o.factors s false e.2 g)))

theorem lget_map_upTo {β : Type} (d : β) (f : Nat → β) {n i : Nat} (low : i < n) : lget d ((upTo n).map f) i = f i := by
  simp [lget_eq, upTo, low]

theorem applyGroup_eq (o : MatOp) (g : Nat) (s : State) : applyGroup o g s = storeEach (o.warp / 128)
    (fun e => elementAt (s.block o.block) (pbAcc o.pb) e.1 e.2) (addedTo o g s) o.elements s := by
  refine List.foldl_ext _ _ _ fun u e mem => ?_
  obtain ⟨i, j⟩ := e
  rw [mem_elements] at mem
  obtain ⟨row, col⟩ := mem
  simp only [lget_map_upTo _ _ row, lget_map_upTo _ _ col, addedTo]

/-! ## A step (R148 to R150) -/

/-- The state in which a step's products are added: the tile is zeroed first where that is due. -/
def stepBase (o : MatOp) (s : State) : State := if o.zero then zeroTile o s else s

theorem stepBase_only (o : MatOp) (s : State) : StoredOnly s (stepBase o s) := by
  unfold stepBase
  split
  · rw [zeroTile_eq]
    exact storeEach_only ..
  · exact StoredOnly.refl s

theorem stepBase_kept {o : MatOp} {s : State} {k : Nat} (apart : ∀ i j, i < pbM o.pb → j < pbN o.pb →
    k ≠ storeKey (o.warp / 128) (elementAt (s.block o.block) (pbAcc o.pb) i j)) : (stepBase o s).word k = s.word k := by
  unfold stepBase
  split
  · rw [zeroTile_eq]
    refine storeEach_kept _ _ _ _ _ fun e mem => ?_
    obtain ⟨row, col⟩ := (mem_elements o e.1 e.2).1 mem
    exact apart _ _ row col
  · rfl

/-- The operation after a step. -/
def MatOp.stepped (o : MatOp) : MatOp := { o with step := o.step + 1, zero := false }

/-- A core whose running operation is this. -/
def running (o : MatOp) (c : Core) : Core :=
  { c with matrix := c.matrix.map (fun m => if m.order = o.order then o else m) }

/-- A warp with this MSTAT. -/
def withMstat (m : DWord) (w : Warp) : Warp := { w with mstat := m }

theorem ended_withMstat (m : DWord) (w : Warp) : (withMstat m w).ended = w.ended := rfl

theorem mstatOf_running (step steps acc : Nat) : mstatOf step steps true false acc 0 =
    BitVec.ofNat 64 (step * 2 ^ 32 + steps * 2 ^ 16 + 2 ^ 15 + acc * 2 ^ 11) := by
  simp only [mstatOf, if_true, Bool.false_eq_true, if_false, Nat.add_zero]

theorem mstatOf_over (step steps acc : Nat) : mstatOf step steps false false acc 0 =
    BitVec.ofNat 64 (step * 2 ^ 32 + steps * 2 ^ 16 + acc * 2 ^ 11) := by
  simp only [mstatOf, Bool.false_eq_true, if_false, Nat.add_zero]

/-- A step that has been applied: its products, its count in the queue and in MSTAT. -/
def stepApplied (core : Nat) (o : MatOp) (g : Nat) (s : State) : State :=
  ((applyGroup o g (stepBase o s)).modCore core (running o.stepped)).modWarp o.warp
    (withMstat (mstatOf (o.step + 1) o.groups.length true false (pbAcc o.pb) 0))

section
variable {s : State} {core : Nat} {o : MatOp} {rest : List MatOp} {g : Nat}

theorem exec_matrixStep (now : s.now = .matrixStep core) : exec .matrixStep s = .next (matrixStep core s) := by
  show execMatrixStep s = _
  rw [execMatrixStep, now]

theorem stepReady_running (queue : (s.core core).matrix = o :: rest) (group : o.groups[o.step]? = some g) :
    stepReady s core = some (o, g) := by
  simp only [stepReady, queue, group, Option.map_some]

/-- Without a token, or with one whose burst has no room, nothing changes. -/
theorem matrixStep_waits (ready : stepReady s core = some (o, g))
    (fits : ((s.cluster (core / 16)).token && burstFits s (core / 16) (stepClocks o.form o.pb)) = false) :
    matrixStep core s = s := by
  simp only [matrixStep, ready, clusterOfCore, ← Bool.not_and, fits, Bool.not_false, if_true]

theorem matrixStep_applies (ready : stepReady s core = some (o, g))
    (fits : ((s.cluster (core / 16)).token && burstFits s (core / 16) (stepClocks o.form o.pb)) = true)
    (mask : o.badMask = none) (clean : stepFault o g (stepBase o s) = none) :
    matrixStep core s = (stepApplied core o g s).count core 0x06 1 := by
  rw [stepBase] at clean
  simp only [matrixStep, ready, clusterOfCore, ← Bool.not_and, fits, Bool.not_true, Bool.false_eq_true, if_false, mask,
    clean, stepApplied, MatOp.stepped, stepBase]
  rfl

end

/-- Counting an event changes no word, no warp and no queue of a matrix unit (R352). -/
theorem count_kept (s : State) (core ev n : Nat) : (s.count core ev n).store = s.store ∧
    (s.count core ev n).empty = s.empty ∧ (s.count core ev n).mem = s.mem ∧ (s.count core ev n).warps = s.warps ∧
    ∀ c, ((s.count core ev n).core c).matrix = (s.core c).matrix := by
  unfold State.count
  dsimp only
  split
  · refine ⟨rfl, rfl, rfl, rfl, fun c => ?_⟩
    by_cases own : c = core
    · simp only [own, State.core, State.setCore_cores, tget_tput_same]
    · simp only [State.core, State.setCore_cores, tget_tput_ne _ _ _ (Ne.symm own)]
  · exact ⟨rfl, rfl, rfl, rfl, fun _ => rfl⟩

section
variable {s : State} {core g : Nat} {o : MatOp}

theorem applyGroup_only : StoredOnly s (applyGroup o g s) := by
  rw [applyGroup_eq]
  exact storeEach_only ..

/-- Every covered element holds its old value with the group's products added. -/
theorem applyGroup_word (narrow : pbN o.pb ≤ 128) {i j : Nat} (row : i < pbM o.pb) (col : j < pbN o.pb) :
    (applyGroup o g s).word (storeKey (o.warp / 128) (elementAt (s.block o.block) (pbAcc o.pb) i j)) =
      addedTo o g s (i, j) (s.word (storeKey (o.warp / 128) (elementAt (s.block o.block) (pbAcc o.pb) i j))) := by
  have distinct := element_words_distinct narrow (o.warp / 128) (s.block o.block) (pbAcc o.pb)
  have word := storeEach_word (o.warp / 128) (fun e : Nat × Nat => elementAt (s.block o.block) (pbAcc o.pb) e.1 e.2)
    (addedTo o g s) o.elements s distinct ((mem_elements o i j).2 ⟨row, col⟩)
  rw [← applyGroup_eq] at word
  exact word

theorem applyGroup_kept {k : Nat} (apart : ∀ i j, i < pbM o.pb → j < pbN o.pb →
    k ≠ storeKey (o.warp / 128) (elementAt (s.block o.block) (pbAcc o.pb) i j)) : (applyGroup o g s).word k = s.word k := by
  rw [applyGroup_eq]
  refine storeEach_kept _ _ _ _ _ fun e mem => ?_
  obtain ⟨row, col⟩ := (mem_elements o e.1 e.2).1 mem
  exact apart _ _ row col

/-- A step with a token: its products, its count, and nothing of registers' fullness or memory (R148, R149). -/
theorem matrixStep_applied {rest : List MatOp} (queue : (s.core core).matrix = o :: rest)
    (group : o.groups[o.step]? = some g)
    (fits : ((s.cluster (core / 16)).token && burstFits s (core / 16) (stepClocks o.form o.pb)) = true)
    (mask : o.badMask = none) (clean : stepFault o g (stepBase o s) = none) :
    let t := matrixStep core s
    (∀ k, t.word k = (applyGroup o g (stepBase o s)).word k) ∧ t.empty = s.empty ∧ t.mem = s.mem ∧
    (t.warp o.warp).mstat = mstatOf (o.step + 1) o.groups.length true false (pbAcc o.pb) 0 ∧
    (t.core core).matrix = (s.core core).matrix.map (fun m => if m.order = o.order then o.stepped else m) := by
  have stored : StoredOnly s (applyGroup o g (stepBase o s)) := (stepBase_only o s).trans applyGroup_only
  obtain ⟨store, empty, mem, warps, matrix⟩ := count_kept (stepApplied core o g s) core 0x06 1
  rw [← matrixStep_applies (stepReady_running queue group) fits mask clean] at store empty mem warps matrix
  refine ⟨fun k => congrArg (fun m => tget 0 m k) store, empty.trans stored.empty, mem.trans stored.mem, ?_, ?_⟩
  · rw [State.warp, warps, ← State.warp, stepApplied, warp_modWarp_same, withMstat]
  · have core' : (stepApplied core o g s).core core = running o.stepped ((applyGroup o g (stepBase o s)).core core) :=
      (core_modCore _ core core (running o.stepped)).trans (if_pos rfl)
    rw [matrix, core', stored.core, running]
    rfl

end

/-! ## Completion (R135) -/

theorem exec_matrixCompletion {s : State} {core : Nat} (now : s.now = .matrixCompletion core) :
    exec .matrixCompletion s = .next (matrixCompletion core s) := by
  show execMatrixCompletion s = _
  rw [execMatrixCompletion, now]

section
variable {s : State} {core : Nat} {o : MatOp} {rest : List MatOp}

theorem matrixCompletion_early (queue : (s.core core).matrix = o :: rest) (left : o.step < o.groups.length) :
    matrixCompletion core s = s := by
  simp only [matrixCompletion, queue, left, if_true]

/-- The change of the dependence counter that a completion sends, if its parameter block names one. -/
def signalled (core : Nat) (o : MatOp) : List Event :=
  match pbDc o.pb with
  | some n => [.dependenceCounterChange (core / 128 * 256 + n) (-1) 0]
  | none => []

/-- A core without an operation that has stood in its queue. -/
def without (o : MatOp) (c : Core) : Core :=
  { c with
    matrix := c.matrix.filter (fun m => m.order ≠ o.order)
    holds := c.holds.filter (fun h => !(h.kind = 1 && h.own = o.warp)) }

/-- An operation that is over has left the queue, with its steps in MSTAT and its counter's change sent. -/
def completed (core : Nat) (o : MatOp) (s : State) : State :=
  { (s.modCore (o.warp / 128) (without o)).modWarp o.warp
      (withMstat (mstatOf o.step o.groups.length false false (pbAcc o.pb) 0)) with agenda := s.agenda ++ signalled core o }

theorem warp_completed (core : Nat) (o : MatOp) (s : State) : (completed core o s).warp o.warp =
    withMstat (mstatOf o.step o.groups.length false false (pbAcc o.pb) 0) (s.warp o.warp) :=
  warp_modWarp_same (s.modCore (o.warp / 128) (without o)) _ _

theorem core_completed (core : Nat) (o : MatOp) (s : State) :
    (completed core o s).core (o.warp / 128) = without o (s.core (o.warp / 128)) :=
  (core_modCore s _ _ (without o)).trans (if_pos rfl)

theorem matrixCompletion_over (queue : (s.core core).matrix = o :: rest) (finished : o.groups.length ≤ o.step)
    (zeroed : o.zero = false) (silent : pbBar o.pb = none) (unended : (s.warp o.warp).ended = false) :
    matrixCompletion core s = completed core o s := by
  have ended : ((completed core o s).warp o.warp).ended = false := by rw [warp_completed, ended_withMstat, unended]
  have signal : matrixCompletion core s = (completed core o s).reap o.warp := by
    simp only [matrixCompletion, queue, Nat.not_lt.2 finished, if_false, zeroed, silent, Bool.false_eq_true]
    unfold completed signalled
    cases pbDc o.pb
    · simp only [List.append_nil]
      rfl
    · rfl
  rw [signal, reap_of_unended ended]

end

/-! ## The queue (R133, R158) -/

/-- A core with an operation last in its queue, and its ranges held. -/
def queued (op : MatOp) (hs : List Hold) (c : Core) : Core := { c with matrix := c.matrix ++ [op], holds := c.holds ++ hs }

/-- A warp whose operation stands in the queue. -/
def withOperation (cont : Bool) (op : MatOp) (w : Warp) : Warp :=
  { w with
    mstat := mstatOf op.step op.groups.length true false (pbAcc op.pb) 0
    rerun := false
    tokenWait := if cont then w.tokenWait else 0 }

/-- An operation enters the queue of the core that its warp's key names. -/
theorem enqueue_eq (wk : Nat) (cont : Bool) (op : MatOp) (hs : List Hold) (s : State) : enqueue wk cont op hs s =
    { (s.modCore (wk / 128) (queued op hs)).modWarp wk (withOperation cont op) with fresh := s.fresh + 1 } := rfl

theorem exec_matrixAutoRestart {s : State} {wk : Nat} (now : s.now = .matrixAutoRestart wk) :
    exec .matrixAutoRestart s = .next (autoRestart wk s) := by
  show execMatrixAutoRestart s = _
  rw [execMatrixAutoRestart, now]

/-- An operation that a quantum end has stopped goes on by itself. -/
theorem autoRestart_goes_on {s : State} {wk : Nat} {op : MatOp} {hs : List Hold} (live : (s.warp wk).live = true)
    (rerun : (s.warp wk).rerun = true) (sound : (s.warp wk).fault = none) (runs : (s.warp wk).stopped = false)
    (begun : restartOp wk s = .ok op hs) : autoRestart wk s = enqueue wk true op hs s := by
  simp only [autoRestart, live, rerun, sound, runs, begun, Bool.not_true, Option.isSome_none, Bool.or_self,
    Bool.false_eq_true, if_false]

/-! ## Pilot tokens (R154 to R156) -/

section
variable {s : State} {cl : Nat}

theorem exec_pilotTokenCapture (now : s.now = .pilotTokenCapture cl) :
    exec .pilotTokenCapture s = .next (captureToken cl s) := by
  show execPilotTokenCapture s = _
  rw [execPilotTokenCapture, now]

theorem exec_pilotTokenRelease (now : s.now = .pilotTokenRelease cl) :
    exec .pilotTokenRelease s = .next (releaseToken cl s) := by
  show execPilotTokenRelease s = _
  rw [execPilotTokenRelease, now]

/-- The token that is at a cluster's stop. -/
def tokenHere (s : State) (cl : Nat) : Option (Nat × Nat) :=
  (s.onRing (cl / 8)).find? (fun t => t.1 = cl && decide (t.2 ≤ s.clk))

theorem captureToken_waits (idle : tokenHere s cl = none ∨ (s.cluster cl).token = true ∨ clusterReady s cl = []) :
    captureToken cl s = s := by
  rw [captureToken]
  change (match tokenHere s cl with | none => _ | some t => _) = _
  split
  · rfl
  · refine if_pos ?_
    simp_all

theorem captureToken_takes {t : Nat × Nat} (here : tokenHere s cl = some t) (free : (s.cluster cl).token = false)
    (ready : clusterReady s cl ≠ []) : captureToken cl s =
      (s.setRing (cl / 8) ((s.onRing (cl / 8)).erase t)).modCluster cl
        (fun c => { c with token := true, since := s.clk }) := by
  rw [tokenHere] at here
  simp only [captureToken, here, free, List.isEmpty_eq_false_iff.2 ready, Bool.or_self, Bool.false_eq_true, if_false]

theorem cluster_modCluster (s : State) (k j : Nat) (f : Cluster → Cluster) :
    (s.modCluster k f).cluster j = if j = k then f (s.cluster k) else s.cluster j := by
  simp only [State.cluster, State.modCluster, State.setCluster]
  split
  · rw [‹j = k›, tget_tput_same]
  · rw [tget_tput_ne _ _ _ (Ne.symm ‹_›)]

/-- A cluster without its token. -/
def tokenGiven (cl : Nat) (s : State) : State := s.setCluster cl { s.cluster cl with token := false }

theorem releaseToken_passes (held : (s.cluster cl).token = true) (idle : clusterReady s cl = []) :
    releaseToken cl s = passOn cl (tokenGiven cl s) := by
  simp only [releaseToken, held, idle, List.any_nil, Bool.not_false, Bool.and_self, if_true]
  rfl

theorem passOn_tokenGiven : passOn cl (tokenGiven cl s) =
    if tokenCount s (cl / 8) ≤ tokensHeld (tokenGiven cl s) (cl / 8) + (tget [] s.ring (cl / 8)).length
    then tokenGiven cl s
    else { tokenGiven cl s with
      ring := tput s.ring (cl / 8) (tget [] s.ring (cl / 8) ++ [(nextStop s cl, s.clk + 8)]) } := rfl

end

/-- Settles O31: a step by the words that it stores, and each other event by what it comes to. -/
theorem matrixProceeds : Obligations.MatrixProceeds := by
  intro s core
  refine ⟨fun o rest g now queue group => ⟨fun short => ?waits, fun fits mask clean narrow own => ?step⟩,
    fun o rest now queue => ⟨fun left => ?early, fun finished zeroed silent own unended => ?finished⟩,
    fun wk op hs now live rerun sound runs begun => ?restart,
    fun now => ⟨fun idle => ?idle, fun e here free ready => ?capture⟩,
    fun now held idle => ⟨fun many => ?retire, fun few => ?pass⟩, rfl⟩
  case waits => rw [exec_matrixStep now, matrixStep_waits (stepReady_running queue group) short]
  case step =>
    obtain ⟨word, empty, mem, mstat, matrix⟩ := matrixStep_applied queue group fits mask clean
    have block := (stepBase_only o s).block o.block
    refine ⟨_, exec_matrixStep now, fun i j row col => ?_, fun k apart => ?_, empty, mem,
      mstat.trans (mstatOf_running ..), matrix⟩
    · have value := applyGroup_word (s := stepBase o s) (g := g) narrow row col
      rw [block] at value
      exact (word _).trans value
    · rw [word, applyGroup_kept (by rw [block]; exact apart), stepBase_kept apart]
  case early => rw [exec_matrixCompletion now, matrixCompletion_early queue left]
  case finished =>
    rw [exec_matrixCompletion now, matrixCompletion_over queue finished zeroed silent unended]
    refine ⟨_, rfl, ?_, ?_, ?_, rfl, rfl⟩
    · rw [← own, core_completed, without]
    · rw [warp_completed, withMstat, mstatOf_over]
    · show s.agenda ++ signalled core o = _
      unfold signalled
      cases pbDc o.pb
      · exact List.append_nil _
      · rfl
  case restart =>
    rw [exec_matrixAutoRestart now, autoRestart_goes_on live rerun sound runs begun, enqueue_eq]
    refine ⟨_, rfl, ?_, ?_, rfl, rfl⟩
    · exact congrArg Core.matrix ((core_modCore s (wk / 128) (wk / 128) (queued op hs)).trans (if_pos rfl))
    · exact congrArg Warp.rerun (warp_modWarp_same (s.modCore (wk / 128) (queued op hs)) wk (withOperation true op))
  case idle => rw [exec_pilotTokenCapture now, captureToken_waits idle]
  case capture =>
    rw [exec_pilotTokenCapture now, captureToken_takes here free ready]
    refine ⟨_, rfl, ?_, ?_, tget_tput_same .., fun k other => ?_, rfl, rfl⟩
    · rw [cluster_modCluster, if_pos rfl]
    · rw [cluster_modCluster, if_pos rfl]
    · rw [cluster_modCluster, if_neg other]
      rfl
  case retire =>
    rw [exec_pilotTokenRelease now, releaseToken_passes held idle, passOn_tokenGiven]
    exact congrArg _ (if_pos many)
  case pass =>
    rw [exec_pilotTokenRelease now, releaseToken_passes held idle, passOn_tokenGiven]
    exact congrArg _ (if_neg (Nat.not_le.2 few))

end Sys2Proof.Machine
end

section
/-! PROOFS. The issue of a matrix operation (R133) in a state whose issue names a berth that no core has. -/

namespace Sys2Proof.Machine
open Sys2Proof.Safety Sys2Proof.Rules

/-- `MMA` with its parameter block's address in v0 and no scales. -/
def plainMma : Long where
  form := .long
  ty := 0
  et := 0
  c := 0
  b := 0
  a := 2
  dst := 0
  safe := false
  neg := false
  guard := 7
  mods := 0

/-- Core 0 issues from berth 128, whose key is that of core 1's berth 0. The parameter block that v0 names stands in
core 1's store and is that of a product of 16 x 16 x 32 signed bytes. -/
def strayIssue : State :=
  { State.reset with
    cur := { core := 0, berth := 128, lanes := 1, pc := 0, len := 8 }
    warps := [(128, probeWarp)]
    blocks := [(1, { probeBlock with core := 1, spBase := 0x8000, spSize := 0x1000, accBase := 0x100000, tiles := 1 })]
    store := [(64, 0x8000), (0x202000, 0x201010), (0x202002, 0x8100), (0x202003, 0x200001), (0x202005, 0x8400),
      (0x202006, 0x200001)] }

/-- The operation and its holds, where the checks of an issue pass. -/
def Begun.passed : Begun → Option (MatOp × List Hold)
  | .ok op hs => some (op, hs)
  | _ => none

theorem Begun.passed_isSome {b : Begun} (h : b.passed.isSome = true) : ∃ op hs, b = .ok op hs := by
  cases b with
  | ok op hs => exact ⟨op, hs, rfl⟩
  | wait => cases h
  | fail c a => cases h

theorem strayIssue_checks : ∃ op hs, begin_ strayIssue 128 0 0 0x8000 0 0 0 0 0 false true = .ok op hs :=
  Begun.passed_isSome (by decide +kernel)

/-- How many operations the queues of cores 0 and 1 hold after a step. -/
def queuesAfter : Out → Option (Nat × Nat)
  | .next t => some ((t.core 0).matrix.length, (t.core 1).matrix.length)
  | _ => none

theorem strayIssue_enters_core_one : queuesAfter (exec (.mma plainMma) strayIssue) = some (0, 1) := by decide +kernel

/-- Refutes O30: the statement lets the issue name any berth. With berth 128 of core 0 the warp's key is that of core 1's
berth 0, the checks pass on core 1's words, and the operation enters core 1's queue, not the one of the issue's core. -/
theorem not_matrixInstructions : ¬ Obligations.MatrixInstructions := by
  intro holds
  obtain ⟨issues, -⟩ := holds
  have issue := issues plainMma strayIssue _ (0, .mma plainMma) List.mem_cons_self rfl
  obtain ⟨-, goes⟩ := issue (by decide +kernel) (by decide +kernel)
  obtain ⟨-, queues⟩ := goes (by decide +kernel) (by decide +kernel) (by decide +kernel)
  obtain ⟨op, hs, checks⟩ := strayIssue_checks
  obtain ⟨t, step, matrix, -⟩ := queues op hs checks
  have entered : (t.core 0).matrix = [op] := matrix
  have elsewhere := strayIssue_enters_core_one
  rw [step, queuesAfter, entered] at elsewhere
  cases elsewhere

end Sys2Proof.Machine
end

section
/-! PROOFS. Stores of an access without the alignment that the spaces and the allocator keep (R174, R179, R180, R202): a
store through a constant segment at an odd address, and an allocation header that runs into a fabric window. -/

namespace Sys2Proof.Machine
open Sys2Proof.Safety Sys2Proof.Rules

/-- A single lane's store overwrites none of its own bytes. -/
theorem byte_of_stored_single {core z l j : Nat} {s t : State} {p : Place} {data : Nat → Nat} {ps : List (Nat × Place)}
    (stored : Stored core z false s t ps data) (single : ps = [(l, p)]) (inside : j < z) :
    StoredByte core t p (data l) j := by
  subst single
  obtain ⟨bytes, -⟩ := stored
  refine bytes nofun 0 l p rfl j inside fun m l' q later there => ?_
  rw [List.getElem?_eq_none (by simpa using Nat.one_le_of_lt later)] at there
  cases there

/-! ## A store through an unaligned constant segment (R174, R179) -/

/-- Lane 0 of a block whose constant segment begins at address 1; v2 holds the offset 0x100. -/
def unalignedSegment : State :=
  { State.reset with
    cur := { core := 0, berth := 0, lanes := 1, pc := 0, len := 8 }
    warps := [(0, probeWarp)]
    blocks := [(1, { probeBlock with cbase := 1, csize := 0x1000 })]
    caches := [(0, [probePage])]
    store := [(64, 0x100)] }

/-- The fields of a store of v6 at offset v2 of the constant segment. -/
def segmentStore : Long := gridLong 0 0 0 0 2 6 0 0 7 3

theorem unalignedSegment_wf : Memory.wf unalignedSegment.mem := by decide +kernel

theorem pagesAligned_of_single {s : State} {c : Nat} {page : Cached} (caches : s.caches = [(c, [page])])
    (aligned : page.base % 2 ^ 16 = 0) : PagesAligned s := by
  intro k p hp
  simp only [caches, tget] at hp
  split at hp
  · rwa [List.mem_singleton.1 hp]
  · cases hp

theorem unalignedSegment_pages : PagesAligned unalignedSegment := pagesAligned_of_single rfl rfl

theorem unalignedSegment_st : Goes (.st segmentStore) false unalignedSegment :=
  ⟨by decide +kernel, by decide +kernel, by decide +kernel, by decide +kernel⟩

theorem unalignedSegment_stt : Goes (.stt segmentStore) false unalignedSegment :=
  ⟨by decide +kernel, by decide +kernel, by decide +kernel, by decide +kernel⟩

/-- The place of byte a of the page at address 0. -/
def pageByte (a : Nat) : Phys := ⟨a, 0x1F, 0, 2 ^ 16, 0, 0⟩

/-- Of an outcome: whether a place is stored to without registration, and whether the near cache of core 0 holds a word. -/
def registration (p : Phys) (pw : Nat) : Out → Option (Bool × Bool)
  | .next t => some (t.direct p, (t.near_ 0 pw).held)
  | _ => none

/-- A word that lane l alone stores under registration: the near cache holds the word of its last byte. -/
theorem held_of_stored {s t : State} {o : Out} {ps : List (Nat × Place)} {l va : Nat} {p : Phys} {data : Nat → Nat}
    {held : Bool} (step : o = .next t) (stored : Stored 0 4 false s t ps data) (single : ps = [(l, .glob p va)])
    (after : registration p ((p.pa + 3) / 4) o = some (false, held)) : held = true := by
  have byte := byte_of_stored_single stored single (j := 3) (by decide)
  rw [step, registration, Option.some.injEq] at after
  injection after with direct near
  rw [StoredByte, direct, if_neg Bool.false_ne_true, near] at byte
  exact byte.1

/-- The word at 0x101 ends in word 0x41, and the store registers word 0x40 alone. -/
theorem unalignedSegment_st_registers :
    registration (pageByte 0x101) 0x41 (exec (.st segmentStore) unalignedSegment) = some (false, false) := by
  decide +kernel

/-- The element of lane 0 stands 16 bytes above the base (R190). -/
theorem unalignedSegment_stt_registers :
    registration (pageByte 0x111) 0x45 (exec (.stt segmentStore) unalignedSegment) = some (false, false) := by
  decide +kernel

/-- Refutes O20: the statement lets `ST` name the constant segment, which no check of the issue refuses, and a segment's
address is not aligned by the checks of R182. With a segment at address 1 the word that lane 0 stores ends in a word
that the store neither writes nor registers. -/
theorem not_storesComplete : ¬ Obligations.StoresComplete := by
  intro holds
  have issue := holds segmentStore unalignedSegment (.st segmentStore, false) List.mem_cons_self unalignedSegment_st
    unalignedSegment_wf unalignedSegment_pages
  obtain ⟨stores, -⟩ := issue ⟨nofun, by decide +kernel, by decide +kernel⟩
  obtain ⟨t, step, stored, -⟩ := stores (List.forall_mem_nil _)
  exact Bool.false_ne_true (held_of_stored (l := 0) (va := 0x101) (p := pageByte 0x101) step stored (by decide +kernel)
    unalignedSegment_st_registers)

/-- Refutes O21: as for `ST`, the plain `STT` of the statement may name the constant segment. With a segment at address 1
and a base that is a multiple of 16 the element of lane 0 ends in a word that is neither written nor registered. -/
theorem not_tileAccesses : ¬ Obligations.TileAccesses := by
  intro holds
  obtain ⟨stt, -⟩ := holds
  have issue := stt segmentStore unalignedSegment unalignedSegment_stt unalignedSegment_wf unalignedSegment_pages
  obtain ⟨plain, -⟩ := issue (List.forall_mem_nil _)
  obtain ⟨t, step, stored, -⟩ := plain rfl ⟨nofun, by decide +kernel, by decide +kernel⟩ rfl
  exact Bool.false_ne_true (held_of_stored (l := 0) (va := 0x111) (p := pageByte 0x111) step stored (by decide +kernel)
    unalignedSegment_stt_registers)

/-! ## An allocation header that runs into a fabric window (R166, R203) -/

/-- The page at address 0 is the last one below the fabric windows, and its words are never cached. -/
def lastPage : Cached := { probePage with leaf := BitVec.ofNat 64 (fabricBase - 2 ^ 16 + 0x1DF) }

/-- Lane 0 of a block whose bump pointer stands at the last word of that page. -/
def straddlingHeader : State :=
  { State.reset with
    cur := { core := 0, berth := 0, lanes := 1, pc := 0, len := 8 }
    warps := [(0, probeWarp)]
    blocks := [(1, { probeBlock with arenaN := 0x20000, bump := { ptr := 0xFFFC } })]
    caches := [(0, [lastPage])] }

/-- `DALLOC v6:7, 16`. -/
def plainDalloc : Long := gridLong 0 0 0 0 0x150 6 0 0 7 0

theorem straddlingHeader_goes : Goes (.dalloc plainDalloc) false straddlingHeader :=
  ⟨by decide +kernel, by decide +kernel, by decide +kernel, by decide +kernel⟩

/-- The place of the header. -/
def headerPlace : Phys := ⟨fabricBase - 4, lastPage.leaf, fabricBase - 2 ^ 16, 2 ^ 16, 0, 0⟩

/-- A byte of memory after an outcome. -/
def byteAfter (a : Nat) : Out → Option Byte
  | .next t => some (memByte t.mem a)
  | _ => none

/-- The header's in-use word goes out through the window: memory keeps 0 there. -/
theorem straddlingHeader_leaves : byteAfter fabricBase (exec (.dalloc plainDalloc) straddlingHeader) = some 0 := by
  decide +kernel

/-- Refutes O25: the statement lets the bump pointer be no multiple of 16. With the pointer at the last word below the
fabric windows the header begins in memory and its in-use word lies in a window, so that memory does not hold its 1. -/
theorem not_allocations : ¬ Obligations.Allocations := by
  intro holds
  obtain ⟨dalloc, -⟩ := holds
  obtain ⟨t, u, step, stored, mem, -⟩ := dalloc plainDalloc straddlingHeader straddlingHeader_goes (by decide +kernel)
    (by decide +kernel) (pagesAligned_of_single rfl rfl) ⟨fun _ => by decide +kernel, by decide +kernel, by decide +kernel⟩
    (by decide +kernel)
  have byte := byte_of_stored_single stored (l := 0) (p := .glob headerPlace 0xFFFC) (j := 4) (by decide +kernel) (by decide)
  have direct : u.direct headerPlace = true := rfl
  have kept : memByte t.mem fabricBase = 0 := by
    have leaves := straddlingHeader_leaves
    rwa [step, byteAfter, Option.some.injEq] at leaves
  rw [StoredByte, direct, if_pos rfl, ← mem] at byte
  rcases byte with window | one
  · exact absurd window (by decide)
  · rw [show headerPlace.pa + 4 = fabricBase from rfl, kept] at one
    exact absurd one (by decide +kernel)

end Sys2Proof.Machine
end

section
/-! PROOFS. A RED of an ordered block that waits for an earlier access (R184, R199). -/

namespace Sys2Proof.Machine
open Sys2Proof.Safety Sys2Proof.Rules

/-- `RED` of v4 at g[v2:3]: an addition. -/
def plainRed : Long := gridLong 0 0 0 4 2 0 0 0 7 0

/-- The load that lane 0 has issued at address 64: word 0x40 is on its way. -/
def awaitedLoad : Txn :=
  { kind := .ld, warp := 0, pc := 64, len := 8, x := gridLong 0 0 0 0 2 6 0 0 7 0, lanes := 1
    words := [{ lane := 0, index := 0, word := 0x40, va := 0x100 }], addrs := [(0, 0x100)] }

/-- Lane 0 of an ordered block issues a global RED of the word that its own load still awaits. -/
def redBehindLoad : State :=
  { State.reset with
    cur := { core := 0, berth := 0, lanes := 1, pc := 0, len := 8 }
    warps := [(0, probeWarp)]
    blocks := [(1, { probeBlock with ordered := true })]
    caches := [(0, [probePage])]
    store := [(64, 0x100)]
    txns := [(5, awaitedLoad)] }

theorem redBehindLoad_goes : Goes (.red plainRed) false redBehindLoad :=
  ⟨by decide +kernel, by decide +kernel, by decide +kernel, by decide +kernel⟩

/-- Where lane 0 of warp 0 stands after an outcome. -/
def firstPc : Out → Option DWord
  | .next t => (t.warp 0).lanes[0]?.map (fun v => v.pc)
  | _ => none

/-- The RED waits (R184): its lane stands where it stood. -/
theorem redBehindLoad_waits : firstPc (exec (.red plainRed) redBehindLoad) = some 0 := by decide +kernel

/-- Refutes O22: its clause on a RED of an ordered block leaves out that no earlier access holds the word, which the other
clauses ask for by `Allowed`. Behind a load of the lane to the word the RED waits, and its group does not pass. -/
theorem not_atomicsIssue : ¬ Obligations.AtomicsIssue := by
  intro holds
  have issue := holds plainRed redBehindLoad (.red plainRed, .red) (by simp) redBehindLoad_goes
  obtain ⟨-, -, fixer, -⟩ := issue nofun
  obtain ⟨t, step, ⟨-, lanes⟩, -⟩ := fixer rfl rfl rfl (by decide +kernel) (by decide +kernel) (by decide +kernel)
    (by decide +kernel)
  have passes : (t.warp 0).lanes[0]? =
      some (passed (issueCx (.red plainRed) redBehindLoad) { exited := false, rngs := 1, start := 1 }) := lanes 0 _ rfl
  have waits := redBehindLoad_waits
  rw [step, firstPc, passes] at waits
  exact absurd waits (by decide +kernel)

end Sys2Proof.Machine
end

section
/-! PROOFS. Barriers (R344, R345, R348): the lanes that stand at one, and the release that lets them go. -/

namespace Sys2Proof.Machine
open Sys2Proof.Safety

/-! ## Arrival (R344, R348) -/

/-- A lane of a group that stands at a barrier where it is active and passes where it is not. -/
def stoodLane (cx : Ctx) (wait : BarrierWait) (l : Nat) (v : Lane) : Lane :=
  if cx.act.getLsbD l then { v with bar := wait } else if cx.group.getLsbD l then passed cx v else v

/-- The warp whose active lanes stand at a barrier. -/
def stoodWarp (cx : Ctx) (wait : BarrierWait) (w : Warp) : Warp :=
  (w.modLanes cx.act (fun v => { v with bar := wait })).modLanes (cx.group &&& ~~~cx.act) (passed cx)

theorem stoodWarp_lanes (cx : Ctx) (wait : BarrierWait) (w : Warp) (l : Nat) :
    (stoodWarp cx wait w).lanes[l]? = w.lanes[l]?.map (stoodLane cx wait l) := by
  rw [stoodWarp, lanes_modLanes, lanes_modLanes, Option.map_map]
  congr 1
  funext v
  by_cases low : l < 32
  · have passes : (cx.group &&& ~~~cx.act).getLsbD l = (cx.group.getLsbD l && !cx.act.getLsbD l) := by
      rw [BitVec.getLsbD_and, BitVec.getLsbD_not, decide_eq_true low, Bool.true_and]
    rw [stoodLane, Function.comp_apply, passes]
    cases cx.act.getLsbD l <;> simp
  · simp [stoodLane, BitVec.getLsbD_of_ge, Nat.not_lt.1 low]

theorem standAt_eq (wait : Ctx → BarrierWait) (cx : Ctx) (s : State) : standAt wait cx s =
    s.modWarp cx.wk (fun w => s.unlatched cx.pc cx.wk (stoodWarp cx (wait cx) w)) := by
  simp only [standAt, State.advanceLanes, modWarp_modWarp]
  rfl

/-- What an arrival leaves: the active lanes stand, the others of the group have passed. -/
theorem standAt_kept (wait : Ctx → BarrierWait) (cx : Ctx) (s : State) :
    let t := standAt wait cx s
    WordsKept s t [] ∧ RestKept cx s t ∧ WarpKept cx s t 0 ∧
      (t.warp cx.wk).lanes.length = (s.warp cx.wk).lanes.length ∧
      ∀ l v, (s.warp cx.wk).lanes[l]? = some v → (t.warp cx.wk).lanes[l]? = some (stoodLane cx (wait cx) l v) := by
  obtain ⟨lanes, warp, -, rest⟩ := moved_kept (cx := cx) (s := s) (t := s) (move := stoodWarp cx (wait cx)) rfl rfl
  rw [← standAt_eq] at lanes warp rest
  refine ⟨fun k _ => ?_, rest, warp, ?_, fun l v there => ?_⟩
  · rw [standAt_eq]
    exact ⟨rfl, rfl, rfl⟩
  · rw [lanes, stoodWarp, length_modLanes, length_modLanes]
  · rw [lanes, stoodWarp_lanes, there]
    rfl

theorem exec_bar {x : Long} {s : State} (go : Goes (.bar x) false s) :
    exec (.bar x) s = .next (standAt (fun _ => .bar (x.cN % 8)) (issueCx (.bar x) s) s) :=
  congrArg Host.Outcome.next (issueOf_of_goes rfl go)

theorem exec_fix {x : Long} {s : State} (go : Goes (.fix x) false s) :
    exec (.fix x) s = .next (standAt (fun _ => .fix (x.cN % 8)) (issueCx (.fix x) s) s) :=
  congrArg Host.Outcome.next (issueOf_of_goes rfl go)

/-! ## A warp that leaves its barrier (R344, R345) -/

/-- A warp whose standing lanes pass their barrier. -/
def releasedWarp (park : Bool) (w : Warp) : Warp :=
  { w with
    lanes := w.lanes.map (fun v =>
      if v.exited || v.bar = .none then v else v.pass (BitVec.ofNat 64 (v.pc.toNat + 8)))
    latch := if w.lanes.any (fun v => v.bar ≠ .none && w.latch = some v.pc) then .none else w.latch
    parked := w.parked || park }

theorem acquires_eq (core : Nat) (scopes : List Nat) (s : State) : ∃ near acqs,
    scopes.foldl (fun s n => acquire n core s) s = { s with near := near, acqs := acqs } := by
  induction scopes generalizing s with
  | nil => exact ⟨_, _, rfl⟩
  | cons n scopes ih =>
    obtain ⟨near, acqs, rest⟩ := ih (acquire n core s)
    exact ⟨near, acqs, rest⟩

theorem leaveBarrier_eq (wk : Nat) (s : State) : ∃ near acqs cores park,
    leaveBarrier wk s = { s with near := near, acqs := acqs, cores := cores }.modWarp wk (releasedWarp park) := by
  unfold leaveBarrier
  dsimp only
  generalize (List.filterMap _ _ : List Nat).dedup = scopes
  generalize (List.dedup _ : List DWord).length = issues
  generalize (List.filter _ _ : List Lane).length = lanes
  generalize (_ && _) = park
  obtain ⟨near, acqs, acquired⟩ := acquires_eq (wk / 128) scopes s
  rw [acquired]
  obtain ⟨cores, counted, -⟩ := count_cores { s with near := near, acqs := acqs } (wk / 128) evIssues issues
  rw [counted]
  obtain ⟨cores', counted', -⟩ :=
    count_cores { s with near := near, acqs := acqs, cores := cores } (wk / 128) evLanes lanes
  rw [counted']
  exact ⟨near, acqs, cores', park, rfl⟩

/-- Warps have left their barrier: each of them by `change`, and no word, no byte, no block and no other warp
has changed. -/
structure Released (ks : List Nat) (change : Warp → Warp → Prop) (s t : State) : Prop where
  store  : t.store = s.store
  mem    : t.mem = s.mem
  others : ∀ k, k ∉ ks → t.warp k = s.warp k
  warps  : ∀ k ∈ ks, change (s.warp k) (t.warp k)

/-- A step of each warp of a list in turn, which are all distinct. -/
theorem released_foldl {change : Warp → Warp → Prop} {f : Nat → State → State}
    (one : ∀ k s, Released [k] change s (f k s)) {ks : List Nat} (distinct : ks.Nodup) (s : State) :
    Released ks change s (ks.foldl (fun s k => f k s) s) := by
  induction ks generalizing s with
  | nil => exact ⟨rfl, rfl, fun _ _ => rfl, nofun⟩
  | cons k ks ih =>
    obtain ⟨apart, distinct⟩ := List.nodup_cons.1 distinct
    have first := one k s
    have rest := ih distinct (f k s)
    refine ⟨rest.store.trans first.store, rest.mem.trans first.mem, fun j hj => ?_, fun j hj => ?_⟩
    · rw [List.mem_cons, not_or] at hj
      exact (rest.others j hj.2).trans (first.others j (by simpa using hj.1))
    · rcases List.mem_cons.1 hj with rfl | hj
      · rw [List.foldl_cons, rest.others j apart]
        exact first.warps j (List.mem_singleton_self j)
      · have ne : j ≠ k := fun e => apart (e ▸ hj)
        rw [← first.others j (by simpa using ne)]
        exact rest.warps j hj

theorem leaveBarrier_released (k : Nat) (s : State) :
    Released [k] (fun w w' => ∃ park, w' = releasedWarp park w) s (leaveBarrier k s) := by
  obtain ⟨near, acqs, cores, park, left⟩ := leaveBarrier_eq k s
  rw [left]
  refine ⟨rfl, rfl, fun j hj => warp_modWarp_ne _ _ (by simpa using hj), fun j hj => ⟨park, ?_⟩⟩
  obtain rfl := List.mem_singleton.1 hj
  rw [warp_modWarp_same]
  rfl

theorem restartCounts_released {ks : List Nat} (distinct : ks.Nodup) (s : State) :
    Released ks (fun w w' => w' = { w with localCount := 0 }) s (restartCounts ks s) := by
  refine released_foldl (f := fun k s => s.modWarp k (fun w => { w with localCount := 0 })) (fun k s => ?_) distinct s
  refine ⟨rfl, rfl, fun j hj => warp_modWarp_ne _ _ (by simpa using hj), fun j hj => ?_⟩
  obtain rfl := List.mem_singleton.1 hj
  rw [warp_modWarp_same]

/-! ## The release (R344) -/

/-- What a release waits for: every participant has arrived, and no entry of a fix point is left. -/
theorem clear_iff (s : State) (bs : List Nat) (wait : BarrierWait) :
    bs.all (fun b => !isFixPoint s b wait || !(s.block b).unapplied) = true ↔
      ∀ b ∈ bs, wait ≠ .bar 1 → (s.block b).ordered = true → (s.block b).fixer = [] ∧ (s.block b).batch = [] := by
  rw [List.all_eq_true]
  refine forall₂_congr fun b _ => ?_
  simp only [isFixPoint, Block.unapplied, Bool.or_eq_true, Bool.not_eq_true', Bool.and_eq_false_iff,
    decide_eq_false_iff_not, not_not, Bool.or_eq_false_iff, Bool.not_eq_false', List.isEmpty_iff]
  cases (s.block b).ordered <;> by_cases warp : wait = .bar 1 <;> simp [warp]

theorem releaseBarrier_eq {s : State} {wk : Nat} {wait : BarrierWait} (barrier : (s.warp wk).barrier = some wait) :
    releaseBarrier wk s =
      if (s.warp wk).live = true ∧ gathered s wk wait = true ∧
          ∀ b ∈ barrierBlocks s (s.warp wk).block wait, wait ≠ .bar 1 → (s.block b).ordered = true →
            (s.block b).fixer = [] ∧ (s.block b).batch = [] then
        let t := (participants s wk wait).foldl (fun s k => leaveBarrier k s) s
        if isFixPoint s (s.warp wk).block wait then restartCounts (participants s wk wait) t else t
      else s := by
  simp only [releaseBarrier, barrier, Bool.and_eq_true, clear_iff, and_assoc]

/-- The warp that a release leaves. -/
theorem releasedWarp_leaves (park : Bool) (w : Warp) :
    (releasedWarp park w).lanes = w.lanes.map (fun v =>
      if v.exited = true ∨ v.bar = .none then v else movedOn v (BitVec.ofNat 64 (v.pc.toNat + 8))) ∧
      (releasedWarp park w).qpreds = w.qpreds ∧ (releasedWarp park w).flags = w.flags := by
  refine ⟨?_, rfl, rfl⟩
  simp only [releasedWarp, Bool.or_eq_true, decide_eq_true_eq]
  rfl

/-- A barrier whose participants have all arrived releases (R344, R345). -/
theorem releaseBarrier_leaves {s : State} {wk : Nat} {wait : BarrierWait} {t : State}
    (distinct : (participants s wk wait).Nodup)
    (released : t = let u := (participants s wk wait).foldl (fun s k => leaveBarrier k s) s
      if isFixPoint s (s.warp wk).block wait then restartCounts (participants s wk wait) u else u) :
    Released (participants s wk wait) (fun w w' =>
      w'.lanes = w.lanes.map (fun v =>
        if v.exited = true ∨ v.bar = .none then v else movedOn v (BitVec.ofNat 64 (v.pc.toNat + 8))) ∧
      ((s.block (s.warp wk).block).ordered = true → wait ≠ .bar 1 → w'.localCount = 0) ∧
      w'.qpreds = w.qpreds ∧ w'.flags = w.flags) s t := by
  obtain ⟨store, mem, others, warps⟩ := released_foldl leaveBarrier_released distinct s
  dsimp only at released
  split at released
  · obtain ⟨store', mem', others', warps'⟩ := restartCounts_released distinct
      ((participants s wk wait).foldl (fun s k => leaveBarrier k s) s)
    rw [← released] at store' mem' others' warps'
    refine ⟨store'.trans store, mem'.trans mem, fun k hk => (others' k hk).trans (others k hk), fun k hk => ?_⟩
    obtain ⟨park, left⟩ := warps k hk
    rw [warps' k hk, left]
    obtain ⟨lanes, qpreds, flags⟩ := releasedWarp_leaves park (s.warp k)
    exact ⟨lanes, fun _ _ => rfl, qpreds, flags⟩
  · rename_i plain
    rw [← released] at store mem others warps
    refine ⟨store, mem, others, fun k hk => ?_⟩
    obtain ⟨park, left⟩ := warps k hk
    rw [left]
    obtain ⟨lanes, qpreds, flags⟩ := releasedWarp_leaves park (s.warp k)
    refine ⟨lanes, fun ordered remote => absurd ?_ plain, qpreds, flags⟩
    rw [isFixPoint, ordered, Bool.true_and]
    exact decide_eq_true remote

end Sys2Proof.Machine
end

section
/-! PROOFS. A fix point (R199, R346): the order of its batch, and the one entry of a batch at its home. -/

namespace Sys2Proof.Machine
open Sys2Proof.Safety Sys2Proof.Rules

/-! ## The order of a batch (R199) -/

/-- What orders the entries of a batch. -/
def FixEntry.key (e : FixEntry) : List Nat := [e.block, e.warp, e.lane, e.seq]

theorem before_iff (a b : FixEntry) : a.before b = true ↔ a.key < b.key := by
  show _ ↔ List.Lex (· < ·) a.key b.key
  simp [FixEntry.before, FixEntry.key, List.cons_lex_cons_iff]

theorem insertEntry_perm (e : FixEntry) (es : List FixEntry) : (insertEntry e es).Perm (e :: es) := by
  induction es with
  | nil => exact .refl _
  | cons x es ih =>
    rw [insertEntry]
    split
    · exact .refl _
    · exact (ih.cons x).trans (.swap e x es)

/-- Entries in the order of their keys. -/
def InOrder (es : List FixEntry) : Prop := es.Pairwise (fun a b => ¬ b.key < a.key)

theorem insertEntry_inOrder (e : FixEntry) {es : List FixEntry} (order : InOrder es) : InOrder (insertEntry e es) := by
  induction es with
  | nil => exact List.pairwise_singleton _ e
  | cons x es ih =>
    obtain ⟨first, rest⟩ := List.pairwise_cons.1 order
    rw [insertEntry]
    split
    · rename_i before
      have lt := (before_iff e x).1 before
      refine List.pairwise_cons.2 ⟨fun y hy less => ?_, order⟩
      rcases List.mem_cons.1 hy with rfl | hy
      · exact lt_asymm lt less
      · exact first y hy (less.trans lt)
    · rename_i after
      refine List.pairwise_cons.2 ⟨fun y hy => ?_, ih rest⟩
      rcases List.mem_cons.1 ((insertEntry_perm e es).mem_iff.1 hy) with rfl | hy
      · exact fun less => after ((before_iff _ _).2 less)
      · exact first y hy

theorem foldl_insertEntry {es acc : List FixEntry} (order : InOrder acc) :
    (es.foldl (fun acc e => insertEntry e acc) acc).Perm (es ++ acc) ∧
      InOrder (es.foldl (fun acc e => insertEntry e acc) acc) := by
  induction es generalizing acc with
  | nil => exact ⟨.refl _, order⟩
  | cons e es ih =>
    obtain ⟨perm, sorted⟩ := ih (insertEntry_inOrder e order)
    exact ⟨perm.trans (((insertEntry_perm e acc).append_left es).trans List.perm_middle), sorted⟩

theorem sortEntries_sorts (es : List FixEntry) : (sortEntries es).Perm es ∧ InOrder (sortEntries es) := by
  obtain ⟨perm, sorted⟩ := foldl_insertEntry (es := es) (acc := []) List.Pairwise.nil
  rw [List.append_nil] at perm
  exact ⟨perm, sorted⟩

/-! ## A fix point that is reached (R346) -/

theorem barrierBlocks_one {wait : BarrierWait} (alone : wait ≠ .bar 3) (s : State) (b : Nat) :
    barrierBlocks s b wait = [b] := by
  unfold barrierBlocks
  split
  · exact absurd rfl alone
  · rfl

section
variable {s : State} {b wk : Nat} {wait : BarrierWait}

/-- A running ordered block whose warps stand at a fix point. -/
theorem fixPoint_eq (ordered : (s.block b).ordered = true) (running : (s.block b).mode = .running)
    (first : (s.warpsOf b).head? = some wk) (barrier : (s.warp wk).barrier = some wait) (remote : wait ≠ .bar 1) :
    fixPoint b s = applyFixPoint b wk wait s := by
  simp [fixPoint, ordered, running, first, barrier, isFixPoint, remote]

theorem applyFixPoint_takes (alone : wait ≠ .bar 3) (here : gathered s wk wait = true) (fixer : (s.block b).fixer ≠ []) :
    applyFixPoint b wk wait s = s.setBlock b
      { s.block b with batch := (s.block b).batch ++ (s.block b).fixer, fixer := [] } := by
  simp [applyFixPoint, barrierBlocks_one alone, here, fixer, takeBatch, State.modBlock]

/-- A batch of one entry is applied and has left the block. -/
theorem applyFixPoint_one {e : FixEntry} (alone : wait ≠ .bar 3) (here : gathered s wk wait = true)
    (fixer : (s.block b).fixer = []) (batch : (s.block b).batch = [e])
    (lower : s.lowerRetired (s.block b).launch (s.block b).index = true)
    (quiet : entryQuiet s (s.block b).core (s.block b).ctx e = true) {t : State}
    (applied : applyEntry (s.block b).core (s.block b).ctx e (s.modBlock b (fun x => { x with batch := [] })) = (none, t)) :
    applyFixPoint b wk wait s = t := by
  have one : sortEntries [e] = [e] := rfl
  simp [applyFixPoint, barrierBlocks_one alone, here, fixer, batch, one, lower, quiet, applyAll, applied]

end

/-! ## Words written at their homes (R208) -/

/-- Words written at their homes: beside the bytes of memory, registrations, copies of the words and what a home
notes of a write nothing has changed. -/
structure WordsPut (es : List (Nat × Word)) (s t : State) : Prop where
  mem    : t.mem = es.foldl (fun m e => memPutWord m e.1 e.2) s.mem
  store  : t.store = s.store
  warps  : t.warps = s.warps
  blocks : t.blocks = s.blocks

theorem takeHome_eq_registry (s : State) (p : Nat) (clock : Bool) :
    s.takeHome p clock = { s with near := (s.takeHome p clock).near, registry := (s.takeHome p clock).registry } := by
  unfold State.takeHome
  dsimp only
  split
  · split <;> rfl
  · rfl

theorem writeHome_puts (core p : Nat) (v : Word) (s : State) : WordsPut [(p, v)] s (s.writeHome core p v) := by
  have taken : WordsPut [(p, v)] s (((s.wrote p).takeHome p false).homePut p v false) := by
    rw [takeHome_eq_registry, wrote_eq]
    exact ⟨rfl, rfl, rfl, rfl⟩
  obtain ⟨mem, store, warps, blocks⟩ := taken
  simp only [State.writeHome]
  split
  · exact ⟨mem, store, warps, blocks⟩
  · exact ⟨mem, store, warps, blocks⟩

theorem writeHomes_puts (core : Nat) (es : List (Nat × Word)) (s : State) : WordsPut es s (writeHomes core es s) := by
  induction es generalizing s with
  | nil => exact ⟨rfl, rfl, rfl, rfl⟩
  | cons e es ih =>
    have first := writeHome_puts core e.1 e.2 s
    have rest := ih (s.writeHome core e.1 e.2)
    refine ⟨?_, rest.store.trans first.store, rest.warps.trans first.warps, rest.blocks.trans first.blocks⟩
    exact rest.mem.trans (by rw [first.mem]; rfl)

/-- Distinct words of memory that have been written, and those beside them. -/
theorem foldl_memPutWord {es : List (Nat × Word)} {m : List Host.Cell} (wf : Memory.wf m)
    (distinct : (es.map Prod.fst).Nodup) :
    let m' := es.foldl (fun m e => memPutWord m e.1 e.2) m
    (∀ e ∈ es, memWord m' e.1 = e.2) ∧
      ∀ p, p ∉ es.map Prod.fst → memWord m' p = memWord m p ∧ ∀ a, a / 4 = p → memByte m' a = memByte m a := by
  induction es generalizing m with
  | nil => exact ⟨nofun, fun _ _ => ⟨rfl, fun _ _ => rfl⟩⟩
  | cons e es ih =>
    obtain ⟨apart, distinct⟩ := List.nodup_cons.1 distinct
    obtain ⟨words, others⟩ := ih (memPutWord_wf m e.1 e.2 wf) distinct
    refine ⟨fun f hf => ?_, fun p hp => ?_⟩
    · rcases List.mem_cons.1 hf with rfl | hf
      · exact (others _ apart).1.trans (memWord_memPutWord_same wf ..)
      · exact words f hf
    · rw [List.map_cons, List.mem_cons, not_or] at hp
      obtain ⟨ne, out⟩ := hp
      obtain ⟨word, byte⟩ := others p out
      exact ⟨word.trans (memWord_memPutWord_ne wf _ ne),
        fun a ha => (byte a ha).trans (memByte_memPutWord_ne _ wf _ _ _ (ha ▸ ne))⟩


/-! ## The one entry of a batch (R199, R346) -/

theorem block_of_modBlock {s t : State} {b : Nat} {f : Block → Block} (same : t.blocks = (s.modBlock b f).blocks) :
    t.block b = f (s.block b) := by
  rw [State.block, same]
  exact tget_tput_same ..

/-- A translation sees nothing of a block. -/
theorem translate_setBlock (s : State) (b : Nat) (v : Block) (core ctx : Nat) (handler : Bool) (n : Need) (va : Nat) :
    translate (s.setBlock b v) core ctx handler n va = translate s core ctx handler n va := by
  have walked (die : Nat) : walk (s.setBlock b v) die ctx va = walk s die ctx va :=
    walk_congr (s := s) (t := s.setBlock b v) rfl rfl rfl (fun _ => rfl) (fun _ => rfl) ctx va
  have found : lookup (s.setBlock b v) core ctx va = lookup s core ctx va := by
    simp only [lookup, walked]
    rfl
  simp only [translate, found]
  rfl

theorem takePin_eq (s : State) (p : Phys) : s.takePin p = { s with pins := (s.takePin p).pins } := by
  simp only [State.takePin]
  split
  · rfl
  · split <;> rfl

/-- The words that an entry's home writes, with their new values. -/
def entryPuts (e : FixEntry) (p : Phys) (v : Nat → Word) : List (Nat × Word) :=
  (entryWords e p).zip (putBytesIn (memBytes e.ty) p.pa ((List.range (wordCount (memBytes e.ty))).map v)
    (atomicNew e.op e.ty (bytesIn (memBytes e.ty) p.pa ((List.range (wordCount (memBytes e.ty))).map v)) e.value.toNat))

section
variable {s : State} {core ctx : Nat} {e : FixEntry} {p : Phys} {v : Nat → Word}

theorem entryQuiet_of_ok (there : translate s core ctx false needBoth e.addr.toNat = .ok p)
    (quiet : ∀ i, i < wordCount (memBytes e.ty) → s.quiet (p.pa / 4 + i) = true ∧
      (s.near_ core (p.pa / 4 + i)).reqPend = false) :
    entryQuiet s core ctx e = true := by
  simp only [entryQuiet, there, entryWords, upTo, Bool.or_eq_true, List.all_eq_true, List.forall_mem_map, List.mem_range,
    Bool.and_eq_true, Bool.not_eq_true']
  exact .inr quiet

/-- An entry whose words have their values at hand is performed as the RED it is. -/
theorem applyEntry_performs (there : translate s core ctx false needBoth e.addr.toNat = .ok p)
    (unwindowed : regionOf p.pa ≠ .fabric)
    (latest : ∀ i, i < wordCount (memBytes e.ty) → s.latest (p.pa / 4 + i) = some (v i, false)) :
    applyEntry core ctx e s = (none, writeHomes core (entryPuts e p v) (s.takePin p)) := by
  have pinned : (s.takePin p).latest = s.latest := by rw [takePin_eq]; rfl
  have found : (entryWords e p).find? (fun w => (s.latest w).isNone) = none := by
    simp +contextual [entryWords, upTo, latest]
  have clean : (entryWords e p).any (fun w => (s.latest w).any Prod.snd) = false := by
    simp +contextual [entryWords, upTo, latest]
  have values : (entryWords e p).map (fun w => ((s.latest w).getD (0, false)).1) =
      (List.range (wordCount (memBytes e.ty))).map v := by
    rw [entryWords, upTo, List.map_map]
    refine List.map_congr_left fun i hi => ?_
    rw [Function.comp_apply, latest i (List.mem_range.1 hi)]
    rfl
  simp only [applyEntry, there, if_neg unwindowed, pinned, found, clean, values]
  rfl

theorem entryPuts_keys (aligned : p.pa % min (memBytes e.ty) 4 = 0) :
    (entryPuts e p v).map Prod.fst = entryWords e p := by
  rw [entryPuts, putBytesIn_eq (by simp) aligned, List.map_fst_zip]
  simp [entryWords, upTo]

theorem entryWords_nodup (e : FixEntry) (p : Phys) : (entryWords e p).Nodup :=
  List.nodup_range.map fun i j (same : p.pa / 4 + i = p.pa / 4 + j) => by omega

/-- Word i of an entry's words, with its new value. -/
theorem mem_entryPuts (aligned : p.pa % min (memBytes e.ty) 4 = 0) {i : Nat} (inside : i < wordCount (memBytes e.ty)) :
    (p.pa / 4 + i, BitVec.ofNat 32 (replaced (memBytes e.ty) p.pa
      (ofWords ((List.range (wordCount (memBytes e.ty))).map v))
      (atomicRule e.op e.ty (bytesIn (memBytes e.ty) p.pa ((List.range (wordCount (memBytes e.ty))).map v))
        e.value.toNat) / 2 ^ (32 * i))) ∈ entryPuts e p v := by
  rw [entryPuts, putBytesIn_eq (by simp) aligned, atomicNew_eq, List.mem_iff_getElem?]
  refine ⟨i, List.getElem?_zip_eq_some.2 ⟨?_, ?_⟩⟩
  · simp [entryWords, upTo, inside]
  · exact getElem?_wordsOf _ (by simpa using inside)

end

/-- The home's step for the one entry of a batch: its words, and no byte beside them. -/
theorem entryPuts_written {s : State} {core : Nat} {e : FixEntry} {p : Phys} {v : Nat → Word} (wf : Memory.wf s.mem)
    (aligned : p.pa % min (memBytes e.ty) 4 = 0) :
    let t := writeHomes core (entryPuts e p v) (s.takePin p)
    let n := wordCount (memBytes e.ty)
    let all := ofWords ((List.range n).map v)
    t.warps = s.warps ∧ t.store = s.store ∧ t.blocks = s.blocks ∧
      (∀ i, i < n → memWord t.mem (p.pa / 4 + i) = BitVec.ofNat 32 (replaced (memBytes e.ty) p.pa all
        (atomicRule e.op e.ty (bytesIn (memBytes e.ty) p.pa ((List.range n).map v)) e.value.toNat) / 2 ^ (32 * i))) ∧
      ∀ c, (c / 4 < p.pa / 4 ∨ p.pa / 4 + n ≤ c / 4) → memByte t.mem c = memByte s.mem c := by
  dsimp only
  obtain ⟨mem, store, warps, blocks⟩ := writeHomes_puts core (entryPuts e p v) (s.takePin p)
  have pinned : (s.takePin p).mem = s.mem ∧ (s.takePin p).store = s.store ∧ (s.takePin p).warps = s.warps ∧
      (s.takePin p).blocks = s.blocks := by
    rw [takePin_eq]
    exact ⟨rfl, rfl, rfl, rfl⟩
  obtain ⟨sameMem, sameStore, sameWarps, sameBlocks⟩ := pinned
  rw [sameMem] at mem
  have keys := entryPuts_keys (v := v) aligned
  have distinct : ((entryPuts e p v).map Prod.fst).Nodup := keys ▸ entryWords_nodup e p
  obtain ⟨words, others⟩ := foldl_memPutWord wf distinct
  rw [mem]
  refine ⟨warps.trans sameWarps, store.trans sameStore, blocks.trans sameBlocks, fun i inside => ?_, fun c out => ?_⟩
  · have put := mem_entryPuts (v := v) aligned inside
    exact words (_, _) put
  · refine (others (c / 4) fun inside => ?_).2 c rfl
    rw [keys] at inside
    simp only [entryWords, upTo, List.mem_map, List.mem_range] at inside
    obtain ⟨i, lt, same⟩ := inside
    omega

/-! ## Barriers and fix points -/

/-- Settles O38: an arrival by `standAt_kept`, a release by induction on the participants, the order of a batch by
insertion, and the one entry of a batch by the words that its home writes. -/
theorem barriersAndFixPoints : Obligations.BarriersAndFixPoints := by
  refine ⟨⟨fun x s e he go => ?_, fun s wk wait now barrier => ⟨fun waits => ?_, fun here distinct => ?_⟩⟩,
    fun es => sortEntries_sorts es, ?_, ?_⟩
  · rcases List.mem_cons.1 he with rfl | he
    · exact ⟨_, exec_bar go, standAt_kept _ _ s⟩
    · obtain rfl := List.mem_singleton.1 he
      exact ⟨_, exec_fix go, standAt_kept _ _ s⟩
  · have stays : releaseBarrier wk s = s := (releaseBarrier_eq barrier).trans (if_neg waits)
    simp only [exec, execBarrierRelease, now, stays]
  · have leaves := (releaseBarrier_eq barrier).trans (if_pos here)
    obtain ⟨store, mem, others, warps⟩ := releaseBarrier_leaves distinct leaves
    exact ⟨_, by simp only [exec, execBarrierRelease, now], store, mem, others, warps⟩
  · intro s b wk wait now ordered running first barrier remote alone here fixer
    have taken := (fixPoint_eq ordered running first barrier remote).trans (applyFixPoint_takes alone here fixer)
    simp only [exec, execFixPointApply, now, taken]
  · intro s b wk wait e p v now ordered running first barrier remote alone here lower wf fixer batch there unwindowed
      z n all old new put aligned words
    have quiet := entryQuiet_of_ok there fun i hi => (words i hi).2
    have performs := applyEntry_performs (s := s.modBlock b (fun x => { x with batch := [] }))
      ((translate_setBlock ..).trans there) unwindowed fun i hi => (words i hi).1
    have applied := (fixPoint_eq ordered running first barrier remote).trans
      (applyFixPoint_one alone here fixer batch lower quiet performs)
    obtain ⟨warps, store, blocks, written, kept⟩ := entryPuts_written (core := (s.block b).core) (v := v)
      (s := s.modBlock b (fun x => { x with batch := [] })) wf aligned
    have block := block_of_modBlock blocks
    refine ⟨_, by simp only [exec, execFixPointApply, now, applied], ?_, ?_, warps, store, written, kept⟩
    · rw [block]
      exact fixer
    · rw [block]

end Sys2Proof.Machine
end

section
/-! PROOFS. Fences and cache controls (R185, R201): what an instruction over near caches leaves, and each of them by
what it does to the words in its scope. -/

namespace Sys2Proof.Machine
open Sys2Proof.Safety

/-! ## What cache controls leave -/

/-- Near caches, messages and counts may have changed: no store word, no byte of memory, no lane, and no other warp
has. -/
structure CachesMoved (wk : Nat) (s t : State) : Prop where
  store  : t.store = s.store
  empty  : t.empty = s.empty
  poison : t.poison = s.poison
  mem    : t.mem = s.mem
  bias   : t.hostBias = s.hostBias
  lanes  : (t.warp wk).lanes = (s.warp wk).lanes
  warps  : ∀ k, k ≠ wk → t.warp k = s.warp k

namespace CachesMoved

variable {wk : Nat} {s t u : State}

theorem refl (wk : Nat) (s : State) : CachesMoved wk s s := ⟨rfl, rfl, rfl, rfl, rfl, rfl, fun _ _ => rfl⟩

theorem trans (h : CachesMoved wk s t) (k : CachesMoved wk t u) : CachesMoved wk s u :=
  ⟨k.store.trans h.store, k.empty.trans h.empty, k.poison.trans h.poison, k.mem.trans h.mem, k.bias.trans h.bias,
    k.lanes.trans h.lanes, fun j hj => (k.warps j hj).trans (h.warps j hj)⟩

theorem foldl {α : Type} {f : State → α → State} (hf : ∀ s x, CachesMoved wk s (f s x)) (xs : List α) (s : State) :
    CachesMoved wk s (xs.foldl f s) :=
  foldl_related (refl wk) (fun _ _ _ => trans) f hf xs s

/-- What leaves the rest of the state as it was. -/
theorem of_state (h : t = { s with near := t.near, acqs := t.acqs, agenda := t.agenda, cores := t.cores }) :
    CachesMoved wk s t := by
  rw [h]
  exact ⟨rfl, rfl, rfl, rfl, rfl, rfl, fun _ _ => rfl⟩

theorem of_requested (h : Requested wk s t) : CachesMoved wk s t := by
  obtain ⟨state, -, warp, warps⟩ := h
  refine ⟨?_, ?_, ?_, ?_, ?_, by rw [warp], warps⟩
  all_goals rw [state]

/-- A page's way of access is the same before and after. -/
theorem direct (h : CachesMoved wk s t) (p : Phys) : t.direct p = s.direct p := by
  simp only [State.direct, h.bias]

/-- The group passes after such changes. -/
theorem passes {cx : Ctx} (h : CachesMoved cx.wk s t) :
    LanesPassed cx (s.warp cx.wk) ((t.advance cx).warp cx.wk) (fun _ v => v) ∧
      (∀ k, k ≠ cx.wk → (t.advance cx).warp k = s.warp k) ∧ (t.advance cx).store = s.store ∧
      (t.advance cx).empty = s.empty ∧ (t.advance cx).poison = s.poison :=
  ⟨lanesPassed_advance h.lanes, fun k hk => (warp_modWarp_ne _ _ hk).trans (h.warps k hk), h.store, h.empty, h.poison⟩

theorem memory {cx : Ctx} (h : CachesMoved cx.wk s t) : MemoryKept s (t.advance cx) := fun a =>
  congrArg (fun m => memByte m a) h.mem

end CachesMoved

/-- The table's word under a key, after a write of one word. -/
theorem tget_setNear (s : State) (c p : Nat) (v : NearWord) (k : Nat) :
    tget {} (s.setNear c p v).near k = if k = nearKey c p then v else tget {} s.near k := by
  rw [State.setNear_near]
  split
  · rw [‹k = nearKey c p›, tget_tput_same]
  · exact tget_tput_ne _ _ _ (Ne.symm ‹_›)

theorem near_setNear (s : State) (c p q : Nat) (v : NearWord) :
    (s.setNear c p v).near_ c q = if q = p then v else s.near_ c q := by
  have key : nearKey c q = nearKey c p ↔ q = p := by
    rw [nearKey, nearKey]
    omega
  rw [State.near_, tget_setNear]
  simp only [key]
  rfl

/-- What every step of a fold brings about for its own entry, and later steps keep, holds of all entries after it. -/
theorem foldl_establishes {α : Type} {P : α → State → Prop} {f : State → α → State} (own : ∀ s x, P x (f s x))
    (kept : ∀ x s y, P x s → P x (f s y)) (xs : List α) (s : State) : ∀ x ∈ xs, P x (xs.foldl f s) := by
  have stays (x : α) (ys : List α) (s : State) (h : P x s) : P x (ys.foldl f s) := by
    induction ys generalizing s with
    | nil => exact h
    | cons y ys ih => exact ih _ (kept x s y h)
  induction xs generalizing s with
  | nil => exact nofun
  | cons y ys ih =>
    intro x hx
    rcases List.mem_cons.1 hx with rfl | hx
    · exact stays x ys _ (own s x)
    · exact ih _ x hx

/-! ## Acquires (R185, R201) -/

/-- The words that an acquire or an invalidation drops. -/
theorem invalidate_near (scope core : Nat) (f : Nat → Bool) (s : State) :
    (invalidate scope core f s).near = s.near.map (fun (e : Nat × NearWord) =>
      if e.2.held = true ∧ e.2.reg = false ∧ coresIn scope core (e.1 / 2 ^ 50) = true ∧ f (e.1 % 2 ^ 50) = true then
        (e.1, e.2.drop) else e) := by
  simp only [invalidate]
  refine List.map_congr_left fun e _ => ?_
  simp only [Bool.and_eq_true, Bool.not_eq_true', and_assoc]

/-- Of the keys that count a core's acquires, its own, its cluster's, its die's and the package's, an acquire counts
at one, where its scope holds the core. -/
theorem acquireKey_counts (scope core c : Nat) :
    (if acquireKey scope core = 4 * c then 1 else 0) + (if acquireKey scope core = 4 * clusterOfCore c + 1 then 1 else 0) +
      (if acquireKey scope core = 4 * dieOfCore c + 2 then 1 else 0) + (if acquireKey scope core = 3 then 1 else 0) =
      if coresIn scope core c = true then 1 else 0 := by
  unfold acquireKey coresIn
  split
  all_goals
    simp only [decide_eq_true_eq]
    split_ifs
    all_goals omega

theorem acquires_invalidate (scope core : Nat) (f : Nat → Bool) (s : State) (c : Nat) :
    (invalidate scope core f s).acquires c = s.acquires c + if coresIn scope core c = true then 1 else 0 := by
  have counted (k : Nat) : tget 0 (invalidate scope core f s).acqs k =
      tget 0 s.acqs k + if acquireKey scope core = k then 1 else 0 := by
    simp only [invalidate]
    split
    · rw [← ‹acquireKey scope core = k›, tget_tput_same]
    · rw [tget_tput_ne _ _ _ ‹_›, Nat.add_zero]
  rw [← acquireKey_counts]
  simp only [State.acquires, counted]
  omega

theorem moved_invalidate (wk scope core : Nat) (f : Nat → Bool) (s : State) :
    CachesMoved wk s (invalidate scope core f s) := .of_state rfl

section
variable {x : Long} {s : State}

/-- A fence passes; one that acquires drops the Valid words in its scope. -/
theorem exec_fence (go : Goes (.fence x) false s) : exec (.fence x) s = .next
    ((if x.order = 1 ∨ x.order = 3 then invalidate (x.cN % 8) s.cur.core (fun _ => true) s else s).advance
      (issueCx (.fence x) s)) := by
  refine congrArg Host.Outcome.next ((issueOf_of_goes rfl go).trans ?_)
  simp only [fenceGroup, Machine.acquires, Bool.or_eq_true, decide_eq_true_eq]
  rfl

theorem exec_inva (go : Goes (.inva x) false s) : exec (.inva x) s = .next
    ((invalidate (x.cN % 8) s.cur.core (fun _ => true) s).advance (issueCx (.inva x) s)) :=
  congrArg Host.Outcome.next (issueOf_of_goes rfl go)

theorem exec_invr (go : Goes (.invr x) false s) {pages : List (Phys × Nat × Nat)}
    (translated : regionPages (issueCx (.invr x) s) s = .ok pages) : exec (.invr x) s = .next
    ((invalidate (x.cN % 8) s.cur.core (inPages pages) s).advance (issueCx (.invr x) s)) := by
  refine congrArg Host.Outcome.next ((issueOf_of_goes rfl go).trans ?_)
  rw [invrGroup, overRegions, translated]
  rfl

end

/-! ## Write-backs (R201, R210) -/

theorem moved_writeBack (wk core pw : Nat) (valid : Bool) (s : State) :
    CachesMoved wk s (writeBack core pw valid s) := by
  simp only [writeBack]
  split
  · exact .of_state rfl
  · exact .of_state rfl

/-- Words of a core have been written back and stay Valid: their values stand in messages to their homes, and no value
has changed. -/
structure WrittenBack (core : Nat) (pws : List Nat) (s t : State) : Prop where
  copies : ∀ q, (t.near_ core q).value = (s.near_ core q).value ∧ (t.near_ core q).poison = (s.near_ core q).poison ∧
    (t.near_ core q).err = (s.near_ core q).err
  sent   : ∀ e ∈ s.agenda, e ∈ t.agenda
  stays  : ∀ q, (s.near_ core q).held = true ∧ (s.near_ core q).reg = false →
    (t.near_ core q).held = true ∧ (t.near_ core q).reg = false
  back   : ∀ q ∈ pws, (t.near_ core q).held = true ∧ (t.near_ core q).reg = false ∧
    Event.wb q (agentOfCore core) (s.near_ core q).value (s.near_ core q).poison ∈ t.agenda

theorem writeBack_written {core pw : Nat} {s : State} (clean : (s.near_ core pw).err = false) :
    WrittenBack core [pw] s (writeBack core pw true s) := by
  have near (q : Nat) : (writeBack core pw true s).near_ core q = if q = pw then
      { s.near_ core pw with
        kept := true, keptVal := (s.near_ core pw).value, keptPoison := (s.near_ core pw).poison
        keptBlock := (s.near_ core pw).block, reg := false, held := true, clock := s.stamp (s.near_ core pw).clock }
      else s.near_ core q := by
    rw [← near_setNear]
    simp only [writeBack, clean, Bool.false_eq_true, if_false]
    rfl
  have agenda : (writeBack core pw true s).agenda =
      s.agenda ++ [.wb pw (agentOfCore core) (s.near_ core pw).value (s.near_ core pw).poison] := by
    simp only [writeBack, clean, Bool.false_eq_true, if_false]
    rfl
  refine ⟨fun q => ?_, fun e he => ?_, fun q held => ?_, fun q hq => ?_⟩
  · rw [near]
    split
    · rw [‹q = pw›]
      exact ⟨rfl, rfl, rfl⟩
    · exact ⟨rfl, rfl, rfl⟩
  · rw [agenda]
    exact List.mem_append_left _ he
  · rw [near]
    split
    · exact ⟨rfl, rfl⟩
    · exact held
  · obtain rfl := List.mem_singleton.1 hq
    rw [near, if_pos rfl, agenda]
    exact ⟨rfl, rfl, List.mem_append_right _ (List.mem_singleton_self _)⟩

theorem foldl_writeBack {core : Nat} {pws : List Nat} {s : State} (clean : ∀ q ∈ pws, (s.near_ core q).err = false) :
    WrittenBack core pws s (pws.foldl (fun s q => writeBack core q true s) s) := by
  induction pws generalizing s with
  | nil => exact ⟨fun _ => ⟨rfl, rfl, rfl⟩, fun _ he => he, fun _ h => h, nofun⟩
  | cons pw pws ih =>
    have first := writeBack_written (clean pw (List.mem_cons_self ..))
    have rest := ih (s := writeBack core pw true s) fun q hq =>
      (first.copies q).2.2.trans (clean q (List.mem_cons_of_mem _ hq))
    refine ⟨fun q => ?_, fun e he => rest.sent e (first.sent e he), fun q held => rest.stays q (first.stays q held),
      fun q hq => ?_⟩
    · obtain ⟨value, poison, err⟩ := first.copies q
      obtain ⟨value', poison', err'⟩ := rest.copies q
      exact ⟨value'.trans value, poison'.trans poison, err'.trans err⟩
    rcases List.mem_cons.1 hq with rfl | hq
    · obtain ⟨held, reg, sent⟩ := first.back q (List.mem_singleton_self q)
      obtain ⟨held, reg⟩ := rest.stays q ⟨held, reg⟩
      exact ⟨held, reg, rest.sent _ sent⟩
    · obtain ⟨value, poison, -⟩ := first.copies q
      have back := rest.back q hq
      rwa [value, poison] at back

/-- The words of an instruction over regions that a core has Registered. -/
def registeredIn (core : Nat) (pages : List (Phys × Nat × Nat)) (s : State) : List Nat :=
  s.nearWords core (fun pw w => inPages pages pw && w.held && w.reg)

theorem mem_registeredIn {core : Nat} {pages : List (Phys × Nat × Nat)} {s : State} {pw : Nat} :
    pw ∈ registeredIn core pages s ↔ ∃ e ∈ s.near, (e.1 / 2 ^ 50 = core ∧ inPages pages (e.1 % 2 ^ 50) = true ∧
      e.2.held = true ∧ e.2.reg = true) ∧ e.1 % 2 ^ 50 = pw := by
  simp only [registeredIn, State.nearWords, List.mem_map, List.mem_filter, Bool.and_eq_true, decide_eq_true_eq, and_assoc]

/-- WBR of words of which none is pending writes each of them back. -/
theorem wbrGroup_eq {cx : Ctx} {s : State} {pages : List (Phys × Nat × Nat)} (translated : regionPages cx s = .ok pages)
    (settled : ∀ pw ∈ registeredIn cx.core pages s, (s.near_ cx.core pw).fillPend = false ∧
      (s.near_ cx.core pw).kept = false ∧ (s.near_ cx.core pw).reqPend = false) :
    wbrGroup cx s = ((registeredIn cx.core pages s).foldl (fun s pw => writeBack cx.core pw true s) s).advance cx := by
  have free : (registeredIn cx.core pages s).any (fun pw => (s.near_ cx.core pw).reqPend ||
      (s.near_ cx.core pw).fillPend || (s.near_ cx.core pw).kept) = false := by
    rw [List.any_eq_false]
    intro pw hpw
    obtain ⟨fill, kept, req⟩ := settled pw hpw
    simp [fill, kept, req]
  simp only [registeredIn] at free ⊢
  simp only [wbrGroup, overRegions, translated, free, Bool.false_eq_true, if_false]

theorem exec_wbr {x : Long} {s : State} (go : Goes (.wbr x) false s) :
    exec (.wbr x) s = .next (wbrGroup (issueCx (.wbr x) s) s) :=
  congrArg Host.Outcome.next (issueOf_of_goes rfl go)

/-! ## REGR (R201, R210) -/

/-- The near caches' table holds a Registered copy under a key. -/
def RegisteredAt (s : State) (k : Nat) : Prop := (tget {} s.near k).held = true ∧ (tget {} s.near k).reg = true

/-- A step that registers words of near caches: it moves nothing else, and takes no registration away. -/
def Registers (wk : Nat) (s t : State) : Prop := CachesMoved wk s t ∧ ∀ k, RegisteredAt s k → RegisteredAt t k

namespace Registers

variable {wk : Nat}

theorem refl (s : State) : Registers wk s s := ⟨.refl wk s, fun _ h => h⟩

theorem trans (s t u : State) (h : Registers wk s t) (k : Registers wk t u) : Registers wk s u :=
  ⟨h.1.trans k.1, fun j hj => k.2 j (h.2 j hj)⟩

theorem foldl {α : Type} {f : State → α → State} (hf : ∀ s x, Registers wk s (f s x)) (xs : List α) (s : State) :
    Registers wk s (xs.foldl f s) := foldl_related refl trans f hf xs s

theorem of_requested {s t : State} (h : Requested wk s t) : Registers wk s t :=
  ⟨.of_requested h, fun k => by rw [RegisteredAt, RegisteredAt, h.state]; exact id⟩

/-- A word set to a Registered copy. -/
theorem setNear (s : State) (c p : Nat) {v : NearWord} (held : v.held = true) (reg : v.reg = true) :
    Registers wk s (s.setNear c p v) ∧ RegisteredAt (s.setNear c p v) (nearKey c p) := by
  have there : RegisteredAt (s.setNear c p v) (nearKey c p) := by
    rw [RegisteredAt, tget_setNear, if_pos rfl]
    exact ⟨held, reg⟩
  refine ⟨⟨.of_state rfl, fun k hk => ?_⟩, there⟩
  by_cases same : k = nearKey c p
  · rwa [same]
  · rwa [RegisteredAt, tget_setNear, if_neg same]

end Registers

/-- Asking for the registration of a word takes no registration away, the word's own neither. -/
theorem registers_askReg {wk core pw : Nat} {s : State} (there : RegisteredAt s (nearKey core pw)) (want : Bool)
    (order : Nat) : Registers wk s (s.askReg core pw want order) := by
  have counted : Registers wk s (s.count core evRegs 1) := .of_requested (requested_count s core evRegs 1)
  simp only [State.askReg]
  split
  · exact counted.trans _ _ _ (Registers.setNear _ _ _ (by exact there.1) (by exact there.2)).1
  · exact counted.trans _ _ _ ⟨.of_state rfl, fun _ h => h⟩

theorem nearClaim_registers (wk core pw block asker order claim : Nat) (want : Bool) (s : State) :
    Registers wk s (nearClaim core pw block asker order claim want s) ∧
      RegisteredAt (nearClaim core pw block asker order claim want s) (nearKey core pw) := by
  simp only [nearClaim]
  split
  · rename_i here
    exact ⟨.refl s, Bool.and_eq_true_iff.1 here⟩
  · obtain ⟨set, there⟩ := Registers.setNear (wk := wk) s core pw (v := { s.near_ core pw with
      held := true, reg := true, reqPend := true, fillPend := want, bytes := 0
      value := if (s.near_ core pw).held then (s.near_ core pw).value else s.homeCopy pw
      poison := !want, err := false, block := block, reqBlock := block, claim := claim
      asker := asker, askIdx := (s.warp asker).index, rclk := (s.warp asker).rclk }) rfl rfl
    have asked := registers_askReg (wk := wk) there want order
    exact ⟨set.trans _ _ _ asked, asked.2 _ there⟩

/-- The words of one page are claimed. -/
def claimPage (cx : Ctx) (s : State) (e : Phys × Nat × Nat) : State :=
  if s.direct e.1 then s
  else (upTo (e.2.2 / 4)).foldl (fun s i =>
    nearClaim cx.core (e.2.1 / 4 + i) (s.blockKey cx) cx.wk (s.storeOrder cx e.1) 0 true s) (s.takePin e.1)

theorem claimPage_registers (cx : Ctx) (s : State) (e : Phys × Nat × Nat) :
    Registers cx.wk s (claimPage cx s e) ∧ (s.direct e.1 = false → ∀ i, i < e.2.2 / 4 →
      RegisteredAt (claimPage cx s e) (nearKey cx.core (e.2.1 / 4 + i))) := by
  have one (s : State) (i : Nat) := nearClaim_registers cx.wk cx.core (e.2.1 / 4 + i) (s.blockKey cx) cx.wk
    (s.storeOrder cx e.1) 0 true s
  unfold claimPage
  split
  · rename_i direct
    exact ⟨.refl s, fun registers => absurd (direct.symm.trans registers) (by decide)⟩
  · refine ⟨(Registers.of_requested (requested_takePin s e.1)).trans _ _ _ (.foldl (fun s i => (one s i).1) _ _),
      fun _ i hi => ?_⟩
    exact foldl_establishes (P := fun i s => RegisteredAt s (nearKey cx.core (e.2.1 / 4 + i)))
      (f := fun s i => nearClaim cx.core (e.2.1 / 4 + i) (s.blockKey cx) cx.wk (s.storeOrder cx e.1) 0 true s)
      (fun s i => (one s i).2) (fun i s j h => (one s j).1.2 _ h) _ _ i (List.mem_range.2 hi)

/-- The words of all pages are claimed. -/
theorem claimPages_registers (cx : Ctx) (pages : List (Phys × Nat × Nat)) (s : State) :
    Registers cx.wk s (pages.foldl (claimPage cx) s) ∧ ∀ p ∈ pages, s.direct p.1 = false → ∀ i, i < p.2.2 / 4 →
      RegisteredAt (pages.foldl (claimPage cx) s) (nearKey cx.core (p.2.1 / 4 + i)) := by
  have one := claimPage_registers cx
  have all := Registers.foldl (fun s e => (one s e).1) pages s
  refine ⟨all, fun p hp direct => ?_⟩
  refine foldl_establishes (P := fun p s => s.direct p.1 = false → ∀ i, i < p.2.2 / 4 →
    RegisteredAt s (nearKey cx.core (p.2.1 / 4 + i))) (fun s e direct => (one s e).2 ?_) (fun p s e h direct i hi => ?_)
    pages s p hp ?_
  · rwa [(one s e).1.1.direct] at direct
  · exact (one s e).1.2 _ (h ((one s e).1.1.direct p.1 ▸ direct) i hi)
  · rwa [all.1.direct]

section
variable {x : Long} {s : State}

/-- REGR refuses a range outside its limits. -/
theorem exec_regr_refused (go : Goes (.regr x) false s) :
    let cx := issueCx (.regr x) s
    let a := s.opA cx (groupLane cx)
    let len := s.opB cx (groupLane cx)
    a % 4 ≠ 0 ∨ len % 4 ≠ 0 ∨ len < 4 ∨ 4096 < len → exec (.regr x) s = .next (s.raise cx.wk
      (s.trapOf cx .permission 0 cx.act (BitVec.ofNat 64 a))) := by
  intro cx a len outside
  refine congrArg Host.Outcome.next ((issueOf_of_goes rfl go).trans (if_pos ?_))
  simpa only [Bool.or_eq_true, decide_eq_true_eq, or_assoc] using outside

/-- The requests of a REGR, one a line of its pages. -/
def regrRequests (a : Nat) (pages : List (Phys × Nat × Nat)) : List (Nat × Place) :=
  lineRequests (pages.foldl (fun (acc : List (Nat × Phys × Nat) × Nat) e =>
    (acc.1 ++ [(acc.2, { e.1 with pa := e.2.1 }, e.2.2)], acc.2 + e.2.2)) ([], a)).1

/-- REGR of a range whose pages translate counts its requests and claims their words. -/
theorem exec_regr (go : Goes (.regr x) false s) {pages : List (Phys × Nat × Nat)} :
    let cx := issueCx (.regr x) s
    let a := s.opA cx (groupLane cx)
    let len := s.opB cx (groupLane cx)
    a % 4 = 0 → len % 4 = 0 → 4 ≤ len → len ≤ 4096 → pagesOf s cx needBoth a len = .ok pages →
    (∀ p ∈ pages, leafHome p.1.leaf ≠ 3) →
    exec (.regr x) s = .next ((pages.foldl (claimPage cx) (s.countRequests cx 1 (regrRequests a pages))).advance cx) := by
  intro cx a len aligned whole least most translated cached
  refine congrArg Host.Outcome.next ((issueOf_of_goes rfl go).trans ?_)
  have inside : ¬ (a % 4 ≠ 0 || len % 4 ≠ 0 || len < 4 || 4096 < len) = true := by
    simp [aligned, whole, least, most]
  have uncached : ¬ pages.any (fun e => leafHome e.1.leaf = 3) = true := by
    simpa using fun p v k hp => cached (p, v, k) hp
  refine (if_neg inside).trans ?_
  rw [translated]
  exact if_neg uncached

end

/-! ## PREF (R201) -/

/-- A step that prefetches words: it moves nothing but caches and messages, and of a near cache's word it changes
only who prefetched it. -/
def Prefetches (wk : Nat) (s t : State) : Prop :=
  CachesMoved wk s t ∧ ∀ k, tget {} t.near k = { tget {} s.near k with pref := (tget {} t.near k).pref }

namespace Prefetches

variable {wk : Nat}

theorem refl (s : State) : Prefetches wk s s := ⟨.refl wk s, fun _ => rfl⟩

theorem trans (s t u : State) (h : Prefetches wk s t) (k : Prefetches wk t u) : Prefetches wk s u :=
  ⟨h.1.trans k.1, fun j => by rw [k.2 j, h.2 j]⟩

theorem foldl {α : Type} {f : State → α → State} (hf : ∀ s x, Prefetches wk s (f s x)) (xs : List α) (s : State) :
    Prefetches wk s (xs.foldl f s) := foldl_related refl trans f hf xs s

theorem of_requested {s t : State} (h : Requested wk s t) : Prefetches wk s t :=
  ⟨.of_requested h, fun k => by rw [h.state]⟩

end Prefetches

theorem prefetches_setNear (wk : Nat) (s : State) (c p : Nat) (asker : Option (Nat × Nat × Nat × Nat)) :
    Prefetches wk s (s.setNear c p { s.near_ c p with pref := asker }) := by
  refine ⟨.of_state rfl, fun k => ?_⟩
  rw [tget_setNear]
  split
  · rw [‹k = nearKey c p›]
    rfl
  · rfl

theorem prefetchPage_prefetches (wk : Nat) (cx : Ctx) (pa k : Nat) (s : State) :
    Prefetches wk s (prefetchPage cx pa k s) := by
  refine .foldl (fun s i => ?_) _ _
  dsimp only
  split
  · exact .refl s
  · exact (prefetches_setNear ..).trans _ _ _ ⟨.of_state rfl, fun _ => rfl⟩

/-- The lines of one page are asked for. -/
def fetchPage (cx : Ctx) (s : State) (e : Nat × Phys × Nat) : State :=
  if s.direct e.2.1 then s else prefetchPage cx e.2.1.pa e.2.2 (s.takePin e.2.1)

theorem fetchPage_prefetches (wk : Nat) (cx : Ctx) (s : State) (e : Nat × Phys × Nat) :
    Prefetches wk s (fetchPage cx s e) := by
  unfold fetchPage
  split
  · exact .refl s
  · exact (Prefetches.of_requested (requested_takePin s e.2.1)).trans _ _ _ (prefetchPage_prefetches ..)

theorem fetchPages_prefetches (cx : Ctx) (pages : List (Nat × Phys × Nat)) (s : State) :
    Prefetches cx.wk s (pages.foldl (fetchPage cx) (s.countRequests cx 0 (lineRequests pages))) :=
  (Prefetches.of_requested (requested_countRequests ..)).trans _ _ _ (.foldl (fetchPage_prefetches _ cx) _ _)

/-- PREF by its operands: none outside its limits, a wait for a walk, or the pages that it asks for. -/
theorem prefGroup_eq (cx : Ctx) (s : State) :
    let a := s.opA cx (groupLane cx)
    let len := s.opB cx (groupLane cx)
    let pages := prefetchPages cx s 514 (a / 128 * 128) ((a + len + 127) / 128 * 128 - a / 128 * 128)
    prefGroup cx s =
      if cx.x.cN % 2 = 1 ∨ len = 0 ∨ 65536 < len then s.advance cx
      else if prefetchWaits cx s (a / 128 * 128) ((a + len + 127) / 128 - a / 128) = true then s
      else (pages.foldl (fetchPage cx) (s.countRequests cx 0 (lineRequests pages))).advance cx := by
  simp only [prefGroup, Bool.or_eq_true, decide_eq_true_eq, or_assoc]
  rfl

theorem exec_pref {x : Long} {s : State} (go : Goes (.pref x) false s) :
    exec (.pref x) s = .next (prefGroup (issueCx (.pref x) s) s) :=
  congrArg Host.Outcome.next (issueOf_of_goes rfl go)

/-! ## Fences and cache controls -/

/-- What an acquire or an invalidation leaves once the group has passed. -/
theorem invalidate_drops (cx : Ctx) (scope core : Nat) (f : Nat → Bool) (s : State) :
    let t := (invalidate scope core f s).advance cx
    (t.near = s.near.map (fun (e : Nat × NearWord) =>
      if e.2.held = true ∧ e.2.reg = false ∧ coresIn scope core (e.1 / 2 ^ 50) = true ∧ f (e.1 % 2 ^ 50) = true then
        (e.1, e.2.drop) else e) ∧
      ∀ c, t.acquires c = s.acquires c + if coresIn scope core c = true then 1 else 0) ∧
    t = { s with warps := t.warps, near := t.near, acqs := t.acqs } :=
  ⟨⟨invalidate_near scope core f s, acquires_invalidate scope core f s⟩, rfl⟩

/-- WBR leaves every word of its regions that it found Registered written back and Valid. -/
theorem wbrGroup_leaves {cx : Ctx} {s : State} {pages : List (Phys × Nat × Nat)} (translated : regionPages cx s = .ok pages)
    (settled : ∀ pw ∈ registeredIn cx.core pages s, (s.near_ cx.core pw).fillPend = false ∧
      (s.near_ cx.core pw).kept = false ∧ (s.near_ cx.core pw).reqPend = false ∧ (s.near_ cx.core pw).err = false) :
    ∃ t, CachesMoved cx.wk s t ∧ WrittenBack cx.core (registeredIn cx.core pages s) s t ∧ wbrGroup cx s = t.advance cx := by
  refine ⟨_, .foldl (fun _ _ => moved_writeBack ..) _ _, foldl_writeBack fun pw hpw => ?_,
    wbrGroup_eq translated fun pw hpw => ?_⟩
  · obtain ⟨-, -, -, err⟩ := settled pw hpw
    exact err
  · obtain ⟨fill, kept, req, -⟩ := settled pw hpw
    exact ⟨fill, kept, req⟩

/-- REGR leaves the words of its pages Registered, or to be. -/
theorem exec_regr_leaves {x : Long} {s : State} (go : Goes (.regr x) false s) {pages : List (Phys × Nat × Nat)} :
    let cx := issueCx (.regr x) s
    let a := s.opA cx (groupLane cx)
    let len := s.opB cx (groupLane cx)
    a % 4 = 0 → len % 4 = 0 → 4 ≤ len → len ≤ 4096 → pagesOf s cx needBoth a len = .ok pages →
    (∀ p ∈ pages, leafHome p.1.leaf ≠ 3) →
    ∃ t, CachesMoved cx.wk s t ∧ exec (.regr x) s = .next (t.advance cx) ∧
      ∀ p ∈ pages, s.direct p.1 = false → ∀ i, i < p.2.2 / 4 → RegisteredAt t (nearKey cx.core (p.2.1 / 4 + i)) := by
  intro cx a len aligned whole least most translated cached
  have counted := CachesMoved.of_requested (requested_countRequests s cx 1 (regrRequests a pages))
  obtain ⟨moved, claimed⟩ := claimPages_registers cx pages (s.countRequests cx 1 (regrRequests a pages))
  exact ⟨_, counted.trans moved.1, exec_regr go aligned whole least most translated cached,
    fun p hp direct i hi => claimed p hp ((counted.direct p.1).trans direct) i hi⟩

/-- Settles O24: each instruction by what it does to the near caches, and `CachesMoved` for the rest. -/
theorem cacheControls : Obligations.CacheControls := by
  intro x s drops passes
  refine ⟨fun go => ?_, fun go => ?_, fun go pages translated => ?_, fun go pages translated => ?_, fun go => ?_,
    fun go => ?_⟩
  · refine ⟨_, exec_fence go, ?_⟩
    split
    · obtain ⟨dropped, rest⟩ := invalidate_drops (issueCx (.fence x) s) (x.cN % 8) s.cur.core (fun _ => true) s
      exact ⟨(moved_invalidate ..).passes, dropped, rest⟩
    · exact ⟨(CachesMoved.refl _ s).passes, ⟨rfl, rfl⟩, rfl⟩
  · obtain ⟨dropped, rest⟩ := invalidate_drops (issueCx (.inva x) s) (x.cN % 8) s.cur.core (fun _ => true) s
    exact ⟨_, exec_inva go, (moved_invalidate ..).passes, dropped, rest⟩
  · obtain ⟨dropped, rest⟩ := invalidate_drops (issueCx (.invr x) s) (x.cN % 8) s.cur.core (inPages pages) s
    exact ⟨_, exec_invr go translated, (moved_invalidate ..).passes, dropped, rest⟩
  · intro mine settled
    obtain ⟨t, moved, written, wrote⟩ := wbrGroup_leaves translated fun pw hpw => by
      obtain ⟨e, he, own, rfl⟩ := mem_registeredIn.1 hpw
      exact settled e he own
    refine ⟨_, (exec_wbr go).trans (congrArg _ wrote), moved.passes, moved.memory, fun e he own => ?_⟩
    exact written.back _ (mem_registeredIn.2 ⟨e, he, own, rfl⟩)
  · refine ⟨fun outside => ⟨_, exec_regr_refused go outside, rfl, rfl, rfl, rfl⟩, ?_⟩
    intro aligned whole least most pages translated cached
    obtain ⟨t, moved, passed, registered⟩ := exec_regr_leaves go aligned whole least most translated cached
    exact ⟨_, passed, moved.passes, moved.memory, registered⟩
  · refine ⟨fun idle => ?_, fun asks waits => ?_, fun asks free => ?_⟩
    · exact (exec_pref go).trans (congrArg _ ((prefGroup_eq ..).trans (if_pos idle)))
    · exact (exec_pref go).trans (congrArg _ ((prefGroup_eq ..).trans ((if_neg asks).trans (if_pos waits))))
    · obtain ⟨moved, near⟩ := fetchPages_prefetches (issueCx (.pref x) s) _ s
      exact ⟨_, (exec_pref go).trans (congrArg _ ((prefGroup_eq ..).trans ((if_neg asks).trans
        (if_neg (Bool.eq_false_iff.1 free))))), moved.passes, moved.memory, fun c pw => near (nearKey c pw)⟩

end Sys2Proof.Machine
end

section
/-! PROOFS. The registry entry of a line (R208, R209): owners by their word codes, slots taken and freed, and what the
end of a recall leaves. -/

namespace Sys2Proof.Machine

/-! ## Word codes (R208) -/

theorem Line.owner_of_code_zero {v : Line} {i : Nat} (code : lget 0 v.codes i = 0) : v.owner i = .unowned := by
  simp only [Line.owner, code]
  rfl

theorem Line.owner_of_code_one {v : Line} {i : Nat} (code : lget 0 v.codes i = 1) : v.owner i = .lost := by
  simp only [Line.owner, code]
  rfl

/-- The code of a slot as a number (R208). -/
theorem toNat_slotCode {k : Nat} (four : k < 4) : (BitVec.ofNat 3 (4 + k)).toNat = 4 + k := by
  rw [BitVec.toNat_ofNat]
  omega

theorem Line.owner_of_slot {v : Line} {i k a age : Nat} (four : k < 4)
    (code : lget 0 v.codes i = BitVec.ofNat 3 (4 + k)) (slot : lget .none v.slots k = some ⟨a, age⟩) :
    v.owner i = .agent a := by
  have one : ¬ 4 + k = 1 := by omega
  have low : ¬ 4 + k < 4 := by omega
  simp only [Line.owner, code, toNat_slotCode four, one, low, if_false, Nat.add_sub_cancel_left, slot]

theorem State.owner_of_code_zero {s : State} {p : Nat} (code : lget 0 (s.line (p / 32)).codes (p % 32) = 0) :
    s.owner p = .unowned :=
  Line.owner_of_code_zero code

theorem State.owner_of_code_one {s : State} {p : Nat} (code : lget 0 (s.line (p / 32)).codes (p % 32) = 1) :
    s.owner p = .lost :=
  Line.owner_of_code_one code

/-- The code that a word of a line has been given. -/
theorem code_setCode_same {v : Line} {i : Nat} (c : BitVec 3) (codes : v.codes = [] ∨ v.codes.length = 32)
    (word : i < 32) : lget 0 (v.setCode i c).codes i = c := by
  have inside : i < (if v.codes.isEmpty then lrep 0 32 else v.codes).length := by
    rcases codes with none_ | all
    · rw [none_]
      exact word
    · have some_ : ¬ v.codes.isEmpty = true := by
        rw [List.isEmpty_iff]
        rintro none_
        rw [none_] at all
        cases all
      rw [if_neg some_, all]
      exact word
  simp only [Line.setCode]
  rw [lget_eq, getElem?_lupd, if_pos rfl, List.getElem?_eq_getElem inside]
  rfl

/-! ## Slots (R208, R209) -/

theorem slotOf_some {v : Line} {a k : Nat} (found : v.slotOf a = some k) :
    k < 4 ∧ ∃ sl, lget .none v.slots k = some sl ∧ sl.agent = a := by
  refine ⟨List.mem_range.1 (List.mem_of_find?_eq_some found), ?_⟩
  have there := List.find?_some found
  split at there
  next sl slot => exact ⟨sl, slot, of_decide_eq_true there⟩
  next => cases there

theorem freeSlot_some {v : Line} {k : Nat} (found : v.freeSlot = some k) : k < 4 :=
  List.mem_range.1 (List.mem_of_find?_eq_some found)

theorem slot_takeSlot {v : Line} {k : Nat} (a : Nat) (four : v.slots.length = 4) (inside : k < 4) :
    lget .none (v.takeSlot k a).slots k = some ⟨a, 0⟩ := by
  simp only [Line.takeSlot]
  rw [lget_eq, getElem?_lupd, if_pos rfl, List.getElem?_eq_getElem (by rw [List.length_map, four]; exact inside)]
  rfl

/-- A slot that a word uses is not freed, and keeps its agent. -/
theorem slot_freeUnused_used {v : Line} {k : Nat} {sl : Slot} (slot : lget .none v.slots k = some sl)
    (used : v.uses k = true) : ∃ age, lget .none v.freeUnused.slots k = some ⟨sl.agent, age⟩ := by
  have there : v.slots[k]? = some (some sl) := by
    rw [lget_eq] at slot
    cases there : v.slots[k]? with
    | none => simp [there] at slot
    | some o => simpa [there] using slot
  simp only [Line.freeUnused, rankSlots, lget_eq, List.getElem?_map, List.getElem?_zipIdx, there, Option.map_some,
    Nat.zero_add, used, if_true, Option.getD_some]
  exact ⟨_, rfl⟩

theorem uses_of_code {v : Line} {i k : Nat} (four : k < 4) (code : lget 0 v.codes i = BitVec.ofNat 3 (4 + k)) :
    v.uses k = true := by
  rw [lget_eq] at code
  cases there : v.codes[i]? with
  | none =>
    rw [there] at code
    have := congrArg BitVec.toNat code
    rw [toNat_slotCode four] at this
    simp at this
    omega
  | some c =>
    rw [there, Option.getD_some] at code
    exact List.any_eq_true.2 ⟨c, List.mem_of_getElem? there, decide_eq_true (code ▸ toNat_slotCode four)⟩

/-- A word registered in a slot of its line has the slot's agent as its owner once unused slots are freed. -/
theorem owner_registered {v : Line} {i k : Nat} {sl : Slot} (codes : v.codes = [] ∨ v.codes.length = 32)
    (word : i < 32) (four : k < 4) (slot : lget .none v.slots k = some sl) :
    (v.setCode i (BitVec.ofNat 3 (4 + k))).freeUnused.owner i = .agent sl.agent := by
  have code := code_setCode_same (BitVec.ofNat 3 (4 + k)) codes word
  obtain ⟨age, kept⟩ := slot_freeUnused_used (v := v.setCode i (BitVec.ofNat 3 (4 + k))) slot (uses_of_code four code)
  exact Line.owner_of_slot (v := (v.setCode i (BitVec.ofNat 3 (4 + k))).freeUnused) four code kept

/-! ## The end of a recall (R209, R215) -/

/-- A recall may have ended: slots, timers of recalls and messages may have changed, but no word's code, no other timer,
and no message has gone. -/
structure RecallEnded (s t : State) : Prop where
  state  : t = { s with registry := t.registry, timers := t.timers, agenda := t.agenda }
  codes  : ∀ n, (t.line n).codes = (s.line n).codes
  sent   : ∀ e ∈ s.agenda, e ∈ t.agenda
  timers : ∀ f : Nat × Timer → Bool, (∀ y, y.2.kind = 3 → f y = false) → t.timers.any f = s.timers.any f

namespace RecallEnded

variable {s t u : State}

theorem refl (s : State) : RecallEnded s s := ⟨rfl, fun _ => rfl, fun _ h => h, fun _ _ => rfl⟩

theorem trans (h : RecallEnded s t) (k : RecallEnded t u) : RecallEnded s u := by
  refine ⟨?_, fun n => (k.codes n).trans (h.codes n), fun e he => k.sent e (h.sent e he),
    fun f hf => (k.timers f hf).trans (h.timers f hf)⟩
  rw [k.state, h.state]

theorem beside (h : RecallEnded s t) : t.mem = s.mem ∧ t.memPoison = s.memPoison ∧ t.near = s.near ∧
    t.warps = s.warps ∧ t.lostLog = s.lostLog := by
  rw [h.state]
  exact ⟨rfl, rfl, rfl, rfl, rfl⟩

end RecallEnded

/-- Stopping a timer leaves those that are not of its kind. -/
theorem any_dropTimer {f : Nat × Timer → Bool} {pw owner kind other : Nat} (ts : Table Timer)
    (apart : ∀ y : Nat × Timer, y.2.word = pw → y.2.owner = owner → y.2.kind = kind → y.2.other = other → f y = false) :
    (dropTimer pw owner kind other ts).any f = ts.any f := by
  induction ts with
  | nil => rfl
  | cons y ts ih =>
    obtain ⟨k, t⟩ := y
    simp only [dropTimer]
    split
    next same =>
      simp only [Bool.and_eq_true, decide_eq_true_eq, and_assoc] at same
      obtain ⟨word, own, kind, other⟩ := same
      rw [List.any_cons, apart (k, t) word own kind other, Bool.false_or]
    next => rw [List.any_cons, List.any_cons, ih]

theorem stopTimer_ends (s : State) (pw owner other : Nat) : RecallEnded s (s.stopTimer pw owner 3 other) :=
  ⟨rfl, fun _ => rfl, fun _ h => h, fun _ hf => any_dropTimer s.timers fun y _ _ kind _ => hf y kind⟩

theorem nextStalled_ends (n : Nat) (s : State) : RecallEnded s (nextStalled n s) := by
  unfold nextStalled
  split
  · exact ⟨rfl, fun _ => rfl, fun _ h => List.mem_cons_of_mem _ h, fun _ _ => rfl⟩
  · exact .refl s

theorem setLine_ends {s : State} {n : Nat} {v : Line} (codes : v.codes = (s.line n).codes) :
    RecallEnded s (s.setLine n v) := by
  refine ⟨rfl, fun m => ?_, fun _ h => h, fun _ _ => rfl⟩
  rw [line_setLine]
  split
  next same => rw [same, codes]
  next => rfl

theorem endRecall_ends (n : Nat) (s : State) : RecallEnded s (endRecall n s) := by
  have stopped (c : Bool) (owner : Nat) : RecallEnded s (if c then s.stopTimer (n * 32) owner 3 0 else s) := by
    split
    · exact stopTimer_ends ..
    · exact .refl s
  simp only [endRecall]
  split
  · exact .refl s
  · split
    · exact stopped ..
    · refine RecallEnded.trans ?_ (nextStalled_ends ..)
      exact (stopped ..).trans (setLine_ends ((stopped ..).codes n).symm)

/-! ## Words that come home (R211) -/

/-- What an owner held of a word is the home's copy, and the word is no agent's any more: its code says so. -/
structure WordHome (pw : Nat) (value : Word) (bad : Bool) (s t : State) : Prop where
  word   : memWord t.mem pw = value
  poison : nmem t.memPoison pw = bad
  others : ∀ c, c / 4 ≠ pw → memByte t.mem c = memByte s.mem c
  code   : lget 0 (t.line (pw / 32)).codes (pw % 32) = 0
  near   : t.near = s.near
  warps  : t.warps = s.warps
  timers : ∀ f : Nat × Timer → Bool, (∀ y, y.2.kind = 3 → f y = false) → t.timers.any f = s.timers.any f

namespace WordHome

variable {pw : Nat} {value : Word} {bad : Bool} {s t u : State}

theorem send (h : WordHome pw value bad s t) (e : Event) : WordHome pw value bad s (t.send e) := by
  obtain ⟨word, poison, others, code, near, warps, timers⟩ := h
  exact ⟨word, poison, others, code, near, warps, timers⟩

theorem ended (h : WordHome pw value bad s t) (k : RecallEnded t u) : WordHome pw value bad s u := by
  obtain ⟨word, poison, others, code, near, warps, timers⟩ := h
  obtain ⟨mem, memPoison, near', warps', -⟩ := k.beside
  refine ⟨?_, ?_, ?_, ?_, near'.trans near, warps'.trans warps, fun f hf => (k.timers f hf).trans (timers f hf)⟩
  · rwa [mem]
  · rwa [memPoison]
  · rwa [mem]
  · rwa [k.codes]

theorem unowned (h : WordHome pw value bad s t) : t.owner pw = .unowned := State.owner_of_code_zero h.code

end WordHome

/-- The word of a line that an owner leaves, written at its home. -/
theorem homePut_leave {s : State} (wf : Memory.wf s.mem) (pw : Nat) (value : Word) (bad : Bool) :
    WordHome pw value bad s ((s.setLine (pw / 32) ((s.line (pw / 32)).leave (pw % 32))).homePut pw value bad) := by
  refine ⟨memWord_memPutWord_same wf pw value, ?_, fun c out => memByte_memPutWord_ne _ wf _ _ _ out, ?_, rfl, rfl,
    fun _ _ => rfl⟩
  · rw [State.homePut_memPoison]
    cases bad <;> simp
  · show lget 0 ((s.setLine (pw / 32) _).line (pw / 32)).codes (pw % 32) = 0
    rw [line_setLine, if_pos rfl]
    exact code_setCode_zero _ _

/-- An owner's Wb reaches the home's copy and is acknowledged (R211). -/
theorem takeWb_home {s : State} (wf : Memory.wf s.mem) (pw a : Nat) (value : Word) (bad : Bool) :
    WordHome pw value bad s (takeWb pw a value bad s) ∧ Event.wbAck pw a ∈ (takeWb pw a value bad s).agenda := by
  have ended := endRecall_ends (pw / 32)
    (((s.setLine (pw / 32) ((s.line (pw / 32)).leave (pw % 32))).homePut pw value bad).send (.wbAck pw a))
  exact ⟨((homePut_leave wf pw value bad).send _).ended ended,
    ended.sent _ (List.mem_append_right _ (List.mem_singleton_self _))⟩

end Sys2Proof.Machine
end

section
/-! PROOFS. What a home does with a message (R209, R211, R216): Read, Reg, Wb, Drop, and data that an owner sends
home. -/

namespace Sys2Proof.Machine

variable {s : State}

/-! ## Read (R211) -/

theorem exec_read {pw a : Nat} (now : s.now = .read pw a) :
    exec .read s = .next (atHome (pw / 32) (.read pw a) (serveRead pw a) s) := by
  show execRead s = _
  rw [execRead, now]
  rfl

theorem serveRead_unowned {pw a : Nat} (owner : s.owner pw = .unowned) : serveRead pw a s =
    s.send (.fillData pw a (s.homeCopy pw) (nmem s.memPoison pw) (s.stamp (s.line (pw / 32)).clock.toNat) false
      homeSource) := by
  rw [State.owner] at owner
  simp only [serveRead, owner]

theorem serveRead_lost {pw a : Nat} (owner : s.owner pw = .lost) : serveRead pw a s =
    s.send (.fillData pw a 4 false (s.stamp (s.line (pw / 32)).clock.toNat) true homeSource) := by
  rw [State.owner] at owner
  simp only [serveRead, owner]

theorem serveRead_owned {pw a o : Nat} (owner : s.owner pw = .agent o) (plain : s.orderedOn (coreOfAgent a) = none) :
    serveRead pw a s = (s.startTimer pw o 0 a).toOwner o (.fwd pw o a) := by
  rw [State.owner] at owner
  simp only [serveRead, owner, plain]
  cases (s.line (pw / 32)).orderAt (pw % 32) <;> rfl

theorem toOwner_fenced {a : Nat} (fenced : nmem s.fenced a = true) (e : Event) : s.toOwner a e = s := if_pos fenced

theorem toOwner_reached {a : Nat} (reached : nmem s.fenced a = false) (e : Event) : s.toOwner a e = s.send e :=
  if_neg (Bool.eq_false_iff.1 reached)

/-! ## Reg (R209, R211) -/

theorem exec_reg {pw a order : Nat} {want : Bool} (now : s.now = .reg pw a want order) (still : s.flipping pw = false)
    (here : s.comingHome pw = false) :
    exec .reg s = .next (atHome (pw / 32) (.reg pw a want order) (serveReg pw a want order) s) := by
  show execReg s = _
  simp only [execReg, now, homeReg, still, here, Bool.or_self, Bool.false_eq_true, if_false]

theorem serveReg_fenced {pw a order : Nat} {want : Bool} (fenced : nmem s.fenced a = true) :
    serveReg pw a want order s = s := if_pos fenced

theorem serveReg_own {pw a order : Nat} (reached : nmem s.fenced a = false)
    (device : nmem s.hostBias (pw / 2 ^ 14) = false) (owner : s.owner pw = .agent a) :
    serveReg pw a false order s = s.send (.ack pw a (s.line (pw / 32)).clock.toNat) := by
  rw [State.owner] at owner
  simp only [serveReg, reached, device, owner, ownReg, Bool.false_eq_true, if_false, if_true]

/-- A Reg that nothing of ordered mode holds back asks for a slot. -/
theorem serveReg_slot {pw a order : Nat} {want : Bool} (reached : nmem s.fenced a = false)
    (device : nmem s.hostBias (pw / 2 ^ 14) = false) (other : s.owner pw ≠ .agent a)
    (found : s.owner pw = .lost → want = false) (plain : order = 0 ∨ (s.line (pw / 32)).orderAt (pw % 32) = none) :
    serveReg pw a want order s = slotReg pw a want order s := by
  have unordered : orderOfReg s pw order = 0 := by
    unfold orderOfReg
    split
    next ordered =>
      rcases plain with zero | none_
      · cases zero
      · rw [none_] at ordered
        cases ordered
    next => rfl
  rw [State.owner] at other found
  simp only [serveReg, reached, device, Bool.false_eq_true, if_false]
  cases owner : (s.line (pw / 32)).owner (pw % 32) with
  | agent o =>
    have ne : ¬ o = a := fun same => other (same ▸ owner)
    simp only [ne, unordered, if_false]
  | lost => simp [found owner]
  | unowned => simp

/-- The slot in which a Reg is granted: the agent's own, or a free one (R209). -/
def GrantSlot (v : Line) (a k : Nat) : Prop := v.slotOf a = some k ∨ (v.slotOf a = none ∧ v.freeSlot = some k)

theorem slotReg_grants {pw a order : Nat} {want : Bool} (room : ((s.line (pw / 32)).slotOf a).isSome = true ∨
    (s.line (pw / 32)).freeSlot.isSome = true) : ∃ k, GrantSlot (s.line (pw / 32)) a k ∧
      slotReg pw a want order s = grantReg pw a want order k s := by
  unfold slotReg
  dsimp only
  split
  next k own => exact ⟨k, .inl own, rfl⟩
  next k none_ free => exact ⟨k, .inr ⟨none_, free⟩, rfl⟩
  next none_ full => simp [none_, full] at room

/-- The line with the agent in the slot. -/
def seated (v : Line) (a k : Nat) : Line := if v.slotOf a = some k then v else v.takeSlot k a

theorem seated_slot {v : Line} {a k : Nat} (slot : GrantSlot v a k) (four : v.slots.length = 4) :
    k < 4 ∧ ∃ age, lget .none (seated v a k).slots k = some ⟨a, age⟩ := by
  rcases slot with own | ⟨none_, free⟩
  · obtain ⟨inside, ⟨_, age⟩, there, rfl⟩ := slotOf_some own
    exact ⟨inside, age, by rw [seated, if_pos own]; exact there⟩
  · refine ⟨freeSlot_some free, 0, ?_⟩
    rw [seated, none_, if_neg nofun]
    exact slot_takeSlot a four (freeSlot_some free)

theorem seated_codes (v : Line) (a k : Nat) : (seated v a k).codes = v.codes := by
  unfold seated
  split <;> rfl

/-- A home's messages have been sent: timers may have started, and nothing else has changed. -/
structure MessagesSent (s t : State) : Prop where
  state : t = { s with timers := t.timers, fresh := t.fresh, agenda := t.agenda }
  sent  : ∀ e ∈ s.agenda, e ∈ t.agenda

theorem toOwner_sent (pw o kind other : Nat) (e : Event) :
    MessagesSent s ((s.startTimer pw o kind other).toOwner o e) ∧
      (nmem s.fenced o = false → e ∈ ((s.startTimer pw o kind other).toOwner o e).agenda) := by
  cases fenced : nmem s.fenced o with
  | true =>
    rw [toOwner_fenced (s := s.startTimer pw o kind other) fenced]
    exact ⟨⟨rfl, fun _ h => h⟩, nofun⟩
  | false =>
    rw [toOwner_reached (s := s.startTimer pw o kind other) fenced]
    exact ⟨⟨rfl, fun _ h => List.mem_append_left _ h⟩, fun _ => List.mem_append_right _ (List.mem_singleton_self _)⟩

/-- The line of a granted Reg: the agent seated, the word registered in its slot, and the clock advanced. -/
def grantedLine (s : State) (pw a order k : Nat) : Line :=
  let v := ((seated (s.line (pw / 32)) a k).setCode (pw % 32) (BitVec.ofNat 3 (4 + k))).freeUnused
  { v with clock := v.clock + 1
           writers := tput v.writers (pw % 32) a
           late := v.late.filter (fun o => o.1 ≠ pw % 32)
           orders := v.orders.filter (fun o => o.1 ≠ pw % 32) ++ (if order = 0 then [] else
             [(pw % 32, (s.block (order - 1)).launch, (s.block (order - 1)).index)]) }

theorem grantedLine_clock (s : State) (pw a order k : Nat) :
    (grantedLine s pw a order k).clock = (s.line (pw / 32)).clock + 1 := by
  show (seated _ a k).clock + 1 = _
  unfold seated
  split <;> rfl

theorem grantedLine_owner {pw a k : Nat} (order : Nat) (slot : GrantSlot (s.line (pw / 32)) a k)
    (four : (s.line (pw / 32)).slots.length = 4)
    (codes : (s.line (pw / 32)).codes = [] ∨ (s.line (pw / 32)).codes.length = 32) :
    (grantedLine s pw a order k).owner (pw % 32) = .agent a := by
  obtain ⟨inside, age, there⟩ := seated_slot slot four
  exact owner_registered (v := seated (s.line (pw / 32)) a k) (by rwa [seated_codes])
    (Nat.mod_lt _ (by decide)) inside there

/-- The answers to a granted Reg: to the old owner an Xfer, or the home's data where the agent wants them. -/
def grantAnswers (pw a : Nat) (want : Bool) (clock : Nat) (old : Owner) (t : State) : State :=
  match old with
  | .agent o => (t.startTimer pw o (if want then 1 else 2) a).toOwner o (.xfer pw o a want clock)
  | _ => if want then t.send (.fillData pw a (t.homeCopy pw) (nmem t.memPoison pw) clock false regSource) else t

theorem grantReg_eq (pw a order k : Nat) (want : Bool) : grantReg pw a want order k s =
    grantAnswers pw a want (grantedLine s pw a order k).clock.toNat (s.owner pw)
      ((s.setLine (pw / 32) (grantedLine s pw a order k)).send
        (.ack pw a (grantedLine s pw a order k).clock.toNat)) := by
  rw [State.owner]
  simp only [grantReg]
  cases (s.line (pw / 32)).owner (pw % 32) <;> rfl

theorem grantAnswers_sent (pw a : Nat) (want : Bool) (clock : Nat) (old : Owner) (s : State) :
    let t := grantAnswers pw a want clock old s
    MessagesSent s t ∧
    (∀ o, old = .agent o → nmem s.fenced o = false → Event.xfer pw o a want clock ∈ t.agenda) ∧
    (old = .unowned → want = true →
      Event.fillData pw a (s.homeCopy pw) (nmem s.memPoison pw) clock false regSource ∈ t.agenda) := by
  have data : MessagesSent s (if want then
      s.send (.fillData pw a (s.homeCopy pw) (nmem s.memPoison pw) clock false regSource) else s) := by
    split
    · exact ⟨rfl, fun _ h => List.mem_append_left _ h⟩
    · exact ⟨rfl, fun _ h => h⟩
  cases old with
  | agent o =>
    obtain ⟨sent, reached⟩ := toOwner_sent (s := s) pw o (if want then 1 else 2) a (.xfer pw o a want clock)
    exact ⟨sent, fun _ same => by cases same; exact reached, nofun⟩
  | lost => exact ⟨data, nofun, nofun⟩
  | unowned =>
    refine ⟨data, nofun, fun _ wanted => ?_⟩
    subst wanted
    exact List.mem_append_right _ (List.mem_singleton_self _)

/-- A granted Reg makes its sender the owner and tells it and the old owner (R211). -/
theorem grantReg_grants {pw a k : Nat} (want : Bool) (order : Nat) (slot : GrantSlot (s.line (pw / 32)) a k)
    (four : (s.line (pw / 32)).slots.length = 4)
    (codes : (s.line (pw / 32)).codes = [] ∨ (s.line (pw / 32)).codes.length = 32) :
    let t := grantReg pw a want order k s
    let clock := (s.line (pw / 32)).clock + 1
    t.owner pw = .agent a ∧ (t.line (pw / 32)).clock = clock ∧ Event.ack pw a clock.toNat ∈ t.agenda ∧
    (∀ o, s.owner pw = .agent o → nmem s.fenced o = false → Event.xfer pw o a want clock.toNat ∈ t.agenda) ∧
    (s.owner pw = .unowned → want = true →
      Event.fillData pw a (s.homeCopy pw) (nmem s.memPoison pw) clock.toNat false regSource ∈ t.agenda) ∧
    (∀ n, n ≠ pw / 32 → t.line n = s.line n) ∧ t.near = s.near ∧ t.mem = s.mem := by
  intro t clock
  have answers := grantAnswers_sent pw a want clock.toNat (s.owner pw)
    ((s.setLine (pw / 32) (grantedLine s pw a order k)).send (.ack pw a clock.toNat))
  have run := grantReg_eq (s := s) pw a order k want
  rw [grantedLine_clock] at run
  rw [← run] at answers
  obtain ⟨⟨state, sent⟩, xfer, data⟩ := answers
  have line (n : Nat) : t.line n = (s.setLine (pw / 32) (grantedLine s pw a order k)).line n :=
    (congrArg (fun u => State.line u n) state :)
  have own : t.line (pw / 32) = grantedLine s pw a order k := by rw [line, line_setLine, if_pos rfl]
  refine ⟨?_, ?_, sent _ (List.mem_append_right _ (List.mem_singleton_self _)), xfer, data, fun n apart => ?_,
    (congrArg State.near state :), (congrArg State.mem state :)⟩
  · rw [State.owner, own]
    exact grantedLine_owner order slot four codes
  · rw [own, grantedLine_clock]
  · rw [line, line_setLine, if_neg apart]

/-! ## Wb (R211) -/

theorem exec_wb {pw a : Nat} {value : Word} {bad : Bool} (now : s.now = .wb pw a value bad) :
    exec .wb s = .next (homeWb pw a value bad s) := by
  show execWb s = _
  rw [execWb, now]

theorem homeWb_stranger {pw a : Nat} (value : Word) (bad : Bool) (other : s.owner pw ≠ .agent a)
    (device : (s.engine a pw).host = false) : homeWb pw a value bad s = (s.wbStops pw a).send (.wbAck pw a) := by
  have other' : ¬ ((s.wbStops pw a).line (pw / 32)).owner (pw % 32) = .agent a := other
  have device' : ((s.wbStops pw a).engine a pw).host = false := device
  simp only [homeWb, other', device', Bool.false_eq_true, if_false]

theorem homeWb_owner {pw a : Nat} (value : Word) (bad : Bool) (owner : s.owner pw = .agent a)
    (plain : (s.line (pw / 32)).orderAt (pw % 32) = none) :
    homeWb pw a value bad s = takeWb pw a value bad (s.wbStops pw a) := by
  have owner' : ((s.wbStops pw a).line (pw / 32)).owner (pw % 32) = .agent a := owner
  have plain' : ((s.wbStops pw a).line (pw / 32)).orderAt (pw % 32) = none := plain
  simp only [homeWb, owner', plain', Bool.false_eq_true, if_false, if_true]

/-! ## Drop (R211, R216) -/

theorem exec_drop {pw a code : Nat} (now : s.now = .drop pw a code) : exec .drop s = .next (homeDrop pw a code s) := by
  show execDrop s = _
  rw [execDrop, now]

theorem homeDrop_stranger {pw a : Nat} (code : Nat) (other : s.owner pw ≠ .agent a) : homeDrop pw a code s = s :=
  if_neg other

theorem homeDrop_owner {pw a code : Nat} (owner : s.owner pw = .agent a) (reason : code < 16) :
    homeDrop pw a code s = endRecall (pw / 32) (s.loseWord pw a code) := by
  rw [homeDrop, if_pos owner, if_pos reason, Nat.mod_eq_of_lt reason]

/-- With the error log off a lost word's home has only its registry entry and the log of lost words changed. -/
theorem loseWord_unlogged {pw : Nat} (agent reason : Nat) (off : (s.sysreg 0x1A8).getLsbD 63 = false)
    (codes : (s.line (pw / 32)).codes.length = 32) :
    lget 0 ((s.loseWord pw agent reason).line (pw / 32)).codes (pw % 32) = 1 ∧
      (s.loseWord pw agent reason).mem = s.mem := by
  rw [State.loseWord, logError_off (s.markLost pw agent reason) _ _ _ _ _ _ _ _ off]
  refine ⟨?_, rfl⟩
  show lget 0 ((s.setLine (pw / 32) _).line (pw / 32)).codes (pw % 32) = 1
  rw [line_setLine, if_pos rfl]
  exact code_setCode_same 1 (.inr codes) (Nat.mod_lt _ (by decide))

/-! ## Data that an owner sends home (R211, R215) -/

theorem exec_fillData {pw a clock source : Nat} {value : Word} {bad lost : Bool}
    (now : s.now = .fillData pw a value bad clock lost source) :
    exec .fillData s = .next (fillArrival pw a value bad clock lost source s) := by
  show execFillData s = _
  rw [execFillData, now]

theorem answerAgent_answerSource {o : Nat} (kind : Nat) (small : o < 2 ^ 16) :
    answerAgent (answerSource o kind) = o := by
  simp only [answerAgent, answerSource]
  omega

theorem fillArrival_home (pw clock source : Nat) (value : Word) (bad : Bool) :
    fillArrival pw homeSource value bad clock false source s =
      comeHome pw (answerAgent source) value bad (s.answered pw homeSource source) := by
  simp only [fillArrival, Bool.false_eq_true, if_false, if_true]

theorem answered_eq (pw a source : Nat) :
    s.answered pw a source = { s with timers := (s.answered pw a source).timers } := by
  unfold State.answered
  split <;> rfl

/-- An answer stops no timer but one of its own request. -/
theorem answered_timers {f : Nat × Timer → Bool} (pw a source : Nat)
    (apart : ∀ y : Nat × Timer, y.2.owner = answerAgent source → y.2.other = a → f y = false) :
    (s.answered pw a source).timers.any f = s.timers.any f := by
  unfold State.answered
  split
  · rfl
  · exact any_dropTimer s.timers fun y _ owner _ other => apart y owner other

/-- The timer of an atomic's Xfer of a word to the home (R215). -/
def atomicTimer (pw o : Nat) (y : Nat × Timer) : Bool := decide (y.2.word = pw ∧ y.2.owner = o ∧ y.2.kind = 4)

/-- The state without such timers. -/
def State.atomicsAnswered (s : State) (pw o : Nat) : State :=
  { s with timers := s.timers.filter (fun y => !atomicTimer pw o y) }

theorem comeHome_home {pw o : Nat} (value : Word) (bad : Bool) (awaited : s.timers.any (atomicTimer pw o) = true)
    (owner : s.owner pw = .agent o) (wf : Memory.wf s.mem) :
    WordHome pw value bad (s.atomicsAnswered pw o) (comeHome pw o value bad s) := by
  have owner' : (s.atomicsAnswered pw o).owner pw = .agent o := owner
  have run : comeHome pw o value bad s = endRecall (pw / 32) (((s.atomicsAnswered pw o).setLine (pw / 32)
      ((s.line (pw / 32)).leave (pw % 32))).homePut pw value bad) := by
    refine (if_neg ?_).trans (if_pos owner')
    rw [Bool.not_eq_true', Bool.not_eq_false]
    exact awaited
  rw [run]
  exact (homePut_leave (s := s.atomicsAnswered pw o) wf pw value bad).ended (endRecall_ends ..)

theorem comingHome_atomicsAnswered (pw o : Nat) : (s.atomicsAnswered pw o).comingHome pw =
    s.timers.any (fun y => y.2.word = pw && y.2.kind = 4 && y.2.owner ≠ o) := by
  rw [State.comingHome, State.atomicsAnswered, List.any_filter]
  congr 1
  funext y
  simp only [atomicTimer]
  grind

/-- A word that atomics await has come home: it is its home's, and only other owners' answers are awaited. -/
theorem fillArrival_comesHome {pw o source : Nat} (value : Word) (bad : Bool) (clock : Nat)
    (sender : answerAgent source = o) (owner : s.owner pw = .agent o)
    (awaited : (s.timers.any (fun y => y.2.word = pw && y.2.owner = o && y.2.kind = 4 &&
      y.2.other ≠ homeSource)) = true)
    (wf : Memory.wf s.mem) :
    let t := fillArrival pw homeSource value bad clock false source s
    WordHome pw value bad ((s.answered pw homeSource source).atomicsAnswered pw o) t ∧
      t.comingHome pw = s.timers.any (fun y => y.2.word = pw && y.2.kind = 4 && y.2.owner ≠ o) := by
  intro t
  have run : t = comeHome pw o value bad (s.answered pw homeSource source) := by rw [← sender, ← fillArrival_home]
  have state := answered_eq (s := s) pw homeSource source
  have owner' : (s.answered pw homeSource source).owner pw = .agent o := by rw [state]; exact owner
  have wf' : Memory.wf (s.answered pw homeSource source).mem = true := by rw [state]; exact wf
  have waits : (s.answered pw homeSource source).timers.any (atomicTimer pw o) = true := by
    rw [← answered_timers (s := s) pw homeSource source
      fun y _ other => by simp only [other, ne_eq, not_true, decide_false, Bool.and_false]] at awaited
    obtain ⟨y, there, mine⟩ := List.any_eq_true.1 awaited
    simp only [Bool.and_eq_true, decide_eq_true_eq, and_assoc] at mine
    obtain ⟨word, own, kind, -⟩ := mine
    exact List.any_eq_true.2 ⟨y, there, decide_eq_true ⟨word, own, kind⟩⟩
  have home := comeHome_home value bad waits owner' wf'
  rw [← run] at home
  refine ⟨home, ?_⟩
  calc t.comingHome pw
      = ((s.answered pw homeSource source).atomicsAnswered pw o).comingHome pw :=
        home.timers _ fun y third => by simp [third]
    _ = (s.answered pw homeSource source).timers.any _ := comingHome_atomicsAnswered pw o
    _ = s.timers.any _ := answered_timers pw homeSource source fun y own _ => by simp [own, sender]

/-! ## The home's part of the statement -/

/-- A Read at its home: it waits behind a recall, or is answered or forwarded (R209, R211). -/
theorem exec_read_answers (s : State) (pw a : Nat) :
    let v := s.line (pw / 32)
    (∀ i, v.pulling = some i → (s.now = .read pw a → exec .read s =
      .next (s.setLine (pw / 32) { v with stalled := v.stalled ++ [.read pw a] }))) ∧
    (s.now = .read pw a → v.pulling = none → v.stalled = [] →
      (s.owner pw = .unowned → exec .read s = .next (s.send (.fillData pw a (s.homeCopy pw) (nmem s.memPoison pw)
        (s.stamp v.clock.toNat) false homeSource))) ∧
      (s.owner pw = .lost →
        exec .read s = .next (s.send (.fillData pw a 4 false (s.stamp v.clock.toNat) true homeSource))) ∧
      (∀ o, s.owner pw = .agent o → s.orderedOn (coreOfAgent a) = none →
        (nmem s.fenced o = false → exec .read s = .next ((s.startTimer pw o 0 a).send (.fwd pw o a))) ∧
        (nmem s.fenced o = true → exec .read s = .next (s.startTimer pw o 0 a)))) := by
  intro v
  refine ⟨fun i pulled now => ?_, fun now calm first => ?_⟩
  · rw [exec_read now, atHome_behind (.inl (by rw [pulled]; rfl))]
  · rw [exec_read now, atHome_first ⟨calm, first⟩]
    refine ⟨fun owner => ?_, fun owner => ?_, fun o owner plain => ?_⟩
    · rw [serveRead_unowned owner]
    · rw [serveRead_lost owner]
    · rw [serveRead_owned owner plain]
      exact ⟨fun reached => congrArg _ (toOwner_reached (s := s.startTimer pw o 0 a) reached _),
        fun fenced => congrArg _ (toOwner_fenced (s := s.startTimer pw o 0 a) fenced _)⟩

/-- A Reg at its home: its sender becomes the owner (R209, R211). -/
theorem exec_reg_answers {pw a order : Nat} {want : Bool} (now : s.now = .reg pw a want order)
    (still : s.flipping pw = false) (here : s.comingHome pw = false) (calm : (s.line (pw / 32)).pulling = none)
    (first : (s.line (pw / 32)).stalled = []) (device : nmem s.hostBias (pw / 2 ^ 14) = false) :
    let v := s.line (pw / 32)
    (nmem s.fenced a = true → exec .reg s = .next s) ∧
    (nmem s.fenced a = false → s.owner pw = .agent a → want = false →
      exec .reg s = .next (s.send (.ack pw a v.clock.toNat))) ∧
    (nmem s.fenced a = false → (v.slots.length = 4 ∧ (v.codes = [] ∨ v.codes.length = 32)) →
      (v.slotOf a).isSome = true ∨ v.freeSlot.isSome = true →
      s.owner pw ≠ .agent a → (s.owner pw = .lost → want = false) → order = 0 ∨ v.orderAt (pw % 32) = none →
      ∃ t, exec .reg s = .next t ∧ t.owner pw = .agent a ∧ (t.line (pw / 32)).clock = v.clock + 1 ∧
        Event.ack pw a (v.clock + 1).toNat ∈ t.agenda ∧
        (∀ o, s.owner pw = .agent o → nmem s.fenced o = false →
          Event.xfer pw o a want (v.clock + 1).toNat ∈ t.agenda) ∧
        (s.owner pw = .unowned → want = true →
          Event.fillData pw a (s.homeCopy pw) (nmem s.memPoison pw) (v.clock + 1).toNat false regSource ∈ t.agenda) ∧
        (∀ n, n ≠ pw / 32 → t.line n = s.line n) ∧ t.near = s.near ∧ t.mem = s.mem) := by
  intro v
  rw [exec_reg now still here, atHome_first ⟨calm, first⟩]
  refine ⟨fun fenced => by rw [serveReg_fenced fenced], fun reached owner unwanted => ?_, ?_⟩
  · rw [unwanted, serveReg_own reached device owner]
  · rintro reached ⟨four, codes⟩ room other found plain
    rw [serveReg_slot reached device other found plain]
    obtain ⟨k, slot, run⟩ := slotReg_grants (order := order) (want := want) room
    exact ⟨_, congrArg _ run, grantReg_grants want order slot four codes⟩

/-- A Wb at its home: the owner's becomes the home's copy, and any other is acknowledged (R211). -/
theorem exec_wb_answers {pw a : Nat} {value : Word} {bad : Bool} (now : s.now = .wb pw a value bad) :
    (s.owner pw ≠ .agent a → (s.engine a pw).host = false →
      exec .wb s = .next ((s.wbStops pw a).send (.wbAck pw a))) ∧
    (s.owner pw = .agent a → (s.line (pw / 32)).orderAt (pw % 32) = none → Memory.wf s.mem →
      ∃ t, exec .wb s = .next t ∧ memWord t.mem pw = value ∧ nmem t.memPoison pw = bad ∧
        (∀ c, c / 4 ≠ pw → memByte t.mem c = memByte s.mem c) ∧ t.owner pw = .unowned ∧
        Event.wbAck pw a ∈ t.agenda ∧ t.near = s.near ∧ t.warps = s.warps) := by
  rw [exec_wb now]
  refine ⟨fun other device => by rw [homeWb_stranger value bad other device], fun owner plain wf => ?_⟩
  obtain ⟨home, acknowledged⟩ := takeWb_home (s := s.wbStops pw a) wf pw a value bad
  exact ⟨_, congrArg _ (homeWb_owner value bad owner plain), home.word, home.poison, home.others, home.unowned,
    acknowledged, home.near, home.warps⟩

/-- A Drop at its home: the owner's loses the word (R211, R216). -/
theorem exec_drop_answers {pw a code : Nat} (now : s.now = .drop pw a code) (reason : code < 16) :
    (s.owner pw ≠ .agent a → exec .drop s = .next s) ∧
    (s.owner pw = .agent a → (s.line (pw / 32)).codes.length = 32 → ∃ t, exec .drop s = .next t ∧
      ((s.sysreg 0x1A8).getLsbD 63 = false → t.owner pw = .lost ∧ t.mem = s.mem) ∧
      tget (0, 0) t.lostLog pw = (BitVec.ofNat 64 (code * 2 ^ 32 + a), s.tick) ∧ t.warps = s.warps) := by
  rw [exec_drop now]
  refine ⟨fun other => by rw [homeDrop_stranger code other], fun owner codes => ?_⟩
  have ended := endRecall_ends (pw / 32) (s.loseWord pw a code)
  obtain ⟨mem, -, -, warps, lostLog⟩ := ended.beside
  refine ⟨_, congrArg _ (homeDrop_owner owner reason), fun off => ?_, ?_, warps.trans ?_⟩
  · obtain ⟨lost, kept⟩ := loseWord_unlogged a code off codes
    exact ⟨State.owner_of_code_one (by rw [ended.codes]; exact lost), mem.trans kept⟩
  · rw [lostLog, lostLog_loseWord, tget_tput_same]
  · exact warps_of_besideLogs (s := s.markLost pw a code)
      (besideLogs_logError (s.markLost pw a code) 4 code a (4 * pw) false 0 0 0)

end Sys2Proof.Machine
end

section
/-! PROOFS. What a core's near cache does with a message (R210, R213, R216), and words written back. -/

namespace Sys2Proof.Machine

section
variable {s : State} {pw a : Nat} {w : NearWord} (core : agentKind a = 0) (there : s.near_ (coreOfAgent a) pw = w)
include core there

/-! ## Acknowledgements (R210, R212) -/

/-- The word once its Reg is acknowledged, at the home's clock. -/
def NearWord.acknowledged (w : NearWord) (s : State) (clock : Nat) : NearWord :=
  { w with reqPend := false, dropping := none, clock := if w.held then s.stamp clock else w.clock }

theorem nearAck_granted {clock : Nat} (granted : clock < refusedClock) : nearAck pw a clock s =
    match w.dropping with
    | some r => (s.setNear (coreOfAgent a) pw (w.acknowledged s clock)).send (.drop pw a r)
    | none => s.setNear (coreOfAgent a) pw (w.acknowledged s clock) := by
  subst there
  exact (if_pos core).trans (if_neg (Nat.not_le.2 granted))

/-- A refusal ends the claim of an ordered block (R224). -/
theorem nearAck_refused {clock : Nat} (refused : refusedClock ≤ clock) : nearAck pw a clock s =
    (s.setNear (coreOfAgent a) pw
      { w.drop with reqPend := false, dropping := none, claim := if w.claim = 1 then 2 else 0 }).askAgain
        (coreOfAgent a) pw := by
  subst there
  exact (if_pos core).trans (if_pos refused)

theorem wbAckArrival_core : wbAckArrival pw a s =
    match w.unsent with
    | some (want, order) =>
      (s.setNear (coreOfAgent a) pw { w with kept := false, unsent := none }).send (.reg pw a want order)
    | none => s.setNear (coreOfAgent a) pw { w with kept := false, unsent := none } := by
  subst there
  have copy : ¬ (decide (agentKind a = 1) && (s.engine a pw).used) = true := by simp [core]
  exact (if_neg copy).trans (if_pos core)

/-! ## Fwd and Xfer (R210, R216) -/

variable (reached : nmem s.fenced a = false)
include reached

theorem ownerFwd_registered {r : Nat} (held : w.held = true) (reg : w.reg = true) (filled : w.fillPend = false)
    (own : w.kept = false) : ownerFwd pw a r s =
      if w.err then
        ((s.setNear (coreOfAgent a) pw w.drop).send (.fillData pw r 1 false w.clock true a)).send (.drop pw a 1)
      else s.send (.fillData pw r w.value w.poison (s.stamp w.clock) false a) := by
  simp [ownerFwd, core, reached, there, held, reg, filled, own]

/-- A Fwd waits for the fill (R210). -/
theorem ownerFwd_filling {r : Nat} (held : w.held = true) (filling : w.fillPend = true) (own : w.kept = false) :
    ownerFwd pw a r s = s.setNear (coreOfAgent a) pw { w with owed := w.owed ++ [.fwd pw a r] } := by
  simp [ownerFwd, core, reached, there, held, filling, own]

theorem ownerFwd_kept {r : Nat} (kept : w.kept = true) : ownerFwd pw a r s =
    s.send (.fillData pw r w.keptVal w.keptPoison w.clock false a) := by
  simp [ownerFwd, core, reached, there, kept]

variable {b clock : Nat} {want : Bool}

theorem ownerXfer_registered (held : w.held = true) (reg : w.reg = true) (filled : w.fillPend = false)
    (own : w.kept = false) (clean : w.err = false) : ownerXfer pw a b want clock s =
      (s.setNear (coreOfAgent a) pw { w.drop with clock := s.stamp w.clock }).send
        (.fillData pw b w.value w.poison clock false (answerSource a (xferKind b want))) := by
  simp [ownerXfer, core, reached, there, held, reg, filled, own, clean]

theorem ownerXfer_kept (kept : w.kept = true) : ownerXfer pw a b want clock s =
    (if w.held && !w.reg then s.setNear (coreOfAgent a) pw w.drop else s).send
      (.fillData pw b w.keptVal w.keptPoison clock false (answerSource a (xferKind b want))) := by
  simp [ownerXfer, core, reached, there, kept]

end

/-! ## Words written back and dropped (R209, R210) -/

/-- A word that a core writes back and drops. -/
def writtenOff (s : State) (core pw : Nat) : NearWord :=
  let w := s.near_ core pw
  { w with kept := true, keptVal := w.value, keptPoison := w.poison, keptBlock := w.block, reg := false
           held := false, clock := s.stamp w.clock }

theorem writeBack_clean {s : State} {core pw : Nat} (clean : (s.near_ core pw).err = false) :
    writeBack core pw false s = (s.setNear core pw (writtenOff s core pw)).send
      (.wb pw (agentOfCore core) (s.near_ core pw).value (s.near_ core pw).poison) :=
  if_neg (Bool.eq_false_iff.1 clean)

/-- A near cache has given words up: their values and poison are as they were, no copy has come to be in error, and no
message has gone. -/
structure WordsGiven (core : Nat) (s t : State) : Prop where
  mem    : t.mem = s.mem
  warps  : t.warps = s.warps
  copies : ∀ q, (t.near_ core q).value = (s.near_ core q).value ∧ (t.near_ core q).poison = (s.near_ core q).poison
  clean  : ∀ q, (s.near_ core q).err = false → (t.near_ core q).err = false
  sent   : ∀ e ∈ s.agenda, e ∈ t.agenda

theorem writeBack_gives (core pw : Nat) (s : State) : WordsGiven core s (writeBack core pw false s) := by
  have given {v : NearWord} (e : Event) (value : v.value = (s.near_ core pw).value)
      (poison : v.poison = (s.near_ core pw).poison) (clean : (s.near_ core pw).err = false → v.err = false) :
      WordsGiven core s ((s.setNear core pw v).send e) := by
    have near (q : Nat) : ((s.setNear core pw v).send e).near_ core q = if q = pw then v else s.near_ core q :=
      near_setNear s core pw q v
    refine ⟨rfl, rfl, fun q => ?_, fun q hq => ?_, fun _ h => List.mem_append_left _ h⟩
    · rw [near]
      split
      next same => exact same ▸ ⟨value, poison⟩
      next => exact ⟨rfl, rfl⟩
    · rw [near]
      split
      next same => exact clean (same ▸ hq)
      next => exact hq
  simp only [writeBack]
  split
  · exact given _ rfl rfl fun _ => rfl
  · exact given _ rfl rfl id

theorem foldl_writeBack_sends {core : Nat} {pws : List Nat} {s : State} :
    let t := pws.foldl (fun s q => writeBack core q false s) s
    WordsGiven core s t ∧ ∀ q ∈ pws, (s.near_ core q).err = false →
      Event.wb q (agentOfCore core) (s.near_ core q).value (s.near_ core q).poison ∈ t.agenda := by
  induction pws generalizing s with
  | nil => exact ⟨⟨rfl, rfl, fun _ => ⟨rfl, rfl⟩, fun _ h => h, fun _ h => h⟩, nofun⟩
  | cons p pws ih =>
    have first := writeBack_gives core p s
    obtain ⟨rest, sends⟩ := ih (s := writeBack core p false s)
    refine ⟨⟨rest.mem.trans first.mem, rest.warps.trans first.warps, fun q => ?_,
      fun q clean => rest.clean q (first.clean q clean), fun e he => rest.sent e (first.sent e he)⟩,
      fun q hq clean => ?_⟩
    · obtain ⟨value, poison⟩ := first.copies q
      obtain ⟨value', poison'⟩ := rest.copies q
      exact ⟨value'.trans value, poison'.trans poison⟩
    · obtain ⟨value, poison⟩ := first.copies q
      rcases List.mem_cons.1 hq with rfl | hq
      · refine rest.sent _ ?_
        rw [writeBack_clean clean]
        exact List.mem_append_right _ (List.mem_singleton_self _)
      · rw [← value, ← poison]
        exact sends q hq (first.clean q clean)

/-- The words that a Recall has written back. -/
def recalled (s : State) (core n : Nat) : List Nat :=
  s.nearWords core (fun pw w => pw / 32 = n && w.held && w.reg && !w.reqPend && !w.fillPend)

theorem mem_recalled {s : State} {core n : Nat} {e : Nat × NearWord} (there : e ∈ s.near) (own : e.1 / 2 ^ 50 = core)
    (line : e.1 % 2 ^ 50 / 32 = n) (held : e.2.held = true) (reg : e.2.reg = true) (acked : e.2.reqPend = false)
    (filled : e.2.fillPend = false) : e.1 % 2 ^ 50 ∈ recalled s core n := by
  refine List.mem_map.2 ⟨e, List.mem_filter.2 ⟨there, ?_⟩, rfl⟩
  subst own line
  simp [held, reg, acked, filled]

/-- A word that follows a Recall when it is filled (R209). -/
def owesRecall (core n a : Nat) (s : State) (pw : Nat) : State :=
  s.setNear core pw { s.near_ core pw with owed := (s.near_ core pw).owed ++ [.recall n a] }

theorem foldl_owesRecall (core n a : Nat) (pws : List Nat) (s : State) :
    let t := pws.foldl (owesRecall core n a) s
    t.mem = s.mem ∧ t.warps = s.warps ∧ t.agenda = s.agenda :=
  foldl_related (R := fun s t => t.mem = s.mem ∧ t.warps = s.warps ∧ t.agenda = s.agenda) (fun _ => ⟨rfl, rfl, rfl⟩)
    (fun _ _ _ ⟨mem, warps, agenda⟩ ⟨mem', warps', agenda'⟩ =>
      ⟨mem'.trans mem, warps'.trans warps, agenda'.trans agenda⟩) (owesRecall core n a)
    (fun _ _ => ⟨rfl, rfl, rfl⟩) pws s

theorem ownerRecall_eq {s : State} {n a : Nat} (core : agentKind a = 0) (reached : nmem s.fenced a = false) :
    ∃ filling : List Nat, ownerRecall n a s = filling.foldl (owesRecall (coreOfAgent a) n a)
      ((recalled s (coreOfAgent a) n).foldl (fun s q => writeBack (coreOfAgent a) q false s) s) :=
  ⟨_, (if_neg (Bool.eq_false_iff.1 reached)).trans (if_pos core)⟩

/-- A Recall at a core: its words of the line are written back. -/
theorem ownerRecall_sends {s : State} {n a : Nat} (core : agentKind a = 0) (reached : nmem s.fenced a = false) :
    let t := ownerRecall n a s
    t.mem = s.mem ∧ t.warps = s.warps ∧
      ∀ q ∈ recalled s (coreOfAgent a) n, (s.near_ (coreOfAgent a) q).err = false →
        Event.wb q (agentOfCore (coreOfAgent a)) (s.near_ (coreOfAgent a) q).value
          (s.near_ (coreOfAgent a) q).poison ∈ t.agenda := by
  intro t
  obtain ⟨filling, run⟩ := ownerRecall_eq (n := n) core reached
  obtain ⟨given, sends⟩ := foldl_writeBack_sends (core := coreOfAgent a) (pws := recalled s (coreOfAgent a) n) (s := s)
  obtain ⟨mem, warps, agenda⟩ := foldl_owesRecall (coreOfAgent a) n a filling
    ((recalled s (coreOfAgent a) n).foldl (fun s q => writeBack (coreOfAgent a) q false s) s)
  rw [← run] at mem warps agenda
  exact ⟨mem.trans given.mem, warps.trans given.warps, fun q hq clean => agenda ▸ sends q hq clean⟩

/-! ## Eviction (R210) -/

section
variable {s : State} {pw a : Nat} {w : NearWord} (core : agentKind a = 0) (there : s.near_ (coreOfAgent a) pw = w)
  (held : w.held = true) (acked : w.reqPend = false) (filled : w.fillPend = false) (own : w.kept = false)
include core there held acked filled own

theorem evict_valid (valid : w.reg = false) : evict a pw s = s.setNear (coreOfAgent a) pw w.drop := by
  simp [evict, core, there, held, acked, filled, own, valid]

theorem evict_registered (reg : w.reg = true) : evict a pw s = writeBack (coreOfAgent a) pw false s := by
  simp [evict, core, there, held, acked, filled, own, reg]

end

/-! ## Data (R210, R213, R216) -/

/-- The data of an unlogged fill reach the near cache. -/
theorem fillArrival_near {s : State} {pw a clock source : Nat} (value : Word) (bad : Bool) (core : agentKind a = 0)
    (off : (s.sysreg 0x198).getLsbD 63 = false) (away : a ≠ homeSource) (data : answerKind source ≠ 2) :
    fillArrival pw a value bad clock false source s =
      nearFill pw a value bad clock false (answerKind source ≠ 0) (s.answered pw a source) := by
  have off' : ((s.answered pw a source).sysreg 0x198).getLsbD 63 = false := by
    rw [answered_eq]
    exact off
  have unlogged : noteFill pw a clock source (s.answered pw a source) = s.answered pw a source := by
    unfold noteFill
    exact if_pos (by rw [off']; rfl)
  simp only [fillArrival, away, data, core, unlogged, Bool.false_and, Bool.false_eq_true, if_false, ne_eq, not_true]

section
variable {s : State} {pw reader clock : Nat} {value : Word} {bad : Bool} {w : NearWord}
  (there : s.near_ (coreOfAgent reader) pw = w)
include there

/-- Data of a Read do not end a pending store (R210). -/
theorem nearFill_filling (held : w.held = true) (filling : w.fillPend = true) :
    nearFill pw reader value bad clock false false s = s := by
  simp [nearFill, there, held, filling]

/-- A fill below a copy that the core has had is asked for again (R213). -/
theorem nearFill_older (out : w.held = false) (older : w.clock ≠ 0 ∧ fillBelow clock w.clock = true) :
    nearFill pw reader value bad clock false false s = s.askAgain (coreOfAgent reader) pw := by
  simp [nearFill, there, out, older]

/-- Data asked for before an acquire answer the loads before it and leave no copy (R185). -/
theorem nearFill_before (out : w.held = false) (newer : ¬ (w.clock ≠ 0 ∧ fillBelow clock w.clock = true))
    (before : readerAge reader < s.acquires (coreOfAgent reader)) : nearFill pw reader value bad clock false false s =
      serveTxns (coreOfAgent reader) pw (readerAge reader) value bad false 0 0 s := by
  simp [nearFill, there, out, newer, before]

/-- Data become a Valid copy, and answer the loads that await them. -/
theorem nearFill_installs (out : w.held = false) (newer : ¬ (w.clock ≠ 0 ∧ fillBelow clock w.clock = true))
    (fresh : readerAge reader = s.acquires (coreOfAgent reader)) : nearFill pw reader value bad clock false false s =
      serveTxns (coreOfAgent reader) pw (s.acquires (coreOfAgent reader)) value bad false 0 0
        (s.setNear (coreOfAgent reader) pw
          { w with held := true, reg := false, value := value, poison := bad, clock := clock }) := by
  simp [nearFill, there, out, newer, fresh]

/-- Data complete a pending store of a part of the word (R210). -/
theorem nearFill_completes (held : w.held = true) (filling : w.fillPend = true) (owed : w.owed = []) :
    nearFill pw reader value bad clock false true s =
      serveTxns (coreOfAgent reader) pw (s.acquires (coreOfAgent reader)) (mergeBytes w.bytes value w.value) bad
        false 0 0
        (s.setNear (coreOfAgent reader) pw
          { w with fillPend := false, bytes := 0, value := mergeBytes w.bytes value w.value, poison := bad }) := by
  have kept : ({ w with fillPend := false, bytes := 0, value := mergeBytes w.bytes value w.value, poison := bad } :
      NearWord) = { w with fillPend := false, bytes := 0, value := mergeBytes w.bytes value w.value, poison := bad
                           owed := [] } := by
    rw [← owed]
  rw [kept]
  simp [nearFill, there, held, filling, owed, answerOwed, State.acquires]

end

theorem serveTxns_txns (core pw age : Nat) (value : Word) (bad : Bool) (s : State) :
    (serveTxns core pw age value bad false 0 0 s).txns = s.txns.map (fun (e : Nat × Txn) =>
      if e.2.warp / 128 = core ∧ e.2.age ≤ age then
        (e.1, { e.2 with words := e.2.words.map (fun y => if y.word = pw ∧ y.ready = false then
          { y with ready := true, value := value, poison := bad, lost := false, own := 0, ownTick := 0 } else y) })
      else e) := by
  simp only [serveTxns, Bool.and_eq_true, decide_eq_true_eq, Bool.not_eq_true']

end Sys2Proof.Machine
end

section
/-! PROOFS. Messages at homes and near caches: what each event does, and the statement (R209 to R211, R213, R216). -/

namespace Sys2Proof.Machine

section
variable {s : State} {pw a : Nat} (core : agentKind a = 0)
include core

/-- The Ack of a Reg: the word is acknowledged, and a Drop that waited for it follows; a refusal ends the claim (R212,
R216, R224). -/
theorem exec_ack_answers {clock : Nat} (now : s.now = .ack pw a clock) :
    let c := coreOfAgent a
    let w := s.near_ c pw
    (clock < refusedClock →
      let u := s.setNear c pw (w.acknowledged s clock)
      (w.dropping = none → exec .ack s = .next u) ∧
      (∀ r, w.dropping = some r → exec .ack s = .next (u.send (.drop pw a r)))) ∧
    (refusedClock ≤ clock → exec .ack s = .next ((s.setNear c pw
      { w.drop with reqPend := false, dropping := none, claim := if w.claim = 1 then 2 else 0 }).askAgain c pw)) := by
  intro c w
  have run : exec .ack s = .next (nearAck pw a clock s) := by
    show execAck s = _
    rw [execAck, now]
  rw [run]
  refine ⟨fun granted => ?_, fun refused => by rw [nearAck_refused core rfl refused]⟩
  rw [nearAck_granted core rfl granted]
  exact ⟨fun clear => by simp only [w, c] at clear; rw [clear], fun r due => by simp only [w, c] at due; rw [due]⟩

/-- The acknowledgement of a Wb: a Reg that waited for it is sent (R212). -/
theorem exec_wbAck_answers (now : s.now = .wbAck pw a) :
    let c := coreOfAgent a
    let w := s.near_ c pw
    let u := s.setNear c pw { w with kept := false, unsent := none }
    (w.unsent = none → exec .wbAck s = .next u) ∧
    (∀ want order, w.unsent = some (want, order) → exec .wbAck s = .next (u.send (.reg pw a want order))) := by
  intro c w u
  have run : exec .wbAck s = .next (wbAckArrival pw a s) := by
    show execWbAck s = _
    rw [execWbAck, now]
  rw [run, wbAckArrival_core core rfl]
  exact ⟨fun clear => by simp only [w, c] at clear; rw [clear],
    fun want order due => by simp only [w, c] at due; rw [due]⟩

/-- An eviction drops a Valid copy and writes a Registered one back (R210). -/
theorem exec_eviction_answers (now : s.now = .eviction a pw) :
    let c := coreOfAgent a
    let w := s.near_ c pw
    w.held = true → w.reqPend = false → w.fillPend = false → w.kept = false →
    (w.reg = false → exec .eviction s = .next (s.setNear c pw w.drop)) ∧
    (w.reg = true → w.err = false → ∃ t, exec .eviction s = .next t ∧ (t.near_ c pw).held = false ∧
      (t.near_ c pw).kept = true ∧ (t.near_ c pw).keptVal = w.value ∧
      t.agenda = s.agenda ++ [.wb pw (agentOfCore c) w.value w.poison]) := by
  intro c w held acked filled own
  have run : exec .eviction s = .next (evict a pw s) := by
    show execEviction s = _
    rw [execEviction, now]
  rw [run]
  refine ⟨fun valid => by rw [evict_valid core rfl held acked filled own valid], fun reg clean => ?_⟩
  have near : ((s.setNear c pw (writtenOff s c pw)).send (.wb pw (agentOfCore c) w.value w.poison)).near_ c pw =
      writtenOff s c pw := (near_setNear s c pw pw _).trans (if_pos rfl)
  refine ⟨_, congrArg _ ((evict_registered core rfl held acked filled own reg).trans (writeBack_clean clean)), ?_⟩
  rw [near]
  exact ⟨rfl, rfl, rfl, rfl⟩

variable (reached : nmem s.fenced a = false)
include reached

/-- A Fwd: the owner's copy or the kept one answers, a copy in error answers Lost, and a pending fill makes it wait
(R210, R216). -/
theorem exec_fwd_answers {r : Nat} (now : s.now = .fwd pw a r) :
    let c := coreOfAgent a
    let w := s.near_ c pw
    let owned := w.held = true ∧ w.reg = true ∧ w.fillPend = false ∧ w.kept = false
    let s1 := s.count c 0x0B 1
    (owned → w.err = false →
      exec .fwd s = .next (s1.send (.fillData pw r w.value w.poison (s.stamp w.clock) false a))) ∧
    (owned → w.err = true → exec .fwd s =
      .next (((s1.setNear c pw w.drop).send (.fillData pw r 1 false w.clock true a)).send (.drop pw a 1))) ∧
    (w.held = true → w.fillPend = true → w.kept = false →
      exec .fwd s = .next (s1.setNear c pw { w with owed := w.owed ++ [.fwd pw a r] })) ∧
    (w.kept = true →
      exec .fwd s = .next (s1.send (.fillData pw r w.keptVal w.keptPoison w.clock false a))) := by
  intro c w owned s1
  have run : exec .fwd s = .next (ownerFwd pw a r s1) := by
    show execFwd s = _
    rw [execFwd, now]
  obtain ⟨cores, counted, -⟩ := count_cores s c 0x0B 1
  change s1 = { s with cores := cores } at counted
  have there : s1.near_ c pw = w := by rw [counted]; rfl
  have reached : nmem s1.fenced a = false := by rw [counted]; exact reached
  have stamp : s1.stamp w.clock = s.stamp w.clock := by rw [counted]; rfl
  rw [run, ← stamp]
  refine ⟨?_, ?_, ?_, fun kept => by rw [ownerFwd_kept core there reached kept]⟩
  · rintro ⟨held, reg, filled, own⟩ clean
    rw [ownerFwd_registered core there reached held reg filled own, clean]
    rfl
  · rintro ⟨held, reg, filled, own⟩ bad
    rw [ownerFwd_registered core there reached held reg filled own, bad]
    rfl
  · intro held filling own
    rw [ownerFwd_filling core there reached held filling own]

/-- An Xfer: the copy is given to its taker and dropped, or the kept one answers (R210). -/
theorem exec_xfer_answers {b clock : Nat} {want : Bool} (now : s.now = .xfer pw a b want clock) :
    let c := coreOfAgent a
    let w := s.near_ c pw
    let owned := w.held = true ∧ w.reg = true ∧ w.fillPend = false ∧ w.kept = false
    let s1 := s.count c 0x0B 1
    let answer := fun (v : Word) (bad : Bool) =>
      Event.fillData pw b v bad clock false (answerSource a (xferKind b want))
    (owned → w.err = false → exec .xfer s =
      .next ((s1.setNear c pw { w.drop with clock := s.stamp w.clock }).send (answer w.value w.poison))) ∧
    (w.kept = true → exec .xfer s =
      .next ((if w.held && !w.reg then s1.setNear c pw w.drop else s1).send (answer w.keptVal w.keptPoison))) := by
  intro c w owned s1 answer
  have run : exec .xfer s = .next (ownerXfer pw a b want clock s1) := by
    show execXfer s = _
    rw [execXfer, now]
  obtain ⟨cores, counted, -⟩ := count_cores s c 0x0B 1
  change s1 = { s with cores := cores } at counted
  have there : s1.near_ c pw = w := by rw [counted]; rfl
  have reached : nmem s1.fenced a = false := by rw [counted]; exact reached
  have stamp : s1.stamp w.clock = s.stamp w.clock := by rw [counted]; rfl
  rw [run, ← stamp]
  refine ⟨?_, fun kept => by rw [ownerXfer_kept core there reached kept]⟩
  rintro ⟨held, reg, filled, own⟩ clean
  rw [ownerXfer_registered core there reached held reg filled own clean]

/-- A Recall: every settled word of the line that the core has registered is written back (R209). -/
theorem exec_recall_answers {n : Nat} (now : s.now = .recall n a) :
    let c := coreOfAgent a
    ∃ t, exec .recall s = .next t ∧ t.mem = s.mem ∧ t.warps = s.warps ∧
      ∀ e ∈ s.near, e.1 / 2 ^ 50 = c → e.1 % 2 ^ 50 / 32 = n → e.2.held = true → e.2.reg = true →
        e.2.reqPend = false → e.2.fillPend = false → (s.near_ c (e.1 % 2 ^ 50)).err = false →
        Event.wb (e.1 % 2 ^ 50) (agentOfCore c) (s.near_ c (e.1 % 2 ^ 50)).value (s.near_ c (e.1 % 2 ^ 50)).poison ∈
          t.agenda := by
  intro c
  have run : exec .recall s = .next (ownerRecall n a s) := by
    show execRecall s = _
    rw [execRecall, now]
  obtain ⟨mem, warps, sends⟩ := ownerRecall_sends (n := n) core reached
  exact ⟨_, run, mem, warps, fun e there own line held reg acked filled clean =>
    sends _ (mem_recalled there own line held reg acked filled) clean⟩

end

/-- The loads of a core that await a word are answered, but for those issued after more acquires than the data. -/
def Served (c pw : Nat) (s t : State) (v : Word) (bad : Bool) (age : Nat) : Prop :=
  t.txns = s.txns.map (fun (e : Nat × Txn) =>
    if e.2.warp / 128 = c ∧ e.2.age ≤ age then
      (e.1, { e.2 with words := e.2.words.map (fun y => if y.word = pw ∧ y.ready = false then
        { y with ready := true, value := v, poison := bad, lost := false, own := 0, ownTick := 0 } else y) })
    else e)

/-- A fill serves the loads as they are before its copy is installed. -/
theorem served_serveTxns {s u : State} (txns : u.txns = s.txns) (c pw age : Nat) (v : Word) (bad : Bool) :
    Served c pw s (serveTxns c pw age v bad false 0 0 u) v bad age := by
  rw [Served, serveTxns_txns, txns]

/-- Data at a near cache become a Valid copy, complete a pending store, or answer the loads before an acquire; older
ones are asked for again (R185, R210, R213). -/
theorem exec_fillData_core {s : State} {pw a clock source : Nat} {value : Word} {bad : Bool} (core : agentKind a = 0)
    (now : s.now = .fillData pw a value bad clock false source) (off : (s.sysreg 0x198).getLsbD 63 = false)
    (away : a ≠ homeSource) (data : answerKind source ≠ 2) :
    let c := coreOfAgent a
    let w := s.near_ c pw
    let older := w.clock ≠ 0 ∧ fillBelow clock w.clock = true
    (w.held = false → ¬ older → answerKind source = 0 → readerAge a = s.acquires c →
      ∃ t, exec .fillData s = .next t ∧ Served c pw s t value bad (s.acquires c) ∧
        t.near_ c pw = { w with held := true, reg := false, value := value, poison := bad, clock := clock } ∧
        t = { s.answered pw a source with near := t.near, txns := t.txns }) ∧
    (w.held = false → ¬ older → answerKind source = 0 → readerAge a < s.acquires c →
      ∃ t, exec .fillData s = .next t ∧ Served c pw s t value bad (readerAge a) ∧
        t = { s.answered pw a source with txns := t.txns }) ∧
    (w.held = false → older → answerKind source = 0 →
      exec .fillData s = .next ((s.answered pw a source).askAgain c pw)) ∧
    (w.held = true → w.fillPend = true → answerKind source = 0 → exec .fillData s = .next (s.answered pw a source)) ∧
    (w.held = true → w.fillPend = true → w.owed = [] → answerKind source ≠ 0 → ∃ t, exec .fillData s = .next t ∧
      Served c pw s t (mergeBytes w.bytes value w.value) bad (s.acquires c) ∧
      t.near_ c pw =
        { w with fillPend := false, bytes := 0, value := mergeBytes w.bytes value w.value, poison := bad } ∧
      t = { s.answered pw a source with near := t.near, txns := t.txns }) := by
  intro c w older
  have state := answered_eq (s := s) pw a source
  rw [exec_fillData now, fillArrival_near value bad core off away data]
  generalize s.answered pw a source = u at state ⊢
  have there : u.near_ c pw = w := by rw [state]; rfl
  have txns : u.txns = s.txns := by rw [state]
  have acquires : u.acquires c = s.acquires c := by rw [state]; rfl
  have reading (kind : answerKind source = 0) : decide (answerKind source ≠ 0) = false := by simp [kind]
  have installed (v : NearWord) (age : Nat) (x : Word) :
      (serveTxns c pw age x bad false 0 0 (u.setNear c pw v)).near_ c pw = v :=
    (near_setNear u c pw pw v).trans (if_pos rfl)
  rw [← acquires]
  refine ⟨fun out newer kind fresh => ?_, fun out newer kind before => ?_, fun out older kind => ?_,
    fun held filling kind => ?_, fun held filling owed kind => ?_⟩
  · rw [reading kind, nearFill_installs there out newer fresh]
    exact ⟨_, rfl, served_serveTxns (u := u.setNear c pw _) txns .., installed .., rfl⟩
  · rw [reading kind, nearFill_before there out newer before]
    exact ⟨_, rfl, served_serveTxns txns .., rfl⟩
  · rw [reading kind, nearFill_older there out older]
  · rw [reading kind, nearFill_filling there held filling]
  · rw [decide_eq_true kind, nearFill_completes there held filling owed]
    exact ⟨_, rfl, served_serveTxns (u := u.setNear c pw _) txns .., installed .., rfl⟩

/-- Settles O28: each message by what its home or its near cache does with it. -/
theorem homesAndOwnersAnswer : Obligations.HomesAndOwnersAnswer := by
  refine ⟨fun s pw a => ?_, fun s pw a core reached => ?_, ?_⟩
  · obtain ⟨pulled, served⟩ := exec_read_answers s pw a
    exact ⟨pulled, served, fun want order now still here calm first device =>
        exec_reg_answers now still here calm first device,
      fun value bad now => exec_wb_answers now, fun code now reason => exec_drop_answers now reason⟩
  · exact ⟨fun clock now => exec_ack_answers core now, fun now => exec_wbAck_answers core now,
      fun r now => exec_fwd_answers core reached now, fun b want clock now => exec_xfer_answers core reached now,
      fun n now => exec_recall_answers core reached now,
      fun now held acked filled own => exec_eviction_answers core now held acked filled own,
      fun value bad clock source now off away data => exec_fillData_core core now off away data⟩
  · intro s pw o value bad clock kind small now owner awaited wf
    obtain ⟨home, coming⟩ :=
      fillArrival_comesHome value bad clock (answerAgent_answerSource kind small) owner awaited wf
    have state := answered_eq (s := s) pw homeSource (answerSource o kind)
    exact ⟨_, exec_fillData now, home.unowned, home.word, home.poison, coming,
      home.near.trans (congrArg State.near state :), home.warps.trans (congrArg State.warps state :)⟩

end Sys2Proof.Machine
end
